-- ==== Sys2Proof/Word.lean ====
section
/-!
DEFINITION. The word types of the QY3-288: a 64-bit instruction word, a 32-bit lane value, a byte (R32, R118, R3).
-/

namespace Sys2Proof

/-- A 64-bit code word, scalar or special register (R26, R32, R132). -/
abbrev Word := BitVec 64

/-- A 32-bit lane value or lane mask (R118, R124). -/
abbrev W32 := BitVec 32

/-- One byte of memory. -/
abbrev Byte := BitVec 8

end Sys2Proof
end

