-- ==== Sys2Proof/Syntax.lean ====
section
/-!
DEFINITION. The syntax of the machine: the fields of an instruction word (R32), the bodies of queue packets (R399), the
names that events use, and `Instr`, one constructor per row of spec/opcode_table.json. The first 157 constructors are
instruction words; the others are the steps of the machine's other agents.
-/

namespace Sys2Proof

/-- The fields of an instruction word other than OP, at the places R32 gives them. -/
structure Fields where
  /-- 55:54, destination space -/
  dsp : BitVec 2
  /-- 53:52, A space -/
  asp : BitVec 2
  /-- 51:50, B space -/
  bsp : BitVec 2
  /-- 49:48, C space -/
  csp : BitVec 2
  /-- 47:40, destination index -/
  d : BitVec 8
  /-- 39:32, A index -/
  a : BitVec 8
  /-- 31:24, B index or immediate -/
  b : BitVec 8
  /-- 23:16, C index or immediate -/
  c : BitVec 8
  /-- 15:12, A modifier, counter or immediate bits -/
  amod : BitVec 4
  /-- 11:8, B modifier, code or immediate bits -/
  bmod : BitVec 4
  /-- bit 7, hold the A latch -/
  ah : Bool
  /-- bit 6, hold the B latch -/
  bh : Bool
  /-- bit 5, negate the guard -/
  pn : Bool
  /-- 4:2, guard predicate; 7 is always -/
  pr : BitVec 3
  /-- 1:0, element layout -/
  w : BitVec 2
  deriving DecidableEq, Repr

/-- The clause header word (R27). -/
structure Header where
  /-- 61:59 -/
  eng : BitVec 3
  /-- 58:55, instruction count less one -/
  cnt : BitVec 4
  /-- 54:43, flags that must be clear -/
  wait : BitVec 12
  /-- 42:39 -/
  seta : BitVec 4
  /-- 38:35 -/
  setb : BitVec 4
  /-- bit 34, yield point -/
  yp : Bool
  /-- bit 33, breakpoint -/
  bk : Bool
  /-- bit 32, DET quantum boundary -/
  qb : Bool
  deriving DecidableEq, Repr

/-- The classes of instructions and clauses (R13, R27, R45). -/
inductive Engine where
  | vec | xfn | lsu | mat | cpy | seq | sys
  deriving DecidableEq, Repr

/-- A queue: its context and number (R397). CID 0 is the admin queue (R394). -/
structure QRef where
  cid : Nat
  qnum : Nat
  deriving DecidableEq, Repr

/-- A sweep: its context, claim tag (R372) and place in the order of launches. -/
structure SweepRef where
  cid : Nat
  tag : Nat
  order : Nat
  deriving DecidableEq, Repr

/-- A packet that the packet cores have read: its queue, its place in the order of that queue's packets, the VA of its
first sector, the graph node whose body it is (if any) and the header fields FLAGS and PTAG (R399). `rz` says that every
byte that the packet's table calls reserved or does not name is zero. -/
structure PktRef where
  q : QRef
  seq : Nat
  va : Nat
  node : Option Nat
  flags : Byte
  ptag : W32
  rz : Bool
  deriving DecidableEq, Repr

/-- SWEEP's fields (R372). -/
structure SweepBody where
  desc : Word
  kinfo : Word
  code : Word
  tag : W32
  flags : Byte
  rows : Byte
  rowpol : Byte
  gwait : W32
  seed : W32
  args : List Word
  deriving DecidableEq, Repr

/-- RESUME's fields (R382). -/
structure ResumeBody where
  tag : W32
  skip : Byte
  deriving DecidableEq, Repr

/-- COPY's fields (R401). -/
structure CopyBody where
  dst : Word
  src : Word
  n : W32
  deriving DecidableEq, Repr

/-- The fields of WAIT, SIGNAL and FENCE: a word's VA and a value (R401). -/
structure WordBody where
  va : Word
  v : Word
  deriving DecidableEq, Repr

/-- INDIRECT's fields (R401). -/
structure IndirectBody where
  va : Word
  nline : W32
  deriving DecidableEq, Repr

/-- GRAPH's fields (R405). -/
structure GraphBody where
  nodes : Word
  nnode : W32
  maxarm : W32
  stat : Word
  deriving DecidableEq, Repr

/-- NOTIFY's fields (R407). -/
structure NotifyBody where
  hring : Word
  src : Word
  cntva : Word
  nfix : BitVec 16
  nflags : Byte
  deriving DecidableEq, Repr

/-- CAPTURE's fields (R408). -/
structure CaptureBody where
  log : Word
  logsz : Word
  op : Byte
  rtab : Word
  nreg : BitVec 16
  deriving DecidableEq, Repr

/-- REPLAY's fields (R409). -/
structure ReplayBody where
  log : Word
  logsz : Word
  deriving DecidableEq, Repr

/-- MIGRATE's fields (R217). -/
structure MigrateBody where
  va : Word
  target : Byte
  deriving DecidableEq, Repr

/-- The one address of CTX_CREATE and Q_MAP (R394). -/
structure AddrBody where
  addr : Word
  deriving DecidableEq, Repr

/-- CTX_DESTROY, Q_UNMAP, BKEN and RELEASE: a CID and bytes 10 and 12 to 15 (R394). -/
structure CidBody where
  cid : BitVec 16
  val : Byte
  num : W32
  deriving DecidableEq, Repr

/-- BUDGET's fields (R394). -/
structure BudgetBody where
  guest : Byte
  budget : W32
  cores : BitVec 16
  deriving DecidableEq, Repr

/-- FWUPDATE's fields (R394), with the outcome of the secure management core's signature check and the image's version,
which come from the image's own format (R411 step 2, R420). -/
structure FwBody where
  addr : Word
  len : W32
  slot : Byte
  deriving DecidableEq, Repr

/-- What another member of a collective group brings to a round (R311): its rank, whether its group record agrees with
ours on KIND, OP, FMT and COUNT, and its contribution. -/
structure CollPeer where
  rank : Nat
  agrees : Bool
  data : List Byte
  deriving DecidableEq, Repr

/-- How far a bring-up gets (R425) and what it finds: the step at which it fails (none: it reaches step 3), the dies and
stacks that fail training, and the two ports' modes and widths (R417, R419). -/
structure BringUp where
  failAt : Option Nat
  fenced : List Nat
  portstat : BitVec 16
  deriving DecidableEq, Repr

/-- Where an uncorrectable error is met (R219, R345, R423): a sector of physical memory, of a copy in a core's L1 or a die's L2, of a home slice or the
MSC, of a core's scratchpad or of a die pad, a wave's registers, or a gang member's operand registers or tile. -/
inductive ErrorSite where
  | sector (pa : Nat)
  | l1 (core pa : Nat)
  | l2 (die pa : Nat)
  | cache (pa : Nat)
  | scratch (core off : Nat)
  | pad (die off : Nat)
  | waveRegs (tid wave : Nat)
  | gangRegs (tid wave : Nat)
  | tile (tid wave : Nat)
  deriving DecidableEq, Repr

/-- What the driver does with the leaves of a range (R169, R429): remove them, or keep the given permissions. -/
inductive UnmapPerm where
  | remove
  | reduce (rd wr x : Bool)
  deriving DecidableEq, Repr

/-- One constructor per row of the opcode table. -/
inductive Instr where
  /-- NOP (R248). -/
  | nop (f : Fields)
  /-- MOV (R248). -/
  | mov (f : Fields)
  /-- MOVI (R248). -/
  | movi (f : Fields)
  /-- SEL (R249). -/
  | sel (f : Fields)
  /-- IADD (R250). -/
  | iadd (f : Fields)
  /-- ISUB (R250). -/
  | isub (f : Fields)
  /-- IMUL (R250). -/
  | imul (f : Fields)
  /-- IMULH (R251). -/
  | imulh (f : Fields)
  /-- IMAD (R251). -/
  | imad (f : Fields)
  /-- IMADW (R251). -/
  | imadw (f : Fields)
  /-- IMIN (R250). -/
  | imin (f : Fields)
  /-- IMAX (R250). -/
  | imax (f : Fields)
  /-- IABS (R250). -/
  | iabs (f : Fields)
  /-- IADDC (R252). -/
  | iaddc (f : Fields)
  /-- IADDS (R250). -/
  | iadds (f : Fields)
  /-- ISUBS (R250). -/
  | isubs (f : Fields)
  /-- AND (R253). -/
  | and (f : Fields)
  /-- OR (R253). -/
  | or (f : Fields)
  /-- XOR (R253). -/
  | xor (f : Fields)
  /-- NOT (R253). -/
  | not (f : Fields)
  /-- SHL (R254). -/
  | shl (f : Fields)
  /-- SHR (R254). -/
  | shr (f : Fields)
  /-- SAR (R254). -/
  | sar (f : Fields)
  /-- ROL (R254). -/
  | rol (f : Fields)
  /-- BFX (R255). -/
  | bfx (f : Fields)
  /-- BFI (R255). -/
  | bfi (f : Fields)
  /-- POPC (R256). -/
  | popc (f : Fields)
  /-- CLZ (R256). -/
  | clz (f : Fields)
  /-- BREV (R256). -/
  | brev (f : Fields)
  /-- PERMB (R257). -/
  | permb (f : Fields)
  /-- ICMP (R258). -/
  | icmp (f : Fields)
  /-- FCMP (R276). -/
  | fcmp (f : Fields)
  /-- FADD (R274). -/
  | fadd (f : Fields)
  /-- FSUB (R274). -/
  | fsub (f : Fields)
  /-- FMUL (R274). -/
  | fmul (f : Fields)
  /-- FFMA (R274). -/
  | ffma (f : Fields)
  /-- FMIN (R275). -/
  | fmin (f : Fields)
  /-- FMAX (R275). -/
  | fmax (f : Fields)
  /-- FCLASS (R277). -/
  | fclass (f : Fields)
  /-- DADD (R278). -/
  | dadd (f : Fields)
  /-- DMUL (R278). -/
  | dmul (f : Fields)
  /-- DFMA (R278). -/
  | dfma (f : Fields)
  /-- PKADD (R279). -/
  | pkadd (f : Fields)
  /-- PKMUL (R279). -/
  | pkmul (f : Fields)
  /-- PKFMA (R279). -/
  | pkfma (f : Fields)
  /-- DOT4 (R280). -/
  | dot4 (f : Fields)
  /-- DOT8 (R280). -/
  | dot8 (f : Fields)
  /-- DOT2 (R280). -/
  | dot2 (f : Fields)
  /-- SHFL (R264). -/
  | shfl (f : Fields)
  /-- VOTE (R260). -/
  | vote (f : Fields)
  /-- REDW (R265). -/
  | redw (f : Fields)
  /-- RDS (R266). -/
  | rds (f : Fields)
  /-- WRS (R266). -/
  | wrs (f : Fields)
  /-- LEA (R268). -/
  | lea (f : Fields)
  /-- MOVEM (R267). -/
  | movem (f : Fields)
  /-- PLOP (R259). -/
  | plop (f : Fields)
  /-- CVTI (R261). -/
  | cvti (f : Fields)
  /-- PACK (R262). -/
  | pack (f : Fields)
  /-- UNPK (R263). -/
  | unpk (f : Fields)
  /-- DCMP (R276). -/
  | dcmp (f : Fields)
  /-- RCP (R281). -/
  | rcp (f : Fields)
  /-- RSQ (R281). -/
  | rsq (f : Fields)
  /-- SQRT (R281). -/
  | sqrt (f : Fields)
  /-- EXP2 (R282). -/
  | exp2 (f : Fields)
  /-- LOG2 (R282). -/
  | log2 (f : Fields)
  /-- SIN (R282). -/
  | sin (f : Fields)
  /-- COS (R282). -/
  | cos (f : Fields)
  /-- TANH (R282). -/
  | tanh (f : Fields)
  /-- CVT (R283). -/
  | cvt (f : Fields)
  /-- CVTFI (R284). -/
  | cvtfi (f : Fields)
  /-- CVTIF (R285). -/
  | cvtif (f : Fields)
  /-- DIVF (R281). -/
  | divf (f : Fields)
  /-- DDIV (R281). -/
  | ddiv (f : Fields)
  /-- LD (R224). -/
  | ld (f : Fields)
  /-- ST (R225). -/
  | st (f : Fields)
  /-- LDS (R228). -/
  | lds (f : Fields)
  /-- STS (R228). -/
  | sts (f : Fields)
  /-- ATOM (R230). -/
  | atom (f : Fields)
  /-- ACAS (R231). -/
  | acas (f : Fields)
  /-- ATOMS (R229). -/
  | atoms (f : Fields)
  /-- LDU (R226). -/
  | ldu (f : Fields)
  /-- FENCE (R83). -/
  | fence (f : Fields)
  /-- WAITC (R234). -/
  | waitc (f : Fields)
  /-- PREF (R227). -/
  | pref (f : Fields)
  /-- ROWOPEN (R235). -/
  | rowopen (f : Fields)
  /-- ROWLD (R236). -/
  | rowld (f : Fields)
  /-- ROWST (R236). -/
  | rowst (f : Fields)
  /-- ROWREL (R237). -/
  | rowrel (f : Fields)
  /-- ROWQ (R238). -/
  | rowq (f : Fields)
  /-- LDT (R240). -/
  | ldt (f : Fields)
  /-- STF (R241). -/
  | stf (f : Fields)
  /-- AMAXU (R232). -/
  | amaxu (f : Fields)
  /-- AMAXSWAP (R232). -/
  | amaxswap (f : Fields)
  /-- LDB (R242). -/
  | ldb (f : Fields)
  /-- STB (R242). -/
  | stb (f : Fields)
  /-- LNWB (R243). -/
  | lnwb (f : Fields)
  /-- MMA (R359). -/
  | mma (f : Fields)
  /-- MMAR (R351). -/
  | mmar (f : Fields)
  /-- ACCZ (R361). -/
  | accz (f : Fields)
  /-- ACCLD (R362). -/
  | accld (f : Fields)
  /-- ACCST (R363). -/
  | accst (f : Fields)
  /-- ACCRD (R364). -/
  | accrd (f : Fields)
  /-- ACCOP (R365). -/
  | accop (f : Fields)
  /-- BNDSET (R366). -/
  | bndset (f : Fields)
  /-- BNDRD (R366). -/
  | bndrd (f : Fields)
  /-- GANGSET (R367). -/
  | gangset (f : Fields)
  /-- GANGREL (R367). -/
  | gangrel (f : Fields)
  /-- ACCMODE (R361). -/
  | accmode (f : Fields)
  /-- CPY (R318). -/
  | cpy (f : Fields)
  /-- CPYT (R319). -/
  | cpyt (f : Fields)
  /-- GATH (R320). -/
  | gath (f : Fields)
  /-- SCAT (R320). -/
  | scat (f : Fields)
  /-- QBLK (R321). -/
  | qblk (f : Fields)
  /-- STGPUT (R298). -/
  | stgput (f : Fields)
  /-- STGGET (R298). -/
  | stgget (f : Fields)
  /-- STGREL (R322). -/
  | stgrel (f : Fields)
  /-- TALLOC (R324). -/
  | talloc (f : Fields)
  /-- TDROP (R325). -/
  | tdrop (f : Fields)
  /-- TCOPY (R326). -/
  | tcopy (f : Fields)
  /-- TSEND (R327). -/
  | tsend (f : Fields)
  /-- TRECV (R327). -/
  | trecv (f : Fields)
  /-- TSTAT (R328). -/
  | tstat (f : Fields)
  /-- COLL (R329). -/
  | coll (f : Fields)
  /-- BRA (R141). -/
  | bra (f : Fields)
  /-- BRA_FAR (R141). -/
  | braFar (f : Fields)
  /-- BRX (R141). -/
  | brx (f : Fields)
  /-- CALL (R143). -/
  | call (f : Fields)
  /-- ICALL (R144). -/
  | icall (f : Fields)
  /-- RET (R145). -/
  | ret (f : Fields)
  /-- JOIN (R146). -/
  | join (f : Fields)
  /-- BAR (R148). -/
  | bar (f : Fields)
  /-- BARC (R149). -/
  | barc (f : Fields)
  /-- YIELD (R152). -/
  | yield (f : Fields)
  /-- EXIT (R153). -/
  | exit (f : Fields)
  /-- WAITF (R150). -/
  | waitf (f : Fields)
  /-- REGGET (R155). -/
  | regget (f : Fields)
  /-- REGPUT (R155). -/
  | regput (f : Fields)
  /-- TBEGIN (R158). -/
  | tbegin (f : Fields)
  /-- TEND (R159). -/
  | tend (f : Fields)
  /-- TABORT (R159). -/
  | tabort (f : Fields)
  /-- LOOP (R142). -/
  | loop (f : Fields)
  /-- SLEEP (R151). -/
  | sleep (f : Fields)
  /-- DIEHOPS (R160). -/
  | diehops (f : Fields)
  /-- ENQ (R161). -/
  | enq (f : Fields)
  /-- SIGNAL (R162). -/
  | signal (f : Fields)
  /-- WAITS (R163). -/
  | waits (f : Fields)
  /-- EJECT (R147). -/
  | eject (f : Fields)
  /-- TRAP (R164). -/
  | trap (f : Fields)
  /-- RTT (R171). -/
  | rtt (f : Fields)
  /-- TSTAMP (R166). -/
  | tstamp (f : Fields)
  /-- RDSYS (R167). -/
  | rdsys (f : Fields)
  /-- WRSYS (R167). -/
  | wrsys (f : Fields)
  /-- VCINV (R169). -/
  | vcinv (f : Fields)
  /-- BKPT (R165). -/
  | bkpt (f : Fields)
  /-- STOPW (R165). -/
  | stopw (f : Fields)
  /-- PERF (R168). -/
  | perf (f : Fields)
  /-- TMASK (R164). -/
  | tmask (f : Fields)
  /-- CLAUSE_HEADER (R28). -/
  | clauseHeader
  /-- CLAUSE_WAIT_RELEASE (R28). -/
  | clauseWaitRelease
  /-- HELPER_ISSUE (R126). -/
  | helperIssue (tid : Nat) (group : List (Nat × Nat))
  /-- LOAD_PERFORM (R77). -/
  | loadPerform (op : Nat) (lanes : W32)
  /-- STORE_AT_HOME (R78). -/
  | storeAtHome (op : Nat) (lanes : W32)
  /-- STORE_COMPLETION (R85). -/
  | storeCompletion (op : Nat)
  /-- ATOMIC_PERFORM (R87). -/
  | atomicPerform (op : Nat) (lanes : W32)
  /-- COPY_OPERATION_START (R290). -/
  | copyOperationStart (op : Nat)
  /-- COPY_OPERATION_COMPLETE (R292). -/
  | copyOperationComplete (op : Nat)
  /-- STAGE_SLOT_FREE (R298). -/
  | stageSlotFree (op : Nat)
  /-- STAGE_PHASE_READY (R298). -/
  | stagePhaseReady (op : Nat)
  /-- MAILBOX_DEPOSIT (R309). -/
  | mailboxDeposit (op : Nat)
  /-- COLL_ROUND (R312). -/
  | collRound (op : Nat) (peers : List CollPeer)
  /-- LDT_RELEASE (R240). -/
  | ldtRelease (tid wave : Nat)
  /-- BARRIER_RELEASE (R148). -/
  | barrierRelease (tid id : Nat)
  /-- JOIN_RELEASE (R128). -/
  | joinRelease (tid wave : Nat)
  /-- REGGET_GRANT (R155). -/
  | reggetGrant (tid wave : Nat)
  /-- SLEEP_WAKE (R151). -/
  | sleepWake (tid wave : Nat)
  /-- WAITS_RELOAD (R163). -/
  | waitsReload (tid wave : Nat)
  /-- RENDEZVOUS_LATCH_EXIT (R342). -/
  | rendezvousLatchExit (tid leader : Nat)
  /-- IMPRECISE_FAULT_DELIVERY (R175). -/
  | impreciseFaultDelivery (tid wave : Nat)
  /-- FAULT_RING_SLOT_FREE (R179). -/
  | faultRingSlotFree (cid : Nat)
  /-- FAULT_REPLY (R179). -/
  | faultReply (cid seq : Nat)
  /-- SECOND_STAGE_RESOLUTION (R180). -/
  | secondStageResolution (cid granule : Nat) (resolved : Bool)
  /-- PREEMPT_REQUEST (R183). -/
  | preemptRequest (tid : Nat) (abort : Bool)
  /-- PREEMPT_DEADLINE (R184). -/
  | preemptDeadline (tid wave : Nat)
  /-- HANDLER_ALLOWANCE (R185). -/
  | handlerAllowance (tid wave : Nat)
  /-- TEAM_SAVE (R187). -/
  | teamSave (tid : Nat)
  /-- TEAM_RESTORE (R187). -/
  | teamRestore (tid : Nat)
  /-- PREEMPT_ABORT (R190). -/
  | preemptAbort (tid : Nat)
  /-- QUANTUM_COMMIT (R90). -/
  | quantumCommit (sweep : SweepRef)
  /-- HOLD_YIELD (R213). -/
  | holdYield (socket channel bank : Nat)
  /-- REFRESH_DUE (R214). -/
  | refreshDue (socket channel : Nat)
  /-- EXTENT_RELEASE (R218). -/
  | extentRelease (port base count : Nat)
  /-- FORCED_EXTENT_RELEASE (R218). -/
  | forcedExtentRelease (port base count : Nat)
  /-- CHUNK_TAKE (R376). -/
  | chunkTake (sweep : SweepRef) (vdie : Nat)
  /-- CLAIM (R377). -/
  | claim (sweep : SweepRef) (vdie : Nat)
  /-- CLAIM_RETURN (R378). -/
  | claimReturn (sweep : SweepRef) (vdie : Nat)
  /-- DIBBER_PLACEMENT (R383). -/
  | dibberPlacement (die : Nat)
  /-- TEAM_GRAFT (R385). -/
  | teamGraft (tid : Nat)
  /-- WAKE_WRITE (R403). -/
  | wakeWrite (q : QRef)
  /-- NOP_PACKET (R399). -/
  | nopPacket (p : PktRef)
  /-- SWEEP (R372). -/
  | sweep (p : PktRef) (b : SweepBody)
  /-- RESUME (R382). -/
  | resume (p : PktRef) (b : ResumeBody)
  /-- COPY_PACKET (R401). -/
  | copyPacket (p : PktRef) (b : CopyBody)
  /-- WAIT_PACKET (R401). -/
  | waitPacket (p : PktRef) (b : WordBody)
  /-- WAIT_WORD_RELOAD (R401). -/
  | waitWordReload (p : PktRef)
  /-- SIGNAL_PACKET (R401). -/
  | signalPacket (p : PktRef) (b : WordBody)
  /-- FENCE_PACKET (R401). -/
  | fencePacket (p : PktRef) (b : WordBody)
  /-- INDIRECT (R401). -/
  | indirect (p : PktRef) (b : IndirectBody)
  /-- GRAPH (R405). -/
  | graph (p : PktRef) (b : GraphBody)
  /-- GRAPH_NODE_FINISH (R406). -/
  | graphNodeFinish (p : PktRef) (node : Nat)
  /-- NOTIFY (R407). -/
  | notify (p : PktRef) (b : NotifyBody)
  /-- HOST_RING_TAIL_RELOAD (R407). -/
  | hostRingTailReload (p : PktRef)
  /-- CAPTURE (R408). -/
  | capture (p : PktRef) (b : CaptureBody)
  /-- REPLAY (R409). -/
  | replay (p : PktRef) (b : ReplayBody)
  /-- MIGRATE (R217). -/
  | migrate (p : PktRef) (b : MigrateBody)
  /-- CTX_CREATE (R395). -/
  | ctxCreate (p : PktRef) (b : AddrBody)
  /-- CTX_DESTROY (R394). -/
  | ctxDestroy (p : PktRef) (b : CidBody)
  /-- Q_MAP (R403). -/
  | qMap (p : PktRef) (b : AddrBody)
  /-- Q_UNMAP (R394). -/
  | qUnmap (p : PktRef) (b : CidBody)
  /-- BUDGET (R404). -/
  | budget (p : PktRef) (b : BudgetBody)
  /-- BKEN (R394). -/
  | bken (p : PktRef) (b : CidBody)
  /-- RELEASE (R394). -/
  | release (p : PktRef) (b : CidBody)
  /-- FWUPDATE (R411). -/
  | fwupdate (p : PktRef) (b : FwBody)
  /-- FIRMWARE_HEARTBEAT (R420). -/
  | firmwareHeartbeat
  /-- HEARTBEAT_TIMEOUT (R411). -/
  | heartbeatTimeout
  /-- BUDGET_WINDOW (R404). -/
  | budgetWindow
  /-- FEATGO (R410). -/
  | featgo (value : W32)
  /-- ADMINGO (R417). -/
  | admingo (value : W32)
  /-- ISLAND_LEVEL (R424). -/
  | islandLevel (island : Nat) (value : Word)
  /-- REGISTER_WRITE (R417). -/
  | registerWrite (port offset : Nat) (value : BitVec 128)
  /-- POWER_LIMIT (R424). -/
  | powerLimit (island : Nat)
  /-- POWER_LIMIT_CLEAR (R424). -/
  | powerLimitClear (island : Nat)
  /-- LEASE_EXPIRY (R211). -/
  | leaseExpiry (op : Nat)
  /-- REFRESH_PERFORMED (R214). -/
  | refreshPerformed (socket channel : Nat)
  /-- THERMAL_LIMIT (R424). -/
  | thermalLimit (island : Nat) (held : Bool)
  /-- GANG_LOST_HANDLER_LIMIT (R345). -/
  | gangLostHandlerLimit (tid : Nat)
  /-- GUEST_OUT_OF_BUDGET (R404). -/
  | guestOutOfBudget (guest : Nat)
  /-- UNMAP (R169). -/
  | unmap (cid base count : Nat) (perm : UnmapPerm)
  /-- GET_VERSION (R421). -/
  | getVersion (port : Nat)
  /-- GET_CAPABILITIES (R421). -/
  | getCapabilities (port : Nat)
  /-- NEGOTIATE_ALGORITHMS (R421). -/
  | negotiateAlgorithms (port : Nat)
  /-- GET_DIGESTS (R421). -/
  | getDigests (port : Nat)
  /-- GET_CERTIFICATE (R421). -/
  | getCertificate (port : Nat)
  /-- CHALLENGE (R421). -/
  | challenge (port : Nat)
  /-- GET_MEASUREMENTS (R421). -/
  | getMeasurements (port : Nat) (signed : Bool)
  /-- COLD_RESET (R425). -/
  | coldReset (bringUp : BringUp)
  /-- PORT_RESET (R425). -/
  | portReset (port : Nat)
  /-- DEVICE_NUMBER_WRITE (R418). -/
  | deviceNumberWrite (number : Byte)
  /-- SPAN_PORT_DOWN (R418). -/
  | spanPortDown (port : Nat) (unreachable : List Nat)
  /-- DIE_FENCE (R9). -/
  | dieFence (die : Nat)
  /-- UNCORRECTABLE_ERROR (R423). -/
  | uncorrectableError (site : ErrorSite)
  /-- SOFT_ERROR_SUMMARY (R423). -/
  | softErrorSummary
  /-- PATROL_SCRUB (R423). -/
  | patrolScrub (line : Nat)
  deriving DecidableEq, Repr

end Sys2Proof
end

