-- ==== Sys2Proof/Machine/State.lean ====
section
/-!
DEFINITION. The state of the QY3-288 as plain data: memory and storage, contexts, queues, sweeps, teams, waves, operations in
flight, and the registers of the system. Sparse files hold only the entries that differ from their default value, at
rising keys. The model's own fields are marked as such (log entries 1 to 3).
-/

namespace Sys2Proof.Machine

/-- The reasons for which a step of the model stops. Every fault that the spec describes is a next state (trap entry, a parked
wave, a team that ends, a refused packet), never one of these. -/
inductive Fault where
  /-- An instruction word with no wave to execute it. Raised by every meaning of a word when `cur` names no live wave.
  Safe: no hardware step corresponds to it. -/
  | noWave
  /-- An event that the state does not enable (an operation that does not exist, a release of nothing that waits). Raised by
  the meanings of events. Safe: no hardware step corresponds to it. -/
  | notEnabled
  deriving DecidableEq, Repr

/-- The reasons for which the model gives an instruction no meaning. -/
inductive Refusal where
  /-- The arm of `exec` has no meaning yet. Safe: nothing is claimed of such an instruction. -/
  | notModelled (mnemonic : String)
  deriving DecidableEq, Repr

/-- A file of values by number: entries at rising keys, none equal to the file's default. -/
abbrev Sparse (α : Type) := List (Nat × α)

/-- A wave, or one of its ejected lanes run by the helper (R126). -/
structure AgentRef where
  tid : Nat
  wave : Nat
  lane : Option Nat
  deriving DecidableEq, Repr

/-- A jar record (R301). `freeAt` is the tick at which it became FREE (R303). -/
structure JarRec where
  base : Nat
  len : Nat
  state : Nat
  scope : Nat
  exit : Bool
  away : Bool
  gen : Nat
  ptime : Nat
  fdev : Nat
  freeAt : Nat
  deriving DecidableEq, Repr

/-- What becomes, on another Y3, of a fill handle whose jar has its home here, or of a see handle that retires it (R305, R306, R309, R327): a
TDROP publishes, a holder's end abandons, a `TDROP.retire` retires, a TRECV takes it into a register of device `dev`. -/
inductive AwayAct where
  | publish | abandon | retire
  | arrive (dev : Nat)
  deriving DecidableEq, Repr

/-- What the world outside and the choices that the spec leaves to the hardware bring to one step (the model's own, log entry 78): loads of
other Y3s (device, physical line, lease class: R79, R94); a request from outside that has waited 1,880 ticks for a bank (stack socket,
pseudo-channel, bank: R213); whether the copies on an access's way still stand in their caches and serve it (R202); whether a memory word
that issues has not read its registers yet (R30); whether a fetch finds the bytes of an earlier one (R169); how many pieces of a copy move, all if none is given (R330); the jar records of other
Y3s that have been read, none for a jar beyond that Y3's table (device, CID, jar: R308, R326, R328); the handles that other Y3s deposit (CID, handle); the sends to other Y3s
that have been taken or refused (operation: R309, R327); what other Y3s do with handles of jars that have their home here (CID, handle); how many
errors ECC corrects anywhere (R423). -/
structure Inputs where
  loads : List (Nat × Nat × Nat)
  rowWait : List (Nat × Nat × Nat)
  hits : Bool
  late : Bool
  stale : Bool
  pieces : Option Nat
  jars : List ((Nat × Nat × Nat) × Option JarRec)
  mail : List (Nat × Word)
  sent : List (Nat × Bool)
  away : List (Nat × Word × AwayAct)
  corrected : Nat
  deriving DecidableEq, Repr

/-- A step to which nothing is brought: copies stand and serve, words read their registers as they issue, fetches read memory, and the copy
engine moves its pieces in one step. -/
def Inputs.quiet : Inputs := ⟨[], [], true, false, false, none, [], [], [], [], 0⟩

/-- One slot of the agenda (the model's own, log entry 1): the ticks that pass, the stores of agents outside the Y3 that then reach
memory (requester number of R216, physical address, bytes), who issues, and the event that comes about; with no event the chosen
wave takes its next instruction or reaches its next header; what else the step is brought. -/
structure Slot where
  dt : Nat
  stores : List (Nat × Nat × List Byte)
  who : Option AgentRef
  ev : Option Instr
  inp : Inputs
  deriving DecidableEq, Repr

/-- The storage levels of R315: global memory and the four scratchpad levels. -/
inductive Level where
  | g | lane | core | clu | die
  deriving DecidableEq, Repr

/-- The roles of R114. -/
inductive Role where
  | copy | matrix | vector
  deriving DecidableEq, Repr

/-- The fault codes of R47 that reach a wave. -/
inductive Code where
  | illegalOp | illegalClause | role | fetch | page | prot | range | align | extentGone | poison | aliased | fpe | bound
  | gangBroken | format | fillCopy | abandonedFill | staleHandle | jarRights | taskOverflow | taskNest | rowLimit
  | software | breakpoint | preemptAbort
  deriving DecidableEq, Repr

/-- A fault as it is reported: code, subcode and `%xaddr`. -/
structure FaultInfo where
  code : Code
  sub : Nat
  addr : Word
  deriving DecidableEq, Repr

/-- A clause captured whole at fetch (R50). `idx` is the instruction that comes next. -/
structure Clause where
  hdrVa : Nat
  hdr : Word
  words : List Word
  idx : Nat
  deriving DecidableEq, Repr

/-- One path of a wave (R125 to R129): the VA it continues at, whether it may stand inside a clause there (R52), whether it starts a
group of an ICALL there (R144), the clause it is inside, its `em`, its path mask (R267), its copy of the scalar file, the
scalars it has written since its split, and the paths whose accesses come before its own (R130). -/
structure Path where
  pid : Nat
  pc : Nat
  mid : Bool
  grp : Bool
  clause : Option Clause
  em : W32
  mask : W32
  scal : Sparse Word
  wr : Word
  hist : List Nat
  deriving DecidableEq, Repr

/-- A path that has reached its level's JOIN (R128, R129): its number, lanes, final scalars, the scalars it wrote, and the
paths before it. -/
structure DonePath where
  pid : Nat
  mask : W32
  scal : Sparse Word
  wr : Word
  hist : List Nat
  deriving DecidableEq, Repr

/-- The two kinds of divergence level (R125, R144). -/
inductive LevelKind where
  | join | call
  deriving DecidableEq, Repr

/-- One divergence level (R127): reconvergence VA, the mask to restore, the scalars, written set and earlier paths of the enclosing path at
the split, the join count, the paths that still have to run and those that have arrived. -/
structure DivLevel where
  lid : Nat
  kind : LevelKind
  recon : Nat
  restore : W32
  outerMask : W32
  outerPid : Nat
  scal : Sparse Word
  wr : Word
  hist : List Nat
  joinCount : Nat
  pending : List Path
  done : List DonePath
  deriving DecidableEq, Repr

/-- An ejected lane (R126): its lane, the level it belongs to, the tick from which it waits for the helper and its own path. -/
structure Cont where
  lane : Nat
  lid : Nat
  since : Nat
  path : Path
  deriving DecidableEq, Repr

/-- One elementary access of an operation: its lane, level, exact address, size, the data it stores (little-endian), a second
operand (ACAS's expected value), and how far it has come; `held` once its fault is answered and until its replay set runs (R177). -/
structure Access where
  lane : Nat
  level : Level
  addr : Int
  n : Nat
  data : Nat
  data2 : Nat
  done : Bool
  fault : Option FaultInfo
  held : Bool
  deriving DecidableEq, Repr

/-- The functions of the atomics (R229 to R232). -/
inductive AtomFn where
  | add | and | or | xor | minS | maxS | minU | maxU | exch | fadd | cas | amaxu | amaxswap
  deriving DecidableEq, Repr

/-- What an operation in flight does. -/
inductive OpKind where
  /-- LD, LDS, LDT, ROWLD: first destination register and size code (R222) -/
  | load (dst sz : Nat)
  /-- LDU: scalar destination, path and bytes (R226) -/
  | loadScalar (dst pid n : Nat)
  /-- LDB (R242) -/
  | loadBound (dst : Nat) (both : Bool)
  /-- ST, STF, ROWST, STB; the jar of an STF -/
  | store (jar : Option Nat)
  /-- STS (R228) -/
  | scratchStore
  /-- ATOM, ACAS, ATOMS, AMAXU, AMAXSWAP, SIGNAL: function and destination register -/
  | atomic (f : AtomFn) (dst : Option Nat)
  /-- ROWOPEN: scalar, path, list entry, hold (R235) -/
  | rowOpen (dst pid entry : Nat) (hold : Bool)
  /-- LNWB (R243) -/
  | lnwb
  /-- ACCLD: tile and storage code (R362) -/
  | accLoad (tile : Nat) (code : Nat)
  /-- ACCST: tile (R363); its rows and side record are accesses -/
  | accStore (tile : Nat)
  /-- a MAT word that has issued and has its turn on its tile still to come (R354, R357), or its registers still to read or to write (R30); whether
  it will store -/
  | matWord (tile : Nat) (store : Bool)
  /-- CPY, CPYT: levels, rows, bytes per row, addresses and strides (R292, R295) -/
  | copy (dl sl : Level) (dst src : Int) (rows rowBytes : Nat) (ds ss : Int)
  /-- GATH, SCAT: levels, bases, element size, list offset and count (R320) -/
  | gather (scatter : Bool) (dl sl : Level) (dst src : Int) (e list k : Nat)
  /-- QBLK: scalar pair, path, amax, bound (R321); its outputs are accesses -/
  | qblk (dst pid : Nat) (amax eps : W32)
  /-- STGPUT: ring, fill number, source (R298) -/
  | stgPut (ring fill : Nat) (sl : Level) (src : Int)
  /-- STGGET: ring, take number, destination (R298) -/
  | stgGet (ring take : Nat) (dl : Level) (dst : Int)
  /-- STGREL: ring (R298) -/
  | stgRel (ring : Nat)
  /-- TALLOC: fill and see registers, base, control (R303, R324) -/
  | talloc (hd hc : Nat) (base control : Word)
  /-- TDROP: the handle that was dropped; retire (R325) -/
  | tdrop (reg : Nat) (h : Word) (retire : Bool)
  /-- TSEND: handle and device (R327) -/
  | tsend (h : Word) (dev : Nat)
  /-- TRECV: destination (R327) -/
  | trecv (hd : Nat)
  /-- COLL: result, contribution and record VAs, round (R329) -/
  | coll (dst src rec round : Nat)
  /-- an operation with no active lane or no byte (R42, R292) -/
  | none
  deriving DecidableEq, Repr

/-- The life of an operation: issued; waiting to enter its engine (copy engine, R290); started; held in the replay set of a trap
frame (R176); faulted, its fault pending an answer or not yet delivered; complete and waiting to be lowered in order (R85). -/
inductive Phase where
  | issued | queued | started | parked | faulted | complete
  deriving DecidableEq, Repr

/-- An operation that a wave has issued, at tick `since`, and that has not been lowered on its counter: `pid` is the path that issued it
and `hist` the paths before that one (R130), `unread` holds the lanes whose register sources it has not read yet (R30), `kept`
what it read at its start and goes on with: the indices of a list (R320), the bytes of a group record and its list (R329); `batch` the number of the
commit of its DET sweep that let it start (R317). -/
structure Op where
  id : Nat
  tid : Nat
  wave : Nat
  cn : Option Nat
  kind : OpKind
  xpc : Nat
  word : Word
  lane : Option Nat
  pid : Nat
  hist : List Nat
  flags : BitVec 12
  accs : List Access
  unread : W32
  kept : List Nat
  regWork : Bool
  inTask : Bool
  retiredAt : Nat
  phase : Phase
  last : Nat
  since : Nat
  batch : Nat
  deriving DecidableEq, Repr

/-- A store that has reached its home: the completion time it was given and its bytes (R78). `core` is the core whose L1
accepted it (R80), `req` the requester number of an agent outside the Y3 (R216). -/
structure HomeStore where
  op : Nat
  core : Option Nat
  req : Option Nat
  t : Nat
  pa : Nat
  bytes : List Byte
  deriving DecidableEq, Repr

/-- Where a copy of a line is held (R79, R200). -/
inductive CopyPlace where
  | l1 (core : Nat)
  | l2 (die : Nat)
  | device (n : Nat)
  deriving DecidableEq, Repr

/-- A copy of a line: place, tags (R200), physical line, lease expiry, the entry through which it was filled (R203); whether its bytes still
stand there, since a lease outlasts a copy that is discarded (R79); and its poisoned sectors, as sectors of physical memory (R423). -/
structure LineCopy where
  place : CopyPlace
  cid : Nat
  asid : Option Nat
  vline : Nat
  pline : Nat
  expiry : Nat
  entry : Nat
  kept : Bool
  bad : List Nat
  deriving DecidableEq, Repr

/-- A line that its home slice holds (R200 to R203): the tags, the physical line, the entry through which it was filled, and whether it is dirty. -/
structure HomeLine where
  cid : Nat
  asid : Option Nat
  vline : Nat
  pline : Nat
  entry : Nat
  dirty : Bool
  deriving DecidableEq, Repr

/-- A leaf that a translation home holds in its TLB (R202): the tags, the granule, the entry as it was read, the entry narrowed by the second stage,
its physical granule, and where the entry stands. -/
structure TlbEntry where
  cid : Nat
  asid : Option Nat
  vgn : Nat
  raw : Nat
  pte : Nat
  pgn : Nat
  entry : Nat
  deriving DecidableEq, Repr

/-- A physical line that the MSC holds (R202, R204, R206), and whether it is dirty there. -/
structure MscLine where
  pline : Nat
  dirty : Bool
  deriving DecidableEq, Repr

/-- A code word as a core fetched it last (R49, R169): the core, the tags, its VA and the word. -/
structure CodeCopy where
  core : Nat
  cid : Nat
  asid : Option Nat
  va : Nat
  word : Word
  deriving DecidableEq, Repr

/-- The first writable translation of a physical granule (R207). -/
structure AliasRecord where
  pgn : Nat
  vgn : Nat
  asid : Nat
  cid : Nat
  deriving DecidableEq, Repr

/-- A stack hold slot in use (R211, R213): the triad it holds by stack socket and stack triad number, and whether its rows are open. -/
structure HoldSlot where
  socket : Nat
  slot : Nat
  cid : Nat
  triad : Nat
  pgn : Nat
  stackTriad : Nat
  isOpen : Bool
  deriving DecidableEq, Repr

/-- A pseudo-channel in which a refresh has fallen due (R214): its debt, the refreshes still to be performed ahead of time, when it is
free again, and the last due tick. -/
structure RefreshState where
  socket : Nat
  channel : Nat
  debt : Int
  running : Nat
  busyUntil : Nat
  dueAt : Nat
  deriving DecidableEq, Repr

/-- An entry of a team's held-triad list (R210). -/
structure TriadEntry where
  used : Bool
  triad : Nat
  socket : Nat
  slot : Option Nat
  lost : Bool
  hold : Bool
  gen : Nat
  deriving DecidableEq, Repr

/-- A kernel's launch record (R55). -/
structure KInfo where
  entry : Nat
  team : Nat
  nCopy : Nat
  nMatrix : Nat
  nVector : Nat
  extCopy : Nat
  extMatrix : Nat
  extVector : Nat
  acc : Nat
  scratch : Nat
  laneslice : Nat
  deriving DecidableEq, Repr

/-- The state of one barrier of a team (R148, R149); `closed` once its generation has the arrivals that complete it. -/
structure Barrier where
  id : Nat
  arrived : List Nat
  n : Option Nat
  gen : Nat
  closed : Bool
  deriving DecidableEq, Repr

/-- An open round of a gang's rendezvous latch (R342): the gang register, the word, the task state, who has arrived. -/
structure Round where
  gr : Word
  word : Word
  inTask : Bool
  arrived : List Nat
  deriving DecidableEq, Repr

/-- What a wave waits for. -/
inductive Status where
  /-- it may issue -/
  | running
  /-- stalled at a header on its WAIT flags (R28 step 6) -/
  | flagWait
  /-- stalled at an instruction that is tried again (WAITC, FENCE, WAITF, TEND, a full counter) -/
  | retry
  | barrier (id : Nat)
  | join
  | regget (n : Nat)
  | sleep (wake : Nat)
  | waits (va : Nat) (v : Word) (dst : Nat) (last : Nat)
  | latch
  | ldt (jar : Nat) (home : Nat)
  | rowOpen (op : Nat)
  /-- parked on a replayable fault (R177); `resolved` operations are replayed -/
  | parked
  /-- stalled at a DET quantum boundary in front of a word or header (R90) -/
  | quantum
  /-- stalled behind an instruction that ended its DET quantum as it issued: an atomic, a TDROP, a copy (R90, R317) -/
  | quantumEnd
  /-- halted for the debugger (R165, R172) -/
  | halted
  /-- stopped for a pre-emption at its yield point or deadline (R183, R184) -/
  | stopped
  | saved
  | ended
  deriving DecidableEq, Repr

/-- The trap frame (R170 step 4): `em`, the flags with outstanding register work, the resume point, the replay set (operation
ids in issue order) and the value written to `%xpc`. -/
structure Frame where
  em : W32
  flags : BitVec 12
  resume : Nat
  replay : List Nat
  xpc : Word
  deriving DecidableEq, Repr

/-- What has entered a task's version (R89): bytes at a physical address; or an atomic of one lane of an operation on `n` bytes, whose read
and write are both at the commit (R87). -/
inductive VersionWrite where
  | put (pa : Nat) (bs : List Byte)
  | atom (op lane : Nat) (f : AtomFn) (n pa data data2 : Nat)
  deriving DecidableEq, Repr

/-- An open task (R158): its start (code-base offset in bytes), `.reissue`, its tiles and their modes at TBEGIN, its version
by physical byte as its own wave sees it, and what has entered the version, oldest first (R89), the physical lines of that version with their home dies (R181), the fill handles dropped inside it
(R310), and its commit tick once TEND has committed it. -/
structure Task where
  start : Nat
  reissue : Bool
  tiles : Word
  exact : Word
  version : List Host.Cell
  writes : List VersionWrite
  lines : List (Nat × Nat)
  drops : List (Nat × Word)
  commit : Option Nat
  deriving DecidableEq, Repr

/-- A wave (R113, R132). `skip` is BKSKIP as it is in force, which a write of `%xcause` outside a handler does not reach (R266);
`maskBefore` is what `%xmask` held before the wave parked, and holds again once it goes on (R25, R177). `gangEnded` says that a member of the wave's gang has ended or left it (R343). `qpass` says that the quantum boundary at which the wave stands has been committed (R90); `deadline` and
`allowance` are the ticks left of R184 and R185. -/
structure Wave where
  tid : Nat
  ix : Nat
  role : Role
  path : Path
  stack : List DivLevel
  conts : List Cont
  alive : W32
  lanes : Sparse W32
  preds : Sparse W32
  handles : Sparse Word
  blocks : Nat
  gr : Word
  gangEnded : Bool
  horizon : Nat
  xpc : Word
  xcause : Word
  skip : Bool
  xaddr : Word
  xskid : Word
  xmask : Word
  maskBefore : Option Word
  xtask : Word
  tba : Word
  preq : Bool
  fpm : Word
  fpf : Word
  attempt : Nat
  trapMask : Bool
  frame : Option Frame
  holdA : Option Nat
  holdB : Option Nat
  flagsHeld : BitVec 12
  task : Option Task
  perf : Sparse Nat
  wejt : Nat
  slot : Nat
  acc : Sparse (BitVec 96)
  exact : Word
  bounds : Sparse Word
  status : Status
  lastIssue : Nat
  favoured : Bool
  deadline : Option Nat
  allowance : Nat
  qpass : Bool
  deriving DecidableEq, Repr

/-- A buffered access of a DET sweep (R90): its operation, access, the physical address it was translated to, whether it was made inside a task, and whether it is an
atomic or TDROP, which ends the quantum. -/
structure DetEntry where
  op : Nat
  wave : Nat
  acc : Access
  pa : Nat
  inTask : Bool
  last : Bool
  deriving DecidableEq, Repr

/-- Where a team stands: waiting at a dibber, placed, saved or ended. -/
inductive TeamStatus where
  | waiting | placed | saved | ended
  deriving DecidableEq, Repr

/-- A pre-emption request (R183). -/
structure Preempt where
  abort : Bool
  at_ : Nat
  deriving DecidableEq, Repr

/-- A team (R112, R20). `saved` holds the bytes of its scratchpad allocation while it is saved, `saveAt` the VA at which its save stands in the
context's arena (R187), `placedAt` its number in the order in which teams were placed (R404), and `reopenAt` the tick from which its restore waits for the banks
of its held triads (R188, R213). -/
structure Team where
  tid : Nat
  sweep : SweepRef
  teamix : Nat
  tile : Word
  elems : Nat
  coords : List Nat
  vdie : Nat
  die : Nat
  core : Nat
  p0 : Nat
  k : KInfo
  handed : Nat
  pref : Nat
  grafted : Bool
  status : TeamStatus
  slots : List Nat
  barriers : List Barrier
  rounds : List Round
  triads : List TriadEntry
  det : List DetEntry
  preempt : Option Preempt
  lost : Option (Nat × Nat × Nat)
  saved : Sparse Byte
  saveAt : Option Nat
  placedAt : Nat
  reopenAt : Option Nat
  deriving DecidableEq, Repr

/-- The outcome of a claim that has not returned yet (R377): the record's index, and what the claim found. -/
structure ClaimResult where
  index : Nat
  outcome : Nat
  bytes : List Byte
  tick : Nat
  deriving DecidableEq, Repr

/-- A rake's part in a sweep (R376, R380 to R382): the next record of its chunk, the claims in flight, the records to claim again before
it walks on (its resume index first; with whether the record stopped it), and those of them that a RESUME skips. -/
structure Rake where
  vdie : Nat
  chunk : Option Nat
  next : Nat
  claims : List ClaimResult
  redo : List (Nat × Bool)
  skips : List Nat
  stopped : Bool
  parked : Bool
  deriving DecidableEq, Repr

/-- A sweep (R372, R373, R388), which stands here after its end as well, for what it has claimed, skipped and ended to be read (R391); `closed` once its
packet has completed. `snap`, `snapScr` and `snapPad` hold memory and the scratchpads as they stood at the start of a DET sweep's quantum, and `commits` counts its quanta that are over (R90). `logTag` is the tag under which a capture logged it, if a REPLAY runs it (R409). -/
structure Sweep where
  ref : SweepRef
  pkt : PktRef
  plot : Nat
  nplot : Nat
  rank : Nat
  fmt : Nat
  shape : List Nat
  tshape : List Nat
  k : KInfo
  code : Nat
  rw : Bool
  det : Bool
  graft : Bool
  ejt : Nat
  rows : Nat
  drop : Bool
  gwait : Nat
  seed : W32
  args : List Word
  pdl : Nat
  cursor : Nat
  rakes : List Rake
  cause : Nat
  claimed : Nat
  skipped : Nat
  ended : Nat
  halted : Bool
  errored : Bool
  finished : Bool
  closed : Bool
  snap : List Host.Cell
  snapScr : List Host.Cell
  snapPad : List Host.Cell
  commits : Nat
  logTag : Option Nat
  deriving DecidableEq, Repr

/-- What waits for an answer to a fault on a granule (R178, R179, R216). -/
inductive Waiter where
  | op (id : Nat)
  | wave (tid wave : Nat)
  | rake (sweep : SweepRef) (vdie : Nat)
  | packet (p : PktRef)
  | queue (q : QRef)
  | migrate (p : PktRef)
  | save (tid : Nat)
  deriving DecidableEq, Repr

/-- An unanswered fault of a context on a granule (R178, R180): the record's fields, the sequence number once it stands in the ring with the T at
which it does, the
fault that an unresolvable answer delivers, what waits for the answer, each with the VA of its own access, and the answer once it has come and
until everything that waited has taken it (R179). -/
structure FaultRecord where
  seq : Option Nat
  written : Nat
  va : Nat
  time : Nat
  asid : Nat
  kind : Nat
  vdie : Nat
  core : Nat
  granule : Nat
  sub : Nat
  second : Bool
  ucode : Code
  usub : Nat
  waiters : List (Waiter × Nat)
  answer : Option Bool
  deriving DecidableEq, Repr

/-- A context (R395). `pads` holds the offset of its window in each physical die's pad (R193). -/
structure Context where
  cid : Nat
  asid : Nat
  vdmap : List Nat
  root : Nat
  rootSlot : Nat
  stripe : Nat
  bken : Bool
  nslot : Nat
  stackBase : Nat
  save : Nat
  saveSize : Nat
  fring : Nat
  fcount : Nat
  jcount : Nat
  jtab : Nat
  padlen : Nat
  pads : List Nat
  fvec : Nat
  fport : Nat
  nextSeq : Nat
  faults : List FaultRecord
  jars : Sparse JarRec
  mailbox : List Word
  nextTag : Nat
  collRounds : Sparse Nat
  dead : Bool
  /-- the granule that holds the second-stage root, if the hypervisor has set one (log entry 8) -/
  stage2 : Option Nat
  deriving DecidableEq, Repr

/-- An error record (R422) as it is written. -/
structure ErrorRecord where
  q : QRef
  type : Nat
  code : Nat
  sub : Nat
  flags : Nat
  ptag : W32
  time : Nat
  tag : Nat
  index : Nat
  xpc : Word
  xaddr : Word
  cid : Nat
  vdie : Nat
  wave : Nat
  detail : Nat
  deriving DecidableEq, Repr

/-- A packet that has been read and not started (R399, R400): where it came from, its bytes, the packet whose buffer or log holds it, the
tick at which it was read, the tag under which a log holds it, and the requester number of its queue's last wake (R216). -/
structure RawPkt where
  ref : PktRef
  kind : Nat
  bytes : List Byte
  parent : Option Nat
  time : Nat
  logTag : Option Nat
  req : Nat
  deriving DecidableEq, Repr

/-- A packet that has started and not completed (R400): the word and value of a WAIT or FENCE, the granule and TARGET of a MIGRATE, the CID of
a CTX_DESTROY; how many packets of its buffer or log are not complete (1 for a MIGRATE whose request has arrived); the tick from
which it completes; the last reload of its word, or the tick at which a MIGRATE was read; its requester number. -/
structure StartedPkt where
  ref : PktRef
  kind : Nat
  parent : Option Nat
  va : Nat
  v : Word
  left : Nat
  due : Option Nat
  last : Nat
  req : Nat
  deriving DecidableEq, Repr

/-- A buffer or log from which packets are still to be read (R401, R409): the packet that names it, the next VA and the end; and what is left of the
line that is read at once (R402). -/
structure Reader where
  seq : Nat
  va : Nat
  stop : Nat
  log : Bool
  line : List Byte
  deriving DecidableEq, Repr

/-- A queue (R397): the fields of its shadow half; the sectors that a served wake has made visible and those read; the packets read
and not started, those started, and the buffers being read; the packets of the ring that DONE does not count yet, with whether each
has completed; DONE, EHEAD, the T at which EHEAD last advanced for it (R422), and records that wait for the error ring. `capture` and `replay` hold a log's VA and size, and the bytes
written (R408, R409). -/
structure Queue where
  q : QRef
  asid : Nat
  shadow : Nat
  kinds : W32
  guest : Nat
  prio : Nat
  pmax : Nat
  devsub : Bool
  missed : Bool
  mapped : Bool
  halt : Bool
  admin : Bool
  rowsmax : Nat
  pdl : Nat
  uva : Nat
  woken : Bool
  waker : Nat
  visible : Nat
  rptr : Nat
  nextSeq : Nat
  pending : List RawPkt
  started : List StartedPkt
  readers : List Reader
  ring : List (Nat × Bool)
  done : Nat
  ehead : Nat
  told : Nat
  errq : List ErrorRecord
  capture : Option (Nat × Nat × Nat)
  replay : Option (Nat × Nat × Nat)
  deriving DecidableEq, Repr

/-- Where a node of a running graph stands (R406): its count is not 0 yet; it may start, its body not read yet; its body is read and may
start; its body runs; its body has completed; it has finished; it was refused. -/
inductive NodePhase where
  | idle | entry | ready | running | complete | finished | refused
  deriving DecidableEq, Repr

/-- A node of a running graph (R405). `unread` is the fault for which its record could not be read (R426). -/
structure GraphNode where
  kind : Nat
  nsucc : Nat
  npred : Nat
  body : Nat
  succ : List Nat
  opnd : Word
  cc : Nat
  act : Nat
  unread : Option (Code × Nat)
  pend : Nat
  phase : NodePhase
  raw : Option RawPkt
  deriving DecidableEq, Repr

/-- A running graph (R405, R406). While `reading` holds, `nodes` are those read so far. `logTag` is its packet's number in the log from which it is
replayed (R409). -/
structure Graph where
  pkt : PktRef
  base : Nat
  nnode : Nat
  maxarm : Nat
  stat : Nat
  reading : Bool
  nodes : List GraphNode
  arms : Nat
  refused : Bool
  ends : Bool
  rearm : Bool
  logTag : Option Nat
  deriving DecidableEq, Repr

/-- A NOTIFY that posts (R407): its entries, the checked descriptor, how many are posted, HEAD and PEND, which are read at its turn. `stage`
is 0 while it copies entries, 1 while an interrupt waits for HEAD and PEND, 2 while the last of these are written; `cover` is the
completion time of the entries, `last` that of HEAD and PEND; `full` says that it found no room. -/
structure Posting where
  pkt : PktRef
  hring : Nat
  src : Nat
  n : Nat
  flush : Bool
  base : Nat
  nent : Nat
  coal : Nat
  vec : Nat
  port : Nat
  begun : Bool
  posted : Nat
  head : Nat
  pend : Nat
  stage : Nat
  cover : Nat
  last : Nat
  full : Bool
  deriving DecidableEq, Repr

/-- A guest's budget (R404), the charge of this window in 1/288 tick, and what a BUDGET has set for the next. -/
structure Guest where
  guest : Nat
  budget : Nat
  cores : Nat
  charge : Nat
  out : Bool
  next : Option (Nat × Nat)
  deriving DecidableEq, Repr

/-- The SPDM requests that the Y3 answers (R421). -/
inductive SpdmRequest where
  | getVersion | getCapabilities | negotiateAlgorithms | getDigests | getCertificate | challenge | getMeasurements
  deriving DecidableEq, Repr

/-- The algorithms that the Y3 offers (R421): its hash, and its one asymmetric algorithm, the alias key's. -/
inductive SpdmAlgorithm where
  | sha3With256Bits | xmssShake10With256Bits
  deriving DecidableEq, Repr

/-- The measurements of R421 by index: 1 the boot ROM, 2 the running firmware image and its extensions, 3 the secure management core's firmware,
4 the accepted feature word, 5 CLUMASK and DIEFENCE. -/
structure Measurements where
  rom : BitVec 256
  firmware : List (BitVec 256)
  core : BitVec 256
  feature : BitVec 128
  cluMask : BitVec 128
  fence : BitVec 8
  deriving DecidableEq, Repr

/-- A response on a DOE mailbox (R420, R421): an answer, with the signature index of the alias key if it is signed; the algorithms; the
measurements; or an ERROR with its code. -/
inductive SpdmAnswer where
  | ok (request : SpdmRequest) (signed : Option Nat)
  | algorithms (hash asym : SpdmAlgorithm)
  | measurements (signed : Option Nat) (m : Measurements)
  | busy (request : SpdmRequest)
  | unspecified (request : SpdmRequest)
  deriving DecidableEq, Repr

/-- A live firmware update whose new image has started (R411); `rejected` says that it rejects the handover. -/
structure Update where
  slot : Nat
  version : W32
  started : Nat
  rejected : Bool
  pkt : PktRef
  deriving DecidableEq, Repr

/-- The whole machine. -/
structure State where
  /-- model's own: what happens next (log entry 1) -/
  agenda : List Slot
  /-- model's own: what this step is brought (log entry 78) -/
  inputs : Inputs
  /-- model's own: number of the next free value (log entry 3) -/
  freeIx : Nat
  /-- model's own: the next fresh team, operation, path and level number -/
  fresh : Nat
  /-- the wave or continuation that issues -/
  cur : Option AgentRef
  /-- the timebase (R15) -/
  now : Nat
  /-- physical memory by physical byte address, 49,152 · granule + offset (R199, R394) -/
  mem : List Host.Cell
  /-- core scratchpads: byte o of core c of die d at 524,288 · (36 · d + c) + o (R11) -/
  scratch : List Host.Cell
  /-- die pads: byte o of die d at 67,108,864 · d + o (R10) -/
  diePad : List Host.Cell
  /-- poisoned sectors of physical memory, by physical address div 48 (R423) -/
  poison : List Nat
  /-- poisoned sectors of scratchpads, by scratch key div 48, and of die pads, by 150,994,944 + pad key div 48 (R423) -/
  scratchPoison : List Nat
  /-- physical sectors poisoned in a home slice or in the MSC (R423) -/
  sramPoison : List Nat
  copies : List LineCopy
  homeLines : List HomeLine
  mscLines : List MscLine
  tlb : List TlbEntry
  codeCopies : List CodeCopy
  /-- completion time of the last store to each physical line, plus 1; 0 where there was none (R78) -/
  lineT : Sparse Nat
  homeStores : List HomeStore
  aliases : List AliasRecord
  holds : List HoldSlot
  refresh : List RefreshState
  /-- released CXL extents: port, first granule, count, forced (R218) -/
  extents : List (Nat × Nat × Nat × Bool)
  /-- sectors dropped dirty at a forced release, poisoned at their port (R218) -/
  dropped : List Nat
  ops : List Op
  waves : List Wave
  teams : List Team
  sweeps : List Sweep
  contexts : List Context
  queues : List Queue
  graphs : List Graph
  postings : List Posting
  guests : List Guest
  nextOrder : Nat
  errors : List ErrorRecord
  irqs : List (Nat × Nat)
  spdm : List (Nat × SpdmAnswer)
  /-- FEATACC as the driver wrote it (R410) -/
  featReg : BitVec 128
  /-- the feature word in force -/
  featAcc : BitVec 128
  featStat : Nat
  /-- the word holds until a reset or live update (R410) -/
  featLocked : Bool
  adminq : Word
  boot : Nat
  /-- a bring-up step has failed, and BOOT stands there (R425) -/
  bootFailed : Bool
  portstat : BitVec 16
  dieFence : BitVec 8
  stackFence : List Nat
  spanDown : List Nat
  /-- devices to which no route is left (R418) -/
  lostDevs : List Nat
  islandLevel : Sparse Nat
  /-- writes of LEVEL that may not have taken effect yet: island, tick, the level before it (R424) -/
  islandWrites : List (Nat × Nat × Nat)
  /-- levels by which the module limit holds an island below LEVEL (R424) -/
  islandHeld : Sparse Nat
  /-- islands that the thermal limit holds (R424) -/
  islandHot : List Nat
  devNum : Option Nat
  idxCtr : W32
  verCtr : W32
  aliasCert : Bool
  aliasUsed : Nat
  fwSlot : Nat
  /-- the versions of the images in slots A and B, their hashes, and whether their signatures verify (R420) -/
  fwVersions : List W32
  fwHashes : List (BitVec 256)
  fwSigned : List Bool
  /-- the SPDM firmware measurement: the image that booted, and its extensions, as hashes (R411, R421) -/
  fwMeasured : List (BitVec 256)
  update : Option Update
  corrected : Nat
  softPeriod : Nat
  window : Nat
  deriving DecidableEq, Repr

/-- The machine right after a package cold reset (R425): the timebase is 0, no bring-up step is reached, nothing exists that a
context, queue or sweep would make. Values that the spec does not give are those of log entry 6. -/
def State.reset : State where
  agenda := []
  inputs := .quiet
  freeIx := 0
  fresh := 1
  cur := none
  now := 0
  mem := []
  scratch := []
  diePad := []
  poison := []
  scratchPoison := []
  sramPoison := []
  copies := []
  homeLines := []
  mscLines := []
  tlb := []
  codeCopies := []
  lineT := []
  homeStores := []
  aliases := []
  holds := []
  refresh := []
  extents := []
  dropped := []
  ops := []
  waves := []
  teams := []
  sweeps := []
  contexts := []
  queues := []
  graphs := []
  postings := []
  guests := []
  nextOrder := 0
  errors := []
  irqs := []
  spdm := []
  featReg := 0
  featAcc := 0
  featStat := 0
  featLocked := false
  adminq := 0
  boot := 0
  bootFailed := false
  portstat := 0
  dieFence := 0
  stackFence := []
  spanDown := []
  lostDevs := []
  islandLevel := []
  islandWrites := []
  islandHeld := []
  islandHot := []
  devNum := none
  idxCtr := 0
  verCtr := 0
  aliasCert := false
  aliasUsed := 0
  fwSlot := 0
  fwVersions := [0, 0]
  fwHashes := [0, 0]
  fwSigned := [true, true]
  fwMeasured := []
  update := none
  corrected := 0
  softPeriod := 0
  window := 0

end Sys2Proof.Machine
end

