-- ==== Sys2Proof/Machine/Store.lean ====
section
/-!
DEFINITION. Reading and writing sparse files and bytes of memory. An unlisted entry reads as the file's default; writing
the default removes the entry, so that equal contents are equal data (log entry 4).
-/

namespace Sys2Proof.Machine

/-- The value of entry `k`; the default where none is listed. -/
def Sparse.get {α : Type} (dflt : α) : Sparse α → Nat → α
  | [], _ => dflt
  | (k', v) :: r, k => if k' = k then v else if k < k' then dflt else Sparse.get dflt r k

/-- The file with entry `k` set to `v`. -/
def Sparse.set {α : Type} [DecidableEq α] (dflt : α) : Sparse α → Nat → α → Sparse α
  | [], k, v => if v = dflt then [] else [(k, v)]
  | (k', v') :: r, k, v =>
    if k < k' then (if v = dflt then (k', v') :: r else (k, v) :: (k', v') :: r)
    else if k = k' then (if v = dflt then r else (k, v) :: r)
    else (k', v') :: Sparse.set dflt r k v

/-- The canonical form: rising keys, no entry equal to the default. -/
def Sparse.wf {α : Type} [DecidableEq α] (dflt : α) : Sparse α → Bool
  | [] => true
  | [(_, v)] => decide (v ≠ dflt)
  | (k, v) :: (k', v') :: r => decide (v ≠ dflt) && decide (k < k') && Sparse.wf dflt ((k', v') :: r)

/-- The file with the entries `lo` to `lo + n - 1` at the default. -/
def Sparse.clear {α : Type} (m : Sparse α) (lo n : Nat) : Sparse α :=
  m.filter fun e => decide (e.1 < lo ∨ lo + n ≤ e.1)

/-- One byte of a byte store. -/
def byteAt (m : List Host.Cell) (a : Nat) : Byte := Sparse.get 0 m a

/-- The byte store with one byte written. -/
def putByte (m : List Host.Cell) (a : Nat) (b : Byte) : List Host.Cell := Sparse.set 0 m a b

/-- `n` bytes from `a` upward. -/
def bytesAt (m : List Host.Cell) (a : Nat) : Nat → List Byte
  | 0 => []
  | n + 1 => byteAt m a :: bytesAt m (a + 1) n

/-- The byte store with a run of bytes written from `a` upward. -/
def putBytes (m : List Host.Cell) (a : Nat) : List Byte → List Host.Cell
  | [] => m
  | b :: r => putBytes (putByte m a b) (a + 1) r

/-- A little-endian number (R25). -/
def leNat : List Byte → Nat
  | [] => 0
  | b :: r => b.toNat + 256 * leNat r

/-- The low `n` bytes of a number, little-endian. -/
def leBytes : Nat → Nat → List Byte
  | 0, _ => []
  | n + 1, v => BitVec.ofNat 8 v :: leBytes n (v / 256)

/-- The canonical form of memory. -/
def memWf (m : List Host.Cell) : Bool := Sparse.wf (0 : Byte) m

/-- Bits `hi` down to `lo` of a number (R25). -/
def bitsOf (x hi lo : Nat) : Nat := (x / 2 ^ lo) % 2 ^ (hi + 1 - lo)

/-- The `n`-bit value `x` read as signed (R25). -/
def sextInt (x n : Nat) : Int :=
  let y := x % 2 ^ n
  if y < 2 ^ (n - 1) then (y : Int) else (y : Int) - (2 : Int) ^ n

/-- A number wrapped to `n` bits (R25). -/
def wrapInt (n : Nat) (x : Int) : Nat := (x % ((2 : Int) ^ n)).toNat

/-- The first `k` numbers, in ascending order. -/
def upto (k : Nat) : List Nat := List.range k

/-- The lanes set in a mask, in ascending order (R25). -/
def lanesOf (m : W32) : List Nat := (List.range 32).filter fun l => m.getLsbD l

/-- The mask with one lane. -/
def laneBit (l : Nat) : W32 := BitVec.ofNat 32 (2 ^ l)

/-- How many lanes a mask holds. -/
def countLanes (m : W32) : Nat := (lanesOf m).length

/-- The mask of a set of lanes. -/
def maskOf (p : Nat → Bool) : W32 :=
  (List.range 32).foldl (fun m l => if p l then m ||| laneBit l else m) 0

end Sys2Proof.Machine
end

