-- ==== Sys2Proof/Machine/Forms.lean ====
section
/-!
DEFINITION. The forms of the instructions: which operand spaces, codes, widths, guards and features each word takes (the
tables of R140, R220, R246, R273, R314 and R356), and the ILLEGAL_OP subcodes (R33) that a word breaks by its encoding
alone.
-/

namespace Sys2Proof.Machine

/-- ILLEGAL_OP subcodes (R33). -/
abbrev subOpcode : Nat := 1
/-- FIELD (R33). -/
abbrev subField : Nat := 2
/-- SPACE (R33). -/
abbrev subSpace : Nat := 3
/-- INDEX (R33). -/
abbrev subIndex : Nat := 4
/-- BLOCK (R33). -/
abbrev subBlock : Nat := 5
/-- MODIFIER (R33). -/
abbrev subModifier : Nat := 6
/-- WIDTH (R33). -/
abbrev subWidth : Nat := 7
/-- HOLD (R33). -/
abbrev subHold : Nat := 8
/-- GUARD (R33). -/
abbrev subGuard : Nat := 9
/-- REGGET (R33). -/
abbrev subRegget : Nat := 10
/-- FEATURE (R33). -/
abbrev subFeature : Nat := 16

/-- The register files of space 11 (R35), with the predicates as sources and as destinations, and the special registers as
sources and as WRS destinations. -/
inductive RegFile where
  | pred | predDst | special | specialDst | handle | tile | bound
  deriving DecidableEq, Repr

/-- What one operand field may hold. A slot with nothing allowed is unused. -/
structure SlotForm where
  /-- space 00 as a lane register: required alignment and registers used -/
  lane : Option (Nat × Nat)
  /-- space 01: required alignment -/
  scal : Option Nat
  imm8 : Bool
  imm16 : Bool
  imm32 : Bool
  /-- space 11 -/
  file : Option RegFile
  /-- space 00 as a raw or code field: the values listed -/
  code : Option (Nat → Bool)

/-- How AMOD or BMOD is used. -/
inductive ModForm where
  /-- reserved: zero, or FIELD -/
  | zero
  /-- the modifiers of R38 that the entry allows; zero alone on an operand that is not a register -/
  | mods (l : List Nat)
  /-- a code; an unlisted one raises FIELD -/
  | code (ok : Nat → Bool)
  /-- CN, a counter -/
  | counter
  /-- immediate bits -/
  | bits

/-- The form of an instruction word. -/
structure Form where
  eng : Engine
  d : SlotForm
  a : SlotForm
  b : SlotForm
  c : SlotForm
  amod : ModForm
  bmod : ModForm
  /-- the values of W -/
  ws : List Nat
  /-- AH and BH follow R39; otherwise they must be clear -/
  holds : Bool
  /-- takes a guard -/
  guarded : Bool
  /-- a scalar destination admits no lane source (R245, R270) -/
  uniform : Bool
  feature : Option Nat
  /-- further subcodes that this word breaks -/
  extra : List Nat

/-- An unused slot. -/
def sU : SlotForm := ⟨none, none, false, false, false, none, none⟩
/-- A lane register with an alignment and a number of registers. -/
def sLn (al n : Nat) : SlotForm := { sU with lane := some (al, n) }
/-- L. -/
def sL : SlotForm := sLn 1 1
/-- A scalar of the given alignment. -/
def sSn (al : Nat) : SlotForm := { sU with scal := some al }
/-- S. -/
def sS : SlotForm := sSn 1
/-- L, S. -/
def sLS : SlotForm := { sL with scal := some 1 }
/-- L, S, I8. -/
def sLSI : SlotForm := { sLS with imm8 := true }
/-- L, S, I8, I16. -/
def sLSI16 : SlotForm := { sLSI with imm16 := true }
/-- An even lane pair or a scalar (R270). -/
def sDS : SlotForm := { sLn 2 2 with scal := some 1 }
/-- An FP64 operand or an imm8. -/
def sDSI : SlotForm := { sDS with imm8 := true }
/-- An FP64 operand or an immediate. -/
def sDSI16 : SlotForm := { sDSI with imm16 := true }
/-- S or I8. -/
def sSI : SlotForm := { sS with imm8 := true }
/-- S or I16. -/
def sSI16 : SlotForm := { sS with imm16 := true }
/-- I8. -/
def sI8 : SlotForm := { sU with imm8 := true }
/-- I16. -/
def sI16 : SlotForm := { sU with imm16 := true }
/-- A code field. -/
def sK (ok : Nat → Bool) : SlotForm := { sU with code := some ok }
/-- A raw field of any value. -/
def sRaw : SlotForm := sK fun _ => true
/-- A slot of space 11. -/
def sFile (r : RegFile) : SlotForm := { sU with file := some r }
/-- P as a source. -/
def sP : SlotForm := sFile .pred
/-- P as a destination. -/
def sPd : SlotForm := sFile .predDst
/-- X. -/
def sX : SlotForm := sFile .special
/-- X as WRS's destination. -/
def sXw : SlotForm := sFile .specialDst
/-- A handle. -/
def sH : SlotForm := sFile .handle
/-- A handle or a scalar. -/
def sHS : SlotForm := { sH with scal := some 1 }
/-- A tile. -/
def sT : SlotForm := sFile .tile
/-- A bound register. -/
def sB : SlotForm := sFile .bound

/-- A lane group of `n` registers, aligned as R222 says. -/
def sLane (g : Nat × Nat) : SlotForm := sLn g.1 g.2
/-- Alignment and registers of an access of size code SZ (R222). -/
def szAlign (sz : Nat) : Nat × Nat := if sz = 5 then (2, 2) else if sz = 6 then (4, 4) else (1, 1)
/-- The size code that SZ2 stands for (R222). -/
def szOfSz2 (bmod : Nat) : Nat :=
  match bmod % 4 with | 0 => 4 | 1 => 5 | 2 => 6 | _ => 2
/-- Store data of size code SZ: a lane group or, but for `.q`, a scalar (R222). -/
def sData (sz : Nat) : SlotForm :=
  { sLane (szAlign sz) with scal := if sz = 6 then none else some 1 }
/-- The registers of an ATOM operand (R230). -/
def atomRegs (opc : Nat) : Nat × Nat :=
  if [1, 3, 5, 7, 13, 15].contains opc then (2, 2) else (1, 1)
/-- ATOM's data (R230). -/
def sAtomData (opc : Nat) : SlotForm := { sLane (atomRegs opc) with scal := some 1 }
/-- The registers of an ACAS operand (R231). -/
def acasRegs (k : Nat) : Nat × Nat := if k = 1 then (2, 2) else if k = 2 then (4, 4) else (1, 1)
/-- The registers ACCRD writes (R364). -/
def accrdRegs (k : Nat) : Nat × Nat := if k = 1 then (2, 4) else if k = 2 then (1, 6) else (1, 2)

/-- The all-scalar form (R34, R245). -/
def allScalar (f : Fields) : Bool := f.dsp == 1 && f.asp == 1
/-- ICMP's 64-bit comparison (R258). -/
def wideCompare (f : Fields) : Bool := f.asp == 1 && (f.bsp == 1 || f.bsp == 2)

/-- The modifiers that suit an integer operand of layout W (R38). PACK's operands have elements twice as wide as W names, and take the codes of
those (R262; DEDUCED: log entry 104). -/
def intCodes (w : Nat) : List Nat :=
  match w with
  | 0 => [0, 4, 5, 6, 7, 8, 9, 10, 11, 12, 13, 14]
  | 1 => [0, 4, 5, 6, 7, 8, 9, 10, 11, 12]
  | _ => [0, 7, 8, 9, 10, 11, 12]

/-- An integer VEC word (R246); the all-scalar form takes W = 00 and no modifier (R247, R38). -/
def intForm (f : Fields) (d a b c : SlotForm) (ws : List Nat) : Form where
  eng := .vec
  d := d
  a := a
  b := b
  c := c
  amod := .mods (if allScalar f then [0] else intCodes f.w.toNat)
  bmod := .mods (if allScalar f then [0] else intCodes f.w.toNat)
  ws := if allScalar f then [0] else ws
  holds := true
  guarded := true
  uniform := true
  feature := none
  extra := []

/-- A floating-point VEC word (R273), with the sign modifiers. -/
def fpForm (_f : Fields) (d a b c : SlotForm) (ws : List Nat) : Form where
  eng := .vec
  d := d
  a := a
  b := b
  c := c
  amod := .mods [0, 1, 2, 3]
  bmod := .mods [0, 1, 2, 3]
  ws := ws
  holds := true
  guarded := true
  uniform := true
  feature := none
  extra := []

/-- MOVI (R248): a 32-bit immediate, W by the destination. -/
def moviForm (f : Fields) : Form :=
  let i32 : SlotForm := { sU with imm32 := true }
  { intForm f sLS i32 i32 i32 [] with
    amod := .bits, bmod := .bits, ws := if f.dsp = 1 then [0, 1, 2] else [0], uniform := false }

/-- REDW (R265): W and the modifiers by the operation. -/
def redwForm (f : Fields) : Form :=
  { intForm f sLS sL sU (sK (· ≤ 9)) (if f.c.toNat ≤ 4 then [0, 1, 2, 3] else [0]) with
    uniform := false
    amod := .mods (if f.c = 8 then [0, 1, 2, 3] else intCodes f.w.toNat) }

/-- CVT (R283): pairs for FP64, SAT in BMOD, sign modifiers for the wide source types only. -/
def cvtForm (f : Fields) : Form :=
  let dst := f.c.toNat % 16
  let src := f.c.toNat / 16
  { fpForm f (if dst = 1 then sDS else sLS) (if src = 1 then sDS else sLS) sU
      (sK fun k => decide (k % 16 ≤ 6) && decide (k / 16 ≤ 6)) [0] with
    eng := .xfn
    amod := .mods (if src ≤ 3 then [0, 1, 2, 3] else [0])
    bmod := .code (· ≤ 1) }

/-- A load-store word (R220). -/
def lsuForm (d a b c : SlotForm) (cn : Bool) (bm : Nat → Bool) : Form where
  eng := .lsu
  d := d
  a := a
  b := b
  c := c
  amod := if cn then .counter else .zero
  bmod := .code bm
  ws := [0]
  holds := true
  guarded := true
  uniform := false
  feature := none
  extra := []

/-- A matrix word (R356). -/
def matForm (d a b c : SlotForm) (am : ModForm) (bm : Nat → Bool) : Form where
  eng := .mat
  d := d
  a := a
  b := b
  c := c
  amod := am
  bmod := .code bm
  ws := [0]
  holds := false
  guarded := false
  uniform := false
  feature := none
  extra := []

/-- The levels of ACCLD and ACCST (R356). -/
def matLevel (k : Nat) : Bool := k == 0 || k == 2 || k == 3 || k == 4

/-- A copy-engine word (R314). -/
def cpyForm (d a b c : SlotForm) (am : ModForm) (bm : Nat → Bool) (feature : Option Nat) : Form where
  eng := .cpy
  d := d
  a := a
  b := b
  c := c
  amod := am
  bmod := .code bm
  ws := [0]
  holds := false
  guarded := true
  uniform := false
  feature := feature
  extra := []

/-- Two side levels in C (R315). -/
def sides2 : SlotForm := sK fun k => decide (k < 64) && decide (k % 8 ≤ 4) && decide (k / 8 ≤ 4)
/-- One side level in C (R315). -/
def sides1 : SlotForm := sK (· ≤ 4)

/-- TCOPY (R326): the rights request in B and the target in C. -/
def tcopyForm (f : Fields) : Form :=
  let r := f.b.toNat
  let badRights := if r < 128 then decide (r ≠ 0) else decide (r / 16 % 8 ≠ 0)
  let otherWave := f.c.getLsbD 4
  { cpyForm sHS sHS sI8 (sK fun k => decide (k < 32) && (decide (k ≥ 16) || k == 0)) .zero (· == 0) (some 1) with
    extra := if badRights || (otherWave && f.dsp == 1) then [subField] else [] }

/-- A SEQ word (R140), unguarded. -/
def seqForm (d a b c : SlotForm) : Form where
  eng := .seq
  d := d
  a := a
  b := b
  c := c
  amod := .zero
  bmod := .zero
  ws := [0]
  holds := false
  guarded := false
  uniform := false
  feature := none
  extra := []

/-- A SYS word (R140). -/
def sysForm (d a b c : SlotForm) : Form := { seqForm d a b c with eng := .sys }

/-- A word with a far target (R138). -/
def farForm : Form := { seqForm sU sRaw sRaw sRaw with amod := .bits, bmod := .bits }

/-- What stands for an event, which has no word. -/
def eventForm : Form := seqForm sU sU sU sU

/-- The form of each instruction (R140, R220, R246, R273, R314, R356). -/
def formOf : Instr → Form
  | .nop f => intForm f sU sU sU sU [0]
  | .mov f => { intForm f sLS sLS sU sU [0] with amod := .mods (if allScalar f then [0] else [0,1,2,3,4,5,6,7,8,9,10,11,12,13,14]) }
  | .movi f => moviForm f
  | .sel f => intForm f sL sLS sLSI sP [0]
  | .iadd f => intForm f sLS sLS sLSI16 sU [0, 1, 2, 3]
  | .isub f => intForm f sLS sLS sLSI16 sU [0, 1, 2, 3]
  | .imul f => intForm f sLS sLS sLSI16 sU [0, 1, 2]
  | .imulh f => intForm f sLS sLS sLSI (sK (· ≤ 1)) [0]
  | .imad f => intForm f sLS sLS sLSI sLS [0]
  | .imadw f => { intForm f (sLn 2 2) sLS sLSI (sLn 2 2) [0, 1] with amod := .mods (intCodes 0), bmod := .mods (intCodes 0) }
  | .imin f => intForm f sLS sLS sLSI (sK (· ≤ 1)) [0, 1, 2, 3]
  | .imax f => intForm f sLS sLS sLSI (sK (· ≤ 1)) [0, 1, 2, 3]
  | .iabs f => intForm f sLS sLS sU sU [0, 1, 2, 3]
  | .iaddc f => intForm f sLS sLS sLSI sPd [0]
  | .iadds f => intForm f sLS sLS sLSI (sK (· ≤ 1)) [0, 1, 2, 3]
  | .isubs f => intForm f sLS sLS sLSI (sK (· ≤ 1)) [0, 1, 2, 3]
  | .and f => intForm f sLS sLS sLSI16 sU [0]
  | .or f => intForm f sLS sLS sLSI16 sU [0]
  | .xor f => intForm f sLS sLS sLSI16 sU [0]
  | .not f => intForm f sLS sLS sU sU [0]
  | .shl f => intForm f sLS sLS sLSI16 sU [0, 1, 2, 3]
  | .shr f => intForm f sLS sLS sLSI16 sU [0, 1, 2, 3]
  | .sar f => intForm f sLS sLS sLSI16 sU [0, 1, 2, 3]
  | .rol f => intForm f sLS sLS sLSI16 sU [0, 1, 2, 3]
  | .bfx f => intForm f sLS sLS sLSI16 sU [0]
  | .bfi f => intForm f sLS sLS sLS sLS [0]
  | .popc f => intForm f sLS sLS sU sU [0]
  | .clz f => intForm f sLS sLS sU sU [0]
  | .brev f => intForm f sLS sLS sU sU [0]
  | .permb f => intForm f sL sLS sLS sLS [0]
  | .icmp f => { intForm f sPd sLS sLSI (sK (· ≤ 9)) [0] with amod := .mods (if wideCompare f then [0] else intCodes 0), bmod := .mods (if wideCompare f then [0] else intCodes 0) }
  | .fcmp f => fpForm f sPd sLS sLSI (sK (· ≤ 7)) [0]
  | .fadd f => fpForm f sLS sLS sLSI16 sU [0]
  | .fsub f => fpForm f sLS sLS sLSI16 sU [0]
  | .fmul f => fpForm f sLS sLS sLSI16 sU [0]
  | .ffma f => fpForm f sLS sLS sLSI sLS [0]
  | .fmin f => fpForm f sLS sLS sLSI16 sU [0]
  | .fmax f => fpForm f sLS sLS sLSI16 sU [0]
  | .fclass f => fpForm f sLS (if f.c = 1 then sDS else sLS) sU (sK (· ≤ 3)) [0]
  | .dadd f => { fpForm f sDS sDS sDSI16 sU [0] with feature := some 8 }
  | .dmul f => { fpForm f sDS sDS sDSI16 sU [0] with feature := some 8 }
  | .dfma f => { fpForm f sDS sDS sDSI sDS [0] with feature := some 8 }
  | .pkadd f => { fpForm f sLS sLS sLSI (sK fun k => k == 6 || k == 7) [1] with amod := .mods [0, 1, 2, 3, 4, 5, 6], bmod := .mods [0, 1, 2, 3, 4, 5, 6] }
  | .pkmul f => { fpForm f sLS sLS sLSI (sK fun k => k == 6 || k == 7) [1] with amod := .mods [0, 1, 2, 3, 4, 5, 6], bmod := .mods [0, 1, 2, 3, 4, 5, 6] }
  | .pkfma f => { fpForm f sLS sLS sLSI (sK fun k => k == 6 || k == 7) [1] with amod := .mods [0, 1, 2, 3, 4, 5, 6], bmod := .mods [0, 1, 2, 3, 4, 5, 6] }
  | .dot4 f => { fpForm f sLS sLS sLS (sK fun k => [0x11, 0x12, 0x21, 0x22, 0x44].contains k) [0] with amod := .mods [0], bmod := .mods [0] }
  | .dot8 f => { fpForm f sLS sLS sLS (sK fun k => k == 0x33 || k == 0x55) [0] with amod := .mods [0], bmod := .mods [0] }
  | .dot2 f => fpForm f sLS sLS sLS (sK fun k => [0x66, 0x67, 0x76, 0x77].contains k) [0]
  | .shfl f => intForm f sL sL sLSI (sK (· ≤ 3)) [0]
  | .vote f => { intForm f (if f.c = 3 then sLS else sPd) sP sU (sK (· ≤ 3)) [0] with uniform := false }
  | .redw f => redwForm f
  | .rds f => { intForm f sLS sX sU sU [0] with uniform := false }
  | .wrs f => { intForm f sXw sS sU sU [0] with amod := .mods [0] }
  | .lea f => { intForm f (if f.c = 1 then sL else sLS) sLS sU (sK (· ≤ 1)) [0] with amod := .mods (if allScalar f then [0] else intCodes 0) }
  | .movem f => { intForm f sS sS sU sU [0] with amod := .mods [0], guarded := false }
  | .plop f => intForm f sPd sP sP (sK (· ≤ 15)) [0]
  | .cvti f => intForm f sLS sLS sU (sK (· ≤ 127)) [0]
  | .pack f => { intForm f sL sLS sLS (sK fun k => k == 0 || k == 1 || k == 3) [1, 2, 3] with
      amod := .mods (intCodes (f.w.toNat - 1)), bmod := .mods (intCodes (f.w.toNat - 1)) }
  | .unpk f => intForm f sL sLS sU (sK (· ≤ 3)) [1, 2, 3]
  | .dcmp f => { fpForm f sPd sDS sDSI (sK (· ≤ 7)) [0] with feature := some 8 }
  | .rcp f => { fpForm f sLS sLS sU sU [0] with eng := .xfn }
  | .rsq f => { fpForm f sLS sLS sU sU [0] with eng := .xfn }
  | .sqrt f => { fpForm f sLS sLS sU sU [0] with eng := .xfn }
  | .exp2 f => { fpForm f sLS sLS sU sU [0] with eng := .xfn }
  | .log2 f => { fpForm f sLS sLS sU sU [0] with eng := .xfn }
  | .sin f => { fpForm f sLS sLS sU sU [0] with eng := .xfn }
  | .cos f => { fpForm f sLS sLS sU sU [0] with eng := .xfn }
  | .tanh f => { fpForm f sLS sLS sU sU [0] with eng := .xfn }
  | .cvt f => cvtForm f
  | .cvtfi f => { fpForm f sLS (if f.c.getLsbD 3 then sDS else sLS) sU (sK fun k => k < 0x50) [0] with eng := .xfn }
  | .cvtif f => { fpForm f (if f.c.getLsbD 3 then sDS else sLS) sLS sU (sK fun k => k < 0x10) [0] with eng := .xfn, amod := .mods [0, 13, 14] }
  | .divf f => { fpForm f sLS sLS sLSI16 sU [0] with eng := .xfn }
  | .ddiv f => { fpForm f sDS sDS sDSI16 sU [0] with eng := .xfn, feature := some 8 }
  | .ld f => lsuForm (sLane (szAlign f.bmod.toNat)) sS sLSI sU true (· ≤ 6)
  | .st f => lsuForm sU sS sLSI (sData f.bmod.toNat) true (fun k => [0, 2, 4, 5, 6].contains k)
  | .lds f => lsuForm (sLane (szAlign (szOfSz2 f.bmod.toNat))) sS sLSI sU true (fun _ => true)
  | .sts f => lsuForm sU sS sLSI (sData (szOfSz2 f.bmod.toNat)) false (fun _ => true)
  | .atom f => lsuForm (sLane (atomRegs f.bmod.toNat)) sS sLSI (sAtomData f.bmod.toNat) true (fun _ => true)
  | .acas f => lsuForm (sLane (acasRegs f.bmod.toNat)) sS sLSI (sLane (acasRegs f.bmod.toNat)) true (· ≤ 2)
  | .atoms _ => lsuForm sL sS sLSI sLS true (· ≥ 4)
  | .ldu _ => lsuForm sS sS sSI sU true (fun k => k == 4 || k == 5)
  | .fence _ => { lsuForm sU sU sU sU false (· ≤ 7) with guarded := false }
  | .waitc _ => { lsuForm sU sU sSI sU true (· == 0) with guarded := false }
  | .pref _ => lsuForm sU sS sLSI sU false (· ≤ 2)
  | .rowopen _ => { lsuForm sS sS sSI sU true (· ≤ 1) with guarded := false, feature := some 3 }
  | .rowld f => { lsuForm (sLane (szAlign f.bmod.toNat)) sS sLSI sU true (fun k => [4, 5, 6].contains k) with feature := some 3 }
  | .rowst f => { lsuForm sU sS sLSI (sLane (szAlign f.bmod.toNat)) true (fun k => [4, 5, 6].contains k) with feature := some 3 }
  | .rowrel _ => { lsuForm sU sS sU sU false (· == 0) with guarded := false, feature := some 3 }
  | .rowq _ => { lsuForm sS sS sU sU false (· ≤ 1) with guarded := false, feature := some 3 }
  | .ldt f => { lsuForm (sLane (szAlign f.bmod.toNat)) sH sLSI sU true (· ≤ 6) with feature := some 1 }
  | .stf f => { lsuForm sU sH sLSI (sData f.bmod.toNat) true (fun k => [0, 2, 4, 5, 6].contains k) with feature := some 1 }
  | .amaxu _ => lsuForm sU sS sLSI sL true (· == 0)
  | .amaxswap _ => lsuForm sL sS sLSI sU true (· == 0)
  | .ldb _ => { lsuForm sB sS sSI sU true (· ≤ 1) with guarded := false }
  | .stb _ => { lsuForm sU sS sSI sB true (· ≤ 1) with guarded := false }
  | .lnwb _ => { lsuForm sU sS sSI sS true (· == 0) with guarded := false }
  | .mma _ => matForm sT sS (sLn 4 1) sS .zero (· ≤ 1)
  | .mmar _ => { matForm sT sS sS sS .zero (· ≤ 1) with feature := some 7 }
  | .accz _ => matForm sT sU sU sU .zero (· == 0)
  | .accld _ => matForm sT sS sS (sK fun k => if k ≥ 128 then k == 128 else k < 16) .counter matLevel
  | .accst _ => matForm (sK fun k => if k ≥ 128 then k == 128 else true) sS (sSn 2) sT .counter matLevel
  | .accrd f => matForm (sLane (accrdRegs f.c.toNat)) sT sSI (sK (· ≤ 2)) .zero (· == 0)
  | .accop f => matForm sT sT (if f.c = 2 then sS else sU) (sK (· ≤ 3)) .zero (· == 0)
  | .bndset _ => matForm sB sS sU sU .zero (· ≤ 2)
  | .bndrd _ => matForm sS sB sU sU .zero (· == 0)
  | .gangset _ => matForm sU sS sU sU .zero (· == 0)
  | .gangrel _ => matForm sU sU sU sU .zero (· == 0)
  | .accmode _ => matForm sT sU sU sU .zero (· ≤ 1)
  | .cpy _ => cpyForm sS sS sSI sides2 .counter (· == 0) none
  | .cpyt _ => cpyForm sS sS (sSn 2) sides2 .counter (· == 0) none
  | .gath _ => cpyForm sS sS sS sides2 .counter (· ≤ 4) none
  | .scat _ => cpyForm sS sS sS sides2 .counter (· ≤ 4) none
  | .qblk _ => cpyForm (sSn 2) sS sU sU .counter (· == 0) (some 10)
  | .stgput _ => cpyForm sU sS sSI sides1 .counter (· == 0) none
  | .stgget _ => cpyForm sS sU sSI sides1 .counter (· == 0) none
  | .stgrel _ => cpyForm sU sU sSI sU .counter (· == 0) none
  | .talloc f => { cpyForm sH sS sS sH .counter (· == 0) (some 1) with extra := if f.d = f.c then [subField] else [] }
  | .tdrop _ => cpyForm sU sH sU sU .counter (· ≤ 1) (some 1)
  | .tcopy f => tcopyForm f
  | .tsend _ => cpyForm sU sH sSI sU .counter (· == 0) (some 2)
  | .trecv _ => cpyForm sH sU sU sU .counter (· == 0) (some 2)
  | .tstat _ => cpyForm sS sHS sU sU .zero (· ≤ 2) (some 1)
  | .coll _ => cpyForm sS sS sS sU .counter (· == 0) (some 11)
  | .bra _ => { seqForm sRaw sRaw sI16 sU with guarded := true }
  | .braFar _ => farForm
  | .brx _ => { seqForm sU sS sI16 sU with guarded := true }
  | .call _ => farForm
  | .icall _ => { seqForm sU sL sU sU with guarded := true }
  | .ret _ => seqForm sU sU sU sU
  | .join _ => seqForm sU sU sU sU
  | .bar _ => seqForm sU sU sU sU
  | .barc _ => seqForm sU sS sI8 sU
  | .yield _ => seqForm sU sU sU sU
  | .exit _ => { seqForm sU sU sU sU with guarded := true }
  | .waitf _ => seqForm sU sU sI16 sU
  | .regget _ => seqForm sU sU sI8 sU
  | .regput _ => seqForm sU sU sU sU
  | .tbegin _ => { seqForm sU sS sI8 sU with feature := some 4 }
  | .tend _ => { seqForm sU sU sU sU with feature := some 4 }
  | .tabort _ => { seqForm sU sU sI8 sU with feature := some 4 }
  | .loop _ => seqForm sS sU sI16 sU
  | .sleep _ => seqForm (sK (· ≤ 1)) sU sSI16 sU
  | .diehops _ => seqForm sS sS sSI sU
  | .enq _ => seqForm sS sS sS sU
  | .signal _ => seqForm sU sS sSI sU
  | .waits _ => seqForm sS sS sS sU
  | .eject _ => { seqForm sU sU sI16 sU with guarded := true }
  | .trap _ => sysForm sU sU sI8 sU
  | .rtt _ => sysForm sU sU sU sU
  | .tstamp _ => sysForm sS sU sU sU
  | .rdsys _ => sysForm sS sU sI16 sU
  | .wrsys _ => sysForm sU sS sI16 sU
  | .vcinv _ => sysForm (sK (· ≤ 1)) sS sS sU
  | .bkpt _ => sysForm sU sU sI8 sU
  | .stopw _ => sysForm sU sU sU sU
  | .perf _ => sysForm sS sU sI8 sU
  | .tmask _ => sysForm sS sU sI8 sU
  | .clauseHeader | .clauseWaitRelease | .helperIssue _ _ | .loadPerform _ _ | .storeAtHome _ _ | .storeCompletion _
  | .atomicPerform _ _ | .copyOperationStart _ | .copyOperationComplete _ | .stageSlotFree _ | .stagePhaseReady _
  | .mailboxDeposit _ | .collRound _ _ | .ldtRelease _ _ | .barrierRelease _ _ | .joinRelease _ _ | .reggetGrant _ _
  | .sleepWake _ _ | .waitsReload _ _ | .rendezvousLatchExit _ _ | .impreciseFaultDelivery _ _ | .faultRingSlotFree _
  | .faultReply _ _ | .secondStageResolution _ _ _ | .preemptRequest _ _ | .preemptDeadline _ _
  | .handlerAllowance _ _ | .teamSave _ | .teamRestore _ | .preemptAbort _ | .quantumCommit _ | .holdYield _ _ _
  | .refreshDue _ _ | .extentRelease _ _ _ | .forcedExtentRelease _ _ _ | .chunkTake _ _ | .claim _ _
  | .claimReturn _ _ | .dibberPlacement _ | .teamGraft _ | .wakeWrite _ | .nopPacket _ | .sweep _ _ | .resume _ _
  | .copyPacket _ _ | .waitPacket _ _ | .waitWordReload _ | .signalPacket _ _ | .fencePacket _ _ | .indirect _ _
  | .graph _ _ | .graphNodeFinish _ _ | .notify _ _ | .hostRingTailReload _ | .capture _ _ | .replay _ _
  | .migrate _ _ | .ctxCreate _ _ | .ctxDestroy _ _ | .qMap _ _ | .qUnmap _ _ | .budget _ _ | .bken _ _
  | .release _ _ | .fwupdate _ _ | .firmwareHeartbeat | .heartbeatTimeout | .budgetWindow | .featgo _ | .admingo _
  | .islandLevel _ _ | .registerWrite _ _ _ | .powerLimit _ | .powerLimitClear _ | .getVersion _ | .getCapabilities _
  | .negotiateAlgorithms _ | .getDigests _ | .getCertificate _ | .challenge _ | .getMeasurements _ _ | .coldReset _
  | .portReset _ | .deviceNumberWrite _ | .spanPortDown _ _ | .dieFence _ | .uncorrectableError _ | .softErrorSummary
  | .patrolScrub _ | .leaseExpiry _ | .refreshPerformed _ _ | .thermalLimit _ _ | .gangLostHandlerLimit _
  | .guestOutOfBudget _ | .unmap _ _ _ _ => eventForm

/-- The fields of an instruction word; none for an event. -/
def fieldsOf : Instr → Option Fields
  | .nop f | .mov f | .movi f | .sel f | .iadd f | .isub f | .imul f | .imulh f | .imad f | .imadw f | .imin f
  | .imax f | .iabs f | .iaddc f | .iadds f | .isubs f | .and f | .or f | .xor f | .not f | .shl f | .shr f | .sar f
  | .rol f | .bfx f | .bfi f | .popc f | .clz f | .brev f | .permb f | .icmp f | .fcmp f | .fadd f | .fsub f
  | .fmul f | .ffma f | .fmin f | .fmax f | .fclass f | .dadd f | .dmul f | .dfma f | .pkadd f | .pkmul f | .pkfma f
  | .dot4 f | .dot8 f | .dot2 f | .shfl f | .vote f | .redw f | .rds f | .wrs f | .lea f | .movem f | .plop f
  | .cvti f | .pack f | .unpk f | .dcmp f | .rcp f | .rsq f | .sqrt f | .exp2 f | .log2 f | .sin f | .cos f | .tanh f
  | .cvt f | .cvtfi f | .cvtif f | .divf f | .ddiv f | .ld f | .st f | .lds f | .sts f | .atom f | .acas f | .atoms f
  | .ldu f | .fence f | .waitc f | .pref f | .rowopen f | .rowld f | .rowst f | .rowrel f | .rowq f | .ldt f | .stf f
  | .amaxu f | .amaxswap f | .ldb f | .stb f | .lnwb f | .mma f | .mmar f | .accz f | .accld f | .accst f | .accrd f
  | .accop f | .bndset f | .bndrd f | .gangset f | .gangrel f | .accmode f | .cpy f | .cpyt f | .gath f | .scat f
  | .qblk f | .stgput f | .stgget f | .stgrel f | .talloc f | .tdrop f | .tcopy f | .tsend f | .trecv f | .tstat f
  | .coll f | .bra f | .braFar f | .brx f | .call f | .icall f | .ret f | .join f | .bar f | .barc f | .yield f
  | .exit f | .waitf f | .regget f | .regput f | .tbegin f | .tend f | .tabort f | .loop f | .sleep f | .diehops f
  | .enq f | .signal f | .waits f | .eject f | .trap f | .rtt f | .tstamp f | .rdsys f | .wrsys f | .vcinv f
  | .bkpt f | .stopw f | .perf f | .tmask f => some f
  | .clauseHeader | .clauseWaitRelease | .helperIssue _ _ | .loadPerform _ _ | .storeAtHome _ _ | .storeCompletion _
  | .atomicPerform _ _ | .copyOperationStart _ | .copyOperationComplete _ | .stageSlotFree _ | .stagePhaseReady _
  | .mailboxDeposit _ | .collRound _ _ | .ldtRelease _ _ | .barrierRelease _ _ | .joinRelease _ _ | .reggetGrant _ _
  | .sleepWake _ _ | .waitsReload _ _ | .rendezvousLatchExit _ _ | .impreciseFaultDelivery _ _ | .faultRingSlotFree _
  | .faultReply _ _ | .secondStageResolution _ _ _ | .preemptRequest _ _ | .preemptDeadline _ _
  | .handlerAllowance _ _ | .teamSave _ | .teamRestore _ | .preemptAbort _ | .quantumCommit _ | .holdYield _ _ _
  | .refreshDue _ _ | .extentRelease _ _ _ | .forcedExtentRelease _ _ _ | .chunkTake _ _ | .claim _ _
  | .claimReturn _ _ | .dibberPlacement _ | .teamGraft _ | .wakeWrite _ | .nopPacket _ | .sweep _ _ | .resume _ _
  | .copyPacket _ _ | .waitPacket _ _ | .waitWordReload _ | .signalPacket _ _ | .fencePacket _ _ | .indirect _ _
  | .graph _ _ | .graphNodeFinish _ _ | .notify _ _ | .hostRingTailReload _ | .capture _ _ | .replay _ _
  | .migrate _ _ | .ctxCreate _ _ | .ctxDestroy _ _ | .qMap _ _ | .qUnmap _ _ | .budget _ _ | .bken _ _
  | .release _ _ | .fwupdate _ _ | .firmwareHeartbeat | .heartbeatTimeout | .budgetWindow | .featgo _ | .admingo _
  | .islandLevel _ _ | .registerWrite _ _ _ | .powerLimit _ | .powerLimitClear _ | .getVersion _ | .getCapabilities _
  | .negotiateAlgorithms _ | .getDigests _ | .getCertificate _ | .challenge _ | .getMeasurements _ _ | .coldReset _
  | .portReset _ | .deviceNumberWrite _ | .spanPortDown _ _ | .dieFence _ | .uncorrectableError _ | .softErrorSummary
  | .patrolScrub _ | .leaseExpiry _ | .refreshPerformed _ _ | .thermalLimit _ _ | .gangLostHandlerLimit _
  | .guestOutOfBudget _ | .unmap _ _ _ _ => none

/-- The assigned special registers (R35). -/
def specials : List Nat :=
  [0x00, 0x01, 0x02, 0x03, 0x04, 0x05, 0x06, 0x07, 0x08, 0x09, 0x0A, 0x0C, 0x10, 0x11, 0x18, 0x20, 0x21, 0x22, 0x23, 0x24,
   0x25, 0x28, 0x29, 0x2A, 0x30, 0x31, 0x38]

/-- The special registers that WRS writes (R132). -/
def writableSpecials : List Nat := [0x20, 0x21, 0x22, 0x23, 0x24, 0x25, 0x28, 0x30, 0x31]

/-- The subcodes an index of space 11 breaks (R35, R132). -/
def fileErrors (r : RegFile) (ix : Nat) : List Nat :=
  match r with
  | .pred => if ix ≤ 7 then [] else [subIndex]
  | .predDst => if ix ≤ 6 then [] else [subIndex]
  | .special => if specials.contains ix then [] else [subIndex]
  | .specialDst =>
    if specials.contains ix then (if writableSpecials.contains ix then [] else [subField]) else [subIndex]
  | .handle => if ix ≤ 15 then [] else [subIndex]
  | .tile => if ix ≤ 63 then [] else [subIndex]
  | .bound => if ix ≤ 63 then [] else [subIndex]

/-- The slot allows nothing. -/
def SlotForm.unused (s : SlotForm) : Bool :=
  s.lane.isNone && s.scal.isNone && !s.imm8 && !s.imm16 && !s.imm32 && s.file.isNone && s.code.isNone

/-- The subcode an unlisted code breaks (R246, R356), whatever the field's space. -/
def SlotForm.codeErrors (s : SlotForm) (ix : Nat) : List Nat :=
  match s.code with
  | some ok => if ok ix then [] else [subField]
  | none => []

/-- The subcodes that a field's space and register index break; `imm` says that space 10 is allowed there. -/
def SlotForm.spaceErrors (s : SlotForm) (sp : BitVec 2) (ix : Nat) (imm : Bool) : List Nat :=
  if sp = 0 then
    match s.code, s.lane with
    | some _, _ => []
    | none, some (al, _) => if ix % al = 0 then [] else [subIndex]
    | none, none => if s.unused then (if ix = 0 then [] else [subField]) else [subSpace]
  else if s.unused && !imm then (if ix = 0 then [subSpace] else [subField, subSpace])
  else if sp = 1 then
    match s.scal with
    | some al => if ix < 64 && ix % al = 0 then [] else [subIndex]
    | none => [subSpace]
  else if sp = 2 then (if imm then [] else [subSpace])
  else
    match s.file with
    | some r => fileErrors r ix
    | none => [subSpace]

/-- The subcodes that a field with space `sp` and index `ix` breaks. -/
def slotErrors (s : SlotForm) (sp : BitVec 2) (ix : Nat) (imm : Bool) : List Nat :=
  s.codeErrors ix ++ s.spaceErrors sp ix imm

/-- Space 10 of the A field is allowed (R36). -/
def immA (fm : Form) : Bool := fm.a.imm32
/-- Space 10 of the B field is allowed (R36). -/
def immB (fm : Form) (f : Fields) : Bool :=
  fm.b.imm32 || (if f.csp = 2 then fm.b.imm16 else fm.b.imm8)
/-- Space 10 of the C field is allowed: the second half of an immediate (R36). -/
def immC (fm : Form) (f : Fields) : Bool := fm.c.imm32 || (decide (f.bsp = 2) && fm.b.imm16)

/-- The row names C as half of a B:C immediate (R140: a near target, an imm16, a join offset), so C is no reserved field of
this word; SLEEP's scalar form leaves it unnamed. -/
def namesC (fm : Form) (f : Fields) : Bool :=
  fm.b.imm16 && !fm.b.imm8 && !(fm.b.scal.isSome && decide (f.bsp = 1))

/-- The subcodes that the C field breaks. -/
def cErrors (fm : Form) (f : Fields) : List Nat :=
  if f.csp = 2 && immC fm f then []
  else if namesC fm f then [subSpace]
  else slotErrors fm.c f.csp f.c.toNat false

/-- A field of space 00 or 01 that is a register operand. -/
def SlotForm.isReg (s : SlotForm) (sp : BitVec 2) : Bool :=
  (decide (sp = 0) && s.lane.isSome && s.code.isNone) || (decide (sp = 1) && s.scal.isSome)

/-- The subcodes that a modifier field breaks. -/
def modErrors (m : ModForm) (isReg : Bool) (v : Nat) : List Nat :=
  match m with
  | .zero => if v = 0 then [] else [subField]
  | .mods l => if v = 0 || (isReg && l.contains v) then [] else [subModifier]
  | .code ok => if ok v then [] else [subField]
  | .counter => []
  | .bits => []

/-- The subcodes that a hold bit breaks: HOLD on an operand outside spaces 00 and 01, FIELD where there is no operand (R33, R39,
R246). -/
def holdErrors (holds : Bool) (s : SlotForm) (sp : BitVec 2) (h : Bool) : List Nat :=
  if !h then [] else if !holds || s.unused then [subField]
  else if sp = 0 || sp = 1 then [] else [subHold]

/-- The ILLEGAL_OP subcodes that a word breaks by its encoding alone (R33). -/
def Form.errors (fm : Form) (f : Fields) : List Nat :=
  slotErrors fm.d f.dsp f.d.toNat false
  ++ slotErrors fm.a f.asp f.a.toNat (immA fm)
  ++ slotErrors fm.b f.bsp f.b.toNat (immB fm f)
  ++ cErrors fm f
  ++ modErrors fm.amod (fm.a.isReg f.asp) f.amod.toNat
  ++ modErrors fm.bmod (fm.b.isReg f.bsp) f.bmod.toNat
  ++ holdErrors fm.holds fm.a f.asp f.ah
  ++ holdErrors fm.holds fm.b f.bsp f.bh
  ++ (if f.pr = 7 && f.pn then [subGuard] else [])
  ++ (if !fm.guarded && (f.pr != 7 || f.pn) then [subGuard] else [])
  ++ (if fm.ws.contains f.w.toNat then [] else [subWidth])
  ++ (if fm.uniform && f.dsp == 1
        && ((fm.a.lane.isSome && f.asp == 0) || (fm.b.lane.isSome && f.bsp == 0) || (fm.c.lane.isSome && f.csp == 0))
      then [subSpace] else [])
  ++ fm.extra

/-- The static subcodes of an instruction; an event has none. -/
def staticErrors (i : Instr) : List Nat :=
  match fieldsOf i with
  | some f => (formOf i).errors f
  | none => []

/-- The lane registers a word names, each with the number of registers of its group (R33 BLOCK, R222). -/
def laneGroups (fm : Form) (f : Fields) : List (Nat × Nat) :=
  let one (s : SlotForm) (sp : BitVec 2) (ix : BitVec 8) : List (Nat × Nat) :=
    match s.code, s.lane with
    | none, some (_, n) => if sp = 0 then [(ix.toNat, n)] else []
    | _, _ => []
  one fm.d f.dsp f.d ++ one fm.a f.asp f.a ++ one fm.b f.bsp f.b ++ one fm.c f.csp f.c

/-- The tiles and bound registers a word names (R114). -/
def tileIndices (fm : Form) (f : Fields) : List Nat :=
  let one (s : SlotForm) (sp : BitVec 2) (ix : BitVec 8) : List Nat :=
    if sp = 3 && (s.file == some .tile || s.file == some .bound) then [ix.toNat] else []
  one fm.d f.dsp f.d ++ one fm.a f.asp f.a ++ one fm.b f.bsp f.b ++ one fm.c f.csp f.c

end Sys2Proof.Machine
end

