-- ==== Sys2Proof/WellFormed.lean ====
section
/-!
DEFINITION. Well-formed instructions: a word whose encoding breaks no ILLEGAL_OP check of R33 that depends on the word
alone, and a queue packet whose reserved bytes are zero (R399).
-/

namespace Sys2Proof

/-- The packet a queue step names, with its reserved-bytes mark. -/
def packetOf : Instr → Option PktRef
  | .nopPacket p | .sweep p _ | .resume p _ | .copyPacket p _ | .waitPacket p _ | .signalPacket p _ | .fencePacket p _
  | .indirect p _ | .graph p _ | .notify p _ | .capture p _ | .replay p _ | .migrate p _ | .ctxCreate p _
  | .ctxDestroy p _ | .qMap p _ | .qUnmap p _ | .budget p _ | .bken p _ | .release p _ | .fwupdate p _ => some p
  | _ => none

/-- The instruction is well-formed. -/
def Instr.wf (i : Instr) : Bool :=
  (Machine.staticErrors i).isEmpty
    && (match packetOf i with
        | some p => p.rz
        | none => true)

end Sys2Proof
end

