-- ==== Sys2Proof/Decode.lean ====
section
/-!
DEFINITION. Reading and writing the 64-bit words: the fields of R32, the opcode map of R45, the clause header of R27. A word
of an assigned opcode always reads as an instruction; whether its form is legal is checked when it reaches its turn (R33),
by the instruction itself. The encoder writes the same fields back.
-/

namespace Sys2Proof

/-- Why a word or a run of bytes is not an instruction. -/
inductive DecodeError where
  /-- an opcode that R45 does not assign (R33 OPCODE) -/
  | reservedOpcode (op : BitVec 8)
  /-- fewer than 8 bytes -/
  | truncated
  deriving DecidableEq, Repr

/-- The fields of a word, at the places of R32. -/
def fieldsOfWord (w : Word) : Fields where
  dsp := w.extractLsb' 54 2
  asp := w.extractLsb' 52 2
  bsp := w.extractLsb' 50 2
  csp := w.extractLsb' 48 2
  d := w.extractLsb' 40 8
  a := w.extractLsb' 32 8
  b := w.extractLsb' 24 8
  c := w.extractLsb' 16 8
  amod := w.extractLsb' 12 4
  bmod := w.extractLsb' 8 4
  ah := w.getLsbD 7
  bh := w.getLsbD 6
  pn := w.getLsbD 5
  pr := w.extractLsb' 2 3
  w := w.extractLsb' 0 2

/-- The word with opcode `op` and fields `f` (R32). -/
def wordOf (op : BitVec 8) (f : Fields) : Word :=
  op ++ f.dsp ++ f.asp ++ f.bsp ++ f.csp ++ f.d ++ f.a ++ f.b ++ f.c ++ f.amod ++ f.bmod
    ++ BitVec.ofBool f.ah ++ BitVec.ofBool f.bh ++ BitVec.ofBool f.pn ++ f.pr ++ f.w

/-- Opcode 0x90: the near and far forms of BRA differ by BSP (R140). -/
def readBra (f : Fields) : Instr := if f.bsp = 0 then .braFar f else .bra f

/-- The opcode map (R45), row by row; a cell beyond the end of its row, and a row beyond the last, is reserved. -/
def opGrid : List (List (Fields → Instr)) := [
  [.nop, .mov, .movi, .sel, .iadd, .isub, .imul, .imulh, .imad, .imadw, .imin, .imax, .iabs, .iaddc, .iadds, .isubs],
  [.and, .or, .xor, .not, .shl, .shr, .sar, .rol, .bfx, .bfi, .popc, .clz, .brev, .permb, .icmp, .fcmp],
  [.fadd, .fsub, .fmul, .ffma, .fmin, .fmax, .fclass, .dadd,
   .dmul, .dfma, .pkadd, .pkmul, .pkfma, .dot4, .dot8, .dot2],
  [.shfl, .vote, .redw, .rds, .wrs, .lea, .movem, .plop, .cvti, .pack, .unpk, .dcmp],
  [.rcp, .rsq, .sqrt, .exp2, .log2, .sin, .cos, .tanh, .cvt, .cvtfi, .cvtif, .divf, .ddiv],
  [.ld, .st, .lds, .sts, .atom, .acas, .atoms, .ldu, .fence, .waitc, .pref, .rowopen, .rowld, .rowst, .rowrel, .rowq],
  [.ldt, .stf, .amaxu, .amaxswap, .ldb, .stb, .lnwb],
  [.mma, .mmar, .accz, .accld, .accst, .accrd, .accop, .bndset, .bndrd, .gangset, .gangrel, .accmode],
  [.cpy, .cpyt, .gath, .scat, .qblk, .stgput, .stgget,
   .stgrel, .talloc, .tdrop, .tcopy, .tsend, .trecv, .tstat, .coll],
  [readBra, .brx, .call, .icall, .ret, .join, .bar, .barc,
   .yield, .exit, .waitf, .regget, .regput, .tbegin, .tend, .tabort],
  [.loop, .sleep, .diehops, .enq, .signal, .waits, .eject],
  [.trap, .rtt, .tstamp, .rdsys, .wrsys, .vcinv, .bkpt, .stopw, .perf, .tmask]]

/-- The instruction that an opcode and fields name. -/
def instrAt (op : BitVec 8) (f : Fields) : Option Instr :=
  ((opGrid[op.toNat / 16]?).bind (·[op.toNat % 16]?)).map (· f)

/-- The opcode of a word: bits 63:56 (R32). -/
def opOfWord (w : Word) : BitVec 8 := w.extractLsb' 56 8

/-- The instruction that a word holds. -/
def decode (w : Word) : Except DecodeError Instr :=
  match instrAt (opOfWord w) (fieldsOfWord w) with
  | some i => .ok i
  | none => .error (.reservedOpcode (opOfWord w))

/-- The little-endian word of 8 bytes (R25). -/
def wordOfBytes (b0 b1 b2 b3 b4 b5 b6 b7 : Byte) : Word := b7 ++ b6 ++ b5 ++ b4 ++ b3 ++ b2 ++ b1 ++ b0

/-- Decoding total on any bytes: the first instruction and the rest. -/
def decodeBytes : List Byte → Except DecodeError (Instr × List Byte)
  | b0 :: b1 :: b2 :: b3 :: b4 :: b5 :: b6 :: b7 :: rest =>
    match decode (wordOfBytes b0 b1 b2 b3 b4 b5 b6 b7) with
    | .ok i => .ok (i, rest)
    | .error e => .error e
  | _ => .error .truncated

/-- The opcode of an instruction (R45); none for an event, which has no word. -/
def opcodeOf : Instr → Option (BitVec 8)
  | .nop _ => some 0x00
  | .mov _ => some 0x01
  | .movi _ => some 0x02
  | .sel _ => some 0x03
  | .iadd _ => some 0x04
  | .isub _ => some 0x05
  | .imul _ => some 0x06
  | .imulh _ => some 0x07
  | .imad _ => some 0x08
  | .imadw _ => some 0x09
  | .imin _ => some 0x0A
  | .imax _ => some 0x0B
  | .iabs _ => some 0x0C
  | .iaddc _ => some 0x0D
  | .iadds _ => some 0x0E
  | .isubs _ => some 0x0F
  | .and _ => some 0x10
  | .or _ => some 0x11
  | .xor _ => some 0x12
  | .not _ => some 0x13
  | .shl _ => some 0x14
  | .shr _ => some 0x15
  | .sar _ => some 0x16
  | .rol _ => some 0x17
  | .bfx _ => some 0x18
  | .bfi _ => some 0x19
  | .popc _ => some 0x1A
  | .clz _ => some 0x1B
  | .brev _ => some 0x1C
  | .permb _ => some 0x1D
  | .icmp _ => some 0x1E
  | .fcmp _ => some 0x1F
  | .fadd _ => some 0x20
  | .fsub _ => some 0x21
  | .fmul _ => some 0x22
  | .ffma _ => some 0x23
  | .fmin _ => some 0x24
  | .fmax _ => some 0x25
  | .fclass _ => some 0x26
  | .dadd _ => some 0x27
  | .dmul _ => some 0x28
  | .dfma _ => some 0x29
  | .pkadd _ => some 0x2A
  | .pkmul _ => some 0x2B
  | .pkfma _ => some 0x2C
  | .dot4 _ => some 0x2D
  | .dot8 _ => some 0x2E
  | .dot2 _ => some 0x2F
  | .shfl _ => some 0x30
  | .vote _ => some 0x31
  | .redw _ => some 0x32
  | .rds _ => some 0x33
  | .wrs _ => some 0x34
  | .lea _ => some 0x35
  | .movem _ => some 0x36
  | .plop _ => some 0x37
  | .cvti _ => some 0x38
  | .pack _ => some 0x39
  | .unpk _ => some 0x3A
  | .dcmp _ => some 0x3B
  | .rcp _ => some 0x40
  | .rsq _ => some 0x41
  | .sqrt _ => some 0x42
  | .exp2 _ => some 0x43
  | .log2 _ => some 0x44
  | .sin _ => some 0x45
  | .cos _ => some 0x46
  | .tanh _ => some 0x47
  | .cvt _ => some 0x48
  | .cvtfi _ => some 0x49
  | .cvtif _ => some 0x4A
  | .divf _ => some 0x4B
  | .ddiv _ => some 0x4C
  | .ld _ => some 0x50
  | .st _ => some 0x51
  | .lds _ => some 0x52
  | .sts _ => some 0x53
  | .atom _ => some 0x54
  | .acas _ => some 0x55
  | .atoms _ => some 0x56
  | .ldu _ => some 0x57
  | .fence _ => some 0x58
  | .waitc _ => some 0x59
  | .pref _ => some 0x5A
  | .rowopen _ => some 0x5B
  | .rowld _ => some 0x5C
  | .rowst _ => some 0x5D
  | .rowrel _ => some 0x5E
  | .rowq _ => some 0x5F
  | .ldt _ => some 0x60
  | .stf _ => some 0x61
  | .amaxu _ => some 0x62
  | .amaxswap _ => some 0x63
  | .ldb _ => some 0x64
  | .stb _ => some 0x65
  | .lnwb _ => some 0x66
  | .mma _ => some 0x70
  | .mmar _ => some 0x71
  | .accz _ => some 0x72
  | .accld _ => some 0x73
  | .accst _ => some 0x74
  | .accrd _ => some 0x75
  | .accop _ => some 0x76
  | .bndset _ => some 0x77
  | .bndrd _ => some 0x78
  | .gangset _ => some 0x79
  | .gangrel _ => some 0x7A
  | .accmode _ => some 0x7B
  | .cpy _ => some 0x80
  | .cpyt _ => some 0x81
  | .gath _ => some 0x82
  | .scat _ => some 0x83
  | .qblk _ => some 0x84
  | .stgput _ => some 0x85
  | .stgget _ => some 0x86
  | .stgrel _ => some 0x87
  | .talloc _ => some 0x88
  | .tdrop _ => some 0x89
  | .tcopy _ => some 0x8A
  | .tsend _ => some 0x8B
  | .trecv _ => some 0x8C
  | .tstat _ => some 0x8D
  | .coll _ => some 0x8E
  | .bra _ => some 0x90
  | .braFar _ => some 0x90
  | .brx _ => some 0x91
  | .call _ => some 0x92
  | .icall _ => some 0x93
  | .ret _ => some 0x94
  | .join _ => some 0x95
  | .bar _ => some 0x96
  | .barc _ => some 0x97
  | .yield _ => some 0x98
  | .exit _ => some 0x99
  | .waitf _ => some 0x9A
  | .regget _ => some 0x9B
  | .regput _ => some 0x9C
  | .tbegin _ => some 0x9D
  | .tend _ => some 0x9E
  | .tabort _ => some 0x9F
  | .loop _ => some 0xA0
  | .sleep _ => some 0xA1
  | .diehops _ => some 0xA2
  | .enq _ => some 0xA3
  | .signal _ => some 0xA4
  | .waits _ => some 0xA5
  | .eject _ => some 0xA6
  | .trap _ => some 0xB0
  | .rtt _ => some 0xB1
  | .tstamp _ => some 0xB2
  | .rdsys _ => some 0xB3
  | .wrsys _ => some 0xB4
  | .vcinv _ => some 0xB5
  | .bkpt _ => some 0xB6
  | .stopw _ => some 0xB7
  | .perf _ => some 0xB8
  | .tmask _ => some 0xB9
  | .clauseHeader | .clauseWaitRelease | .helperIssue _ _ | .loadPerform _ _ | .storeAtHome _ _ | .storeCompletion _
  | .atomicPerform _ _ | .copyOperationStart _ | .copyOperationComplete _ | .stageSlotFree _ | .stagePhaseReady _
  | .mailboxDeposit _ | .collRound _ _ | .ldtRelease _ _ | .barrierRelease _ _ | .joinRelease _ _ | .reggetGrant _ _
  | .sleepWake _ _ | .waitsReload _ _ | .rendezvousLatchExit _ _ | .impreciseFaultDelivery _ _ | .faultRingSlotFree _
  | .faultReply _ _ | .secondStageResolution _ _ _ | .preemptRequest _ _ | .preemptDeadline _ _
  | .handlerAllowance _ _ | .teamSave _ | .teamRestore _ | .preemptAbort _ | .quantumCommit _ | .holdYield _ _ _
  | .refreshDue _ _ | .extentRelease _ _ _ | .forcedExtentRelease _ _ _ | .chunkTake _ _ | .claim _ _
  | .claimReturn _ _ | .dibberPlacement _ | .teamGraft _ | .wakeWrite _ | .nopPacket _ | .sweep _ _ | .resume _ _
  | .copyPacket _ _ | .waitPacket _ _ | .waitWordReload _ | .signalPacket _ _ | .fencePacket _ _ | .indirect _ _
  | .graph _ _ | .graphNodeFinish _ _ | .notify _ _ | .hostRingTailReload _ | .capture _ _ | .replay _ _
  | .migrate _ _ | .ctxCreate _ _ | .ctxDestroy _ _ | .qMap _ _ | .qUnmap _ _ | .budget _ _ | .bken _ _
  | .release _ _ | .fwupdate _ _ | .firmwareHeartbeat | .heartbeatTimeout | .budgetWindow | .featgo _ | .admingo _
  | .islandLevel _ _ | .registerWrite _ _ _ | .powerLimit _ | .powerLimitClear _ | .getVersion _ | .getCapabilities _
  | .negotiateAlgorithms _ | .getDigests _ | .getCertificate _ | .challenge _ | .getMeasurements _ _ | .coldReset _
  | .portReset _ | .deviceNumberWrite _ | .spanPortDown _ _ | .dieFence _ | .uncorrectableError _ | .softErrorSummary
  | .patrolScrub _ | .leaseExpiry _ | .refreshPerformed _ _ | .thermalLimit _ _ | .gangLostHandlerLimit _
  | .guestOutOfBudget _ | .unmap _ _ _ _ => none

/-- The word of an instruction; none for an event. -/
def encode (i : Instr) : Option Word :=
  match opcodeOf i, Machine.fieldsOf i with
  | some op, some f => some (wordOf op f)
  | _, _ => none

/-- The clause header that a word holds (R27). -/
def headerOfWord (w : Word) : Header where
  eng := w.extractLsb' 59 3
  cnt := w.extractLsb' 55 4
  wait := w.extractLsb' 43 12
  seta := w.extractLsb' 39 4
  setb := w.extractLsb' 35 4
  yp := w.getLsbD 34
  bk := w.getLsbD 33
  qb := w.getLsbD 32

/-- The word of a clause header, with HDR = 0b11 and bits 31:0 zero (R27). -/
def wordOfHeader (h : Header) : Word :=
  (3 : BitVec 2) ++ h.eng ++ h.cnt ++ h.wait ++ h.seta ++ h.setb
    ++ BitVec.ofBool h.yp ++ BitVec.ofBool h.bk ++ BitVec.ofBool h.qb ++ (0 : BitVec 32)

/-- The class of a word by its opcode row (R43, R45); none for a reserved opcode. -/
def classOf (w : Word) : Option Engine :=
  match instrAt (opOfWord w) (fieldsOfWord w) with
  | none => none
  | some _ =>
    match (opOfWord w).toNat / 16 with
    | 0 | 1 | 2 | 3 => some .vec
    | 4 => some .xfn
    | 5 | 6 => some .lsu
    | 7 => some .mat
    | 8 => some .cpy
    | 9 | 10 => some .seq
    | _ => some .sys

/-- The instruction of a table row whose bits are `w` (the words have 64 bits; bits above `nbits` are zero). -/
def decodeTableWord (nbits w : Nat) : Option Instr :=
  match decode (BitVec.ofNat 64 (w % 2 ^ nbits)) with
  | .ok i => some i
  | .error _ => none

end Sys2Proof
end

