-- ==== Sys2Proof/Config.lean ====
section
/-!
DEFINITION. What is fixed for the QY3-288 (R1 to R12), and the values that the spec leaves open: opaque constants with no
body, about which nothing can be proved (log entry 3).
-/

namespace Sys2Proof.Config

/-- Bytes of a line (R3). -/
def line : Nat := 192
/-- Bytes of a sector (R3). -/
def sector : Nat := 48
/-- Bytes of a granule (R3). -/
def granule : Nat := 49152
/-- Bytes of a row triad (R196). -/
def triad : Nat := 3072
/-- First VA beyond the valid range (R195). -/
def vaTop : Nat := 0x00C0000000000000
/-- Lanes of a wave (R112). -/
def lanes : Nat := 32
/-- Compute dies (R5). -/
def dies : Nat := 8
/-- Enabled cores of a die (R10). -/
def coresPerDie : Nat := 36
/-- Bytes of a core scratchpad (R11). -/
def scratchBytes : Nat := 524288
/-- Bytes of a die pad (R10). -/
def padBytes : Nat := 67108864
/-- Bytes of a stack region (R135): 23 granules. -/
def stackRegion : Nat := 1130496
/-- Refresh interval in ticks (R214). -/
def tREFI : Nat := 3666
/-- The features the QY3-288 offers, bits 0 to 13 (R48). -/
def featOff : BitVec 128 := 0x3FFF

/-- A value the spec leaves open, by its number (log entry 3). -/
opaque freeWord : Nat → Word
/-- A choice the spec leaves open, by its number (log entry 3). -/
opaque freeBool : Nat → Bool
/-- The refresh phase of a stack, by socket: any value from 0 to 3,665 (R214, log entry 3). -/
opaque refreshPhase : Nat → Fin 3666
/-- The disabled cluster of a compute die, set by fuses (R419, log entry 6). -/
opaque disabledCluster : Nat → Fin 10
/-- Whether a device number names a Y3 of this one's load-store domain (R308, R418), which the machine's cabling decides (log entry 78). -/
opaque inDomain : Nat → Bool
/-- The SHA3-256 hash of a region's bytes (R408), whose algorithm the spec does not give (log entry 3). -/
opaque sha3 : List Byte → BitVec 256
/-- Whether a firmware image's signature verifies (R411 step 2): XMSS is outside the spec (log entry 3). -/
opaque imageSigned : List Byte → Bool
/-- The version an image carries (R420); where it stands in the image is outside the spec (log entry 3). -/
opaque imageVersion : List Byte → BitVec 32
/-- The SPDM measurement of the boot ROM (R421), which manufacture fixes (log entry 3). -/
opaque romMeasurement : BitVec 256
/-- The SPDM measurement of the secure management core's firmware (R421, log entry 3). -/
opaque coreMeasurement : BitVec 256
/-- The granules in the window of a host port (R417), which the host's configuration fixes (log entry 3). -/
opaque portWindow : Nat → Nat
/-- The fuses that power an island off, for those that belong to no cluster (R424, log entry 3). -/
opaque islandOff : Nat → Bool
/-- The ticks after which a write of LEVEL takes effect, by island and tick of the write: at most 9,400 (R424, log entry 3). -/
opaque levelDelay : Nat → Nat → Fin 9401
/-- The levels below the first by which a thermal hold keeps an island below LEVEL (R424, log entry 3). -/
opaque thermalLevels : Nat → Nat
/-- Whether a new image rejects the version of the handover structure (R411 step 5, log entry 3). -/
opaque rejectsHandover : List Byte → Bool
/-- The granule of a context's second-stage root table, where the hypervisor has set one (R198, log entry 8). -/
opaque secondStageRoot : Nat → Option Nat

end Sys2Proof.Config
end

