-- ==== Sys2Proof/Machine/Mem.lean ====
section
/-!
DEFINITION. Where bytes are: page tables and translation (R195 to R199), what an access may meet on its way (R203, R207,
R218, R423), scratchpad levels (R191 to R194), homes and leases (R78, R79, R201), and completion at the home.
-/

namespace Sys2Proof.Machine

/-- The byte code of a fault (R47). -/
def Code.num : Code → Nat
  | .illegalOp => 0x01
  | .illegalClause => 0x02
  | .role => 0x03
  | .fetch => 0x04
  | .page => 0x10
  | .prot => 0x11
  | .range => 0x12
  | .align => 0x13
  | .extentGone => 0x14
  | .poison => 0x15
  | .aliased => 0x16
  | .fpe => 0x20
  | .bound => 0x21
  | .gangBroken => 0x22
  | .format => 0x23
  | .fillCopy => 0x30
  | .abandonedFill => 0x31
  | .staleHandle => 0x32
  | .jarRights => 0x33
  | .taskOverflow => 0x40
  | .taskNest => 0x41
  | .rowLimit => 0x50
  | .software => 0x60
  | .breakpoint => 0x61
  | .preemptAbort => 0x70

/-- A number read from `n` little-endian bytes of physical memory. -/
def memNat (m : List Host.Cell) (a n : Nat) : Nat := leNat (bytesAt m a n)

/-- The device number of this Y3: 0 until one is written (R302, R418). -/
def ownDev (s : State) : Nat := s.devNum.getD 0

/-- Another Y3 of the load-store domain; a Y3 that has no number forms a domain of its own (R418). -/
def inDomain (s : State) (dev : Nat) : Bool := s.devNum.isSome && Config.inDomain dev

/-- Whether a physical granule number names a target (R199): a local stack, the window of a host port (R417), or a stack of another Y3 of
the load-store domain (R418). -/
def pgnPresent (s : State) (pgn : Nat) : Bool :=
  let t := bitsOf pgn 39 34
  if 10 ≤ t && t ≤ 41 then bitsOf pgn 33 20 == 0
  else if t = 48 || t = 49 then decide (bitsOf pgn 33 0 < Config.portWindow (t - 48))
  else if t = 50 then decide (bitsOf pgn 25 20 < 32) && decide (bitsOf pgn 33 26 ≠ ownDev s) && inDomain s (bitsOf pgn 33 26)
  else false

/-- The stack socket of a physical granule, if it lies in a local stack (R199). -/
def pgnSocket (pgn : Nat) : Option Nat :=
  let t := bitsOf pgn 39 34
  if 10 ≤ t && t ≤ 41 then some t else none

/-- A physical granule in host or CXL memory (R199). -/
def pgnHost (pgn : Nat) : Bool := bitsOf pgn 39 34 == 48 || bitsOf pgn 39 34 == 49

/-- The line home that R94 and R204 keep out of the caches, from the page class and the physical granule. -/
def isNormal (pte pgn : Nat) : Bool := bitsOf pte 56 55 == 0 && !pgnHost pgn

/-- An entry of a table at level `lvl` that is malformed (R198); `second` applies the stricter rule of second-stage tables. -/
def pteBad (s : State) (second : Bool) (lvl e : Nat) : Bool :=
  let leaf := bitsOf e 49 49 == 1
  let pgn := bitsOf e 39 0
  bitsOf e 48 43 != 0
  || (if second then bitsOf e 59 50 != 0 else bitsOf e 54 53 == 3)
  || (if leaf then bitsOf e 42 40 != 0 || lvl == 3 || (lvl == 1 && pgn % 2 ^ 10 != 0) || (lvl == 2 && pgn % 2 ^ 20 != 0)
        || !pgnPresent s pgn
      else lvl == 0 || bitsOf e 42 40 ≥ 6)

/-- The outcome of a table walk. -/
inductive Walk where
  /-- a leaf: the entry, the granule it gives to the granule looked up, and the entry's physical address -/
  | leaf (pte pgn entry : Nat)
  | absent
  /-- an entry that breaks R198's table -/
  | malformed (pte : Nat)
  /-- a poisoned sector was read, with the subcode of its POISON -/
  | poisoned (sub : Nat)
  /-- the second stage stopped the walk: absent (false) or malformed (true) -/
  | second (bad : Bool)
  deriving DecidableEq, Repr

/-- The subcode of POISON that a sector of physical memory raises: SRAM where a home slice or the MSC holds it poisoned, else DRAM (R219,
R423). -/
def sectorPoison (s : State) (k : Nat) : Option Nat :=
  if s.sramPoison.contains k then some 2 else if s.poison.contains k then some 1 else none

/-- A walk from the table in slot `slot` of granule `tab` at level `lvl`, for granule number `g` (R197); `via` gives the physical
granule of an intermediate one. -/
def walkFrom (s : State) (second : Bool) (via : Nat → Walk) : Nat → Nat → Nat → Nat → Walk
  | lvl, tab, slot, g =>
    match via tab with
    | .leaf _ pg _ =>
      let a := 49152 * pg + 8192 * slot + 8 * ((g / 2 ^ (10 * lvl)) % 1024)
      let e := memNat s.mem a 8
      match sectorPoison s (a / 48) with
      | some sub => .poisoned sub
      | none =>
        if bitsOf e 63 63 = 0 then .absent
        else if pteBad s second lvl e then .malformed e
        else if bitsOf e 49 49 = 1 then .leaf e (bitsOf e 39 0 + g % 2 ^ (10 * lvl)) a
        else
          match lvl with
          | 0 => .malformed e
          | l + 1 => walkFrom s second via l (bitsOf e 39 0) (bitsOf e 42 40) g
    | .absent => .second false
    | .malformed _ => .second true
    | .poisoned sub => .poisoned sub
    | .second b => .second b

/-- The second stage: identity where the hypervisor has set no root (log entry 8), otherwise a walk of its tables (R198). -/
def secondStage (s : State) (c : Context) (g : Nat) : Walk :=
  match c.stage2 with
  | none => .leaf (7 * 2 ^ 60) g 0
  | some r => walkFrom s true (fun x => .leaf 0 x 0) 3 r 0 g

/-- A first-stage entry with the permissions that the second stage allows as well (R198). -/
def narrowed (e second : Nat) : Nat :=
  let bit (k : Nat) : Nat := if bitsOf second k k = 1 then 0 else bitsOf e k k * 2 ^ k
  e - bit 62 - bit 61 - bit 60

/-- The tags of a copy match a line or granule of a context (R200). -/
def tagsMatch (c : Context) (vline cid : Nat) (asid : Option Nat) (line : Nat) : Bool :=
  cid == c.cid && line == vline && (asid.isNone || asid == some c.asid)

/-- The ASID tag of a copy filled through an entry: none where G is set (R200). -/
def asidTag (c : Context) (pte : Nat) : Option Nat := if bitsOf pte 59 59 = 1 then none else some c.asid

/-- What the TLB of a granule's translation home still holds of it (R202). The home checks the current entry (R203): one that memory no longer holds
as it was read is no hit. -/
def tlbHit (s : State) (c : Context) (g : Nat) : Option TlbEntry :=
  if !s.inputs.hits then none
  else s.tlb.find? fun e => tagsMatch c g e.cid e.asid e.vgn && memNat s.mem e.entry 8 == e.raw

/-- First-stage translation of a granule number of a context (R197), with the leaf's granule taken through the second stage: by the walk that a TLB
miss makes (R202). -/
def translateWalk (s : State) (c : Context) (g : Nat) : Walk :=
  match walkFrom s false (secondStage s c) 3 c.root c.rootSlot g with
  | .leaf e pg a =>
    match secondStage s c pg with
    | .leaf e2 pg2 _ => .leaf (narrowed e e2) pg2 a
    | .absent => .second false
    | .malformed _ => .second true
    | w => w
  | w => w

/-- The translation of a granule number of a context at its translation home, whose TLB spares the walk, and with it the tables' poison (R202,
R219). -/
def translate (s : State) (c : Context) (g : Nat) : Walk :=
  match translateWalk s c g with
  | .poisoned sub => match tlbHit s c g with | some e => .leaf e.pte e.pgn e.entry | none => .poisoned sub
  | w => w

/-- A translation that has been made stands in the TLB; an entry with FT not 0 does not stay (R202, R215, R216). -/
def noteTlb (s : State) (c : Context) (g : Nat) : State :=
  let rest := s.tlb.filter fun e => !tagsMatch c g e.cid e.asid e.vgn
  match translateWalk s c g with
  | .leaf pte pgn entry =>
    { s with tlb := if bitsOf pte 54 53 = 0 then ⟨c.cid, asidTag c pte, g, memNat s.mem entry 8, pte, pgn, entry⟩ :: rest else rest }
  | _ => s

/-- Kinds of access to translated memory. -/
inductive AccKind where
  | load | store | atomic
  deriving DecidableEq, Repr

/-- What an access meets. -/
inductive AccRes where
  /-- it reaches this physical address, through this entry -/
  | ok (pa pte : Nat)
  /-- a fault that is delivered -/
  | fault (code : Code) (sub : Nat)
  /-- a PAGE fault that parks (R177): its subcode, whether the second stage reports it, and the subcode and code it has
  if it is unresolvable -/
  | page (sub : Nat) (second : Bool) (unresCode : Code) (unresSub : Nat)
  deriving DecidableEq, Repr

/-- A VA range breaks R195: WRAP, then HIGH. -/
def rangeFault (va : Int) (n : Nat) : Option (Code × Nat) :=
  if va < 0 || va + n - 1 ≥ 2 ^ 64 then some (.range, 2)
  else if va + n - 1 ≥ Config.vaTop then some (.range, 1)
  else none

/-- A granule that is granule 0 of a stack region of the context (R135). -/
def isGuard (c : Context) (va : Nat) : Bool :=
  decide (c.stackBase ≤ va) && decide (va < c.stackBase + Config.stackRegion * (33 * c.nslot))
    && decide ((va - c.stackBase) % Config.stackRegion < 49152)

/-- The port and window granule of a physical granule in host or CXL memory. -/
def hostPlace (pgn : Nat) : Option (Nat × Nat) :=
  if pgnHost pgn then some (bitsOf pgn 39 34 - 48, bitsOf pgn 33 0) else none

/-- The extent fault of an access whose first byte lies at `pa`, where a port no longer backs the granule: FORCED in a sector that was dropped
dirty, else ABSENT (R218). -/
def extentFault (s : State) (pa : Nat) : Option Nat :=
  match hostPlace (pa / 49152) with
  | none => none
  | some (port, g) =>
    if s.extents.any fun e => e.1 == port && decide (e.2.1 ≤ g) && decide (g < e.2.1 + e.2.2.1) then
      some (if s.dropped.contains (pa / 48) then 1 else 2)
    else none

/-- A physical granule of another Y3 to which no route is left (R199, R418). -/
def deviceLost (s : State) (pgn : Nat) : Bool := bitsOf pgn 39 34 == 50 && s.lostDevs.contains (bitsOf pgn 33 26)

/-- A normal-class writable translation that R207 refuses. -/
def aliasFault (s : State) (c : Context) (pte pgn vgn : Nat) : Bool :=
  bitsOf pte 61 61 == 1 && bitsOf pte 56 55 == 0 &&
  match s.aliases.find? fun r => r.pgn == pgn with
  | none => false
  | some r => decide (r.vgn ≠ vgn) || (decide (r.asid ≠ c.asid) && bitsOf pte 59 59 == 0)

/-- A translation that its home has made: it stands in the TLB (R202), and the first writable one of the normal class of a physical granule is
recorded (R207). -/
def noteAlias (s : State) (c : Context) (pte pgn vgn : Nat) : State :=
  let s1 := noteTlb s c vgn
  if bitsOf pte 61 61 == 1 && bitsOf pte 56 55 == 0 && !(s.aliases.any fun r => r.pgn == pgn) then
    { s1 with aliases := ⟨pgn, vgn, c.asid, c.cid⟩ :: s1.aliases }
  else s1

/-- A sector of physical memory is poisoned somewhere in a range (R423). -/
def poisonedRange (l : List Nat) (a n : Nat) : Bool := l.any fun k => decide (48 * k < a + n) && decide (a < 48 * (k + 1))

/-- The first poisoned byte of a range, by its offset, and the subcode it raises (R219). -/
def firstPoison (s : State) (pa n : Nat) : Option (Nat × Nat) :=
  (upto n).findSome? fun i => (sectorPoison s ((pa + i) / 48)).map fun sub => (i, sub)

/-- The permission subcode that an entry refuses (R203). -/
def permFault (pte : Nat) : AccKind → Option Nat
  | .load => if bitsOf pte 62 62 = 1 then none else some 1
  | .store => if bitsOf pte 61 61 = 1 then none else some 2
  | .atomic => if bitsOf pte 62 62 = 1 && bitsOf pte 61 61 = 1 then none else some 3

/-- An access to `n` bytes at `va` that lie in one granule, from translation to poison (R195 to R207, R218, R423). -/
def reach (s : State) (c : Context) (va n : Nat) (k : AccKind) : AccRes :=
  match translate s c (va / 49152) with
  | .absent => .page (if isGuard c va then 3 else 1) false .page (if isGuard c va then 3 else 1)
  | .malformed _ => .page 1 false .prot 4
  | .second false => .page 2 true .page 2
  | .second true => .page 2 true .prot 4
  | .poisoned sub => .fault .poison sub
  | .leaf pte pgn _ =>
    if bitsOf pte 54 53 = 1 then .page 4 false .page 4
    else if bitsOf pte 54 53 = 2 then .page 5 false .page 5
    else
      match permFault pte k with
      | some sub => .fault .prot sub
      | none =>
        let pa := 49152 * pgn + va % 49152
        match extentFault s pa with
        | some sub => .fault .extentGone sub
        | none =>
          if aliasFault s c pte pgn (va / 49152) then .fault .aliased 1
          else if deviceLost s pgn then .fault .poison 1
          else
            match (if k = .store then none else firstPoison s pa n) with
            | some (_, sub) => .fault .poison sub
            | none => .ok pa pte

/-- What R195 and R196 refuse of an access. -/
def shapeFault (va : Int) (n : Nat) (k : AccKind) : Option (Code × Nat) :=
  match rangeFault va n with
  | some f => some f
  | none =>
    let v := va.toNat
    if k = .atomic && v % n ≠ 0 then some (.align, 1)
    else if v / 49152 ≠ (v + n - 1) / 49152 then some (.align, 2)
    else none

/-- A plain access that goes to the translation home: R195, then R196, then the way to its bytes. -/
def plainAccess (s : State) (c : Context) (va : Int) (n : Nat) (k : AccKind) : AccRes :=
  match shapeFault va n k with
  | some (code, sub) => .fault code sub
  | none => reach s c va.toNat n k

/-! ## Copies in the caches (R200 to R203) -/

/-- A copy that an L1 or L2 slice still holds of a line, and whose bits allow the access (R200, R203). Whether what they held is still there
is an input of the step (log entry 78). -/
def copyFor (s : State) (c : Context) (p : CopyPlace) (vline : Nat) (k : AccKind) : Option LineCopy :=
  if !s.inputs.hits then none
  else s.copies.find? fun y => y.place = p && y.kept && decide (s.now < y.expiry) && tagsMatch c vline y.cid y.asid y.vline
    && (permFault y.entry k).isNone

/-- The line that the home slice holds, if its bits allow the access (R200, R203); an atomic is performed there only on a dirty line (R206). -/
def homeFor (s : State) (c : Context) (vline : Nat) (k : AccKind) : Option HomeLine :=
  if !s.inputs.hits then none
  else s.homeLines.find? fun y => tagsMatch c vline y.cid y.asid y.vline && (permFault y.entry k).isNone && (decide (k ≠ .atomic) || y.dirty)

/-- The first of the L1, the L2 slice of the die and the home slice that serves an access to a line from a core (R202 steps 1 to 3): its
physical line, the entry through which it was filled, and the sectors poisoned in that copy. -/
def servedBy (s : State) (c : Context) (seat vline : Nat) (k : AccKind) : Option (Nat × Nat × List Nat) :=
  match (if k = .load then (copyFor s c (.l1 seat) vline k).or (copyFor s c (.l2 (seat / 36)) vline k) else none) with
  | some y => some (y.pline, y.entry, y.bad)
  | none => (homeFor s c vline k).map fun y => (y.pline, y.entry, [])

/-- A core's access to `k` bytes from offset `off` on of an access to `n` bytes at `va`: served by a copy, or by the translation home (R202).
The physical address is that of the access's first byte. -/
def accessFrom (s : State) (c : Context) (seat : Nat) (va : Int) (n off k : Nat) (kind : AccKind) : AccRes :=
  match shapeFault va n kind with
  | some (code, sub) => .fault code sub
  | none =>
    let v := va.toNat + off
    match (if v / 192 = (v + k - 1) / 192 then servedBy s c seat (v / 192) kind else none) with
    | none => reach s c va.toNat n kind
    | some (pl, entry, bad) =>
      let pa := 192 * pl + v % 192
      if kind ≠ .store && ((upto k).any fun i => bad.contains ((pa + i) / 48)) then .fault .poison 2
      else
        match (if kind = .store then none else firstPoison s pa k) with
        | some (_, sub) => .fault .poison sub
        | none => .ok (pa - off) entry

/-- The bytes of a team's allocation (R112, R91). -/
def footprint (k : KInfo) (det : Bool) : Nat := k.scratch + 32 * (k.laneslice + if det then 1024 else 0) * k.team

/-- The sweep of a team. -/
def sweepOf (s : State) (t : Team) : Option Sweep := s.sweeps.find? fun w => w.ref = t.sweep

/-- A team's sweep runs under DET. -/
def isDet (s : State) (t : Team) : Bool := match sweepOf s t with | some w => w.det | none => false

/-- The core of a team, by number over the dies. -/
def seatOf (t : Team) : Nat := 36 * t.die + t.core

/-- The context with a CID. -/
def ctxOf (s : State) (cid : Nat) : Option Context := s.contexts.find? fun c => c.cid = cid

/-- The key in `State.scratch` of a byte of a core's scratchpad (R11). -/
def scratchKey (die core o : Nat) : Nat := 524288 * (36 * die + core) + o

/-- Where a byte of a scratchpad level stands. -/
inductive ScrPlace where
  | scr (key : Nat)
  | pad (key : Nat)
  deriving DecidableEq, Repr

/-- The team whose core area or lane slices hold byte `q` of a core's scratchpad; no level reaches the third part of a DET sweep's
allocation (R91, R191). -/
def ownerOf (s : State) (die core q : Nat) : Option Team :=
  s.teams.find? fun t => decide (t.status = .placed) && t.die == die && t.core == core && decide (t.p0 ≤ q)
    && decide (q < t.p0 + footprint t.k false)

/-- The place of byte `o` of level `lev`, for lane `l` of team wave `w` (R191 to R193), or the fault it meets. -/
def levelByte (s : State) (t : Team) (w l : Nat) (lev : Level) (o : Int) : Except (Code × Nat) ScrPlace :=
  if o < 0 then .error (.range, 3)
  else
    let a := o.toNat
    match lev with
    | .g => .error (.range, 3)
    | .core => if a < t.k.scratch then .ok (.scr (scratchKey t.die t.core (t.p0 + a))) else .error (.range, 3)
    | .lane =>
      if a < t.k.laneslice then
        .ok (.scr (scratchKey t.die t.core (t.p0 + t.k.scratch + (32 * w + l) * t.k.laneslice + a)))
      else .error (.range, 3)
    | .clu =>
      if a ≥ 2097152 then .error (.range, 3)
      else
        let core := 4 * (t.core / 4) + (a / 192) % 4
        let q := 192 * (a / 768) + a % 192
        match ownerOf s t.die core q with
        | some o => if o.sweep.cid = t.sweep.cid then .ok (.scr (scratchKey t.die core q)) else .error (.prot, 6)
        | none => .error (.prot, 6)
    | .die =>
      match ctxOf s t.sweep.cid with
      | none => .error (.range, 3)
      | some c =>
        if a < c.padlen then .ok (.pad (67108864 * t.die + c.pads.getD t.die 0 + a)) else .error (.range, 3)

/-- The places of `n` bytes of a level; the first byte that faults decides the fault, with its offset. -/
def levelBytes (s : State) (t : Team) (w l : Nat) (lev : Level) (o : Int) : Nat → Except (Code × Nat × Int) (List ScrPlace)
  | 0 => .ok []
  | n + 1 =>
    match levelByte s t w l lev o with
    | .error e => .error (e.1, e.2, o)
    | .ok p =>
      match levelBytes s t w l lev (o + 1) n with
      | .error e => .error e
      | .ok r => .ok (p :: r)

/-- The number of a scratchpad byte, the die pads' behind those of the core scratchpads. -/
def ScrPlace.number : ScrPlace → Nat
  | .scr k => k
  | .pad k => 150994944 + k

/-- One byte of a scratchpad place. -/
def scrGet (s : State) : ScrPlace → Byte
  | .scr k => byteAt s.scratch k
  | .pad k => byteAt s.diePad k

/-- One byte of a scratchpad place as a team's loads see it: in a DET sweep as it stood at the start of the quantum (R90). -/
def scrSeen (s : State) (t : Team) (p : ScrPlace) : Byte :=
  match sweepOf s t with
  | none => scrGet s p
  | some w =>
    if !w.det then scrGet s p
    else match p with
      | .scr k => byteAt w.snapScr k
      | .pad k => byteAt w.snapPad k

/-- The state with one scratchpad byte written. -/
def scrPut (s : State) (p : ScrPlace) (b : Byte) : State :=
  match p with
  | .scr k => { s with scratch := putByte s.scratch k b }
  | .pad k => { s with diePad := putByte s.diePad k b }

/-- The state with the bytes of scratchpad places written, in order. -/
def scrBytes (s : State) : List ScrPlace → List Byte → State
  | p :: ps, b :: bs => scrBytes (scrPut s p b) ps bs
  | _, _ => s

/-- The poisoned sectors that are left when places are written: those of which a byte is not (R423). -/
def leftPoisoned (l : List Nat) (ps : List ScrPlace) : List Nat :=
  l.filter fun k => !((upto 48).all fun i => ps.any fun p => p.number == 48 * k + i)

/-- A store to a scratchpad level (R81, R423). -/
def scrPuts (s : State) (ps : List ScrPlace) (bs : List Byte) : State :=
  { scrBytes s ps bs with scratchPoison := leftPoisoned s.scratchPoison ps }

/-- A poisoned scratchpad sector among places (R423). -/
def scrPoisoned (s : State) (ps : List ScrPlace) : Bool := ps.any fun p => s.scratchPoison.contains (p.number / 48)

/-- The offset of the first place in a poisoned sector (R219). -/
def scrFirstPoison (s : State) (ps : List ScrPlace) : Nat := (ps.findIdx? fun p => s.scratchPoison.contains (p.number / 48)).getD 0

/-- The lease times of a page's class (R79): for an L1 copy, for a copy on another die, for a copy on another Y3. -/
def leaseTimes (cls : Nat) : Nat × Nat × Nat :=
  match cls with
  | 0 => (256, 1024, 1024)
  | 1 => (64, 256, 256)
  | 2 => (1024, 4096, 4096)
  | _ => (0, 0, 0)

/-- The number of bound virtual dies (R8). -/
def boundDies (c : Context) : Nat := (c.vdmap.filter fun b => decide (b ≥ 128)).length

/-- The physical die of a virtual die. -/
def physDie (c : Context) (v : Nat) : Option Nat :=
  match c.vdmap[v]? with
  | some b => if b ≥ 128 then some (b % 8) else none
  | none => none

/-- The home virtual die of a granule (R201). -/
def homeVdie (c : Context) (g : Nat) : Nat := (g / 2 ^ c.stripe) % (max 1 (boundDies c))

/-- The home physical die of a granule. -/
def homeDie (c : Context) (g : Nat) : Nat := (physDie c (homeVdie c g)).getD 0

/-- The translation home of a granule's lines: the base die of a near stack, by its socket (R201). -/
def translationHome (c : Context) (g : Nat) : Nat := 10 + 2 * homeDie c g + g % 2

/-- The home slice of a line within its die (R201). -/
def homeSlice (l : Nat) : Nat := (Nat.xor (Nat.xor l (l / 2 ^ 4)) (Nat.xor (l / 2 ^ 8) (l / 2 ^ 12))) % 16

/-- A physical line stands under a held triad, whose row home replaces its home slice (R211). -/
def isHeld (s : State) (pa : Nat) : Bool := s.holds.any fun h => 49152 * h.pgn + 3072 * (h.triad % 16) ≤ pa && decide (pa < 49152 * h.pgn + 3072 * (h.triad % 16 + 1))

/-- The copies of a line that have not expired. -/
def liveCopies (s : State) (pline : Nat) : List LineCopy := s.copies.filter fun c => c.pline = pline && decide (s.now < c.expiry)

/-- The smallest completion time of a store that has not come into force yet on a line. -/
def nextT (s : State) (pline : Nat) : Option Nat :=
  (s.homeStores.filter fun h => h.pa / 192 = pline && decide (s.now < h.t)).foldl
    (fun m h => match m with | none => some h.t | some x => some (min x h.t)) none

/-- A lease of `d` ticks that is granted now: it ends before a store that has its T comes into force (R79). -/
def leaseEnd (s : State) (pline d : Nat) : Nat :=
  match nextT s pline with | none => s.now + d | some t => min (s.now + d) t

/-- A line takes copies with leases, unless its class, its page or a held row keeps it out of the caches (R79, R204, R211). -/
def mayCopy (s : State) (pa pte : Nat) : Bool :=
  isNormal pte (pa / 49152) && decide (bitsOf pte 58 57 ≠ 3) && !isHeld s pa

/-- A copy of a line as it is filled (R200, R203). -/
def freshCopy (s : State) (c : Context) (p : CopyPlace) (va pa pte expiry : Nat) : LineCopy :=
  ⟨p, c.cid, asidTag c pte, va / 192, pa / 192, expiry, pte, true, (upto 4).filterMap fun i =>
    if s.sramPoison.contains (4 * (pa / 192) + i) then some (4 * (pa / 192) + i) else none⟩

/-- The MSC takes a physical line of a local stack, or has it dirty now (R202, R204). -/
def fillMsc (s : State) (pline : Nat) (dirty : Bool) : State :=
  if (pgnSocket (pline / 256)).isNone then s
  else
    let was := s.mscLines.any fun y => y.pline == pline && y.dirty
    { s with mscLines := ⟨pline, dirty || was⟩ :: s.mscLines.filter fun y => y.pline != pline }

/-- A physical line is dirty in the MSC. -/
def mscDirty (s : State) (pline : Nat) : Bool := s.mscLines.any fun y => y.pline == pline && y.dirty

/-- The home lines that satisfy `p` leave their home slices; the dirty ones are written back to the MSC on their way (R202). -/
def evictHome (s : State) (p : HomeLine → Bool) : State :=
  let gone := s.homeLines.filter p
  gone.foldl (fun s y => if y.dirty then fillMsc s y.pline true else s) { s with homeLines := s.homeLines.filter fun y => !p y }

/-- The home's order of the stores to a line follows the line to another physical place (R93). -/
def carryT (s : State) (new old : Nat) : State :=
  { s with lineT := Sparse.set 0 s.lineT new (max (Sparse.get 0 s.lineT new) (Sparse.get 0 s.lineT old)) }

/-- A line of a context now lies at another physical line: the copies that stand above its home keep their leases, and the home its order (R93). -/
def rebaseLine (s : State) (c : Context) (vline pline : Nat) : State :=
  let mine (y : LineCopy) : Bool := tagsMatch c vline y.cid y.asid y.vline && y.pline != pline
  let old := ((s.copies.filter mine).map (·.pline)).dedup
  old.foldl (fun s o => carryT s pline o) { s with copies := s.copies.map fun y => if mine y then { y with pline := pline } else y }

/-- The lines of a granule of a context lie at another physical granule from now on (R93). -/
def rebaseGranule (s : State) (c : Context) (g pgn : Nat) : State :=
  let lines := ((s.copies.filter fun y => y.vline / 256 == g).map (·.vline)).dedup
  lines.foldl (fun s l => rebaseLine s c l (256 * pgn + l % 256)) s

/-- The home slice takes a line of the normal class on an access that reaches it, and fills it through the MSC; a store makes it dirty, and it
stays dirty while it is not evicted (R202). -/
def noteHome (s : State) (c : Context) (va pa pte : Nat) (dirty : Bool) : State :=
  if !isNormal pte (pa / 49152) || isHeld s pa then s
  else
    let mine (y : HomeLine) : Bool := tagsMatch c (va / 192) y.cid y.asid y.vline
    let stays := s.homeLines.any fun y => mine y && y.pline == pa / 192 && s.inputs.hits
    let was := stays && s.homeLines.any fun y => mine y && y.dirty && y.pline == pa / 192
    let s1 := rebaseLine (if stays then s else fillMsc (evictHome s mine) (pa / 192) false) c (va / 192) (pa / 192)
    { s1 with homeLines := ⟨c.cid, asidTag c pte, va / 192, pa / 192, pte, dirty || was⟩ :: s1.homeLines.filter fun y => !mine y }

/-- What an access that reaches its bytes leaves in the home slice and in the MSC, by its class (R202, R204). -/
def noteLine (s : State) (c : Context) (va pa pte : Nat) (dirty : Bool) : State :=
  if bitsOf pte 56 55 = 1 then fillMsc s (pa / 192) dirty else noteHome s c va pa pte dirty

/-- Where an atomic on global memory is performed (R206). -/
inductive AtomicPlace where
  | homeSlice | msc | memory | host | device
  deriving DecidableEq, Repr

/-- The place that R206 chooses, by the class, by what holds the line dirty, and by the target. -/
def atomicPlace (s : State) (c : Context) (va pa pte : Nat) : AtomicPlace :=
  if pgnHost (pa / 49152) then .host
  else if (pgnSocket (pa / 49152)).isNone then .device
  else if bitsOf pte 56 55 = 0 && s.inputs.hits
      && (s.homeLines.any fun y => tagsMatch c (va / 192) y.cid y.asid y.vline && y.dirty && y.pline == pa / 192) then .homeSlice
  else if bitsOf pte 56 55 ≤ 1 && mscDirty s (pa / 192) then .msc
  else .memory

/-- An atomic performed below the home slice invalidates what the home holds of the line; one performed in memory, what the MSC holds as well
(R206). -/
def leaveHome (s : State) (c : Context) (va pa pte : Nat) : State :=
  if atomicPlace s c va pa pte = .homeSlice then s
  else
    let s1 := evictHome s fun y => y.pline == pa / 192
    if atomicPlace s1 c va pa pte = .msc then s1 else { s1 with mscLines := s1.mscLines.filter fun y => y.pline != pa / 192 }

/-- An atomic of a context is performed at the place that R206 gives its address. -/
def leaveAt (s : State) (c : Context) (va pa : Nat) : State :=
  match translate s c (va / 49152) with
  | .leaf pte _ _ => leaveHome s c va pa pte
  | _ => s

/-- The physical lines that satisfy `p` are written back, and stay clean where they are (R243). -/
def cleanLines (s : State) (p : Nat → Bool) : State :=
  { s with
    homeLines := s.homeLines.map fun y => if p y.pline then { y with dirty := false } else y
    mscLines := s.mscLines.map fun y => if p y.pline then { y with dirty := false } else y }

/-- A copy enters the L2 slice of a die other than the line's home; with the end of its lease, where the die holds a copy (R79). -/
def grantL2 (s : State) (c : Context) (die va pa pte : Nat) : State × Option Nat :=
  if !mayCopy s pa pte then (s, none)
  else if homeDie c (va / 49152) == die then (noteHome s c va pa pte false, none)
  else
    match copyFor s c (.l2 die) (va / 192) .load with
    | some y => (s, some y.expiry)
    | none =>
      let e := leaseEnd s (pa / 192) (leaseTimes (bitsOf pte 58 57)).2.1
      let s1 := noteHome s c va pa pte false
      ({ s1 with copies := freshCopy s c (.l2 die) va pa pte e :: s1.copies }, some e)

/-- A load of a normal-class line by a core takes copies with leases on its way (R79, R200, R202). -/
def grantCopies (s : State) (c : Context) (die core va pa pte : Nat) : State :=
  if (copyFor s c (.l1 (36 * die + core)) (va / 192) .load).isSome then s
  else if !mayCopy s pa pte then noteLine s c va pa pte false
  else
    let r := grantL2 s c die va pa pte
    let own := leaseEnd s (pa / 192) (leaseTimes (bitsOf pte 58 57)).1
    { r.1 with copies := freshCopy s c (.l1 (36 * die + core)) va pa pte (match r.2 with | some e => min own e | none => own) :: r.1.copies }

/-- Another Y3 loads a line and takes a lease on it (R79, R94). -/
def grantDevice (s : State) (x : Nat × Nat × Nat) : State :=
  if x.2.2 ≥ 3 || isHeld s (192 * x.2.1) || pgnHost (x.2.1 / 256) then s
  else { s with copies := ⟨.device x.1, 0, none, 0, x.2.1, leaseEnd s x.2.1 (leaseTimes x.2.2).2.2, 0, false, []⟩ :: s.copies }

/-- The completion time of a store that reaches its home now (R78): after every earlier store to the line, and, where the home grants leases
on it, not before the last of them ends (R79, R204, R211). -/
def completionTime (s : State) (pline : Nat) (leased : Bool) : Nat :=
  let after := max s.now (Sparse.get 0 s.lineT pline)
  if leased && !isHeld s (192 * pline) then (liveCopies s pline).foldl (fun m c => max m c.expiry) after else after

/-- The bytes of a store cut at the ends of lines. -/
def linePieces : Nat → Nat → List Byte → List (Nat × List Byte)
  | 0, _, _ => []
  | fuel + 1, pa, bs =>
    if bs.isEmpty then []
    else
      let k := 192 - pa % 192
      (pa, bs.take k) :: linePieces fuel (pa + k) (bs.drop k)

/-- One line's part of a store reaches its home: it is given T and comes into force then (R78). -/
def homePiece (op : Nat) (core : Option Nat) (leased : Bool) (acc : State × Nat) (piece : Nat × List Byte) : State × Nat :=
  let s := acc.1
  let t := completionTime s (piece.1 / 192) leased
  ({ s with homeStores := s.homeStores ++ [⟨op, core, none, t, piece.1, piece.2⟩],
            lineT := Sparse.set 0 s.lineT (piece.1 / 192) (t + 1) }, max acc.2 t)

/-- A store reaches its home, which grants leases or not (R79): the state, and the largest T of its lines. -/
def storeHome (s : State) (op : Nat) (core : Option Nat) (leased : Bool) (pa : Nat) (bs : List Byte) : State × Nat :=
  (linePieces (bs.length / 192 + 2) pa bs).foldl (homePiece op core leased) (s, 0)

/-- A store that writes all of a poisoned sector clears the poison (R423). -/
def clearPoison (l : List Nat) (pa n : Nat) : List Nat := l.filter fun k => !(decide (pa ≤ 48 * k) && decide (48 * (k + 1) ≤ pa + n))

/-- A store that the hardware makes for itself once tick `t0` has come (log entry 2): the state, and its T. -/
def storeAfter (s : State) (pa : Nat) (bs : List Byte) (t0 : Nat) : State × Nat :=
  let r := storeHome { s with now := max s.now t0 } 0 none true pa bs
  ({ r.1 with now := s.now }, r.2)

/-- The stores made since `s` carry a requester number (R216). -/
def withReq (s r : State) (req : Nat) : State :=
  { r with homeStores := s.homeStores ++ (r.homeStores.drop s.homeStores.length).map fun h => { h with req := some req } }

/-- A store that the hardware makes for an agent with a requester number (R216): the state, and its T. -/
def storeAs (s : State) (req pa : Nat) (bs : List Byte) (t0 : Nat) : State × Nat :=
  let r := storeAfter s pa bs t0
  (withReq s r.1 req, r.2)

/-- A store of an agent outside the Y3 reaches its home (R78). -/
def hostStore (s : State) (req pa : Nat) (bs : List Byte) : State := withReq s (storeHome s 0 none true pa bs).1 req

/-- A store comes into force. -/
def applyStore (s : State) (h : HomeStore) : State :=
  { s with mem := putBytes s.mem h.pa h.bytes, poison := clearPoison s.poison h.pa h.bytes.length
           sramPoison := clearPoison s.sramPoison h.pa h.bytes.length }

/-- Every store whose T has come is in memory (R78). -/
def settle (s : State) : State :=
  let due := s.homeStores.filter fun h => decide (h.t ≤ s.now)
  let s1 := due.foldl applyStore s
  { s1 with homeStores := s.homeStores.filter fun h => decide (s.now < h.t) }

/-- The store of largest T among those at home that hold a byte, with its T and the byte; of equal ones the later. -/
def lastAtHome (p : HomeStore → Bool) (s : State) (a : Nat) : Option (Nat × Byte) :=
  s.homeStores.foldl (fun m h =>
    if p h && decide (h.pa ≤ a) then
      match h.bytes[a - h.pa]? with
      | some b => (match m with | some (t, _) => if t ≤ h.t then some (h.t, b) else m | none => some (h.t, b))
      | none => m
    else m) none

/-- A byte as the last store that completes before a T yet to be chosen leaves it: memory under every store at home (R87). -/
def homeByte (s : State) (a : Nat) : Byte := ((lastAtHome (fun _ => true) s a).map (·.2)).getD (byteAt s.mem a)

/-- `n` little-endian bytes as every store at home leaves them. -/
def homeNat (s : State) (a n : Nat) : Nat := leNat ((upto n).map fun i => homeByte s (a + i))

/-- A write that the hardware itself makes to memory at once (table entries, packet-core writes). -/
def writeNow (s : State) (pa : Nat) (bs : List Byte) : State :=
  { s with mem := putBytes s.mem pa bs, poison := clearPoison s.poison pa bs.length, sramPoison := clearPoison s.sramPoison pa bs.length }

end Sys2Proof.Machine
end

