-- ==== Sys2Proof/Machine/Ops.lean ====
section
/-!
DEFINITION. The named operations over waves, registers, counters, flags and handlers: taking a fault (R170, R172 to R174,
R182), the return from it (R171), the end of waves and teams (R153, R173), and the issue of an instruction word with the
checks that every word shares (R33, R40, R42).
-/

namespace Sys2Proof.Machine

/-! ## Finding and updating records -/

/-- The wave with a team and index. -/
def findWave (s : State) (tid ix : Nat) : Option Wave := s.waves.find? fun w => w.tid == tid && w.ix == ix

/-- The state with one wave changed. -/
def updWave (s : State) (tid ix : Nat) (g : Wave → Wave) : State :=
  { s with waves := s.waves.map fun w => if w.tid == tid && w.ix == ix then g w else w }

/-- The team with a number. -/
def findTeam (s : State) (tid : Nat) : Option Team := s.teams.find? fun t => t.tid == tid

/-- The state with one team changed. -/
def updTeam (s : State) (tid : Nat) (g : Team → Team) : State :=
  { s with teams := s.teams.map fun t => if t.tid == tid then g t else t }

/-- The state with one context changed. -/
def updCtx (s : State) (cid : Nat) (g : Context → Context) : State :=
  { s with contexts := s.contexts.map fun c => if c.cid == cid then g c else c }

/-- The state with one sweep changed. -/
def updSweep (s : State) (r : SweepRef) (g : Sweep → Sweep) : State :=
  { s with sweeps := s.sweeps.map fun w => if w.ref = r then g w else w }

/-- The operation with a number. -/
def findOp (s : State) (id : Nat) : Option Op := s.ops.find? fun o => o.id == id

/-- The state with one operation changed. -/
def updOp (s : State) (id : Nat) (g : Op → Op) : State :=
  { s with ops := s.ops.map fun o => if o.id == id then g o else o }

/-- The queue with a context and number; the admin queue for CID 0 (R394). -/
def findQueue (s : State) (q : QRef) : Option Queue :=
  s.queues.find? fun x => if q.cid == 0 then x.admin else x.q = q && !x.admin

/-- The state with one queue changed. -/
def updQueue (s : State) (q : QRef) (g : Queue → Queue) : State :=
  { s with queues := s.queues.map fun x =>
      if (if q.cid == 0 then x.admin else decide (x.q = q) && !x.admin) then g x else x }

/-- A fresh number and the state that has used it. -/
def takeFresh (s : State) : Nat × State := (s.fresh, { s with fresh := s.fresh + 1 })

/-- A value the spec leaves open, and the state that has used it (log entry 3). -/
def takeFree (s : State) : Word × State := (Config.freeWord s.freeIx, { s with freeIx := s.freeIx + 1 })

/-- A choice the spec leaves open, and the state that has used it (log entry 3). -/
def takeChoice (s : State) : Bool × State := (Config.freeBool s.freeIx, { s with freeIx := s.freeIx + 1 })

/-! ## Registers -/

/-- Lane register `r` of lane `l` (R118). -/
def Wave.v (w : Wave) (r l : Nat) : W32 := Sparse.get 0 w.lanes (32 * r + l)

/-- The wave with a lane register written. -/
def Wave.setV (w : Wave) (r l : Nat) (x : W32) : Wave := { w with lanes := Sparse.set 0 w.lanes (32 * r + l) x }

/-- The wave with a lane register written in each lane of a mask. -/
def Wave.setLanes (w : Wave) (r : Nat) (m : W32) (x : Nat → W32) : Wave :=
  (lanesOf m).foldl (fun w l => w.setV r l (x l)) w

/-- Scalar `k` of a path (R129). -/
def Path.s (p : Path) (k : Nat) : Word := Sparse.get 0 p.scal k

/-- The path with a scalar written; the write counts even if the value is unchanged (R129). -/
def Path.setS (p : Path) (k : Nat) (x : Word) : Path :=
  { p with scal := Sparse.set 0 p.scal k x, wr := p.wr ||| BitVec.ofNat 64 (2 ^ k) }

/-- Predicate `k` as a lane mask; p7 reads as true in every lane (R35). -/
def Wave.p (w : Wave) (k : Nat) : W32 := if k = 7 then 0xFFFFFFFF else Sparse.get 0 w.preds k

/-- The wave with a predicate written in the lanes of a mask. -/
def Wave.setP (w : Wave) (k : Nat) (m : W32) (x : W32) : Wave :=
  { w with preds := Sparse.set 0 w.preds k ((Sparse.get 0 w.preds k &&& ~~~m) ||| (x &&& m)) }

/-- Handle register `k` (R302). -/
def Wave.h (w : Wave) (k : Nat) : Word := Sparse.get 0 w.handles k

/-- The wave with a handle register written. -/
def Wave.setH (w : Wave) (k : Nat) (x : Word) : Wave := { w with handles := Sparse.set 0 w.handles k x }

/-- A bound register at wave start: THRESH 0xFF00_0000, BOUND 0 (R335). -/
abbrev boundInit : Word := 0xFF00000000000000

/-- Bound register `k`. -/
def Wave.bnd (w : Wave) (k : Nat) : Word := Sparse.get boundInit w.bounds k

/-- The wave with a bound register written. -/
def Wave.setBnd (w : Wave) (k : Nat) (x : Word) : Wave := { w with bounds := Sparse.set boundInit w.bounds k x }

/-- Element (i, j) of tile `a` (R334). -/
def Wave.el (w : Wave) (a i j : Nat) : BitVec 96 := Sparse.get 0 w.acc (4096 * a + 64 * i + j)

/-- The wave with an accumulator element written. -/
def Wave.setEl (w : Wave) (a i j : Nat) (x : BitVec 96) : Wave :=
  { w with acc := Sparse.set 0 w.acc (4096 * a + 64 * i + j) x }

/-- A PERF counter (R168). -/
def Wave.pf (w : Wave) (k : Nat) : Nat := Sparse.get 0 w.perf k

/-- The wave with a PERF counter advanced, modulo 2^64. -/
def Wave.count (w : Wave) (k n : Nat) : Wave := { w with perf := Sparse.set 0 w.perf k ((w.pf k + n) % 2 ^ 64) }

/-- The path of an agent of the wave: its main path or a continuation's (R126). -/
def Wave.pathOf (w : Wave) : Option Nat → Option Path
  | none => some w.path
  | some l => (w.conts.find? fun c => c.lane == l).map (·.path)

/-- A path of the wave by its number: running, a continuation's, or waiting for its turn (R126, R128). -/
def Wave.pathPid (w : Wave) (pid : Nat) : Option Path :=
  if w.path.pid = pid then some w.path
  else
    match w.conts.find? fun c => c.path.pid == pid with
    | some c => some c.path
    | none => (w.stack.flatMap (·.pending)).find? fun p => p.pid == pid

/-- The wave with an agent's path changed. -/
def Wave.updPath (w : Wave) (lane : Option Nat) (g : Path → Path) : Wave :=
  match lane with
  | none => { w with path := g w.path }
  | some l => { w with conts := w.conts.map fun c => if c.lane == l then { c with path := g c.path } else c }

/-- The state with the agent's wave changed. -/
def updCur (s : State) (a : AgentRef) (g : Wave → Wave) : State := updWave s a.tid a.wave g

/-- The state with the agent's path changed. -/
def updPath (s : State) (a : AgentRef) (g : Path → Path) : State := updCur s a fun w => w.updPath a.lane g

/-- A scalar of the agent's path written. -/
def setScalar (s : State) (a : AgentRef) (k : Nat) (x : Word) : State := updPath s a fun p => p.setS k x

/-- The VA of the next word or header of a path. -/
def Path.nextVa (p : Path) : Nat :=
  match p.clause with
  | some c => c.hdrVa + 8 * (c.idx + 1)
  | none => p.pc

/-- Where a wave resumes: a clause whose WAIT flags have not cleared has not started, and its header is met again. -/
def Wave.resumeVa (w : Wave) : Nat :=
  match w.status, w.path.clause with
  | .flagWait, some c => c.hdrVa
  | _, _ => w.path.nextVa

/-- The VA of the header that follows a clause. -/
def Clause.endVa (c : Clause) : Nat := c.hdrVa + 8 * (c.words.length + 1)

/-! ## Flags and counters -/

/-- The flags that a header names in SETA and SETB (R27). -/
def headerFlags (h : Header) : BitVec 12 :=
  let one (x : BitVec 4) : BitVec 12 := if x.toNat < 12 then BitVec.ofNat 12 (2 ^ x.toNat) else 0
  one h.seta ||| one h.setb

/-- The flags of a clause that is running. -/
def pathFlags (p : Path) : BitVec 12 :=
  match p.clause with
  | some c => headerFlags (headerOfWord c.hdr)
  | none => 0

/-- The flags that a wave's main path holds raised by the clause it is inside, or has been given back by a return (R29, R170). -/
def clauseFlags (w : Wave) : BitVec 12 := (if w.status = .flagWait then 0 else pathFlags w.path) ||| w.flagsHeld

/-- The operations of a wave, in issue order. -/
def waveOps (s : State) (tid ix : Nat) : List Op := s.ops.filter fun o => o.tid == tid && o.wave == ix

/-- The flags raised in a wave (R29): those of its running clauses, of its operations' register work, and those a return raised
again. -/
def flagsOf (s : State) (w : Wave) : BitVec 12 :=
  let run := w.conts.foldl (fun m c => m ||| pathFlags c.path) (clauseFlags w)
  (waveOps s w.tid w.ix).foldl (fun m o => if o.regWork then m ||| o.flags else m) run

/-- The value of arrival counter `k` of a wave (R208). -/
def counterOf (s : State) (tid ix k : Nat) : Nat := ((waveOps s tid ix).filter fun o => o.cn == some k).length

/-- Complete operations leave the list in issue order on their counter (R85); those that name none leave at once. -/
def lowerOps : List Op → List (Nat × Nat × Nat) → List Op
  | [], _ => []
  | o :: r, blocked =>
    match o.cn with
    | none => if o.phase = .complete then lowerOps r blocked else o :: lowerOps r blocked
    | some k =>
      let key := (o.tid, o.wave, k)
      if o.phase = .complete && !blocked.contains key then lowerOps r blocked
      else o :: lowerOps r (key :: blocked)

/-- Counters lowered as far as order allows. -/
def lower (s : State) : State := { s with ops := lowerOps s.ops [] }

/-! ## Agents -/

/-- What an instruction word sees when it issues: who issues it, its wave, path, team, context and fields, its active lanes
(R40) and its own address. -/
structure Env where
  i : Instr
  who : AgentRef
  w : Wave
  p : Path
  t : Team
  c : Context
  sw : Sweep
  k : Clause
  f : Fields
  act : W32
  va : Nat

/-- The lanes that a guard admits (R40). -/
def guardLanes (w : Wave) (f : Fields) (em : W32) : W32 :=
  if f.pr = 7 then em
  else if f.pn then em &&& ~~~(w.p f.pr.toNat) else em &&& w.p f.pr.toNat

/-- The context of a team, with the ASID of the queue that launched its sweep (R397). -/
def teamCtx (s : State) (t : Team) : Option Context :=
  match ctxOf s t.sweep.cid with
  | none => none
  | some c =>
    match (sweepOf s t).bind fun sw => findQueue s sw.pkt.q with
    | some q => if q.admin then some c else some { c with asid := q.asid }
    | none => some c

/-- What the current agent sees, if it stands inside a clause of a live wave. -/
def envOf (s : State) (i : Instr) (f : Fields) : Option Env :=
  match s.cur with
  | none => none
  | some a =>
    match findWave s a.tid a.wave, findTeam s a.tid with
    | some w, some t =>
      match w.pathOf a.lane, teamCtx s t, sweepOf s t with
      | some p, some c, some sw =>
        match p.clause with
        | some k => some ⟨i, a, w, p, t, c, sw, k, f, guardLanes w f p.em, k.hdrVa + 8 * (k.idx + 1)⟩
        | none => none
      | _, _, _ => none
    | _, _ => none

/-- The wave may issue an instruction; the helper issues for its continuations while the wave itself waits (R126). -/
def mayIssue (w : Wave) (lane : Option Nat) : Bool :=
  match lane, w.status with
  | _, .running => true
  | _, .retry => true
  | some _, .join => true
  | some _, .flagWait => true
  | some _, .sleep _ => true
  | some _, .waits _ _ _ _ => true
  | some _, .ldt _ _ => true
  | some _, .rowOpen _ => true
  | _, _ => false

/-- A continuation of a wave that STOPW has halted goes on to the end of its clause: it halts at its own next header (R165). -/
def mayFinish (sw : Sweep) (w : Wave) (lane : Option Nat) : Bool := lane.isSome && decide (w.status = .halted) && sw.halted

/-- The byte code-base offset of a VA in the wave's sweep. -/
def codeOffset (sw : Sweep) (va : Nat) : Nat := va - sw.code

/-! ## Error records -/

/-- The 48 bytes of an error record (R422). -/
def recordBytes (r : ErrorRecord) : List Byte :=
  leBytes 1 r.type ++ leBytes 1 r.code ++ leBytes 1 r.sub ++ leBytes 1 r.flags ++ leBytes 4 r.ptag.toNat ++ leBytes 8 r.time
    ++ leBytes 4 r.tag ++ leBytes 4 r.index ++ leBytes 8 r.xpc.toNat ++ leBytes 8 r.xaddr.toNat ++ leBytes 2 r.cid
    ++ leBytes 1 r.vdie ++ leBytes 1 r.wave ++ leBytes 4 r.detail

/-- The physical address of a VA of a queue: translated in its context and readable and writable, or physical for the admin
queue (R394, R426). -/
def queueAddr (s : State) (q : Queue) (va n : Nat) (k : AccKind) : AccRes :=
  if q.admin then
    (if !pgnPresent s (va / 49152) then .fault .range 1
      else
        match (if k = .store then none else firstPoison s va n) with
        | some (_, sub) => .fault .poison sub
        | none => .ok va 0)
  else
    match ctxOf s q.q.cid with
    | none => .fault .page 1
    | some c => plainAccess s { c with asid := q.asid } va n k

/-- The context of a queue, with the queue's ASID; none for the admin queue (R394, R397). -/
def queueCtx (s : State) (q : Queue) : Option Context :=
  if q.admin then none else (ctxOf s q.q.cid).map fun c => { c with asid := q.asid }

/-- A translation that the packet cores have used is noted (R207). -/
def noteQueueAlias (s : State) (q : Queue) (va pa pte : Nat) : State :=
  match queueCtx s q with
  | some c => noteAlias s c pte (pa / 49152) (va / 49152)
  | none => s

/-- The translation of an access of the packet cores, which reaches its bytes, is noted (R207). -/
def queueNoted (s : State) (q : Queue) (va n : Nat) (k : AccKind) : State :=
  match queueAddr s q va n k with
  | .ok a pte => noteQueueAlias s q va a pte
  | _ => s

/-- What becomes of a record for a queue's error ring. -/
inductive RingRes where
  /-- written; with the T at which EHEAD has advanced -/
  | done (s : State) (t : Nat)
  /-- the ring waits for a page (R426) -/
  | wait (va : Nat) (r : AccRes)
  /-- the ring cannot be written: the fault and its VA -/
  | lost (va : Nat) (code : Code) (sub : Nat)

/-- A record written to slot EHEAD mod ECOUNT of a queue's error ring; EHEAD advances once it has completed (R396, R422). -/
def ringWrite (s : State) (q : Queue) (r : ErrorRecord) : RingRes :=
  match queueAddr s q q.uva 96 .atomic with
  | .ok u _ =>
    let ecount := max 1 (memNat s.mem (u + 56) 4)
    let slot := memNat s.mem (u + 48) 8 + 48 * (q.ehead % ecount)
    match queueAddr s q slot 48 .store with
    | .ok a _ =>
      let (s1, t) := storeAfter (queueNoted (queueNoted s q q.uva 96 .atomic) q slot 48 .store) a (recordBytes r) s.now
      let (s2, t2) := storeAfter s1 (u + 60) (leBytes 4 (q.ehead + 1)) (t + 1)
      .done (updQueue s2 q.q fun q => { q with ehead := q.ehead + 1 }) t2
    | .fault code sub => .lost slot code sub
    | x => .wait slot x
  | .fault code sub => .lost q.uva code sub
  | x => .wait q.uva x

/-- EHEAD has advanced by `t` for a record that concerns a queue: DONE counts the packet after that (R422). -/
def noteTold (s : State) (q : QRef) (t : Nat) : State := updQueue s q fun x => { x with told := max x.told t }

/-- A record sent to the admin queue's error ring. -/
def postAdmin (s : State) (r : ErrorRecord) : State :=
  match findQueue s ⟨0, 0⟩ with
  | none => s
  | some q => match ringWrite s q r with | .done s1 t => noteTold s1 r.q t | _ => s

/-- A queue halts, and the admin queue is told why (R398, R426): CODE and SUB of R428. -/
def haltQueue (s : State) (q : Queue) (code sub : Nat) (va : Nat) : State :=
  if q.halt then s
  else
    let r : ErrorRecord := ⟨q.q, 7, code, sub, 0, 0, s.now, 0, 0, 0, BitVec.ofNat 64 va, q.q.cid, 0xFF, 0xFF, 0⟩
    postAdmin (updQueue { s with errors := s.errors ++ [r] } q.q fun q => { q with halt := true }) r

/-- Records sent to a queue's ring one after another; behind records that wait for it. If the ring cannot be written, all that are left go to the
admin queue's ring, and then the queue halts (R426). -/
def sendRecords (s : State) (qr : QRef) : List ErrorRecord → State
  | [] => s
  | r :: rs =>
    match findQueue s qr with
    | none => (r :: rs).foldl postAdmin s
    | some q =>
      if !q.errq.isEmpty then updQueue s qr fun q => { q with errq := q.errq ++ (r :: rs) }
      else
        match ringWrite s q r with
        | .done s1 t => sendRecords (noteTold s1 qr t) qr rs
        | .wait _ _ => updQueue s qr fun q => { q with errq := q.errq ++ (r :: rs) }
        | .lost va code sub => if q.admin then sendRecords s qr rs else haltQueue ((r :: rs).foldl postAdmin s) q code.num sub va

/-- Error records that belong together, sent to a queue (R422). -/
def postErrors (s : State) (q : QRef) (rs : List ErrorRecord) : State := sendRecords { s with errors := s.errors ++ rs } q rs

/-- An error record sent to a queue (R422). -/
def postError (s : State) (r : ErrorRecord) : State := postErrors s r.q [r]

/-! ## The end of waves and teams -/

/-- The fields of a handle (R302): kind, rights, jar index, generation, home device. -/
def handleKind (h : Word) : Nat := bitsOf h.toNat 63 60
/-- RIGHTS. -/
def handleRights (h : Word) : Nat := bitsOf h.toNat 59 56
/-- JAR. -/
def handleJar (h : Word) : Nat := bitsOf h.toNat 55 32
/-- GEN. -/
def handleGen (h : Word) : Nat := bitsOf h.toNat 31 8
/-- DEV. -/
def handleDev (h : Word) : Nat := bitsOf h.toNat 7 0

/-- A FREE jar record (R301). -/
abbrev jarFree : JarRec := ⟨0, 0, 0, 0, false, false, 0, 0, 0, 0⟩

/-- A jar record of a context. -/
def jarOf (c : Context) (k : Nat) : JarRec := Sparse.get jarFree c.jars k

/-- A jar record's 48 bytes in the table (R301). -/
def JarRec.image (r : JarRec) : List Byte :=
  leBytes 8 r.base ++ leBytes 1 r.len ++ leBytes 1 (r.state % 4 + 4 * (r.scope % 8) + (if r.exit then 32 else 0) + (if r.away then 64 else 0))
    ++ leBytes 2 0 ++ leBytes 4 (r.gen % 2 ^ 24) ++ leBytes 8 r.ptime ++ leBytes 1 r.fdev ++ leBytes 23 0

/-- The state with a jar record of a context written, in the context and in the table at JTAB, which the hardware alone writes (R301). -/
def setJar (s : State) (cid k : Nat) (r : JarRec) : State :=
  let s1 := updCtx s cid fun c => { c with jars := Sparse.set jarFree c.jars k r }
  match ctxOf s cid with
  | none => s1
  | some c => writeNow s1 (49152 * c.jtab + 48 * k) r.image

/-- The instructions that a wave has retired, with those that the helper issued for its continuations (R168, R175). -/
def Wave.retired (w : Wave) : Nat := w.pf 1 + w.pf 7

/-- An operation with the fields that every kind of operation shares. -/
def mkOp (s : State) (a : AgentRef) (w : Wave) (kind : OpKind) (cn : Option Nat) (xpc : Nat) (word : Word) (flags : BitVec 12)
    (accs : List Access) (regWork : Bool) (phase : Phase) : Op :=
  let p := (w.pathOf a.lane).getD w.path
  { id := s.fresh, tid := a.tid, wave := a.wave, cn := cn, kind := kind, xpc := xpc, word := word, lane := a.lane, pid := p.pid,
    hist := p.hist, flags := flags, accs := accs, unread := 0, kept := [], regWork := regWork, inTask := w.task.isSome, retiredAt := w.retired + 1,
    phase := phase, last := 0, since := s.now, batch := 0 }

/-- The state with an operation issued. -/
def pushOp (s : State) (o : Op) : State := { s with ops := s.ops ++ [o], fresh := s.fresh + 1 }

/-- The holder of a fill handle ends: the jar takes its exit policy (R306). PUBLISH becomes an operation that publishes as TDROP
does. -/
def exitHandle (cid : Nat) (a : AgentRef) (s : State) (h : Word) : State :=
  match ctxOf s cid, findWave s a.tid a.wave with
  | some c, some w =>
    let r := jarOf c (handleJar h)
    if handleKind h = 1 && handleDev h = ownDev s && r.state = 1 && r.gen = handleGen h then
      if r.exit then setJar s cid (handleJar h) { r with state := 3 }
      else pushOp s { mkOp s a w (.tdrop 0 h false) none 0 0 0 [] false .started with last := w.horizon, inTask := false }
    else s
  | _, _ => s

/-- Every fill handle of a wave takes its exit policy. -/
def exitHandles (s : State) (cid : Nat) (w : Wave) : State :=
  w.handles.foldl (fun s e => exitHandle cid ⟨w.tid, w.ix, none⟩ s e.2) s

/-- The three pseudo-channels of a stack triad (R209). -/
def triadChannels (tr : Nat) : List Nat := [tr % 64, (tr % 64 + 1) % 64, (tr % 64 + 2) % 64]

/-- A held triad is open in a pseudo-channel. -/
def openIn (s : State) (socket ch : Nat) : Bool :=
  s.holds.any fun h => h.socket == socket && h.isOpen && (triadChannels h.stackTriad).contains ch

/-- The refreshes that a pseudo-channel owes start as the last held triad in it closes: it was open in `before`, and is not in `s` (R214). -/
def startRefreshes (before s : State) (r : RefreshState) : RefreshState :=
  if 0 < r.debt && openIn before r.socket r.channel && !openIn s r.socket r.channel then { r with busyUntil := s.now + 52 } else r

/-- A hold slot is freed: its rows close, and the home slice is the home of its lines again (R211, R237). -/
def freeHold (s : State) (socket slot : Nat) : State :=
  let s1 := { s with holds := s.holds.filter fun h => !(h.socket == socket && h.slot == slot) }
  { s1 with refresh := s1.refresh.map (startRefreshes s s1) }

/-- The stack hold slot that an entry holds is returned, unless another entry of some team holds the same triad (R237). -/
def returnSlot (s : State) (cid : Nat) (e : TriadEntry) (tid : Nat) : State :=
  match e.slot with
  | none => s
  | some n =>
    if s.teams.any fun t => decide (t.tid ≠ tid) && t.triads.any fun x => x.used && x.slot == some n && x.socket == e.socket && t.sweep.cid == cid
    then s
    else freeHold s e.socket n

/-- The team's held triads are released (R153). -/
def releaseTriads (s : State) (t : Team) : State :=
  let s1 := t.triads.foldl (fun s e => if e.used then returnSlot s t.sweep.cid e t.tid else s) s
  updTeam s1 t.tid fun t => { t with triads := t.triads.map fun e => { e with used := false, slot := none } }

/-- Every chunk of a sweep has been walked to its end by a rake that is not stopped (R388). -/
def Sweep.walked (w : Sweep) : Bool :=
  decide (w.nplot ≤ 64 * w.cursor) && w.rakes.all fun r => r.chunk.isNone && !r.stopped && !r.parked && r.claims.isEmpty

/-- A sweep finishes when it is walked and every team it created has ended (R388). -/
def noteFinish (w : Sweep) : Sweep := if w.walked && w.ended == w.claimed then { w with finished := true } else w

/-- If every wave of a team has ended, the team ends: its triads, slots and storage are free, and its sweep counts it (R153, R388). -/
def checkTeamEnd (s : State) (tid : Nat) : State :=
  match findTeam s tid with
  | none => s
  | some t =>
    if t.status = .ended || t.lost.isSome || s.waves.any fun w => w.tid == tid && decide (w.status ≠ .ended) then s
    else
      let s1 := releaseTriads s t
      let s2 := updTeam s1 tid fun t => { t with status := .ended, slots := [], preempt := none }
      updSweep s2 t.sweep fun w => noteFinish { w with ended := w.ended + 1 }

/-- A team is the guaranteed team of its sweep: the lowest index among those that have not ended (R116). -/
def guaranteed (s : State) (t : Team) : Bool :=
  s.teams.all fun u => u.sweep ≠ t.sweep || u.status = .ended || decide (t.teamix ≤ u.teamix)

/-- A wave parks with lanes recorded in `%xmask` (R25). -/
def Wave.park (w : Wave) (st : Status) (lanes : W32) : Wave :=
  { w with status := st, maskBefore := some (w.maskBefore.getD w.xmask), xmask := lanes.zeroExtend 64 }

/-- A parked wave goes on: the trap registers are as if it had not parked (R177, and for an LDT log entry 92). -/
def Wave.unpark (w : Wave) : Wave :=
  match w.maskBefore with
  | some m => { w with xmask := m, maskBefore := none }
  | none => w

/-- A wave becomes ready after a stall, which the guaranteed team's waves are favoured for (R116). -/
def makeReady (s : State) (tid ix : Nat) : State :=
  updWave s tid ix fun w => { w.unpark with status := .running, favoured := true }

/-- The operation runs in the copy engine (R290). -/
def OpKind.isCopy : OpKind → Bool
  | .copy _ _ _ _ _ _ _ _ | .gather _ _ _ _ _ _ _ _ | .qblk _ _ _ _ | .stgPut _ _ _ _ | .stgGet _ _ _ _ | .stgRel _
  | .talloc _ _ _ _ | .tdrop _ _ _ | .tsend _ _ | .trecv _ | .coll _ _ _ _ => true
  | _ => false

/-- The phase in which an operation goes on after its fault is answered: the copy engine's have started. -/
def restartPhase (k : OpKind) : Phase := if k.isCopy then .started else .issued

/-- An operation waits for the answer to a fault. -/
def opPending (s : State) (id : Nat) : Bool :=
  s.contexts.any fun c => c.faults.any fun r => r.answer.isNone && r.waiters.any fun x => x.1 = .op id

/-- An access waits for an answer: its fault is one that an answer may resolve (R177). -/
def Access.asks (x : Access) : Bool :=
  match x.fault with
  | some fi => decide (fi.code = .page) || (decide (fi.code = .prot) && decide (fi.sub = 4))
  | none => false

/-- Some access of the operation stands in a DET buffer (R90). -/
def detWaits (s : State) (o : Op) : Bool := s.teams.any fun t => t.tid == o.tid && t.det.any fun e => e.op == o.id

/-- The operation has made every access, and owes nothing to a T or to a commit (R85, R90). -/
def nothingOwed (s : State) (o : Op) : Bool := o.accs.all (·.done) && decide (o.last = 0) && !o.accs.isEmpty && !detWaits s o

/-- What an operation of a wave that ends still has to do (R153): it runs to completion; a fault that no answer can resolve has nowhere to be
reported, and its access is over. `waits` says that an answer is outstanding. -/
def closeOp (s : State) (waits : Bool) (o : Op) : Op :=
  let accs := o.accs.map fun x => if x.fault.isSome then (if waits && x.asks then x else { x with done := true, fault := none }) else { x with held := false }
  { o with
    accs := accs
    phase := if accs.any fun x => x.fault.isSome then .faulted
      else if nothingOwed s { o with accs := accs } then .complete else restartPhase o.kind }

/-- The operations of a wave that ends, as they go on. -/
def closeFaults (s : State) (tid ix : Nat) (o : Op) : Op :=
  if o.tid == tid && o.wave == ix && (decide (o.phase = .faulted) || decide (o.phase = .parked)) then closeOp s (opPending s o.id) o else o

/-- A wave that ends has not arrived at any barrier. -/
def leaveBarriers (ix : Nat) (bs : List Barrier) : List Barrier := bs.map fun b => { b with arrived := b.arrived.filter (· != ix) }

/-- A wave ends (R153): its blocks and its stack slot are returned, its fill handles take their exit policies, its pending work has nowhere
to return to. -/
def endWave (s : State) (tid ix : Nat) : State :=
  match findWave s tid ix, findTeam s tid with
  | some w, some t =>
    if w.status = .ended then s
    else
      let s1 := updWave s tid ix fun w =>
        { w with status := .ended, blocks := 0, conts := [], stack := [], task := none, handles := [],
                 path := { w.path with em := 0, clause := none } }
      let s2 := updTeam s1 tid fun t => { t with slots := t.slots.erase w.slot, barriers := leaveBarriers ix t.barriers }
      exitHandles (lower { s2 with ops := s2.ops.map (closeFaults s2 tid ix) }) t.sweep.cid w
  | _, _ => s

/-- A MAT word whose turn is still to come and that sets the mode of a tile which the task names: it holds inside the task only (R361). -/
def setsTaskMode (k : Task) (o : Op) : Bool :=
  match o.kind with
  | .matWord tile _ => decide ((opOfWord o.word).toNat = 0x7B) && k.tiles.getLsbD tile
  | _ => false

/-- What is left of an operation when its task's version is discarded (R158 step 2): its counter is lowered, its register writes are
dropped, and what it writes to global memory belonged to the version (R89); what it does outside the version goes on, and so does a MAT word
that names no counter. -/
def dropFromTask (k : Task) (o : Op) : Option Op :=
  let rest : Op := { o with cn := none, regWork := false, inTask := false }
  let outside := o.accs.filter fun x => decide (x.level ≠ .g)
  match o.kind with
  | .load _ _ | .loadScalar _ _ _ | .loadBound _ _ | .accLoad _ _ | .store _ | .tdrop _ _ _ | .none => none
  | .accStore _ => if outside.isEmpty then none else some { rest with accs := outside }
  | .matWord _ st =>
    if o.cn.isNone then (if setsTaskMode k o then none else some { o with inTask := false })
    else if !st || outside.isEmpty then none else some { rest with accs := outside }
  | .rowOpen _ pid e hold => some { rest with kind := .rowOpen 64 pid e hold }
  | .copy dl _ _ _ _ _ _ _ => if dl = .g then none else some rest
  | .gather _ dl _ _ _ _ _ _ => if dl = .g then none else some rest
  | .stgGet _ _ dl _ => if dl = .g then none else some rest
  | .atomic f _ => if outside.isEmpty then none else some { rest with kind := .atomic f none }
  | .qblk _ _ a b => some { rest with kind := .qblk 64 0 a b, accs := outside }
  | _ => some rest

/-- The version of a task is discarded (R158 steps 1 and 2): its operations leave their counters, its buffered accesses are
dropped, and fill handles dropped inside it are back (R310). -/
def discardTask (s : State) (w : Wave) : State :=
  match w.task with
  | none => s
  | some k =>
    if k.commit.isSome then s
    else
    let s1 := { s with ops := lowerOps (s.ops.filterMap fun o =>
      if o.tid == w.tid && o.wave == w.ix && o.inTask then dropFromTask k o else some o) [] }
    let s2 := updTeam s1 w.tid fun t => { t with det := t.det.filter fun e => !(e.wave == w.ix && e.inTask) }
    updWave s2 w.tid w.ix fun w => k.drops.foldl (fun w d => w.setH d.1 d.2) w

/-- The modes of the tiles a task names, as they were at TBEGIN (R159, R182). -/
def restoreModes (w : Wave) (k : Task) : Wave := { w with exact := (w.exact &&& ~~~k.tiles) ||| (k.exact &&& k.tiles) }

/-- The error record of a team that ends (R173, R190, R422). -/
def teamRecord (s : State) (t : Team) (sw : Sweep) (type code sub flags wave : Nat) (xpc xaddr : Word) : ErrorRecord :=
  ⟨sw.pkt.q, type, code, sub, flags, sw.pkt.ptag, s.now, sw.ref.tag, t.teamix, xpc, xaddr, sw.ref.cid, t.vdie, wave, 0⟩

/-- The team ends with an error record (R173, R190); with the trap frame of a wave whose mask was set (R174). -/
def endTeam (s : State) (tid : Nat) (type code sub wave : Nat) (xpc xaddr : Word) (frame : Option Frame) : State :=
  match findTeam s tid with
  | none => s
  | some t =>
    match sweepOf s t with
    | none => s
    | some sw =>
      let ws := s.waves.filter fun w => w.tid == tid
      let s1 := ws.foldl (fun s w => discardTask s w) (updTeam s tid fun t => { t with lost := none })
      let s2 := ws.foldl (fun s w => endWave s w.tid w.ix) s1
      let s3 := checkTeamEnd s2 tid
      let s4 := updSweep s3 t.sweep fun w => { w with errored := true }
      postErrors s4 sw.pkt.q (teamRecord s t sw type code sub (if frame.isSome then 1 else 0) wave xpc xaddr ::
        match frame with
        | none => []
        | some fr => [⟨sw.pkt.q, 0x0B, 0, 0, 0, 0, s.now, fr.em.toNat, t.teamix, BitVec.ofNat 64 fr.resume,
            BitVec.ofNat 64 fr.replay.length, 0, 0, 0, 0⟩])

/-! ## Taking a fault and returning from it -/

/-- The value of `%xcause` (R46), with BKSKIP as it is in force. -/
def causeWord (skip : Bool) (code sub : Nat) : Word := BitVec.ofNat 64 ((if skip then 65536 else 0) + 256 * (sub % 256) + code)

/-- What a trap reports beside its fault: `%xpc`, `%xskid`, `%xmask`, the resume point and the replay set (R170). -/
structure TrapInfo where
  xpc : Nat
  xskid : Nat
  xmask : W32
  resume : Nat
  replay : List Nat

/-- The report of a precise fault at `va` (R171, R172): nothing to replay, resume there. -/
def preciseAt (va : Nat) : TrapInfo := ⟨va, 0, 0, va, []⟩

/-- What a trap inside a task does to the task (R182). -/
def closeTaskForTrap (w : Wave) : Wave :=
  match w.task with
  | none => w
  | some k => { restoreModes w k with task := none, xtask := BitVec.ofNat 64 (2 ^ 63 + (k.start - 8)) }

/-- Trap entry (R170): the trap registers and the frame are written, the mask is set, and the wave continues at `%tba`. -/
def trapEntry (s : State) (a : AgentRef) (fi : FaultInfo) (ti : TrapInfo) : State :=
  match findWave s a.tid a.wave, findTeam s a.tid with
  | some w, some t =>
    match sweepOf s t with
    | none => s
    | some sw =>
      let flags := clauseFlags w
      let s1 := discardTask s w
      updCur s1 a fun w =>
        let w := closeTaskForTrap w
        { w with
          xpc := BitVec.ofNat 64 ti.xpc
          xcause := causeWord w.skip fi.code.num fi.sub
          xaddr := fi.addr
          xskid := BitVec.ofNat 64 ti.xskid
          xmask := ti.xmask.zeroExtend 64
          maskBefore := none
          frame := some ⟨w.path.em, flags, ti.resume, ti.replay, BitVec.ofNat 64 ti.xpc⟩
          trapMask := true
          holdA := none
          holdB := none
          flagsHeld := 0
          status := .running
          path := { w.path with pc := sw.code + w.tba.toNat, mid := false, grp := false, clause := none } }
  | _, _ => s

/-- BREAKPOINT (R165, R172): the wave halts for the debugger with BKSKIP set, and resumes at `%xpc` when it is released. No rule names `%xaddr`
here; the model leaves it 0, as R170 does where no rule names it (log entry 79). -/
def haltBreak (s : State) (a : AgentRef) (fi : FaultInfo) (xpc : Nat) : State :=
  updCur s a fun w =>
    { w with xpc := BitVec.ofNat 64 xpc, xcause := BitVec.ofNat 64 (65536 + 256 * (fi.sub % 256) + fi.code.num)
             skip := true, xaddr := fi.addr, status := .halted, holdA := none, holdB := none
             path := { w.path with pc := xpc, mid := true, grp := false, clause := none } }

/-- The hardware re-issue of a task (R158). `em`, the divergence stack and continuations opened inside the task stay as they stand: the spec
does not say what becomes of them (log entry 80). -/
def reissue (s : State) (a : AgentRef) (w : Wave) (k : Task) (sw : Sweep) : State :=
  let s1 := discardTask s w
  updCur s1 a fun w =>
    { w with exact := w.exact ||| k.tiles, attempt := 1, status := .running, holdA := none, holdB := none
             task := some { k with version := [], writes := [], lines := [], drops := [] }
             path := { w.path with pc := sw.code + k.start, mid := false, grp := false, clause := none } }

/-- An ejected lane is recalled (R126): it becomes a serial path of its level, at the instruction it had reached. -/
def recallLane (s : State) (a : AgentRef) (l : Nat) : State :=
  updCur s a fun w =>
    match w.conts.find? fun c => c.lane == l with
    | none => w
    | some c =>
      let p := { c.path with pc := c.path.nextVa, mid := c.path.mid || c.path.clause.isSome, clause := none }
      { w with
        conts := w.conts.filter fun c => c.lane != l
        stack := w.stack.map fun d =>
          if d.lid = c.lid then { d with joinCount := d.joinCount - 1, pending := d.pending ++ [p] } else d }

/-- The trap frame that goes into an error record (R174): none without the mask; the one that the wave holds; where TMASK set the mask, the one
that the fault's own report would store. -/
def recordFrame (w : Wave) (ti : TrapInfo) : Option Frame :=
  if w.trapMask then some (w.frame.getD ⟨w.path.em, clauseFlags w, ti.resume, ti.replay, BitVec.ofNat 64 ti.xpc⟩) else none

/-- The delivery of a fault (R172 to R174) to the agent's wave. A continuation that faults is recalled (R126). -/
def deliver (s : State) (a : AgentRef) (fi : FaultInfo) (ti : TrapInfo) : State :=
  match a.lane with
  | some l => recallLane s a l
  | none =>
    match findWave s a.tid a.wave, findTeam s a.tid with
    | some w, some t =>
      match sweepOf s t with
      | none => s
      | some sw =>
        if fi.code = .breakpoint then haltBreak s a fi ti.xpc
        else
          match w.task, decide (fi.code = .bound) && decide (w.attempt = 0) with
          | some k, true =>
            if k.reissue then reissue s a w k sw
            else if w.trapMask || w.tba = 0 then
              endTeam s a.tid 1 fi.code.num fi.sub a.wave (BitVec.ofNat 64 ti.xpc) fi.addr (recordFrame w ti)
            else trapEntry s a fi ti
          | _, _ =>
            if w.trapMask || w.tba = 0 then
              endTeam s a.tid 1 fi.code.num fi.sub a.wave (BitVec.ofNat 64 ti.xpc) fi.addr (recordFrame w ti)
            else trapEntry s a fi ti
    | _, _ => s

/-- The wave leaves every rendezvous latch it waits in. -/
def leaveRounds (s : State) (tid wave : Nat) : State :=
  updTeam s tid fun t => { t with rounds := (t.rounds.map fun r => { r with arrived := r.arrived.filter (· != wave) }).filter fun r => !r.arrived.isEmpty }

/-- SIZE of a gang register (R338). -/
def gangSize (gr : Word) : Nat := bitsOf gr.toNat 2 0

/-- The wave index in a slot. -/
def gangSlot (gr : Word) (n : Nat) : Nat := bitsOf gr.toNat (4 * n + 6) (4 * n + 3)

/-- The members that a gang register names, in slot order. -/
def gangMembers (gr : Word) : List Nat := (upto (gangSize gr)).map (gangSlot gr)

/-- GANG_BROKEN, ENDED, for one member: at once at its MMA word if it waits in the latch, else at its next arrival (R343). -/
def breakMember (s : State) (w : Wave) : State :=
  if w.status = .latch then
    let s1 := updWave (leaveRounds s w.tid w.ix) w.tid w.ix fun w => { w with gr := 0, gangEnded := false, status := .running }
    deliver s1 ⟨w.tid, w.ix, none⟩ ⟨.gangBroken, 3, 0⟩ (preciseAt w.path.nextVa)
  else updWave s w.tid w.ix fun w => { w with gangEnded := true }

/-- A wave ends or leaves its gang: every other wave whose gang names it learns of it (R343). -/
def breakGangs (s : State) (tid ix : Nat) : State :=
  (s.waves.filter fun w => w.tid == tid && w.ix != ix && decide (w.status ≠ .ended) && (gangMembers w.gr).contains ix).foldl
    (fun s w => match findWave s w.tid w.ix with | some w => if w.status = .ended then s else breakMember s w | none => s) s

/-- An operation of a discarded replay set is lowered as if complete (R171, R176). -/
def abandonOps (s : State) (ids : List Nat) : State :=
  lower { s with ops := s.ops.map fun o => if ids.contains o.id then { o with phase := .complete, regWork := false } else o }

/-- The return from a handler (R171): `em`, flags and mask are restored; with an unchanged `%xpc` the replay set is taken up again,
and the wave continues at the resume point, else it continues at `%xpc` under R52. `replay` says how the operations of the
replay set run again. -/
def returnFrom (s : State) (a : AgentRef) (w : Wave) (fr : Frame) (replay : State → List Nat → W32 → State) : State :=
  let same := decide (w.xpc = fr.xpc)
  let s1 := updCur s a fun w =>
    { w with trapMask := false, frame := none, skip := w.xcause.getLsbD 16, flagsHeld := if same then fr.flags else 0, holdA := none, holdB := none
             status := .running
             path := { w.path with em := fr.em, pc := if same then fr.resume else w.xpc.toNat, mid := true, grp := false, clause := none } }
  if same then replay s1 fr.replay (w.xmask.truncate 32) else abandonOps s1 fr.replay

/-! ## Issue -/

/-- How an instruction word ends. -/
inductive Verdict where
  /-- it retires, and the path continues at the next word -/
  | ok (s : State)
  /-- it retires, having placed the path itself -/
  | moved (s : State)
  /-- it does not retire, and is tried again or waits -/
  | stall (s : State)
  /-- it raises a precise fault, reported at its own word -/
  | trap (fi : FaultInfo)
  /-- it raises a precise fault reported at another address (MISALIGN, R28) -/
  | trapAt (fi : FaultInfo) (va : Nat)

/-- An ILLEGAL_OP with a subcode; `%xaddr` is 0 (R170). -/
def illegal (sub : Nat) : Verdict := .trap ⟨.illegalOp, sub, 0⟩

/-- A fault with an address. -/
def faulting (code : Code) (sub : Nat) (addr : Word) : Verdict := .trap ⟨code, sub, addr⟩

/-- The counts of a retired instruction (R168): the helper's are counted apart. -/
def countRetired (a : AgentRef) (w : Wave) : Wave :=
  match a.lane with
  | none => w.count 1 1
  | some _ => w.count 7 1

/-- A clause ends on an agent's path: the next word is a header (R26), the latches are empty (R39). -/
def endClause (s : State) (a : AgentRef) : State :=
  updCur s a fun w =>
    let w := w.updPath a.lane fun p =>
      match p.clause with
      | some c => { p with pc := c.endVa, mid := false, grp := false, clause := none }
      | none => p
    match a.lane with
    | none => { w.count 0 1 with holdA := none, holdB := none, lastIssue := s.now, qpass := false }
    | some _ => w

/-- Whether a wave is favoured once its word has retired: no longer, if that was the first word of its clause; from now on, if the word had
stalled (R116). -/
def Wave.favouredAfter (w : Wave) : Bool :=
  decide (w.status = .retry) || (w.favoured && w.path.clause.any fun c => decide (c.idx ≠ 0))

/-- An instruction retires and the path continues at the next word. -/
def retire (s : State) (a : AgentRef) : State :=
  let s1 := updCur s a fun w =>
    { countRetired a w with
      status := (if a.lane.isNone && w.status = .retry then .running else w.status), qpass := false
      favoured := if a.lane.isNone then w.favouredAfter else w.favoured }
  match (findWave s1 a.tid a.wave).bind (·.pathOf a.lane) with
  | none => s1
  | some p =>
    match p.clause with
    | none => s1
    | some c =>
      let s2 := updPath s1 a fun p => { p with clause := some { c with idx := c.idx + 1 } }
      if c.idx + 1 < c.words.length then s2 else endClause s2 a

/-- An instruction that has placed its path retires; it stood last in its clause. -/
def retireMoved (s : State) (a : AgentRef) : State :=
  updCur s a fun w =>
    match a.lane with
    | none =>
      { (countRetired a w).count 0 1 with
        holdA := none, holdB := none, lastIssue := s.now, favoured := w.favouredAfter, qpass := false
        status := if w.status = .retry then .running else w.status }
    | some _ => countRetired a w

/-- The helper runs the instruction for continuations (R126). -/
def helperRuns (i : Instr) : Bool :=
  match (formOf i).eng with
  | .vec | .xfn | .lsu => true
  | _ => match i with | .bra _ | .braFar _ | .brx _ | .call _ | .icall _ | .ret _ | .join _ => true | _ => false

/-- A word that ends a skid: no memory instruction in front of it may still fault when it retires (R175): FENCE, and the must-be-last SEQ and SYS words
that are no transfers of control. -/
def endsSkid (i : Instr) : Bool :=
  match i with
  | .fence _ | .join _ | .bar _ | .barc _ | .yield _ | .exit _ | .waitf _ | .regget _ | .tbegin _ | .tend _ | .tabort _ | .sleep _
  | .waits _ | .eject _ | .trap _ | .rtt _ | .bkpt _ | .stopw _ => true
  | _ => false

/-- The operation moves a tile (R362, R363). -/
def OpKind.isTile : OpKind → Bool
  | .accLoad _ _ | .accStore _ => true
  | _ => false

/-- A translation fault parks the operation, not its wave (R294, R362). -/
def OpKind.parksAlone (k : OpKind) : Bool := k.isCopy || k.isTile

/-- The operations of the load-store engine. -/
def OpKind.isLsu : OpKind → Bool
  | .load _ _ | .loadScalar _ _ _ | .loadBound _ _ | .store _ | .scratchStore | .atomic _ _ | .rowOpen _ _ _ _ | .lnwb => true
  | _ => false

/-- An operation of an ejected lane whose path does not run as a serial path now: its fault is not delivered yet (R126, R170). -/
def waitsItsTurn (w : Wave) (o : Op) : Bool :=
  o.lane.isSome && ((w.conts.any fun c => c.path.pid == o.pid) || w.stack.any fun d => d.pending.any fun p => p.pid == o.pid)

/-- A memory instruction of the wave, or of the continuation that issues, has faulted, or has issued and not passed translation (R175). One that
parks only its operation does not count (R294), nor for the wave one whose path has still to run. -/
def faultPending (s : State) (w : Wave) (lane : Option Nat) : Bool :=
  let mine (o : Op) : Bool := match lane with
    | none => !waitsItsTurn w o
    | some _ => some o.pid == (w.pathOf lane).map (·.pid)
  (waveOps s w.tid w.ix).any fun o =>
    !o.kind.parksAlone && mine o
      && (o.phase = .faulted || (o.phase = .issued && o.kind.isLsu && o.accs.any fun x => !x.done && decide (x.level = .g)))

/-- The tiles that a wave may name: `.acc` of them for a MATRIX wave, none for others (R114). -/
def accLimit (e : Env) : Nat := if e.w.role = .matrix then e.t.k.acc else 0

/-- The lane groups lie in blocks the wave holds (R118, R120). -/
def blocksHeld (w : Wave) (gs : List (Nat × Nat)) : Bool := gs.all fun g => decide (g.1 + g.2 ≤ 64 + 64 * w.blocks)

/-- The feature bit was accepted (R48). -/
def featOn (s : State) (k : Nat) : Bool := s.featAcc.getLsbD k

/-- The subcodes that a word breaks in this state: by its encoding, and INDEX, BLOCK and FEATURE by what the wave holds and the
driver accepted (R33, R48, R114). -/
def issueErrors (s : State) (e : Env) (i : Instr) : List Nat :=
  let fm := formOf i
  fm.errors e.f
    ++ (if (tileIndices fm e.f).all fun k => decide (k < accLimit e) then [] else [subIndex])
    ++ (if blocksHeld e.w (laneGroups fm e.f) then [] else [subBlock])
    ++ (match fm.feature with
        | some k => if featOn s k then [] else [subFeature]
        | none => if featOn s 0 then [] else [subFeature])

/-- A scalar source that a word may name: space 01, below s64. A check of its value needs one (R33). -/
def scalarAt (sp : BitVec 2) (ix : BitVec 8) : Bool := decide (sp = 1) && decide (ix.toNat < 64)

/-- A ROWOPEN of the same path waits for its grant or refusal: nothing younger issues (R235). The wave's own waits in its status. -/
def rowWaits (s : State) (e : Env) : Bool :=
  e.who.lane.isSome && (waveOps s e.who.tid e.who.wave).any fun o =>
    o.pid == e.p.pid && (match o.kind with | .rowOpen _ _ _ _ => decide (o.phase = .issued ∨ o.phase = .faulted) | _ => false)

/-- The first of two fault orders: MAT checks the encoding, the feature, INDEX, BLOCK in turn (R357); elsewhere the lowest subcode is
reported (R33). -/
def firstError (s : State) (e : Env) (i : Instr) : Option Nat :=
  let fm := formOf i
  if fm.eng = .mat then
    match (fm.errors e.f).min?, fm.feature with
    | some x, _ => some x
    | none, ft =>
      if !featOn s (ft.getD 0) then some subFeature
      else if !((tileIndices fm e.f).all fun k => decide (k < accLimit e)) then some subIndex
      else if !blocksHeld e.w (laneGroups fm e.f) then some subBlock
      else none
  else (issueErrors s e i).min?

/-- A storage or store code names no format: RAW is 0, and FMT is none of 1 to 8 (R56, R356). -/
def badCode (k : Nat) : Bool := decide (k < 128) && (decide (k % 16 = 0) || decide (8 < k % 16))

/-- The word's encoding is legal but for a storage code that names no format: FORMAT, CODE, which comes before the later checks of R357 (R356). -/
def badStorage (i : Instr) (f : Fields) : Bool :=
  match i with
  | .accld _ => ((formOf i).errors f).isEmpty && badCode f.c.toNat
  | .accst _ => ((formOf i).errors f).isEmpty && badCode f.d.toNat
  | _ => false

/-- What an instruction's own rules still find wrong with a word when its form is legal: further ILLEGAL_OP subcodes that compete
with those of R33 ("the lowest subcode is reported"). -/
abbrev Extra := Env → State → List Nat

/-- No further checks. -/
def noExtra : Extra := fun _ _ => []

/-- Where the spilled entry of a stack of depth `n` goes: its lane and slice offset (R127). -/
def spillPlace (t : Team) (n : Nat) : Nat × Int :=
  let k := n - 33
  (k % 32, (t.k.laneslice : Int) - 16 * (1 + (k / 32 : Nat)))

/-- A push onto a stack of `n` levels would need a negative offset. -/
def spillFails (t : Team) (n : Nat) : Bool := decide (33 ≤ n + 1) && decide ((spillPlace t (n + 1)).2 < 0)

/-- The mark of a word that would split a path whose stack cannot spill (R127): FIELD, with the depth in `%xaddr`. -/
abbrev subSpill : Nat := 256 + subField

/-- What a word that splits its path breaks when the stack cannot spill (R127). -/
def spillErrors (e : Env) : List Nat := if spillFails e.t e.w.stack.length then [subSpill] else []

/-- The lowest of the subcodes that a word breaks, as ILLEGAL_OP reports it (R33): `%xaddr` is 0 (R170), or for a failed spill alone the depth that
the stack would have reached (R127). -/
def reported (e : Env) (subs : List Nat) : Option FaultInfo :=
  ((subs.map (· % 256)).min?).map fun k => ⟨.illegalOp, k, if subs.contains k then 0 else BitVec.ofNat 64 (e.w.stack.length + 1)⟩

/-- The registers that a word's D field writes, as keys: lane registers by number, scalars from 256. -/
def destKeys (fm : Form) (f : Fields) : List Nat :=
  match fm.d.code, fm.d.lane with
  | none, some (_, n) => if f.dsp = 0 then (upto n).map (f.d.toNat + ·) else if f.dsp = 1 then [256 + f.d.toNat] else []
  | _, _ => if f.dsp = 1 then [256 + f.d.toNat] else []

/-- The register that a source field names, as a key. -/
def srcKey (sp : BitVec 2) (ix : BitVec 8) : Option Nat :=
  if sp = 0 then some ix.toNat else if sp = 1 then some (256 + ix.toNat) else none

/-- The latches after an instruction (R22, R39): a slot whose hold bit is set on a register that the instruction does not write
keeps it. -/
def latch (e : Env) (w : Wave) : Wave :=
  let wrote := destKeys (formOf e.i) e.f
  let keep (h : Bool) (key : Option Nat) : Option Nat :=
    match key with
    | some k => if h && !(wrote.contains k) then some k else none
    | none => none
  match e.who.lane with
  | none => { w with holdA := keep e.f.ah (srcKey e.f.asp e.f.a), holdB := keep e.f.bh (srcKey e.f.bsp e.f.b) }
  | some _ => w

/-- The lane registers of one field. -/
def laneRegs (sf : SlotForm) (sp : BitVec 2) (ix : BitVec 8) : List Nat :=
  match sf.code, sf.lane with
  | none, some (_, n) => if sp = 0 then (upto n).map (ix.toNat + ·) else []
  | _, _ => []

/-- The lane registers that a word reads from the banks (R121): not those a latch holds, each named once. -/
def bankReads (e : Env) : List Nat :=
  let fm := formOf e.i
  let a := if e.w.holdA.isSome && e.w.holdA == srcKey e.f.asp e.f.a then [] else laneRegs fm.a e.f.asp e.f.a
  let b := if e.w.holdB.isSome && e.w.holdB == srcKey e.f.bsp e.f.b then [] else laneRegs fm.b e.f.bsp e.f.b
  let d := match e.i with
    | .pkfma _ | .dot2 _ | .dot4 _ | .dot8 _ => laneRegs fm.d e.f.dsp e.f.d
    | _ => []
  (a ++ b ++ laneRegs fm.c e.f.csp e.f.c ++ d).dedup

/-- The extra clk of bank conflicts (R121). -/
def extraClk (e : Env) : Nat :=
  match (formOf e.i).eng with
  | .vec | .xfn => let r := bankReads e; r.length - ((r.map (· % 6)).dedup).length
  | _ => 0

/-- The word is in its uniform form: scalar sources, and a scalar or, for DCMP, a predicate destination (R272, R276). -/
def isUniform (e : Env) : Bool :=
  decide (e.f.asp = 1) && (decide (e.f.dsp = 1) || (match e.i with | .dcmp _ => decide (e.f.bsp = 1 ∨ e.f.bsp = 2) | _ => false))

/-- The clk in which an instruction issues, without bank conflicts (R121, R272). -/
def baseClk (e : Env) : Nat :=
  if isUniform e then 1
  else match e.i with
    | .dadd _ | .dmul _ | .dfma _ | .dcmp _ => 2
    | .rcp _ | .rsq _ | .sqrt _ | .exp2 _ | .log2 _ | .cvt _ | .cvtfi _ | .cvtif _ => 4
    | .sin _ | .cos _ | .tanh _ | .divf _ => 8
    | .ddiv _ => 16
    | _ => 1

/-- The latches and the clk counts of an instruction that issues (R39, R168). -/
def noteIssue (e : Env) (w : Wave) : Wave :=
  match e.who.lane with
  | none => ((latch e w).count 2 (baseClk e + extraClk e)).count 4 (extraClk e)
  | some _ => w

/-- The end of an instruction. -/
def conclude (s : State) (e : Env) : Verdict → State
  | .ok s' => retire (updCur s' e.who (noteIssue e)) e.who
  | .moved s' => retireMoved (updCur s' e.who (noteIssue e)) e.who
  | .stall s' => s'
  | .trap fi => deliver s e.who fi (preciseAt e.va)
  | .trapAt fi va => deliver s e.who fi (preciseAt va)

/-- The instruction stays where it is and is tried again; a continuation's stall is not the wave's. -/
def standStill (s : State) (e : Env) : State :=
  match e.who.lane with
  | none => updCur s e.who fun w => { w with status := if w.status = .running then .retry else w.status }
  | some _ => s

/-- The issue of an instruction word: recall of a continuation that the helper does not run it for (R126), the end of a skid (R175),
the checks that every word shares (R33), then the instruction's own meaning. -/
def issueWith (i : Instr) (extra : Extra) (s : State) (body : Env → State → Verdict) :
    Host.Outcome State Fault Refusal :=
  match fieldsOf i with
  | none => .fault .notEnabled
  | some f =>
    match envOf s i f with
    | none => .fault .noWave
    | some e =>
      if !(mayIssue e.w e.who.lane || mayFinish e.sw e.w e.who.lane) then .fault .notEnabled
      else
        match e.who.lane, helperRuns i with
        | some l, false => .next (recallLane s e.who l)
        | _, _ =>
          if rowWaits s e || (endsSkid i && faultPending s e.w e.who.lane) then
            .next (standStill s e)
          else
            match firstError s e i with
            | some sub =>
              .next (conclude s e (if badStorage i f then faulting .format 1 0
                else match reported e ((if (formOf i).eng = .mat then [] else extra e s) ++ [sub]) with
                  | some fi => .trap fi
                  | none => illegal sub))
            | none =>
              match reported e (extra e s) with
              | some fi => .next (conclude s e (.trap fi))
              | none => .next (conclude s e (body e s))

/-- The issue of a word with no checks of its own. -/
def issue (i : Instr) (s : State) (body : Env → State → Verdict) : Host.Outcome State Fault Refusal :=
  issueWith i noExtra s body

/-- The instruction is tried again later. -/
def tryAgain (s : State) (e : Env) : Verdict := .stall (standStill s e)

/-- The wave parks at its word with its active lanes recorded (R25); a continuation is tried again instead. -/
def parkAs (s : State) (e : Env) (st : Status) : Verdict :=
  match e.who.lane with
  | none => .stall (updCur s e.who fun w => w.park st e.act)
  | some _ => .stall s

/-- The wave waits with a status of its own; a continuation is tried again instead. -/
def waitAs (s : State) (e : Env) (st : Status) : Verdict :=
  match e.who.lane with
  | none => .stall (updCur s e.who fun w => { w with status := st })
  | some _ => .stall s

end Sys2Proof.Machine
end

