-- ==== Sys2Proof/Machine/Capture.lean ====
section
/-!
DEFINITION. Capture logs (R408, R409): 48-byte entries in the model's own layout (log entry 30), written after one another and read
back by a replay.
-/

namespace Sys2Proof.Machine

/-- What an entry of a log is. -/
inductive LogKind where
  /-- the number of region entries that follow, each a hash, a VA and a length -/
  | regions
  /-- a packet of the queue; its sectors follow -/
  | packet
  /-- a TSTAMP value -/
  | stamp
  /-- a SWEEP without DET -/
  | unreplayable
  | ending
  | full
  /-- the SWEEP of a graph's node starts: its sweep's tag, the node, the iteration, and the number of the GRAPH's packet -/
  | node
  deriving DecidableEq, Repr

/-- The code of an entry's kind. -/
def LogKind.code : LogKind → Nat
  | .regions => 1 | .packet => 2 | .stamp => 3 | .unreplayable => 4 | .ending => 5 | .full => 6 | .node => 7

/-- An entry: kind, how many sectors or regions follow, a sweep's tag, `%teamix` and wave, a count or tick, and a value. -/
structure LogEntry where
  kind : LogKind
  n : Nat
  tag : Nat
  team : Nat
  wave : Nat
  count : Nat
  value : Nat
  deriving DecidableEq, Repr

/-- The 48 bytes of an entry. -/
def LogEntry.bytes (x : LogEntry) : List Byte :=
  leBytes 1 x.kind.code ++ leBytes 1 x.n ++ leBytes 2 0 ++ leBytes 4 x.tag ++ leBytes 4 x.team ++ leBytes 4 x.wave ++ leBytes 8 x.count
    ++ leBytes 8 x.value ++ leBytes 16 0

/-- A number from some of an entry's bytes. -/
def fieldAt (bs : List Byte) (i n : Nat) : Nat := leNat ((bs.drop i).take n)

/-- The entry that 48 bytes hold. -/
def readEntry (bs : List Byte) : Option LogEntry :=
  let kind : Option LogKind := match fieldAt bs 0 1 with
    | 1 => some .regions | 2 => some .packet | 3 => some .stamp | 4 => some .unreplayable | 5 => some .ending | 6 => some .full
    | 7 => some .node
    | _ => none
  kind.map fun k => ⟨k, fieldAt bs 1 1, fieldAt bs 4 4, fieldAt bs 8 4, fieldAt bs 12 4, fieldAt bs 16 8, fieldAt bs 24 8⟩

/-- A number read through a queue's translation. -/
def queueNat (s : State) (q : Queue) (va n : Nat) : Option Nat :=
  match queueAddr s q va n .load with
  | .ok a _ => some (memNat s.mem a n)
  | _ => none

/-- `n` bytes read through a queue's translation. -/
def queueBytes (s : State) (q : Queue) (va n : Nat) : Option (List Byte) :=
  match queueAddr s q va n .load with
  | .ok a _ => some (bytesAt s.mem a n)
  | _ => none

/-- `n` sectors read through a queue's translation, or the first that is not reached. -/
def queueSectors (s : State) (q : Queue) (va n : Nat) : Except (Nat × AccRes) (List Byte) :=
  (upto n).foldr (fun k acc =>
    match queueAddr s q (va + 48 * k) 48 .load with
    | .ok a _ => acc.map (bytesAt s.mem a 48 ++ ·)
    | r => .error (va + 48 * k, r)) (.ok [])

/-- The first sector that the next `n` entries of an active capture go to and that cannot be written: a wait, or a fault (R426). -/
def logMeets (s : State) (q : Queue) (n : Nat) : Option (Nat × AccRes) :=
  match q.capture with
  | none => none
  | some (va, size, used) =>
    let k := if used + 48 * n + 48 ≤ size then n else if used + 48 ≤ size then 1 else 0
    (upto k).findSome? fun i =>
      match queueAddr s q (va + used + 48 * i) 48 .store with
      | .ok _ _ => none
      | r => some (va + used + 48 * i, r)

/-- One sector of a log written; `logMeets` has found it in reach. -/
def putSector (q : Queue) (acc : State × Nat) (bs : List Byte) : State × Nat :=
  match queueAddr acc.1 q acc.2 48 .store with
  | .ok a _ => ((storeAfter (queueNoted acc.1 q acc.2 48 .store) a bs acc.1.now).1, acc.2 + 48)
  | _ => (acc.1, acc.2 + 48)

/-- Sectors appended to an active capture; when they do not fit before a last entry, the capture ends with a full entry (R408). -/
def logAppend (s : State) (q : Queue) (sectors : List (List Byte)) : State :=
  match q.capture with
  | none => s
  | some (va, size, used) =>
    if used + 48 * sectors.length + 48 ≤ size then
      let s1 := (sectors.foldl (putSector q) (s, va + used)).1
      updQueue s1 q.q fun q => { q with capture := some (va, size, used + 48 * sectors.length) }
    else
      let s1 := if used + 48 ≤ size then (putSector q (s, va + used) (LogEntry.bytes ⟨.full, 0, 0, 0, 0, 0, 0⟩)).1 else s
      updQueue s1 q.q fun q => { q with capture := none }

/-- The entries of a log from `va`, at most `n` sectors, up to its end, each with its VA; `skip` sectors belong to the entry before. -/
def readLog (s : State) (q : Queue) : Nat → Nat → Nat → List (LogEntry × Nat)
  | 0, _, _ => []
  | n + 1, skip + 1, va => readLog s q n skip (va + 48)
  | n + 1, 0, va =>
    match (queueBytes s q va 48).bind readEntry with
    | none => []
    | some x =>
      if x.kind = .ending || x.kind = .full then [(x, va)]
      else (x, va) :: readLog s q n (if x.kind = .packet || x.kind = .regions then x.n else 0) (va + 48)

/-- The tag that the sweep of a node of a replayed graph had as it was captured: that of the node's start in the iteration; 0, which no sweep
has, where the log holds none (R409, log entry 30). -/
def loggedNode (s : State) (q : Queue) (graph node arms : Nat) : Nat :=
  match q.replay with
  | none => 0
  | some (va, size, _) =>
    (((readLog s q (size / 48) 0 va).find? fun x =>
      x.1.kind = .node && x.1.team == node && x.1.count == arms && x.1.value == graph).map (·.1.tag)).getD 0

/-- The value that a replayed TSTAMP returns, if it was logged (R166). -/
def loggedStamp (s : State) (q : Queue) (tag team wave count : Nat) : Option Nat :=
  match q.replay with
  | none => none
  | some (va, size, _) =>
    ((readLog s q (size / 48) 0 va).find? fun x =>
      x.1.kind = .stamp && x.1.tag == tag && x.1.team == team && x.1.wave == wave && x.1.count == count).map (·.1.value)

end Sys2Proof.Machine
end

