-- ==== Sys2Proof/Machine/Faults.lean ====
section
/-!
DEFINITION. Translation faults on their way to a driver: the record of a first-stage fault (R178), the fault ring (R179), first
touch (R215), second-stage faults (R180), and the marking of an access that has faulted (R175, R176).
-/

namespace Sys2Proof.Machine

/-- The wave, team and context of an operation. -/
def opEnv (s : State) (o : Op) : Option (Wave × Team × Context) :=
  match findWave s o.tid o.wave, findTeam s o.tid with
  | some w, some t => (teamCtx s t).map fun c => (w, t, c)
  | _, _ => none

/-- The state with the access of one lane of an operation changed. -/
def updAcc (s : State) (id lane : Nat) (g : Access → Access) : State :=
  updOp s id fun o => { o with accs := o.accs.map fun x => if x.lane == lane then g x else x }

/-- An access takes a fault, and its operation is faulted. -/
def holdFault (s : State) (o : Op) (lane : Nat) (fi : FaultInfo) : State :=
  updOp (updAcc s o.id lane fun x => { x with fault := some fi }) o.id fun o => { o with phase := .faulted }

/-- An access has met a fault that is delivered. The access of a wave that has ended has nowhere to report it and is over (R153). -/
def markFault (s : State) (o : Op) (lane : Nat) (fi : FaultInfo) : State :=
  match findWave s o.tid o.wave with
  | none => s
  | some w => if w.status = .ended then updAcc s o.id lane fun x => { x with done := true } else holdFault s o lane fi

/-- The 48 bytes of a fault record (R178), REPLY 0. -/
def faultBytes (cid : Nat) (r : FaultRecord) (seq : Nat) : List Byte :=
  leBytes 8 r.va ++ leBytes 8 r.time ++ leBytes 2 cid ++ leBytes 2 r.asid ++ leBytes 1 r.kind ++ leBytes 1 r.vdie ++ leBytes 2 r.core
    ++ leBytes 8 seq ++ leBytes 8 0 ++ leBytes 8 0

/-- The physical address of the fault ring's slot for record `n` (R179), if the ring can be reached. -/
def faultSlot (s : State) (c : Context) (n : Nat) : Option Nat :=
  match plainAccess s c (c.fring + 48 * (n % max 1 c.fcount)) 48 .store with
  | .ok a _ => some a
  | _ => none

/-- The translation of a write is recorded where it is the first writable one of its granule (R207). -/
def aliasNoted (s : State) (c : Context) (va n : Nat) : State :=
  match plainAccess s c va n .store with
  | .ok a pte => noteAlias s c pte (a / 49152) (va / 49152)
  | _ => s

/-- One pending record is written if its slot is free, and the fault interrupt is raised (R179). -/
def writeRecord (cid : Nat) (s : State) (r : FaultRecord) : State :=
  match ctxOf s cid with
  | none => s
  | some c =>
    if r.second || r.seq.isSome then s
    else
      match faultSlot s c c.nextSeq with
      | none => s
      | some a =>
        if homeNat s (a + 40) 8 = 3 then
          let (s1, tt) := storeAfter (aliasNoted s c (c.fring + 48 * (c.nextSeq % max 1 c.fcount)) 48) a (faultBytes cid r c.nextSeq) s.now
          let s2 := updCtx s1 cid fun c =>
            { c with
              faults := c.faults.map fun x => if x = r then { x with seq := some c.nextSeq, written := tt } else x
              nextSeq := c.nextSeq + 1 }
          { s2 with irqs := s2.irqs ++ [(c.fport, c.fvec)] }
        else s

/-- Every record that waits for its slot is tried, in order. -/
def writeRecords (s : State) (cid : Nat) : State :=
  match ctxOf s cid with
  | none => s
  | some c => c.faults.foldl (writeRecord cid) s

/-- The step on the entry that R215 gives first touch: HINT takes the faulting engine's virtual die and FT becomes 2. -/
def touchEntry (s : State) (c : Context) (va vdie : Nat) : State :=
  match translate s c (va / 49152) with
  | .leaf _ _ entry =>
    let pte := memNat s.mem entry 8
    if bitsOf pte 54 53 = 1 then
      let cleared := pte - bitsOf pte 54 50 * 2 ^ 50
      writeNow s entry (leBytes 8 (cleared + 2 * 2 ^ 53 + vdie % 8 * 2 ^ 50))
    else s
  | _ => s

/-- A translation fault on the granule of `va` is recorded for a waiter, joining an unanswered record of the same stage on that
granule (R178 to R180, R215, R216). A first touch by the packet cores, which lie on no virtual die, leaves an open value in HINT. -/
def noteFault (s : State) (c : Context) (va kind vdie core sub : Nat) (second : Bool) (ucode : Code) (usub : Nat) (w : Waiter) : State :=
  let (x, s0) := if vdie = 0xFF then takeFree s else (BitVec.ofNat 64 vdie, s)
  let s1 := if sub = 4 then touchEntry s0 c va x.toNat else s
  let g := va / 49152
  let open_ (r : FaultRecord) : Bool := r.granule == g && r.second == second && r.answer.isNone
  let joined := c.faults.any open_
  let s2 := updCtx s1 c.cid fun c =>
    { c with faults :=
        if joined then
          c.faults.map fun r =>
            if open_ r then { r with waiters := if r.waiters.any (·.1 = w) then r.waiters else r.waiters ++ [(w, va)] }
            else r
        else c.faults ++ [⟨none, 0, va, s.now, c.asid, kind, vdie, core, g, sub, second, ucode, usub, [(w, va)], none⟩] }
  writeRecords s2 c.cid

/-- A byte of a context is read as poisoned: in the copy or home line that serves a core's access to it, or where its translation home finds it
(R202, R219). -/
def poisonedByte (s : State) (c : Context) (seat : Nat) (k : AccKind) (v : Nat) : Bool :=
  match servedBy s c seat (v / 192) k with
  | some (pl, _, bad) => bad.contains ((192 * pl + v % 192) / 48) || (sectorPoison s ((192 * pl + v % 192) / 48)).isSome
  | none =>
    match translate s c (v / 49152) with
    | .leaf _ pgn _ => (sectorPoison s ((49152 * pgn + v % 49152) / 48)).isSome
    | _ => false

/-- The first faulting byte of an access that meets a fault (R219), of those from offset `off` on; `bad` says which bytes are poisoned. -/
def faultAddr (va : Int) (off n : Nat) (code : Code) (sub : Nat) (bad : Nat → Bool) : Word :=
  if code = .range && sub = 1 then BitVec.ofInt 64 (max va Config.vaTop)
  else if code = .poison then
    match (upto n).find? fun i => decide (off ≤ i) && bad (va.toNat + i) with
    | some i => BitVec.ofInt 64 (va + i)
    | none => BitVec.ofInt 64 va
  else BitVec.ofInt 64 va

/-- No byte is poisoned. -/
def noPoison : Nat → Bool := fun _ => false

/-- What an access of an operation meets is set down: a fault to deliver, or a wait for a driver. -/
def failAccess (s : State) (o : Op) (t : Team) (c : Context) (kind : Nat) (x : Access) (va : Int) (r : AccRes) : State :=
  match r with
  | .ok _ _ => s
  | .fault code sub =>
    let k : AccKind := match o.kind with | .atomic _ _ => .atomic | _ => .load
    let off := match o.kind with | .load _ _ | .loadScalar _ _ _ | .loadBound _ _ | .accLoad _ _ => x.data2 | _ => 0
    markFault s o x.lane ⟨code, sub, faultAddr va off x.n code sub (poisonedByte s c (seatOf t) k)⟩
  | .page sub second ucode usub =>
    holdFault (noteFault s c va.toNat kind t.vdie t.core sub second ucode usub (.op o.id)) o x.lane ⟨ucode, usub, BitVec.ofInt 64 va⟩

end Sys2Proof.Machine
end

