-- ==== Sys2Proof/Machine/Clause.lean ====
section
/-!
DEFINITION. Clause headers: fetch (R49 to R51), the steps of R28, placement (R43, R44), roles (R14), the wait on flags and the return
into the middle of a clause (R52).
-/

namespace Sys2Proof.Machine

/-! ## Fetch -/

/-- The copy of a code word that a core still holds, where the fetch finds it (R169, log entry 9). -/
def heldCode (s : State) (c : Context) (seat va : Nat) : Option Word :=
  if !s.inputs.stale then none
  else (s.codeCopies.find? fun y => y.core == seat && tagsMatch c va y.cid y.asid y.va).map (·.word)

/-- The mark of a fetch that R207 refuses, above the SUB bits of R51. -/
abbrev fetchAlias : Nat := 256

/-- One code word, or the SUB bits of the FETCH fault (R51), or the mark of an ALIAS (R207): a copy that the core holds, or memory. A page whose FT
is not 0 is taken as absent, and its first touch is not recorded, since a fetch parks on nothing (R49, log entry 84). -/
def codeWord (s : State) (c : Context) (seat va : Nat) : Except Nat Word :=
  if va + 8 > Config.vaTop then .error 8
  else
    match heldCode s c seat va, translate s c (va / 49152) with
    | some w, _ => .ok w
    | none, .leaf pte pgn _ =>
      let pa := 49152 * pgn + va % 49152
      if bitsOf pte 54 53 ≠ 0 then .error 0
      else if bitsOf pte 60 60 = 0 then .error 2
      else if (extentFault s pa).isSome then .error 0
      else if aliasFault s c pte pgn (va / 49152) then .error fetchAlias
      else if (firstPoison s pa 8).isSome then .error 4
      else .ok (BitVec.ofNat 64 (memNat s.mem pa 8))
    | none, .poisoned _ => .error 4
    | none, _ => .error 0

/-- The table entry that maps a VA, to tell whether two granules lie in one page (R49). -/
def pageEntry (s : State) (c : Context) (va : Nat) : Option Nat :=
  match translate s c (va / 49152) with
  | .leaf _ _ a => some a
  | _ => none

/-- `n` code words from `va`, or SUB and `%xaddr` of the fault at a header `hdr`. -/
def codeWords (s : State) (c : Context) (seat hdr : Nat) : Nat → Nat → Except (Nat × Nat) (List Word)
  | _, 0 => .ok []
  | va, n + 1 =>
    match codeWord s c seat va with
    | .error sub =>
      let same := va / 49152 = hdr / 49152 || ((pageEntry s c va).isSome && pageEntry s c va == pageEntry s c hdr)
      .error (if same then (sub, hdr) else (sub + 1, 49152 * (va / 49152)))
    | .ok w =>
      match codeWords s c seat hdr (va + 8) n with
      | .error e => .error e
      | .ok r => .ok (w :: r)

/-- The whole clause at `va`, captured at once (R49, R50). -/
def fetchClause (s : State) (c : Context) (seat va : Nat) : Except (Nat × Nat) Clause :=
  match codeWord s c seat va with
  | .error sub => .error (sub, va)
  | .ok h =>
    match codeWords s c seat va (va + 8) ((headerOfWord h).cnt.toNat + 1) with
    | .error e => .error e
    | .ok ws => .ok ⟨va, h, ws, 0⟩

/-- One word of a fetched clause is kept by the core that fetched it; the translation of its page is recorded (R207). -/
def keepWord (c : Context) (seat : Nat) (s : State) (x : Nat × Word) : State :=
  match translate s c (x.1 / 49152) with
  | .leaf pte pgn _ =>
    let s1 := noteAlias s c pte pgn (x.1 / 49152)
    { s1 with codeCopies := ⟨seat, c.cid, asidTag c pte, x.1, x.2⟩ :: s1.codeCopies.filter fun y =>
        !(y.core == seat && tagsMatch c x.1 y.cid y.asid y.va) }
  | _ => s

/-- The words of a clause that has been fetched are kept (R169). -/
def keepClause (s : State) (c : Context) (seat : Nat) (k : Clause) : State :=
  ((k.hdr :: k.words).zipIdx.map fun q => (k.hdrVa + 8 * q.2, q.1)).foldl (keepWord c seat) s

/-! ## Checks -/

/-- The instructions that must stand last (R44), by opcode. -/
def mustBeLast (op : Nat) : Bool :=
  [0x90, 0x91, 0x92, 0x93, 0x94, 0x95, 0xA6, 0x96, 0x97, 0x98, 0x99, 0x9A, 0x9B, 0x9D, 0x9E, 0x9F, 0xA0, 0xA1, 0xA5,
   0xB0, 0xB1, 0xB6, 0xB7].contains op

/-- The class that ENG names; none for 7 (R27). -/
def engOfCode (k : Nat) : Option Engine :=
  match k with
  | 0 => some .vec | 1 => some .xfn | 2 => some .lsu | 3 => some .mat | 4 => some .cpy | 5 => some .seq | 6 => some .sys
  | _ => none

/-- The ILLEGAL_CLAUSE subcodes that one word of a clause breaks: PLACEMENT and ORDER (R43, R44). A SEQ word that is not the last of a clause of
another class breaks R44's place, ORDER, and not a second time R43's table (log entry 83). -/
def wordPlacement (eng : Engine) (isLast : Bool) (w : Word) : List Nat :=
  match classOf w with
  | none => []
  | some k =>
    (if k = .vec || k = .seq || k = eng then [] else [4])
      ++ (if k = .seq && eng ≠ .seq && !isLast then [5] else [])
      ++ (if mustBeLast (opOfWord w).toNat && !isLast then [5] else [])

/-- The subcodes of every word of a clause. -/
def placementErrors (eng : Engine) (ws : List Word) : List Nat :=
  (ws.zipIdx).flatMap fun q => wordPlacement eng (q.2 + 1 == ws.length) q.1

/-- The ILLEGAL_CLAUSE subcode of a clause, if it breaks a check of R28 step 2. -/
def clauseFault (k : Clause) : Option Nat :=
  let h := headerOfWord k.hdr
  if k.hdr.extractLsb' 62 2 ≠ 3 then some 1
  else
    match engOfCode h.eng.toNat with
    | none => some 2
    | some eng =>
      if k.hdr.extractLsb' 0 32 ≠ 0 then some 3 else (placementErrors eng k.words).min?

/-- The roles that may issue a class of clause (R14). -/
def roleMay (r : Role) (eng : Engine) : Bool :=
  match eng with
  | .vec | .seq | .sys | .lsu => true
  | .xfn => decide (r = .vector)
  | .mat => decide (r = .matrix)
  | .cpy => decide (r = .copy)

/-- BKSKIP as it is in force (R46, R266). -/
def bkskip (w : Wave) : Bool := w.skip

/-- The wave with BKSKIP cleared. -/
def clearSkip (w : Wave) : Wave := { w with skip := false, xcause := w.xcause &&& ~~~0x10000 }

/-! ## Yield points (R154, R183) -/

/-- The wave stands in its clause at a word of an opcode. -/
def standsAtOp (w : Wave) (op : Nat) : Bool :=
  match w.path.clause with
  | some c => (match c.words[c.idx]? with | some x => (opOfWord x).toNat == op | none => false)
  | none => false

/-- The wave is at a yield point while it waits: in BAR, BARC (in front of a DET quantum boundary or a closed generation as well), JOIN, REGGET, SLEEP, WAITS, WAITF, at a rendezvous latch or an LDT, parked on
a replayable fault, or on the WAIT flags of a YP header (R28, R154, R183). -/
def atYield (w : Wave) : Bool :=
  match w.status with
  | .barrier _ | .join | .regget _ | .sleep _ | .waits _ _ _ _ | .latch | .ldt _ _ | .parked => true
  | .flagWait => (match w.path.clause with | some k => (headerOfWord k.hdr).yp | none => false)
  | .retry => standsAtOp w 0x9A || standsAtOp w 0x97
  | .quantum => standsAtOp w 0x96 || standsAtOp w 0x97
  | _ => false

/-- A pre-emption request holds the wave at the yield point where it waits: its wait does not end (R183). -/
def heldAtYield (w : Wave) : Bool := w.preq && atYield w

/-- The wave runs its trap handler with the mask set, which suspends its deadline (R185). -/
def inHandler (w : Wave) : Bool := w.frame.isSome && w.trapMask

/-- A request's deadline has come for the wave, or in its handler its allowance has run out: it issues no more until it has been saved (R184, R185). -/
def expired (w : Wave) : Bool := w.preq && if inHandler w then decide (w.allowance = 0) else decide (w.deadline = some 0)

/-! ## A return into a clause (R52) -/

/-- The header found by reading backwards from `va`, across at most 16 words. A word met there that cannot be fetched ends the search as one that
finds no header, so that RTT raises RESUME: R52 does not say whether RESUME or FETCH is raised (the model's choice, log entry 96). -/
def findHeader (s : State) (c : Context) (seat va : Nat) : Nat → Option Nat
  | 0 => none
  | n + 1 =>
    if va < 8 then none
    else
      match codeWord s c seat (va - 8) with
      | .error _ => none
      | .ok w => if w.extractLsb' 62 2 = 3 then some (va - 8) else findHeader s c seat (va - 8) n

/-- What stands at a VA to which a return leads. -/
inductive Landing where
  /-- a header, or nothing that can be fetched: R28 runs there -/
  | header
  /-- a word of a clause, captured, at its index -/
  | inside (k : Clause)
  /-- the clause cannot be fetched: SUB and `%xaddr` -/
  | noFetch (sub addr : Nat) (hdr : Nat)
  /-- no header, or a word beyond its count -/
  | lost

/-- Where a return to `va` lands (R52). -/
def landing (s : State) (c : Context) (seat va : Nat) : Landing :=
  match codeWord s c seat va with
  | .error _ => .header
  | .ok w =>
    if w.extractLsb' 62 2 = 3 then .header
    else
      match findHeader s c seat va 16 with
      | none => .lost
      | some h =>
        match fetchClause s c seat h with
        | .error (sub, a) => .noFetch sub a h
        | .ok k =>
          let ix := (va - h) / 8 - 1
          if ix < k.words.length then .inside { k with idx := ix } else .lost

/-! ## The steps of R28 -/

/-- The agent's path takes a clause. -/
def enterClause (s : State) (a : AgentRef) (k : Clause) : State :=
  updCur s a fun w =>
    let w := w.updPath a.lane fun p => { p with clause := some k, mid := false, grp := false }
    match a.lane with
    | none => { w with holdA := none, holdB := none, flagsHeld := 0 }
    | some _ => w

/-- A fault raised at a header (R28): precise; for the first header of an ICALL group `%xmask` holds the group's lanes (R144). -/
def headerFault (s : State) (a : AgentRef) (p : Path) (fi : FaultInfo) (va : Nat) : State :=
  deliver s a fi { preciseAt va with xmask := if p.grp then p.em else 0 }

/-- The fault of a clause that cannot be fetched: FETCH with its SUB (R51), or ALIAS (R207, log entry 84). -/
def fetchFault (sub addr : Nat) : FaultInfo :=
  if fetchAlias ≤ sub then ⟨.aliased, 1, BitVec.ofNat 64 addr⟩ else ⟨.fetch, sub, BitVec.ofNat 64 addr⟩

/-- The clause starts, or its wave stalls on WAIT (R28 steps 6 and 7). -/
def startClause (s : State) (a : AgentRef) (w : Wave) (k : Clause) : State :=
  let wait := (headerOfWord k.hdr).wait
  let s0 := match a.lane with
    | none => updCur s a fun w => { w with flagsHeld := 0 }
    | some _ => s
  let flags := flagsOf s0 { w with flagsHeld := match a.lane with | none => 0 | some _ => w.flagsHeld }
  if flags &&& wait = 0 then enterClause s0 a k
  else
    match a.lane with
    | none => updCur (enterClause s0 a k) a fun w => { w with status := .flagWait }
    | some _ => s0

/-- A DET quantum boundary at a header: QB, or the 1,024th clause (R90). -/
def headerBoundary (s : State) (a : AgentRef) (w : Wave) (t : Team) (h : Header) : Bool :=
  isDet s t && a.lane.isNone && !w.qpass && (h.qb || (decide (w.pf 0 % 1024 = 0) && decide (w.pf 0 ≠ 0)))

/-- Steps 1 to 7 of R28 at a path that stands at a header. -/
def reachHeader (s0 : State) (a : AgentRef) (w : Wave) (t : Team) (c : Context) (p : Path) : State :=
  match fetchClause s0 c (seatOf t) p.pc with
  | .error (sub, addr) => headerFault s0 a p (fetchFault sub addr) p.pc
  | .ok k =>
    let s := keepClause s0 c (seatOf t) k
    match clauseFault k with
    | some sub => headerFault s a p ⟨.illegalClause, sub, 0⟩ p.pc
    | none =>
      let h := headerOfWord k.hdr
      if headerBoundary s a w t h then updCur s a fun w => { w with status := .quantum }
      else if h.yp && w.preq && a.lane.isNone then updCur s a fun w => { w with status := .stopped }
      else
        match engOfCode h.eng.toNat with
        | none => s
        | some eng =>
          if !roleMay w.role eng then headerFault s a p ⟨.role, 0, 0⟩ p.pc
          else if h.bk && c.bken then
            if bkskip w then startClause (updCur s a clearSkip) a w k
            else headerFault s a p ⟨.breakpoint, 0, 0⟩ p.pc
          else startClause s a w k

/-- A path that is between clauses takes its next one, by R28 or by R52. -/
def nextClause (s : State) (a : AgentRef) (w : Wave) (t : Team) (c : Context) (p : Path) : State :=
  if p.pc % 8 ≠ 0 then headerFault s a p ⟨.illegalClause, 6, 0⟩ p.pc
  else if p.mid then
    match landing s c (seatOf t) p.pc with
    | .header => reachHeader s a w t c p
    | .inside k => enterClause (keepClause s c (seatOf t) k) a k
    | .noFetch sub addr h => headerFault s a p (fetchFault sub addr) h
    | .lost => headerFault s a p ⟨.illegalClause, 7, 0⟩ p.pc
  else reachHeader s a w t c p

/-- A path returns into the middle of a clause, which it goes on with. -/
def returnsInside (s : State) (c : Context) (seat : Nat) (p : Path) : Bool :=
  p.mid && decide (p.pc % 8 = 0) && match landing s c seat p.pc with | .inside _ => true | _ => false

/-- CLAUSE_HEADER: the current agent reaches a header (R28). A halted sweep's agents halt here (R165); one that returns into a clause goes on to
the clause's end first. -/
def execClauseHeader (s : State) : Host.Outcome State Fault Refusal :=
  match s.cur with
  | none => .fault .noWave
  | some a =>
    match findWave s a.tid a.wave, findTeam s a.tid with
    | some w, some t =>
      match w.pathOf a.lane, teamCtx s t, sweepOf s t with
      | some p, some c, some sw =>
        if p.clause.isSome || !(mayIssue w a.lane || mayFinish sw w a.lane) then .fault .notEnabled
        else if sw.halted && !returnsInside s c (seatOf t) p then
          .next (match a.lane with | none => updCur s a fun w => { w with status := .halted } | some _ => s)
        else .next (nextClause s a w t c p)
      | _, _, _ => .fault .noWave
    | _, _ => .fault .noWave

/-- CLAUSE_WAIT_RELEASE: the flags a stalled header waits for are clear, and its clause starts (R28 steps 6 and 7); at a YP header pre-emption
takes the wave instead once `%preq` is set. -/
def execClauseWaitRelease (s : State) : Host.Outcome State Fault Refusal :=
  match s.cur with
  | none => .fault .noWave
  | some a =>
    match findWave s a.tid a.wave with
    | none => .fault .noWave
    | some w =>
      match w.status, w.path.clause with
      | .flagWait, some k =>
        if heldAtYield w then .next (updCur s a fun w => { w with status := .stopped, path := { w.path with pc := k.hdrVa, mid := false, clause := none } })
        else if flagsOf s w &&& (headerOfWord k.hdr).wait = 0 then .next (makeReady s a.tid a.wave) else .fault .notEnabled
      | _, _ => .fault .notEnabled

end Sys2Proof.Machine
end

