-- ==== Sys2Proof/Machine/Operands.lean ====
section
/-!
DEFINITION. Operand forms: what an operand field supplies (R34, R36, R37, R245, R270), the modifiers (R38), packed elements
(R247), and the writing of lane, scalar and predicate results.
-/

namespace Sys2Proof.Machine

/-- One source field: its space, index and modifier code. -/
structure Src where
  sp : BitVec 2
  ix : Nat
  md : Nat

/-- The A field. -/
def srcA (f : Fields) : Src := ⟨f.asp, f.a.toNat, f.amod.toNat⟩
/-- The B field. -/
def srcB (f : Fields) : Src := ⟨f.bsp, f.b.toNat, f.bmod.toNat⟩
/-- The C field, which takes no modifier. -/
def srcC (f : Fields) : Src := ⟨f.csp, f.c.toNat, 0⟩

/-- The B field holds an imm16 (R36). -/
def isImm16 (f : Fields) : Bool := f.bsp == 2 && f.csp == 2

/-- The immediate of R36, sign-extended to 64 bits. -/
def immWord (f : Fields) : Word :=
  if isImm16 f then (f.b ++ f.c).signExtend 64 else f.b.signExtend 64

/-- An imm8 read as its low 8 bits, unsigned (R140, R314). -/
def imm8u (f : Fields) : Nat := f.b.toNat

/-- The 16 bits of B:C, unsigned. -/
def imm16u (f : Fields) : Nat := 256 * f.b.toNat + f.c.toNat

/-- A clause offset in B:C (R45). -/
def nearOffset (f : Fields) : Int := (f.b ++ f.c).toInt

/-- The imm32 of MOVI and far targets: A:B:C:AMOD:BMOD (R36, R138). -/
def imm32 (f : Fields) : W32 := f.a ++ f.b ++ f.c ++ f.amod ++ f.bmod

/-- The 32 bits that a source supplies to a lane (R245). -/
def raw32 (e : Env) (x : Src) (l : Nat) : W32 :=
  if x.sp = 0 then e.w.v x.ix l
  else if x.sp = 1 then (e.p.s x.ix).truncate 32
  else (immWord e.f).truncate 32

/-- The 64 bits that a scalar or immediate source supplies (R34, R36). -/
def raw64 (e : Env) (x : Src) : Word := if x.sp = 1 then e.p.s x.ix else immWord e.f

/-- The 64 bits of an even lane pair or of a scalar (R270). -/
def rawPair (e : Env) (x : Src) (l : Nat) : Word :=
  if x.sp = 0 then e.w.v (x.ix + 1) l ++ e.w.v x.ix l else raw64 e x

/-- Codes 1 to 3 on the sign bits of a mask (R38). -/
def signMod {n : Nat} (mask : BitVec n) (md : Nat) (x : BitVec n) : BitVec n :=
  match md with
  | 1 => x ^^^ mask
  | 2 => x &&& ~~~mask
  | 3 => x ||| mask
  | _ => x

/-- The nibbles of each byte exchanged. -/
def swapNibbles (x : W32) : W32 := ((x &&& 0x0F0F0F0F) <<< 4) ||| ((x >>> 4) &&& 0x0F0F0F0F)

/-- The bytes of a word reversed. -/
def revBytes (x : W32) : W32 :=
  x.extractLsb' 0 8 ++ x.extractLsb' 8 8 ++ x.extractLsb' 16 8 ++ x.extractLsb' 24 8

/-- A modifier on a 32-bit value (R38); `mask` holds the sign bits of its elements. -/
def modWord (mask : W32) (md : Nat) (x : W32) : W32 :=
  let lo : BitVec 16 := x.extractLsb' 0 16
  let hi : BitVec 16 := x.extractLsb' 16 16
  let rep (k : Nat) : W32 := let b : BitVec 8 := x.extractLsb' (8 * k) 8; b ++ b ++ b ++ b
  match md with
  | 4 => lo ++ lo
  | 5 => hi ++ hi
  | 6 => lo ++ hi
  | 7 => rep 0
  | 8 => rep 1
  | 9 => rep 2
  | 10 => rep 3
  | 11 => revBytes x
  | 12 => swapNibbles x
  | 13 => lo.signExtend 32
  | 14 => lo.zeroExtend 32
  | m => signMod mask m x

/-- A 32-bit operand for a lane, after its modifier. -/
def op32 (e : Env) (x : Src) (l : Nat) : W32 := modWord 0x80000000 x.md (raw32 e x l)

/-- The element width (R247). -/
def elemWidth (f : Fields) : Nat :=
  match f.w.toNat with | 0 => 32 | 1 => 16 | 2 => 8 | _ => 4

/-- The elements of width `w` of a 32-bit value, lowest first (R247). -/
def elems (w : Nat) (x : W32) : List Nat := (upto (32 / w)).map fun k => bitsOf x.toNat (w * (k + 1) - 1) (w * k)

/-- Elements of width `w` put back in place. -/
def joinElems (w : Nat) : List Nat → Nat
  | [] => 0
  | x :: r => x % 2 ^ w + 2 ^ w * joinElems w r

/-- An element operation on two packed values. -/
def packed2 (w : Nat) (g : Nat → Nat → Nat) (x y : W32) : W32 :=
  BitVec.ofNat 32 (joinElems w (List.zipWith g (elems w x) (elems w y)))

/-- An element operation on one packed value. -/
def packed1 (w : Nat) (g : Nat → Nat) (x : W32) : W32 := BitVec.ofNat 32 (joinElems w ((elems w x).map g))

/-- The destination is a scalar: the instruction executes once for the wave (R34, R270). -/
def uniformD (e : Env) : Bool := e.f.dsp == 1

/-- A lane register written in the active lanes. -/
def writeLanes (e : Env) (s : State) (x : Nat → W32) : State := updCur s e.who fun w => w.setLanes e.f.d.toNat e.act x

/-- An even lane pair written in the active lanes (R57). -/
def writePair (e : Env) (s : State) (x : Nat → Word) : State :=
  updCur s e.who fun w =>
    (w.setLanes e.f.d.toNat e.act fun l => (x l).truncate 32).setLanes (e.f.d.toNat + 1) e.act fun l => (x l).extractLsb' 32 32

/-- A scalar written if some lane is active (R40). -/
def writeScalar (e : Env) (s : State) (x : Word) : State := if e.act = 0 then s else setScalar s e.who e.f.d.toNat x

/-- A predicate written in the active lanes. -/
def writePred (e : Env) (s : State) (k : Nat) (x : Nat → Bool) : State :=
  updCur s e.who fun w => w.setP k e.act (maskOf x)

/-- An instruction with a lane or scalar destination: one 64-bit execution, or one 32-bit result per active lane. -/
def laneOrScalar (e : Env) (s : State) (uni : Word) (lane : Nat → W32) : Verdict :=
  .ok (if uniformD e then writeScalar e s uni else writeLanes e s lane)

/-- The lowest active lane. -/
def lowestLane (m : W32) : Nat := ((lanesOf m).head?).getD 0

end Sys2Proof.Machine
end

