-- ==== Sys2Proof/Machine/Diverge.lean ====
section
/-!
DEFINITION. Divergence (R125 to R130): splitting a path, ejection, the divergence stack and its spill, arrival at a JOIN, the merge of
scalar copies, and what becomes of paths whose lanes have ended.
-/

namespace Sys2Proof.Machine

/-! ## Placing a path -/

/-- The path continues at a VA with a mask of enabled lanes. -/
def Path.goto (p : Path) (va : Nat) (em : W32) : Path := { p with pc := va, mid := false, grp := false, clause := none, em := em }

/-- The agent continues at a VA with `em` unchanged. -/
def jumpTo (s : State) (a : AgentRef) (va : Nat) : State := updPath s a fun p => p.goto va p.em

/-- A VA from an exact integer; one that no code can have raises FETCH when it is reached (R138). -/
def codeVa (x : Int) : Nat := wrapInt 64 x

/-- The VA of the header that follows the clause. -/
def nextHeader (e : Env) : Nat := e.k.endVa

/-- A near target (R138). -/
def nearVa (e : Env) : Nat := codeVa (e.k.hdrVa + 8 * nearOffset e.f)

/-- A far target (R138). -/
def farVa (e : Env) : Nat := e.sw.code + 8 * (imm32 e.f).toNat

/-- The lanes whose `em` bit is set and whose guard fails (R139). -/
def remaining (e : Env) : W32 := e.p.em &&& ~~~e.act

/-- A new path of a split: its own number, lanes and copy of the scalar file (R129). -/
def forkPath (p : Path) (pid va : Nat) (m : W32) : Path :=
  { p with pid := pid, pc := va, mid := false, grp := false, clause := none, em := m, mask := m, wr := 0, hist := p.hist ++ [p.pid] }

/-! ## The stack and its spill (R127) -/

/-- The 16 bytes of a spilled entry: the mask to restore at the JOIN, the offset of the path that waits or, where none waits, the reconvergence
offset, the join count and the scalar-fork state, whose encoding is the sequencer's own (log entry 3). That the mask field holds the mask to
restore, where R125 pushes the lanes of the other path, and what stands in the resume field of a level with no waiting path, are the model's choice
(log entry 97). -/
def spillBytes (code : Nat) (d : DivLevel) (fork : Nat) : List Byte :=
  let resume := match d.pending with | p :: _ => p.pc - code | [] => d.recon - code
  leBytes 4 d.restore.toNat ++ leBytes 4 resume ++ leBytes 4 (d.recon - code) ++ leBytes 2 d.joinCount ++ leBytes 2 fork

/-- A level is pushed; beyond 32 the oldest entry in hardware is written to the lane slices. -/
def pushLevel (s : State) (e : Env) (d : DivLevel) : State :=
  let s1 := updCur s e.who fun w => { w with stack := d :: w.stack }
  let n := e.w.stack.length + 1
  if n < 33 then s1
  else
    match (d :: e.w.stack)[32]? with
    | none => s1
    | some old =>
      let (l, o) := spillPlace e.t n
      match levelBytes s e.t e.w.ix l .lane o 16 with
      | .ok ps => scrPuts { s1 with freeIx := s1.freeIx + 1 } ps (spillBytes e.sw.code old (Config.freeWord s1.freeIx).toNat)
      | .error _ => s1

/-! ## Splitting (R125, R126) -/

/-- The EJT in force: the wave's override or the packet's (R125, R167). -/
def ejtOf (e : Env) : Nat := if e.w.wejt = 15 then e.sw.ejt else e.w.wejt

/-- A new divergence level of the path that splits. -/
def newLevel (s : State) (e : Env) (kind : LevelKind) (recon joinCount : Nat) (pending : List Path) : DivLevel :=
  ⟨s.fresh, kind, recon, e.p.em, e.p.mask, e.p.pid, e.p.scal, e.p.wr, e.p.hist, joinCount, pending, []⟩

/-- Ejected lanes (R126): one continuation for each, at `va`, of level `lid`, which waits for the helper from tick `since`; their paths are
numbered from `pid`. -/
def ejectLanes (p : Path) (lid va pid : Nat) (m : W32) (since : Nat) : List Cont :=
  ((lanesOf m).zipIdx).map fun q => ⟨q.1, lid, since, forkPath p (pid + q.2) va (laneBit q.1)⟩

/-- The minority of two lane sets (R125). -/
def minority (t f : W32) : Bool :=
  -- true: `t` is the minority
  if countLanes t < countLanes f then true
  else if countLanes f < countLanes t then false
  else decide (lowestLane f < lowestLane t)

/-- The wave splits: lanes `t` go to `tVa`, lanes `f` to `fVa`; the level reconverges at `recon`. -/
def split (s : State) (e : Env) (t : W32) (tVa : Nat) (f : W32) (fVa recon : Nat) : Verdict :=
  let tMin := minority t f
  let (m, mVa, r, rVa) := if tMin then (t, tVa, f, fVa) else (f, fVa, t, tVa)
  let n := countLanes m
  if n ≤ ejtOf e then
    let lvl := newLevel s e .join recon n []
    let s1 := pushLevel { s with fresh := s.fresh + n + 2 } e lvl
    .moved (updCur s1 e.who fun w =>
      { w with conts := w.conts ++ ejectLanes e.p lvl.lid mVa (lvl.lid + 2) m s.now, path := forkPath e.p (lvl.lid + 1) rVa r })
  else
    let tFirst := decide (lowestLane t < lowestLane f)
    let (a, aVa, b, bVa) := if tFirst then (t, tVa, f, fVa) else (f, fVa, t, tVa)
    let lvl := newLevel s e .join recon 0 [forkPath e.p (s.fresh + 2) bVa b]
    let s1 := pushLevel { s with fresh := s.fresh + 3 } e lvl
    .moved (updCur s1 e.who fun w => { w with path := forkPath e.p (lvl.lid + 1) aVa a })

/-- A transfer of the acting set (R139, R141); `splitErrors` has been checked. -/
def branchTo (s : State) (e : Env) (va : Nat) (join : Int) : Verdict :=
  if e.act = 0 then .ok s
  else if remaining e = 0 then .moved (jumpTo s e.who va)
  else split s e e.act va (remaining e) (nextHeader e) (codeVa (e.k.hdrVa + 8 * join))

/-! ## Arrival and merge (R128, R129) -/

/-- The value of a scalar after a merge (R129). -/
def mergedScalar (d : DivLevel) (ps : List DonePath) (k : Nat) : Word :=
  let ws := ps.filter fun p => p.wr.getLsbD k && p.mask != 0
  let best := ws.foldl (fun m p =>
    match m with
    | none => some p
    | some q => if lowestLane p.mask < lowestLane q.mask then some p else some q) none
  match best with
  | some (p : DonePath) => Sparse.get 0 p.scal k
  | none => Sparse.get 0 d.scal k

/-- The merged scalar file of a level. -/
def mergedScalars (d : DivLevel) (ps : List DonePath) : Sparse Word :=
  (upto 64).foldl (fun m k => Sparse.set 0 m k (mergedScalar d ps k)) []

/-- The scalars that some path of the level wrote, as writes of the enclosing path. -/
def mergedWrites (d : DivLevel) (ps : List DonePath) : Word :=
  ps.foldl (fun m p => if p.mask = 0 then m else m ||| p.wr) d.wr

/-- A path as it arrives. -/
def donePath (p : Path) : DonePath := ⟨p.pid, p.mask, p.scal, p.wr, p.hist⟩

/-- The paths that come before one that goes on behind a level: those before the level, and those that came to its end (R130). -/
def mergedHist (d : DivLevel) (ps : List DonePath) : List Nat := (d.hist ++ ps.flatMap fun p => p.hist ++ [p.pid]).dedup

/-- The level is popped and the enclosing path continues at `va` (R128). -/
def popLevel (w : Wave) (d : DivLevel) (rest : List DivLevel) (ps : List DonePath) (va : Nat) : Wave :=
  { w with
    stack := rest
    path := ⟨d.outerPid, va, false, false, none, d.restore, d.outerMask, mergedScalars d ps, mergedWrites d ps, mergedHist d ps⟩ }

/-- A waiting path of a level starts; a group of an ICALL takes its return offset in v58 (R144). -/
def startPath (w : Wave) (d : DivLevel) (p : Path) (code : Nat) : Wave :=
  let w1 := match d.kind with
    | .call => if p.grp then w.setLanes 58 p.em fun _ => BitVec.ofNat 32 (d.recon - code) else w
    | .join => w
  { w1 with path := p }

/-- The main path has arrived at its level's reconvergence: the next waiting path runs, or the level is popped and the wave goes on at
`va`, or (none) it must wait for the level's continuations. -/
def arrive (w : Wave) (code va : Nat) : Option Wave :=
  match w.stack with
  | [] => none
  | d :: rest =>
    let ps := d.done ++ [donePath w.path]
    match d.pending with
    | p :: more => some (startPath { w with stack := { d with pending := more, done := ps } :: rest } d p code)
    | [] => if d.joinCount = 0 then some (popLevel w d rest ps va) else none

/-- The main path's lanes have all ended: another path runs, or an empty path goes to the JOIN to wait there and reconverge (R129,
R153); a level with nobody left is dropped. -/
def afterEnd (w : Wave) (code : Nat) (pid : Nat) : List DivLevel → Wave
  | [] => w
  | d :: rest =>
    let ps := d.done ++ [donePath w.path]
    match d.pending with
    | p :: more => startPath { w with stack := { d with pending := more, done := ps } :: rest } d p code
    | [] =>
      if d.outerMask = 0 && d.joinCount = 0 then
        afterEnd { w with stack := rest, path := { w.path with hist := mergedHist d ps } } code pid rest
      else
        match d.kind with
        | .join =>
          { w with stack := d :: rest
                   path := ⟨pid, d.recon, false, false, none, 0, 0, d.scal, 0, w.path.hist ++ [w.path.pid]⟩ }
        | .call => popLevel w d rest ps d.recon

end Sys2Proof.Machine
end

