-- ==== Sys2Proof/Machine/Float.lean ====
section
/-!
DEFINITION. Numbers in the element formats: reading a pattern, exact arithmetic on the values read, and rounding into a format
(R56 to R60, R271). A value is held exactly; where a quotient, a root or a function has no finite expansion, enough
leading bits are held with a last bit that marks the rest, so that rounding is that of the exact value.
-/

namespace Sys2Proof.Machine

/-- The formats (R56, R60). -/
inductive Fmt where
  | e4m3 | e5m2 | e2m1 | int8 | int4 | bf16 | fp16 | fp32 | fp64 | ac96
  deriving DecidableEq, Repr

/-- The format that a code names (R56). -/
def fmtOfCode (k : Nat) : Option Fmt :=
  match k with
  | 1 => some .e4m3 | 2 => some .e5m2 | 3 => some .e2m1 | 4 => some .int8 | 5 => some .int4 | 6 => some .bf16 | 7 => some .fp16
  | 8 => some .fp32 | _ => none

/-- Bits of an element. -/
def fmtBits : Fmt → Nat
  | .e4m3 | .e5m2 | .int8 => 8
  | .e2m1 | .int4 => 4
  | .bf16 | .fp16 => 16
  | .fp32 => 32
  | .fp64 => 64
  | .ac96 => 96

/-- Fraction bits p. -/
def fmtP : Fmt → Nat
  | .e4m3 => 3 | .e5m2 => 2 | .e2m1 => 1 | .int8 | .int4 => 0 | .bf16 => 7 | .fp16 => 10 | .fp32 => 23 | .fp64 => 52 | .ac96 => 80

/-- Exponent bias. -/
def fmtBias : Fmt → Nat
  | .e4m3 => 7 | .e5m2 => 15 | .e2m1 => 1 | .int8 | .int4 => 0 | .bf16 => 127 | .fp16 => 15 | .fp32 => 127 | .fp64 => 1023
  | .ac96 => 16383

/-- Exponent bits. -/
def fmtE (f : Fmt) : Nat := fmtBits f - 1 - fmtP f

/-- Smallest exponent of a normal number. -/
def fmtEmin (f : Fmt) : Int := 1 - (fmtBias f : Int)

/-- The largest finite magnitude as a significand of p + 1 bits and its exponent. -/
def fmtMax : Fmt → Nat × Int
  | .e4m3 => (14, 5)
  | .e2m1 => (3, 1)
  | .int8 => (127, 0)
  | .int4 => (7, 0)
  | f => (2 ^ (fmtP f + 1) - 1, ((2 ^ fmtE f - 2 : Nat) : Int) - fmtBias f - fmtP f)

/-- A value: a NaN with its sign and whether it signals, an infinity, or (−1)^sign · m · 2^e. -/
inductive FVal where
  | nan (sign sig : Bool)
  | inf (sign : Bool)
  | num (sign : Bool) (m : Nat) (e : Int)
  deriving DecidableEq, Repr

/-- The value of a pattern (R56, R60). Only FP32, FP64, BF16 and FP16 have signalling NaNs (R271). -/
def readF (f : Fmt) (x : Nat) : FVal :=
  match f with
  | .int8 => let v := sextInt x 8; .num (decide (v < 0)) v.natAbs 0
  | .int4 => let v := sextInt x 4; .num (decide (v < 0)) v.natAbs 0
  | _ =>
    let p := fmtP f
    let s := x / 2 ^ (fmtBits f - 1) % 2 == 1
    let ex := x / 2 ^ p % 2 ^ fmtE f
    let fr := x % 2 ^ p
    let normal : FVal := .num s (2 ^ p + fr) ((ex : Int) - fmtBias f - p)
    let top := ex == 2 ^ fmtE f - 1
    if ex = 0 then .num s fr (fmtEmin f - p)
    else match f with
      | .e2m1 => normal
      | .e4m3 => if top && fr == 7 then .nan s false else normal
      | .e5m2 => if top then (if fr = 0 then .inf s else .nan s false) else normal
      | _ => if top then (if fr = 0 then .inf s else .nan s (decide (fr < 2 ^ (p - 1)))) else normal

/-- Flag bits (R71). -/
abbrev fNV : Nat := 1
/-- DZ. -/
abbrev fDZ : Nat := 2
/-- OF. -/
abbrev fOF : Nat := 4
/-- UF. -/
abbrev fUF : Nat := 8
/-- NX. -/
abbrev fNX : Nat := 16

/-- Rounding modes (R70): 0 RNE, 1 RZ, 2 RU, 3 RD. Whether a magnitude with remainder `r` of `2^k` above significand `q` is raised. -/
def roundUp (mode : Nat) (sign : Bool) (q r k : Nat) : Bool :=
  if r = 0 then false
  else match mode with
    | 0 => decide (2 * r > 2 ^ k) || (decide (2 * r = 2 ^ k) && q % 2 == 1)
    | 1 => false
    | 2 => !sign
    | _ => sign

/-- The significand of a magnitude m · 2^e in units of 2^q, rounded, and whether it is inexact. -/
def roundAt (mode : Nat) (sign : Bool) (m : Nat) (e q : Int) : Nat × Bool :=
  if q ≤ e then (m * 2 ^ (e - q).toNat, false)
  else
    let k := (q - e).toNat
    let sg := m / 2 ^ k
    let r := m % 2 ^ k
    (if roundUp mode sign sg r k then sg + 1 else sg, decide (r ≠ 0))

/-- The canonical NaN of a format, with the sign that R58 keeps (R59). -/
def canonNan (f : Fmt) (sign : Bool) : Nat :=
  match f with
  | .fp32 => 0x7FC00000
  | .fp64 => 0x7FF8000000000000
  | .bf16 => 0x7FC0
  | .fp16 => 0x7E00
  | .e5m2 => 0x7E
  | .e4m3 => if sign then 0xFF else 0x7F
  | .ac96 => 0x7FFF * 2 ^ 80 + 2 ^ 79
  | _ => 0

/-- The sign bit of a float format. -/
def signBit (f : Fmt) (s : Bool) : Nat := if s then 2 ^ (fmtBits f - 1) else 0

/-- The pattern of a magnitude given as significand and exponent, where the significand has at most p + 1 bits and the exponent is at
least that of the smallest subnormal. -/
def packF (f : Fmt) (sign : Bool) (sg : Nat) (q : Int) : Nat :=
  let p := fmtP f
  if sg = 0 then signBit f sign
  else
    -- normalise so that the significand has p + 1 bits, or the exponent is the least
    let up := min (p - Nat.log2 sg) (q - (fmtEmin f - p)).toNat
    let sg' := sg * 2 ^ up
    let q' := q - up
    if sg' < 2 ^ p then signBit f sign + sg'
    else signBit f sign + (q' + p + fmtBias f).toNat * 2 ^ p + (sg' - 2 ^ p)

/-- The pattern of the largest finite magnitude. -/
def maxPattern (f : Fmt) (sign : Bool) : Nat :=
  match f with
  | .int8 => if sign then 0x80 else 0x7F
  | .int4 => if sign then 0x8 else 0x7
  | _ => packF f sign (fmtMax f).1 (fmtMax f).2

/-- The pattern of infinity, for the formats that have one. -/
def infPattern (f : Fmt) (sign : Bool) : Nat := signBit f sign + (2 ^ fmtE f - 1) * 2 ^ fmtP f

/-- A float format saturates on overflow (R58). -/
def saturates (f : Fmt) : Bool := match f with | .e4m3 | .e2m1 => true | _ => false

/-- Overflow of a finite value (R58). -/
def overflowF (f : Fmt) (mode : Nat) (sign : Bool) : Nat × Nat :=
  let toInf := match mode with | 0 => true | 1 => false | 2 => !sign | _ => sign
  (if saturates f || !toInf then maxPattern f sign else infPattern f sign, fOF + fNX)

/-- A magnitude m · 2^e, rounded with the exponent unbounded, lies below the smallest normal number. -/
def tinyF (f : Fmt) (mode : Nat) (sign : Bool) (m : Nat) (e : Int) : Bool :=
  let top := e + Nat.log2 m
  if m = 0 || fmtEmin f ≤ top then false
  else
    let q := top - fmtP f
    let sg := (roundAt mode sign m e q).1
    decide (q + Nat.log2 sg < fmtEmin f)

/-- Rounding of a finite value into a float format: the pattern and the flags (R58). -/
def roundFinite (f : Fmt) (mode : Nat) (sign : Bool) (m : Nat) (e : Int) : Nat × Nat :=
  if m = 0 then (signBit f sign, 0)
  else
    let q := max (e + Nat.log2 m) (fmtEmin f) - fmtP f
    let (sg, inexact) := roundAt mode sign m e q
    let mx := fmtMax f
    -- compare sg * 2^q with the largest finite magnitude
    let beyond := if q ≥ mx.2 then decide (sg * 2 ^ (q - mx.2).toNat > mx.1) else false
    if beyond then overflowF f mode sign
    else (packF f sign sg q, (if inexact then fNX else 0) + (if inexact && tinyF f mode sign m e then fUF else 0))

/-- Rounding of a finite value into an integer of `w` bits, signed or not: the integer and the flags (R58, R284). -/
def roundInteger (w : Nat) (sg : Bool) (mode : Nat) (sign : Bool) (m : Nat) (e : Int) : Int × Nat :=
  let (mag, inexact) := roundAt mode sign m e 0
  let v : Int := if sign then -(mag : Int) else mag
  let lo : Int := if sg then -(2 : Int) ^ (w - 1) else 0
  let hi : Int := if sg then (2 : Int) ^ (w - 1) - 1 else (2 : Int) ^ w - 1
  if v < lo then (lo, fOF + fNX) else if hi < v then (hi, fOF + fNX) else (v, if inexact then fNX else 0)

/-- round(x, fmt, mode) of R58, infinities and NaNs included. A signalling NaN's NV is raised where the operand is read. -/
def roundF (f : Fmt) (mode : Nat) (x : FVal) : Nat × Nat :=
  match f with
  | .int8 | .int4 =>
    let w := fmtBits f
    match x with
    | .nan _ _ => (0, fNV)
    | .inf s => (maxPattern f s, fNV)
    | .num s m e => let r := roundInteger w true mode s m e; (wrapInt w r.1, r.2)
  | _ =>
    match x with
    | .nan s _ => match f with | .e2m1 => (0, fNV) | _ => (canonNan f s, 0)
    | .inf s =>
      match f with
      | .e4m3 => (canonNan f s, fNV)
      | .e2m1 => (maxPattern f s, fNV)
      | _ => (infPattern f s, 0)
    | .num s m e => roundFinite f mode s m e

/-! ## Exact arithmetic -/

/-- The signed integer of a value in units of 2^e0, for e0 no larger than its exponent. -/
def inUnits (sign : Bool) (m : Nat) (e e0 : Int) : Int :=
  let v : Int := (m * 2 ^ (e - e0).toNat : Nat)
  if sign then -v else v

/-- The value of a signed integer in units of 2^e0; an exact zero has the sign given. -/
def ofUnits (v e0 : Int) (zeroSign : Bool) : FVal :=
  if v = 0 then .num zeroSign 0 0 else .num (decide (v < 0)) v.natAbs e0

/-- The sum of two values and its invalid flag (R274). -/
def addF (mode : Nat) : FVal → FVal → FVal × Nat
  | .nan _ sx, .nan _ sy => (.nan false false, if sx || sy then fNV else 0)
  | .nan _ sx, _ => (.nan false false, if sx then fNV else 0)
  | _, .nan _ sy => (.nan false false, if sy then fNV else 0)
  | .inf a, .inf b => if a = b then (.inf a, 0) else (.nan false false, fNV)
  | .inf a, _ => (.inf a, 0)
  | _, .inf b => (.inf b, 0)
  | .num a m e, .num b n k =>
    if m = 0 && n = 0 then (.num (if a = b then a else mode == 3) 0 0, 0)
    else if m = 0 then (.num b n k, 0)
    else if n = 0 then (.num a m e, 0)
    else
      let e0 := min e k
      (ofUnits (inUnits a m e e0 + inUnits b n k e0) e0 (mode == 3), 0)

/-- The product of two values and its invalid flag (R274). -/
def mulF : FVal → FVal → FVal × Nat
  | .nan _ sx, .nan _ sy => (.nan false false, if sx || sy then fNV else 0)
  | .nan _ sx, _ => (.nan false false, if sx then fNV else 0)
  | _, .nan _ sy => (.nan false false, if sy then fNV else 0)
  | .inf a, .inf b => (.inf (a != b), 0)
  | .inf a, .num b n _ => if n = 0 then (.nan false false, fNV) else (.inf (a != b), 0)
  | .num a m _, .inf b => if m = 0 then (.nan false false, fNV) else (.inf (a != b), 0)
  | .num a m e, .num b n k => (.num (a != b) (m * n) (e + k), 0)

/-- The sign flipped. -/
def negF : FVal → FVal
  | .nan s q => .nan (!s) q
  | .inf s => .inf (!s)
  | .num s m e => .num (!s) m e

/-- A NaN. -/
def isNan : FVal → Bool
  | .nan _ _ => true
  | _ => false

/-- A signalling NaN. -/
def isSig : FVal → Bool
  | .nan _ q => q
  | _ => false

/-- The product and sum with one rounding to come (R274). -/
def fmaF (mode : Nat) (a b c : FVal) : FVal × Nat :=
  let p := mulF a b
  let r := addF mode p.1 c
  (r.1, Nat.lor p.2 r.2)

/-- −1, 0 or 1 as the first value is less than, equal to or greater than the second (no NaNs). -/
def cmpF : FVal → FVal → Int
  | .inf a, .inf b => if a = b then 0 else if a then -1 else 1
  | .inf a, _ => if a then -1 else 1
  | _, .inf b => if b then 1 else -1
  | .num a m e, .num b n k =>
    let e0 := min e k
    let d := inUnits a m e e0 - inUnits b n k e0
    if d < 0 then -1 else if d = 0 then 0 else 1
  | _, _ => 0

/-- The magnitude m · 2^e is a whole number of units of 2^k with nothing lost, or has a last bit that marks the loss. -/
def markRest (m : Nat) (rest : Bool) (e : Int) : Nat × Int := (4 * m + (if rest then 1 else 0), e - 2)

/-- The quotient of two finite non-zero magnitudes, to 64 bits beyond the significand of FP64. -/
def divMag (m : Nat) (e : Int) (n : Nat) (k : Int) : Nat × Int :=
  let sh := 130 + Nat.log2 n
  let x := m * 2 ^ sh
  markRest (x / n) (decide (x % n ≠ 0)) (e - k - sh)

/-- Bit by bit from bit `k` down: the largest r with r^2 ≤ n. -/
def isqrtFrom (n : Nat) : Nat → Nat → Nat
  | 0, r => r
  | k + 1, r =>
    let r' := r + 2 ^ k
    isqrtFrom n k (if r' * r' ≤ n then r' else r)

/-- The integer square root. -/
def isqrt (n : Nat) : Nat := isqrtFrom n (Nat.log2 n / 2 + 1) 0

/-- The square root of a finite positive magnitude. -/
def sqrtMag (m : Nat) (e : Int) : Nat × Int :=
  let odd := decide (e % 2 ≠ 0)
  let m1 := (if odd then 2 * m else m) * 2 ^ 200
  let e1 := (if odd then e - 1 else e) - 200
  let r := isqrt m1
  markRest r (decide (r * r ≠ m1)) (e1 / 2)

/-- The reciprocal square root of a finite positive magnitude. -/
def rsqrtMag (m : Nat) (e : Int) : Nat × Int :=
  let odd := decide (e % 2 ≠ 0)
  let m1 := if odd then 2 * m else m
  let e1 := if odd then e - 1 else e
  let k := 100 + Nat.log2 m1
  let r := isqrt (2 ^ (2 * k) / m1)
  markRest r (decide (r * r * m1 ≠ 2 ^ (2 * k))) (-(e1 / 2) - k)

/-! ## Functions (R74) -/

/-- π · 2^512, truncated. -/
def pi512 : Nat := 0x3243f6a8885a308d313198a2e03707344a4093822299f31d0082efa98ec4e6c89452821e638d01377be5466cf34e90c6cc0ac29b7c97c50dd3f84d5b5b5470917
/-- ln 2 · 2^256, truncated. -/
def ln2x256 : Nat := 0xb17217f7d1cf79abc9e3b39803f2f6af40f343267298b62d8a0d175b8baafa2b

/-- Terms of a series at scale 2^256: from a term, an index and a step, the sum of `fuel` terms of alternating or constant sign. -/
def seriesSum (next : Int → Nat → Int) : Nat → Nat → Int → Int → Int
  | 0, _, _, acc => acc
  | fuel + 1, k, t, acc => seriesSum next fuel (k + 1) (next t k) (acc + t)

/-- A product at scale 2^256. -/
def fx (a b : Int) : Int := (a * b) / (2 : Int) ^ 256

/-- e^r at scale 2^256, for 0 ≤ r < 1. -/
def expFx (r : Int) : Int := seriesSum (fun t k => fx t r / (k + 1 : Nat)) 70 0 ((2 : Int) ^ 256) 0

/-- sin r at scale 2^256, for 0 ≤ r < 2. -/
def sinFx (r : Int) : Int :=
  let r2 := fx r r
  seriesSum (fun t k => -(fx t r2 / ((2 * k + 2) * (2 * k + 3) : Nat))) 40 0 r 0

/-- cos r at scale 2^256, for 0 ≤ r < 2. -/
def cosFx (r : Int) : Int :=
  let r2 := fx r r
  seriesSum (fun t k => -(fx t r2 / ((2 * k + 1) * (2 * k + 2) : Nat))) 40 0 ((2 : Int) ^ 256) 0

/-- Σ z^(2k+1) / (2k+1) by the powers of z at scale 2^256. -/
def atanhFrom (z2 : Int) : Nat → Nat → Int → Int → Int
  | 0, _, _, acc => acc
  | fuel + 1, k, pw, acc => atanhFrom z2 fuel (k + 1) (fx pw z2) (acc + pw / (2 * k + 1 : Nat))

/-- ln y at scale 2^256, for y in [1, 2) at the same scale. -/
def lnFx (y : Int) : Int :=
  let one := (2 : Int) ^ 256
  let z := ((y - one) * one) / (y + one)
  2 * atanhFrom (fx z z) 90 0 z 0

/-- A magnitude m · 2^e at scale 2^256, truncated. -/
def toFx (m : Nat) (e : Int) : Int :=
  if 0 ≤ e + 256 then (m * 2 ^ (e + 256).toNat : Nat) else (m / 2 ^ (-(e + 256)).toNat : Nat)

/-- A function value: sign, magnitude, exponent, and whether it is exact. -/
structure FnVal where
  sign : Bool
  m : Nat
  e : Int
  exact : Bool

/-- A value at scale 2^256 that no finite expansion reaches. -/
def fnOfFx (v : Int) (e : Int) : FnVal :=
  let r := markRest v.natAbs true (e - 256)
  ⟨decide (v < 0), r.1, r.2, false⟩

/-- A magnitude less an amount too small to matter. -/
def justBelow (sign : Bool) (m : Nat) (e : Int) : FnVal := ⟨sign, m * 2 ^ 64 - 1, e - 64, false⟩

/-- 2^x (R74), for finite x that is not zero; beyond ±1,024 the value only overflows or vanishes. -/
def exp2Fn (sign : Bool) (m : Nat) (e : Int) : FnVal :=
  if 10 ≤ e + Nat.log2 m then (if sign then ⟨false, 1, -1024, decide (0 ≤ e)⟩ else ⟨false, 1, 1024, decide (0 ≤ e)⟩)
  else if 0 ≤ e then
    let n : Int := (m * 2 ^ e.toNat : Nat)
    ⟨false, 1, if sign then -n else n, true⟩
  else if e + Nat.log2 m < -60 then (if sign then justBelow false 1 0 else ⟨false, 2 ^ 64 + 1, -64, false⟩)
  else
    let x : Int := if sign then -(toFx m e) else toFx m e
    let one := (2 : Int) ^ 256
    let n := Int.fdiv x one
    let r := x - n * one
    if r = 0 then ⟨false, 1, n, true⟩
    else fnOfFx (expFx (fx r ln2x256)) n

/-- log2 x (R74), for finite x > 0. -/
def log2Fn (m : Nat) (e : Int) : FnVal :=
  let k := Nat.log2 m
  let n := e + k
  if m = 2 ^ k then ⟨decide (n < 0), n.natAbs, 0, true⟩
  else
    let y := toFx m (-(k : Int))
    fnOfFx (n * (2 : Int) ^ 256 + (lnFx y * (2 : Int) ^ 256) / ln2x256) 0

/-- The quadrant and the rest of |x| against π/2, the rest at scale 2^256. -/
def reducePi (m : Nat) (e : Int) : Nat × Int :=
  let half := pi512 / 2
  let x := m * 2 ^ (e + 512).toNat
  (x / half % 4, ((x % half / 2 ^ 256 : Nat) : Int))

/-- sin x (R74), for finite x that is not zero. -/
def sinFn (sign : Bool) (m : Nat) (e : Int) : FnVal :=
  if e + Nat.log2 m < -40 then justBelow sign m e
  else
    let (q, r) := reducePi m e
    let v := match q with | 0 => sinFx r | 1 => cosFx r | 2 => -(sinFx r) | _ => -(cosFx r)
    fnOfFx (if sign then -v else v) 0

/-- cos x (R74), for finite x that is not zero. -/
def cosFn (m : Nat) (e : Int) : FnVal :=
  if e + Nat.log2 m < -40 then justBelow false 1 0
  else
    let (q, r) := reducePi m e
    fnOfFx (match q with | 0 => cosFx r | 1 => -(sinFx r) | 2 => -(cosFx r) | _ => sinFx r) 0

/-- tanh x (R74), for finite x that is not zero. -/
def tanhFn (sign : Bool) (m : Nat) (e : Int) : FnVal :=
  if e + Nat.log2 m < -40 then justBelow sign m e
  else if 6 ≤ e + Nat.log2 m then justBelow sign 1 0
  else
    let one := (2 : Int) ^ 256
    let y := 2 * toFx m e
    let n := y / ln2x256
    -- e^(-y) = 2^(-n) / e^r
    let f := ((one * one) / expFx (y - n * ln2x256)) / (2 : Int) ^ n.toNat
    let v := ((one - f) * one) / (one + f)
    fnOfFx (if sign then -v else v) 0

/-- The value truncated to 31 fraction bits below its leading bit (R74). -/
def trunc31 (x : FnVal) : FVal :=
  let k := Nat.log2 x.m
  if k ≤ 31 then .num x.sign x.m x.e
  else .num x.sign (x.m / 2 ^ (k - 31)) (x.e + (k - 31))

end Sys2Proof.Machine
end

