-- ==== Sys2Proof/Machine/Access.lean ====
section
/-!
DEFINITION. How the accesses of an operation are performed: which byte a load returns (R77, R80, R89, R90), when an access must wait
for an earlier one of its wave (R80, R84, R206, R223), the destination of a load (R222), a store at its home (R78, R89, R181),
an atomic at its place (R87, R206, R229 to R232), and the completion of an operation (R85).
-/

namespace Sys2Proof.Machine

/-! ## Kinds of operation -/

/-- The operation loads registers. -/
def OpKind.loads : OpKind → Bool
  | .load _ _ | .loadScalar _ _ _ | .loadBound _ _ | .accLoad _ _ => true
  | _ => false

/-- The operation stores. -/
def OpKind.stores : OpKind → Bool
  | .store _ | .scratchStore | .accStore _ => true
  | _ => false

/-- A MAT word whose turn is still to come. -/
def OpKind.isMatWord : OpKind → Bool
  | .matWord _ _ => true
  | _ => false

/-- The operation is an atomic. -/
def OpKind.isAtomic : OpKind → Bool
  | .atomic _ _ => true
  | _ => false

/-- KIND of a fault record (R178). -/
def OpKind.recordKind : OpKind → Nat
  | .store _ | .scratchStore => 1
  | .atomic _ _ => 2
  | .accLoad _ _ => 3
  | .accStore _ => 4
  | _ => 0

/-- An access has neither been performed nor faulted, and is not held until its replay set runs. -/
def Access.open (x : Access) : Bool := !x.done && x.fault.isNone && !x.held

/-- Every access of the operation is over. -/
def Op.over (o : Op) : Bool := o.accs.all (·.done)

/-! ## Bytes and places -/

/-- The bytes of the next single-copy atomic piece of an access (R77): up to the end of its sector. -/
def pieceLen (va got n : Nat) : Nat := min (n - got) (48 - (va + got) % 48)

/-- Bytes `i` to `i + k - 1` of a little-endian number. -/
def bytesOf (v i k : Nat) : List Byte := leBytes k (v / 256 ^ i)

/-- The number with bytes `i` onward replaced. -/
def withBytes (v i : Nat) (bs : List Byte) : Nat :=
  v % 256 ^ i + 256 ^ i * (leNat bs + 256 ^ bs.length * (v / 256 ^ (i + bs.length)))

/-- The keys of the storage that a scratchpad access touches. -/
def accKeys (s : State) (t : Team) (wave : Nat) (x : Access) : List Nat :=
  match levelBytes s t wave x.lane x.level x.addr x.n with
  | .ok ps => ps.map fun p => match p with | .scr k => 2 * k | .pad k => 2 * k + 1
  | .error _ => []

/-- Two runs of bytes have one in common; `lines` widens both to whole lines. -/
def runsMeet (lines : Bool) (a : Int) (n : Nat) (b : Int) (m : Nat) : Bool :=
  if lines then decide (a / 192 ≤ (b + m - 1) / 192) && decide (b / 192 ≤ (a + n - 1) / 192)
  else decide (a < b + m) && decide (b < a + n)

/-- Two accesses of one wave touch a common byte by their addresses; `lines` widens both to whole lines. -/
def meets (s : State) (t : Team) (wave : Nat) (lines : Bool) (x y : Access) : Bool :=
  if x.level = .g && y.level = .g then runsMeet lines x.addr x.n y.addr y.n
  else if x.level = .g || y.level = .g then false
  else if x.level = y.level then (decide (x.level ≠ .lane) || x.lane == y.lane) && runsMeet false x.addr x.n y.addr y.n
  else (accKeys s t wave x).any fun k => (accKeys s t wave y).contains k

/-- The physical granule of a VA of a context. -/
def granuleOf (s : State) (c : Context) (va : Int) : Option Nat :=
  match translate s c (va.toNat / 49152) with
  | .leaf _ pgn _ => some pgn
  | _ => none

/-- Two accesses in different granules touch a common byte because both granules are one in physical memory (R207). -/
def aliased (s : State) (c : Context) (lines : Bool) (x y : Access) : Bool :=
  decide (x.level = .g) && decide (y.level = .g) && decide (x.addr / 49152 ≠ y.addr / 49152)
    && runsMeet lines (x.addr % 49152) x.n (y.addr % 49152) y.n
    && (match granuleOf s c x.addr, granuleOf s c y.addr with | some p, some q => p == q | _, _ => false)

/-- The page of a VA of a context is of the normal class and in device memory, so that the L1 accepts its stores (R80). -/
def cacheable (s : State) (c : Context) (va : Int) : Bool :=
  match translate s c (va.toNat / 49152) with
  | .leaf pte pgn _ => isNormal pte pgn
  | _ => false

/-- An atomic is buffered under DET already. -/
def detHolds (t : Team) (o : Op) (lane : Nat) : Bool := t.det.any fun e => e.op == o.id && e.acc.lane == lane

/-- A lane of the operation has not read its register sources yet (R30). -/
def Op.unreads (o : Op) (lane : Nat) : Bool := o.unread.getLsbD lane

/-- An operation comes before another of its wave in program order: it was issued earlier, on the same path or on one that comes before the
path of the other (R84, R130). -/
def comesBefore (p o : Op) : Bool := decide (p.id < o.id) && (p.pid == o.pid || o.hist.contains p.pid)

/-- A fault of the wave is final: its trap entry waits for everything issued before the report (R170 step 2). -/
def trapComes (s : State) (tid wave : Nat) : Bool :=
  (waveOps s tid wave).any fun o => decide (o.phase = .faulted) && !opPending s o.id && o.accs.any fun x => x.fault.isSome

/-- A faulted access of another operation is waited for no longer: it stands in a trap frame, or the wave's trap entry waits for what comes
after it (R170, R176; log entry 95). -/
def passedOver (s : State) (o p : Op) (y : Access) : Bool :=
  p.id != o.id && (decide (p.phase = .parked) || ((y.fault.isSome || y.held) && trapComes s o.tid o.wave))

/-- An earlier access `y` of operation `p` holds back a later access `x` of `o` to the same bytes (R80, R84, R206), also while it waits for a page
(R177, R223). A load need not wait for
a store of its wave that the L1 has accepted, whose bytes it is given; it waits where the L1 does not accept the store, or holds it under
another address. -/
def holdsBack (s : State) (t : Team) (c : Context) (o : Op) (x : Access) (p : Op) (y : Access) : Bool :=
  let direct := decide (x.level = .g) && !cacheable s c x.addr
  let other := aliased s c direct x y
  !passedOver s o p y && !detHolds t p y.lane && (other || meets s t o.wave direct x y)
    && (if p.kind.loads then !y.done
        else if o.kind.loads && p.kind.stores && !direct && !other && decide (x.level = .g) then
          !y.done && (p.unreads y.lane || y.fault.isSome || y.held)
        else if o.kind.loads then !y.done || decide (s.now < p.last)
        else !y.done)

/-- An access must wait for an earlier one of its own wave and engine, or of a lower lane or row of its own operation (R84, R223, R363); the rows
of an ACCLD are loaded in no order (R362). -/
def mustWait (s : State) (o : Op) (t : Team) (c : Context) (x : Access) : Bool :=
  (o.kind.isLsu || o.kind.isTile) && s.ops.any fun p =>
    p.tid == o.tid && p.wave == o.wave && p.kind.isLsu == o.kind.isLsu && p.kind.isTile == o.kind.isTile && p.phase != .complete
    && (if p.id == o.id then !(o.kind.isTile && o.kind.loads) && p.accs.any fun y => decide (y.lane < x.lane) && holdsBack s t c o x p y
        else comesBefore p o && p.accs.any fun y => holdsBack s t c o x p y)

/-- The operation's stores go through the L1 that a team's waves use. -/
def sharesL1 (s : State) (t : Team) (p : Op) : Bool :=
  match findTeam s p.tid with
  | some u => u.die == t.die && u.core == t.core && u.sweep.cid == t.sweep.cid && !isDet s u
  | none => false

/-- Two operations of one wave, the first after the second in program order. -/
def followsOwn (p o : Op) : Bool := p.tid == o.tid && p.wave == o.wave && comesBefore o p

/-- The core's L1 has accepted a store to some byte of `x` before it accepted or performs `o`, and the store has not reached its home: the L1
sends its stores home in the order in which it accepted them (R80, R206). -/
def l1Ahead (s : State) (o : Op) (t : Team) (x : Access) : Bool :=
  s.ops.any fun p =>
    p.id != o.id && (decide (p.id < o.id) || o.unreads x.lane) && p.kind.stores && !p.inTask && !followsOwn p o
    && p.accs.any (fun y => y.open && !p.unreads y.lane && decide (y.level = .g) && runsMeet false x.addr x.n y.addr y.n)
    && sharesL1 s t p

/-! ## What a load returns -/

/-- The byte that an access whose stores the L1 has accepted holds for a VA: not yet at its home (R80). -/
def heldByte (x : Access) (va : Nat) : Option Byte :=
  if x.open && decide (x.level = .g) && decide (x.addr + x.data2 ≤ va) && decide ((va : Int) < x.addr + x.n) then
    (leBytes x.n x.data)[(va - x.addr).toNat]?
  else none

/-- The youngest byte for a VA among the stores of some operations that the L1 has accepted and not sent home (R80). -/
def acceptedByte (s : State) (sel : Op → Bool) (va : Nat) : Option Byte :=
  s.ops.foldl (fun m p =>
    let stores := match p.kind with | .store _ => true | _ => false
    if stores && sel p then
      p.accs.foldl (fun m x => if p.unreads x.lane then m else match heldByte x va with | some b => some b | none => m) m
    else m) none

/-- A store at home and not in force yet that a wave's load sees: one that the L1 of its core accepted, or an earlier one of its own, which it
sees on whatever core it runs (R80, R93). -/
def homeVisible (s : State) (o : Op) (seat : Nat) (h : HomeStore) : Bool :=
  decide (s.now < h.t) &&
    match findOp s h.op with
    | none => h.core == some seat
    | some p =>
      if p.tid == o.tid && p.wave == o.wave then h.core.isSome && !followsOwn p o else h.core == some seat

/-- The byte of a task's version (R89). -/
def versionByte (w : Wave) (pa : Nat) : Option Byte :=
  match w.task with
  | none => none
  | some k => (k.version.find? fun e => e.1 == pa).map (·.2)

/-- The lane whose DET buffer an access stands in: the accesses of a tile's operation, which runs once for its wave, in lane 0's (R90, R363). -/
def detLane (tile : Bool) (x : Access) : Nat := if tile then 0 else x.lane

/-- A lane's own youngest buffered byte under DET (R90), at a level and address. -/
def detByte (s : State) (o : Op) (t : Team) (x : Access) (lev : Level) (a : Int) : Option Byte :=
  let lane := detLane o.kind.isTile x
  let inAcc (tile : Bool) (x : Access) : Option Byte :=
    if detLane tile x == lane && x.level = lev && decide (x.addr ≤ a) && decide (a < x.addr + x.n) then (leBytes x.n x.data)[(a - x.addr).toNat]?
    else none
  let tileOp (id : Nat) : Bool := (findOp s id).any (·.kind.isTile)
  let buffered := t.det.foldl (fun m e =>
    if e.wave == o.wave && !e.last && decide (e.op < o.id) then match inAcc (tileOp e.op) e.acc with | some b => some b | none => m else m) none
  s.ops.foldl (fun m p =>
    if p.tid == o.tid && p.wave == o.wave && decide (p.id < o.id) && p.kind.stores then
      p.accs.foldl (fun m x => if x.open then match inAcc p.kind.isTile x with | some b => some b | none => m else m) m
    else m) buffered

/-- The byte that a load of operation `o` returns at `va`, physical address `pa` (R77, R80, R89, R90): inside a task the wave's own stores of
the task come first, then its version; then what the L1 has accepted, then what stands at home, then memory. -/
def loadByte (s : State) (o : Op) (w : Wave) (t : Team) (x : Access) (va pa : Nat) (cached : Bool) : Byte :=
  if isDet s t then
    match detByte s o t x .g va with
    | some b => b
    | none =>
      match versionByte w pa with
      | some b => b
      | none => match sweepOf s t with | some sw => byteAt sw.snap pa | none => byteAt s.mem pa
  else
    let own (p : Op) : Bool := p.tid == o.tid && p.wave == o.wave
    let mine := if o.inTask then acceptedByte s (fun p => own p && p.inTask && !followsOwn p o) va else none
    let accepted := if cached then acceptedByte s (fun p => if own p then !followsOwn p o else !p.inTask && sharesL1 s t p) va else none
    let home := if cached then (lastAtHome (homeVisible s o (36 * t.die + t.core)) s pa).map (·.2) else none
    ((mine.or (versionByte w pa)).or (accepted.or home)).getD (byteAt s.mem pa)

/-! ## Destinations -/

/-- The registers that a load of size code `sz` writes, from its value (R222). -/
def extendLoad (sz v : Nat) : List W32 :=
  match sz with
  | 0 => [BitVec.ofNat 32 (v % 256)]
  | 1 => [(BitVec.ofNat 8 v).signExtend 32]
  | 2 => [BitVec.ofNat 32 (v % 65536)]
  | 3 => [(BitVec.ofNat 16 v).signExtend 32]
  | 4 => [BitVec.ofNat 32 v]
  | 5 => [BitVec.ofNat 32 v, BitVec.ofNat 32 (v / 2 ^ 32)]
  | _ => [BitVec.ofNat 32 v, BitVec.ofNat 32 (v / 2 ^ 32), BitVec.ofNat 32 (v / 2 ^ 64), BitVec.ofNat 32 (v / 2 ^ 96)]

/-- Consecutive lane registers written from one lane's values. -/
def setRegs (w : Wave) (r lane : Nat) : List W32 → Wave
  | [] => w
  | x :: xs => setRegs (w.setV r lane x) (r + 1) lane xs

/-- A scalar of a path takes a value that a path before it has written, unless it has written its own (R129). -/
def Path.fill (p : Path) (k : Nat) (x : Word) : Path :=
  if p.wr.getLsbD k then p else { p with scal := Sparse.set 0 p.scal k x }

/-- A value written in the path outside a level reaches the level's copy and the paths that wait there, as far as none has written its own;
the levels are given from the outside in. With them, the numbers of the levels reached, and whether the innermost was. -/
def fillLevels (k : Nat) (x : Word) : Bool → List DivLevel → List DivLevel × List Nat × Bool
  | live, [] => ([], [], live)
  | live, d :: r =>
    let here := live && !d.wr.getLsbD k
    let d1 := if here then { d with scal := Sparse.set 0 d.scal k x, pending := d.pending.map fun p => p.fill k x } else d
    let q := fillLevels k x here r
    (d1 :: q.1, (if here then [d.lid] else []) ++ q.2.1, q.2.2)

/-- A scalar of a path that has split: its copy stands in the level, and the level's paths see it until they write their own (R129). -/
def setOuterScalar (w : Wave) (pid k : Nat) (x : Word) : Wave :=
  let up := w.stack.reverse
  let before := up.takeWhile fun d => d.outerPid != pid
  let q := fillLevels k x true ((up.drop before.length).map fun d => if d.outerPid == pid then { d with wr := d.wr &&& ~~~BitVec.ofNat 64 (2 ^ k) } else d)
  { w with
    stack := ((before ++ q.1).map fun d => if d.outerPid == pid then { d with wr := d.wr ||| BitVec.ofNat 64 (2 ^ k) } else d).reverse
    conts := w.conts.map fun c => if q.2.1.contains c.lid then { c with path := c.path.fill k x } else c
    path := if q.2.2 then w.path.fill k x else w.path }

/-- The number of the path into which a path has been merged. -/
def mergedInto (w : Wave) (pid : Nat) : Nat :=
  match w.stack.reverse.find? fun d => d.hist.contains pid with
  | some d => d.outerPid
  | none => w.path.pid

/-- A scalar of the path numbered `pid` written in that path's own copy, wherever the path stands (R129, R226): running, ejected, waiting for
its turn, arrived at its JOIN, split itself; or merged into the path that went on. -/
def setPathScalar (w : Wave) (pid k : Nat) (x : Word) : Wave :=
  let here (q : Nat) (w : Wave) : Option Wave :=
    if w.path.pid = q then some { w with path := w.path.setS k x }
    else if w.conts.any fun c => c.path.pid = q then
      some { w with conts := w.conts.map fun c => if c.path.pid = q then { c with path := c.path.setS k x } else c }
    else if w.stack.any fun d => d.pending.any fun p => p.pid = q then
      some { w with stack := w.stack.map fun d => { d with pending := d.pending.map fun p => if p.pid = q then p.setS k x else p } }
    else if w.stack.any fun d => d.done.any fun p => p.pid = q then
      some { w with stack := w.stack.map fun d => { d with done := d.done.map fun p =>
        if p.pid = q then { p with scal := Sparse.set 0 p.scal k x, wr := p.wr ||| BitVec.ofNat 64 (2 ^ k) } else p } }
    else if w.stack.any fun d => d.outerPid = q then some (setOuterScalar w q k x)
    else none
  (here pid w).getD ((here (mergedInto w pid) w).getD w)

/-- An EB32 pattern in its canonical form (R61): exponent 0 is zero, exponent 255 is unbounded. -/
def canonEb (x : W32) : W32 :=
  if x.extractLsb' 24 8 = 0 then 0 else if x.extractLsb' 24 8 = 255 then 0xFF000000 else x

/-- The destination of a load written for one lane; the writes of a wave that has ended are dropped (R153). -/
def writeLoaded (s : State) (o : Op) (lane v : Nat) : State :=
  updWave s o.tid o.wave fun w =>
    if w.status = .ended then w
    else
      match o.kind with
      | .load dst sz => setRegs w dst lane (extendLoad sz v)
      | .loadScalar dst pid _ => setPathScalar w pid dst (BitVec.ofNat 64 v)
      | .loadBound dst both =>
        let lo := canonEb (BitVec.ofNat 32 v)
        let hi := canonEb (BitVec.ofNat 32 (v / 2 ^ 32))
        w.setBnd dst (if both then hi ++ lo else (w.bnd dst).extractLsb' 32 32 ++ lo)
      | _ => w

/-! ## Tiles (R356, R362) -/

/-- The element format of a storage code, none for RAW or a code that names none (R356). -/
def storageFmt (code : Nat) : Option Fmt := if 128 ≤ code then some .ac96 else fmtOfCode (code % 16)

/-- Bytes of a row of 64 elements. -/
def rowBytes (f : Fmt) : Nat := 8 * fmtBits f

/-- An element widened exactly to AC96 (R362). -/
def widen (f : Fmt) (x : Nat) : BitVec 96 := BitVec.ofNat 96 (match f with | .ac96 => x | _ => (roundF .ac96 0 (readF f x)).1)

/-- The tile with every element loaded from the bytes of its rows, and its bound 0. -/
def fillTile (w : Wave) (k : Nat) (f : Fmt) (v : Nat) : Wave :=
  let w1 := (upto 4096).foldl (fun w n => w.setEl k (n / 64) (n % 64) (widen f (v / 2 ^ (fmtBits f * n) % 2 ^ fmtBits f))) w
  w1.setBnd k ((w.bnd k).extractLsb' 32 32 ++ (0 : W32))

/-- The bytes of the accesses of an operation, one after another, as a number. -/
def joinAccs : List Access → Nat
  | [] => 0
  | x :: r => x.data % 256 ^ x.n + 256 ^ x.n * joinAccs r

/-- ACCLD's tile is written once every row is read. -/
def writeTile (s : State) (o : Op) : State :=
  match o.kind with
  | .accLoad k code =>
    match storageFmt code with
    | some f => updWave s o.tid o.wave fun w => if w.status = .ended then w else fillTile w k f (joinAccs o.accs)
    | none => s
  | _ => s

/-! ## The end of an operation -/

/-- An operation whose accesses are all over: a load and a scratchpad store are complete, and register work ends except for an
atomic's, which ends with its completion (R29, R85). -/
def settleOp (s : State) (id : Nat) : State :=
  match findOp s id with
  | none => s
  | some o =>
    if !o.over || o.phase = .parked then s
    else if o.kind.loads || (o.kind = .scratchStore && !detWaits s o) then
      lower (updOp (writeTile s o) id fun o => { o with phase := .complete, regWork := false })
    else updOp s id fun o => { o with phase := .issued }

/-! ## Loads (R77, R81) -/

/-- A translation that the translation home has made is recorded (R207); one that a copy served was not made. -/
def noteAccess (s : State) (c : Context) (seat : Nat) (va pa pte : Nat) (k : AccKind) : State :=
  if (servedBy s c seat (va / 192) k).isSome then s else noteAlias s c pte (pa / 49152) (va / 49152)

/-- An access may be performed now: it is open, its registers have been read (R30), and its operation does not stand in a trap frame's
replay set (R176). -/
def mayPerform (o : Op) (x : Access) : Bool := x.open && !o.unreads x.lane && decide (o.phase ≠ .parked)

/-- One load access performed now: as a piece of one sector, or a whole access of a scratchpad level. None if it must wait. -/
def performLoad (s : State) (o : Op) (x : Access) : Option State :=
  match opEnv s o with
  | none => none
  | some (w, t, c) =>
    if !mayPerform o x || mustWait s o t c x then none
    else if x.level ≠ .g then
      match levelBytes s t o.wave x.lane x.level x.addr x.n with
      | .error (code, sub, a) => some (markFault s o x.lane ⟨code, sub, BitVec.ofInt 64 a⟩)
      | .ok ps =>
        if scrPoisoned s ps then some (markFault s o x.lane ⟨.poison, 2, BitVec.ofInt 64 (x.addr + scrFirstPoison s ps)⟩)
        else
          let byteOf (k : Nat) (p : ScrPlace) : Byte :=
            if isDet s t then (detByte s o t x x.level (x.addr + k)).getD (scrSeen s t p) else scrGet s p
          let v := leNat ((ps.zipIdx).map fun q => byteOf q.2 q.1)
          some (settleOp (updAcc (writeLoaded s o x.lane v) o.id x.lane fun x => { x with done := true, data := v }) o.id)
    else
      let va := x.addr.toNat
      let got := x.data2
      let k := pieceLen va got x.n
      match accessFrom s c (seatOf t) x.addr x.n got k .load with
      | .ok pa pte =>
        let cached := isNormal pte (pa / 49152)
        let bs := (upto k).map fun i => loadByte s o w t x (va + got + i) (pa + got + i) cached
        let v := withBytes x.data got bs
        let hit := s.inputs.hits && (copyFor s c (.l1 (seatOf t)) (va / 192) .load).isSome
        let s1 := grantCopies (noteAccess s c (seatOf t) va pa pte .load) c t.die t.core (va + got) (pa + got) pte
        let s2 := if cached then updWave s1 o.tid o.wave fun w => w.count (if hit then 5 else 6) 1 else s1
        if got + k < x.n then some (updAcc s2 o.id x.lane fun x => { x with data := v, data2 := got + k })
        else some (settleOp (updAcc (writeLoaded s2 o x.lane v) o.id x.lane fun x => { x with done := true, data := v }) o.id)
      | r => some (failAccess s o t c o.kind.recordKind x x.addr r)

/-! ## Stores (R78, R80, R89, R90) -/

/-- `%horizon` takes a completion time (R82). -/
def raiseHorizon (s : State) (tid wave t : Nat) : State := updWave s tid wave fun w => { w with horizon := max w.horizon t }

/-- The lines of every open version homed on a die (R181). -/
def poolLines (s : State) (die : Nat) : Nat :=
  s.waves.foldl (fun n w => match w.task with
    | some k => n + (k.lines.filter fun l => l.2 == die).length
    | none => n) 0

/-- The subcode of TASK_OVERFLOW that a store of `n` bytes at `pa` breaks, homed on `die` (R181). -/
def overflowSub (s : State) (k : Task) (pa n die : Nat) : Option Nat :=
  let fresh := ((upto ((pa + n - 1) / 192 - pa / 192 + 1)).filter fun i => !(k.lines.any fun l => l.1 == pa / 192 + i)).length
  if k.lines.length + fresh > 5461 then some 1
  else if poolLines s die + fresh > 131072 then some 2
  else none

/-- Bytes put over those of a version. -/
def versionPut (v : List Host.Cell) (pa : Nat) (bs : List Byte) : List Host.Cell :=
  bs.zipIdx.foldl (fun v q => (v.filter fun e => e.1 != pa + q.2) ++ [(pa + q.2, q.1)]) v

/-- A write of `n` bytes enters a task's version, where its own wave sees `bs` (R89). -/
def enterAs (s : State) (tid wave pa n die : Nat) (bs : List Byte) (e : VersionWrite) : State :=
  updWave s tid wave fun w =>
    match w.task with
    | none => w
    | some k =>
      let new := ((upto ((pa + n - 1) / 192 - pa / 192 + 1)).map (pa / 192 + ·)).filter fun l => !(k.lines.any fun e => e.1 == l)
      { w with task := some { k with
          version := versionPut k.version pa bs, writes := k.writes ++ [e], lines := k.lines ++ new.map fun l => (l, die) } }

/-- Bytes enter a task's version (R89). -/
def enterVersion (s : State) (tid wave pa die : Nat) (bs : List Byte) : State := enterAs s tid wave pa bs.length die bs (.put pa bs)

/-- The fault of a store that would overflow a task's version (R181). -/
def overflowFault (c : Context) (va : Int) (sub : Nat) : FaultInfo :=
  let a : Word := BitVec.ofInt 64 va
  ⟨.taskOverflow, sub, if sub = 2 then (a &&& ~~~7) ||| BitVec.ofNat 64 (homeVdie c (va.toNat / 49152)) else a⟩

/-- An access enters its lane's DET buffer (R90, R92). -/
def bufferDet (s : State) (o : Op) (x : Access) (pa : Nat) (last : Bool) : State :=
  updTeam s o.tid fun t => { t with det := t.det ++ [⟨o.id, o.wave, x, pa, o.inTask, last⟩] }

/-- A store outside tasks and DET reaches its home, as a piece of one sector (R77, R78): it takes its completion time there. -/
def storePiece (s : State) (o : Op) (t : Team) (c : Context) (x : Access) (pa pte : Nat) : State :=
  let got := x.data2
  let k := pieceLen x.addr.toNat got x.n
  let cached := isNormal pte (pa / 49152)
  let core : Option Nat := if cached then some (seatOf t) else none
  let (s1, tt) := storeHome (noteLine s c (x.addr.toNat + got) (pa + got) pte true) o.id core cached (pa + got) (bytesOf x.data got k)
  let s2 := if o.kind.isLsu then raiseHorizon s1 o.tid o.wave tt else s1
  let s3 := updOp s2 o.id fun o => { o with last := max o.last tt }
  if got + k < x.n then updAcc s3 o.id x.lane fun x => { x with data2 := got + k }
  else settleOp (updAcc s3 o.id x.lane fun x => { x with done := true }) o.id

/-- One store access reaches its home, its scratchpad level, its task's version or its DET buffer. None if it must wait. -/
def performStore (s : State) (o : Op) (x : Access) : Option State :=
  match opEnv s o with
  | none => none
  | some (w, t, c) =>
    if !mayPerform o x || mustWait s o t c x then none
    else if x.level ≠ .g then
      match levelBytes s t o.wave x.lane x.level x.addr x.n with
      | .error (code, sub, a) => some (markFault s o x.lane ⟨code, sub, BitVec.ofInt 64 a⟩)
      | .ok ps =>
        if isDet s t then
          some (settleOp (bufferDet (updAcc s o.id x.lane fun x => { x with done := true }) o x 0 false) o.id)
        else
          let s0 := updOp (scrPuts s ps (leBytes x.n x.data)) o.id fun o => { o with last := max o.last s.now }
          let s1 := if o.kind.isLsu then raiseHorizon s0 o.tid o.wave s.now else s0
          some (settleOp (updAcc s1 o.id x.lane fun x => { x with done := true }) o.id)
    else
      let va := x.addr.toNat
      let whole := isDet s t || o.inTask
      let got := if whole then 0 else x.data2
      match accessFrom s c (seatOf t) x.addr x.n got (if whole then x.n else pieceLen va got x.n) .store with
      | .ok pa pte =>
        let s0 := noteAccess s c (seatOf t) va pa pte .store
        if isDet s t then
          some (settleOp (bufferDet (updAcc s0 o.id x.lane fun x => { x with done := true }) o x pa false) o.id)
        else
          match o.inTask, w.task with
          | true, some k =>
            match overflowSub s k pa x.n (homeDie c (va / 49152)) with
            | some sub => some (markFault s o x.lane (overflowFault c x.addr sub))
            | none =>
              let s1 := enterVersion s0 o.tid o.wave pa (homeDie c (va / 49152)) (leBytes x.n x.data)
              some (settleOp (updAcc s1 o.id x.lane fun x => { x with done := true }) o.id)
          | _, _ => if isNormal pte (pa / 49152) && l1Ahead s o t x then none else some (storePiece s0 o t c x pa pte)
      | r => some (failAccess s o t c o.kind.recordKind x x.addr r)

/-! ## Atomics (R87, R206, R229 to R232) -/

/-- mag(x) of R232. -/
def magOf (x : Nat) : Nat :=
  let m := x % 2 ^ 31
  if m > 0x7F800000 then 0x7F800000 else m

/-- The value that an atomic of `n` bytes writes, or none where a comparison fails. -/
def atomNew (f : AtomFn) (n old c expect : Nat) : Option Nat :=
  let m := 2 ^ (8 * n)
  match f with
  | .add => some ((old + c) % m)
  | .and => some (Nat.land old c)
  | .or => some (Nat.lor old c)
  | .xor => some (Nat.xor old c)
  | .minS => some (if sextInt old (8 * n) ≤ sextInt c (8 * n) then old else c)
  | .maxS => some (if sextInt old (8 * n) ≤ sextInt c (8 * n) then c else old)
  | .minU => some (min old c)
  | .maxU => some (max old c)
  | .exch => some c
  | .fadd => some (roundF .fp32 0 (addF 0 (readF .fp32 old) (readF .fp32 c)).1).1
  | .cas => if old = expect then some c else none
  | .amaxu => some (max (magOf old) (magOf c))
  | .amaxswap => some 0

/-- The host carries out this atomic (R206). AMAXSWAP, an exchange with 0 of 4 bytes, is not among the operations that R206 names; the model takes
it for one that is refused (log entry 81). -/
def hostAtom (f : AtomFn) (n : Nat) : Bool :=
  match f with
  | .add | .exch => n == 4 || n == 8
  | .cas => n == 8 || n == 16
  | _ => false

/-- The value an atomic leaves in its destination lane (R230 to R232). -/
def atomDest (s : State) (o : Op) (lane n v : Nat) : State :=
  match o.kind with
  | .atomic _ (some d) =>
    updWave s o.tid o.wave fun w =>
      if w.status = .ended then w else setRegs w d lane (extendLoad (if n = 16 then 6 else if n = 8 then 5 else 4) v)
  | _ => s

/-- An atomic enters a task's version: its read and its write are at the commit (R87, R89); until then the task's own wave sees what it makes
of the bytes as they are now (R80). -/
def enterAtomic (s : State) (w : Wave) (o : Op) (f : AtomFn) (x : Access) (pa die : Nat) : State :=
  let old := leNat ((upto x.n).map fun i => (versionByte w (pa + i)).getD (homeByte s (pa + i)))
  enterAs s o.tid o.wave pa x.n die (((atomNew f x.n old x.data x.data2).map (leBytes x.n)).getD []) (.atom o.id x.lane f x.n pa x.data x.data2)

/-- One write of a version as it takes effect at the commit, over the bytes before it; an atomic's operation, lane and value read are noted. -/
def resolveWrite (s : State) (r : List Host.Cell × List (Nat × Nat × Nat)) : VersionWrite → List Host.Cell × List (Nat × Nat × Nat)
  | .put pa bs => (versionPut r.1 pa bs, r.2)
  | .atom op lane f n pa data data2 =>
    let old := leNat ((upto n).map fun i => ((r.1.find? fun e => e.1 == pa + i).map (·.2)).getD (homeByte s (pa + i)))
    (match atomNew f n old data data2 with | some v => versionPut r.1 pa (leBytes n v) | none => r.1, r.2 ++ [(op, lane, old)])

/-- A version's bytes at its commit, and what each of its atomics reads there (R89). -/
def resolveVersion (s : State) (k : Task) : List Host.Cell × List (Nat × Nat × Nat) := k.writes.foldl (resolveWrite s) ([], [])

/-- What an atomic writes reaches its home, and takes its T; one that writes nothing takes a T too (R87, R231). -/
def atomicHome (s : State) (op : Nat) (leased : Bool) (pa n : Nat) : Option Nat → State × Nat
  | some v => storeHome s op none leased pa (leBytes n v)
  | none =>
    let t := completionTime s (pa / 192) leased
    ({ s with lineT := Sparse.set 0 s.lineT (pa / 192) (t + 1) }, t)

/-- One atomic access performed at its place now. Its destination is written at its completion, so that no later access runs before
its T (R84, R87); inside a task it enters the version. None if it must wait. Of a scratchpad atomic that is out of range and misaligned the
range is reported, as R195 comes before R196 in global memory (log entry 82). -/
def performAtomic (s : State) (o : Op) (f : AtomFn) (x : Access) : Option State :=
  match opEnv s o with
  | none => none
  | some (w, t, c) =>
    if !mayPerform o x || detHolds t o x.lane || mustWait s o t c x || l1Ahead s o t x then none
    else if x.level ≠ .g then
      match levelBytes s t o.wave x.lane x.level x.addr x.n with
      | .error (code, sub, a) => some (markFault s o x.lane ⟨code, sub, BitVec.ofInt 64 a⟩)
      | .ok ps =>
        if x.addr % x.n ≠ 0 then some (markFault s o x.lane ⟨.align, 1, BitVec.ofInt 64 x.addr⟩)
        else if scrPoisoned s ps then some (markFault s o x.lane ⟨.poison, 2, BitVec.ofInt 64 (x.addr + scrFirstPoison s ps)⟩)
        else if isDet s t then some (bufferDet s o x 0 true)
        else
          let old := leNat (ps.map (scrGet s))
          let s1 := match atomNew f x.n old x.data x.data2 with
            | some v => scrPuts s ps (leBytes x.n v)
            | none => s
          let s2 := raiseHorizon s1 o.tid o.wave s.now
          let s3 := updOp s2 o.id fun o => { o with last := max o.last s.now }
          some (settleOp (updAcc s3 o.id x.lane fun x => { x with done := true, data := old, data2 := s.now }) o.id)
    else
      let va := x.addr.toNat
      match accessFrom s c (seatOf t) x.addr x.n 0 x.n .atomic with
      | .ok pa pte =>
        if pgnHost (pa / 49152) && !hostAtom f x.n then some (markFault s o x.lane ⟨.prot, 7, BitVec.ofInt 64 x.addr⟩)
        else
          let s0 := noteAccess s c (seatOf t) va pa pte .atomic
          if isDet s t then some (bufferDet s0 o x pa true)
          else
            match o.inTask, w.task with
            | true, some k =>
              match overflowSub s k pa x.n (homeDie c (va / 49152)) with
              | some sub => some (markFault s o x.lane (overflowFault c x.addr sub))
              | none =>
                some (settleOp (updAcc (enterAtomic s0 w o f x pa (homeDie c (va / 49152))) o.id x.lane fun x => { x with done := true }) o.id)
            | _, _ =>
              let old := leNat ((upto x.n).map fun i => homeByte s (pa + i))
              let (s1, tt) := atomicHome (leaveHome s0 c va pa pte) o.id (isNormal pte (pa / 49152)) pa x.n
                (atomNew f x.n old x.data x.data2)
              let s2 := raiseHorizon s1 o.tid o.wave tt
              let s3 := updOp s2 o.id fun o => { o with last := max o.last tt }
              some (settleOp (updAcc s3 o.id x.lane fun x => { x with done := true, data := old, data2 := tt }) o.id)
      | r => some (failAccess s o t c 2 x x.addr r)

/-! ## Events over the lanes of an operation -/

/-- Each selected access that can be performed is; none if there is none. -/
def performEach (s : State) (id : Nat) (sel : Access → Bool) (one : State → Op → Access → Option State) : Option State :=
  match findOp s id with
  | none => none
  | some o =>
    o.accs.foldl (fun m x =>
      let s1 := m.getD s
      if !sel x then m
      else
        match findOp s1 id with
        | none => m
        | some o1 =>
          match o1.accs.find? fun y => y.lane == x.lane with
          | none => m
          | some y => match one s1 o1 y with | some s2 => some s2 | none => m) none

/-- The accesses that a lane mask selects; those of the matrix engine are taken all together. -/
def selects (o : Op) (m : W32) (x : Access) : Bool :=
  match o.kind with
  | .accLoad _ _ | .accStore _ => true
  | _ => m.getLsbD x.lane

/-- The destinations of those lanes of an atomic that satisfy `p` and have not been written are written; `Op.kept` holds the lanes that have been
(R30, R87). -/
def writeAtomLanes (s : State) (o : Op) (p : Access → Bool) : State :=
  let now := o.accs.filter fun x => x.done && p x && !o.kept.contains x.lane
  updOp (now.foldl (fun s x => atomDest s o x.lane x.n x.data) s) o.id fun o => { o with kept := o.kept ++ now.map (·.lane) }

/-- An operation that writes memory completes when the time has passed the largest T of its stores (R85); an atomic's
destinations are written by then. -/
def completeOp (s : State) (o : Op) : State :=
  let s1 := if o.kind.isAtomic then writeAtomLanes s o fun _ => true else s
  lower (updOp s1 o.id fun o => { o with phase := .complete, regWork := false })

end Sys2Proof.Machine
end

