-- ==== Sys2Proof/Machine/Handles.lean ====
section
/-!
DEFINITION. What an instruction checks about a jar handle before it uses it (R239, R302, R307, R308), in the order of R239.
-/

namespace Sys2Proof.Machine

/-- RIGHTS bits (R302). -/
abbrev rightRead : Nat := 0
/-- WRITE. -/
abbrev rightWrite : Nat := 1
/-- SHARE. -/
abbrev rightShare : Nat := 2
/-- RETIRE. -/
abbrev rightRetire : Nat := 3

/-- The handle carries a right. -/
def hasRight (h : Word) (k : Nat) : Bool := bitsOf (handleRights h) k k == 1

/-- A handle is a fill handle. -/
def isFill (h : Word) : Bool := handleKind h == 1
/-- A handle is a see handle. -/
def isSee (h : Word) : Bool := handleKind h == 2

/-- A handle names a jar of another Y3 of the load-store domain (R308). -/
def isRemote (s : State) (h : Word) : Bool := decide (h ≠ 0) && decide (handleDev h ≠ ownDev s) && inDomain s (handleDev h)

/-- The record of a jar of another Y3, as it was last read for this step, or that its table holds none (log entry 78). -/
def remoteJar (s : State) (c : Context) (h : Word) : Option (Option JarRec) :=
  (s.inputs.jars.find? fun x => x.1 = (handleDev h, c.cid, handleJar h)).map (·.2)

/-- The record that a handle names has been read: this Y3's own is at hand, that of another Y3 must come from there (R239, R326, R328). -/
def recordSeen (s : State) (c : Context) (h : Word) : Bool := !isRemote s h || (remoteJar s c h).isSome

/-- The record that a handle names, on whichever Y3. -/
def jarFor (s : State) (c : Context) (h : Word) : JarRec :=
  if isRemote s h then ((remoteJar s c h).bind id).getD jarFree else jarOf c (handleJar h)

/-- The jar lies in the table of the Y3 that the handle names (R308). -/
def inTable (s : State) (c : Context) (h : Word) : Bool :=
  if isRemote s h then (match remoteJar s c h with | some none => false | _ => true)
  else decide (handleDev h ≠ ownDev s) || decide (handleJar h < c.jcount)

/-- The subcode of STALE_HANDLE of a handle that reads its record: the lowest of R308's causes that applies (log entry 39). -/
def staleSub (s : State) (c : Context) (h : Word) : Option Nat :=
  let known := decide (handleDev h = ownDev s) || isRemote s h
  let r := jarFor s c h
  if h = 0 then some 1
  else if known ∧ inTable s c h ∧ (r.gen ≠ handleGen h ∨ r.state = 0) then some 2
  else if ¬(handleKind h = 1 ∨ handleKind h = 2) then some 3
  else if ¬inTable s c h then some 4
  else if ¬known then some 5
  else none

/-- A precise handle fault with the handle in `%xaddr` (R239). -/
def handleFault (code : Code) (sub : Nat) (h : Word) : Verdict := faulting code sub h

/-- Bytes of a jar's region. -/
def jarBytes (r : JarRec) : Nat := 49152 * r.len

end Sys2Proof.Machine
end

