-- ==== Sys2Proof/Machine/LoadStore.lean ====
section
/-!
DEFINITION. The load-store instructions (R220 to R243). A memory instruction becomes an operation with one access for each active
lane; the accesses are performed by the events of MemEvents. Its registers are read as it issues, or later (R30, log entry 7).
-/

namespace Sys2Proof.Machine

/-! ## Addresses and data (R221, R222) -/

/-- The index of a lane (R221): a lane register's is sign-extended from 32 bits, as R254 leaves a 32-bit SHL there. R287 has its listing reach
every element below 2^31 - 128, which such an index does not from 2^29 on; the spec does not rank the two, and the model follows R221 and R254
(log entry 98). -/
def indexOf (e : Env) (l : Nat) : Int :=
  if e.f.bsp = 0 then (e.w.v e.f.b.toNat l).toInt
  else if e.f.bsp = 1 then (e.p.s e.f.b.toNat).toInt
  else e.f.b.toInt

/-- The base scalar, unsigned. -/
def baseOf (e : Env) : Nat := (e.p.s e.f.a.toNat).toNat

/-- The address of a lane's access: an exact integer (R221). -/
def addrOf (e : Env) (l : Nat) : Int := baseOf e + indexOf e l

/-- Bytes of a size code (R222). -/
def szBytes (sz : Nat) : Nat :=
  match sz with | 0 | 1 => 1 | 2 | 3 => 2 | 4 => 4 | 5 => 8 | _ => 16

/-- The number in `k` lane registers from `r`, lowest first. -/
def regsNat (w : Wave) (r l : Nat) : Nat → Nat
  | 0 => 0
  | k + 1 => (w.v r l).toNat + 2 ^ 32 * regsNat w (r + 1) l k

/-- The `n` bytes of a data operand in C (R222). -/
def dataOf (e : Env) (n l : Nat) : Nat :=
  (if e.f.csp = 0 then regsNat e.w e.f.c.toNat l ((n + 3) / 4) else (e.p.s e.f.c.toNat).toNat) % 2 ^ (8 * n)

/-- The level that LEV names (R222). -/
def levOf (e : Env) : Level :=
  match bitsOf e.f.bmod.toNat 3 2 with | 0 => .lane | 1 => .core | 2 => .clu | _ => .die

/-- One access of a lane. -/
def accOf (lane : Nat) (lev : Level) (a : Int) (n data data2 : Nat) : Access := ⟨lane, lev, a, n, data, data2, false, none, false⟩

/-- One access for each active lane. -/
def laneAccs (e : Env) (lev : Level) (n : Nat) (a : Nat → Int) (data data2 : Nat → Nat) : List Access :=
  (lanesOf e.act).map fun l => accOf l lev (a l) n (data l) (data2 l)

/-- An access that an entry's own alignment rule refuses (ALIGN, OPERAND). -/
def misaligned (x : Access) : Access := { x with fault := some ⟨.align, 3, BitVec.ofInt 64 x.addr⟩ }

/-- An access whose address must be a multiple of `k`; R195 comes first. -/
def needAlign (k : Nat) (x : Access) : Access :=
  match rangeFault x.addr x.n with
  | some _ => x
  | none => if x.addr % k = 0 then x else misaligned x

/-- The atomic that ATOM's code names, with its size (R230). -/
def atomOf (k : Nat) : AtomFn × Nat :=
  match k with
  | 0 => (.add, 4) | 1 => (.add, 8) | 2 => (.and, 4) | 3 => (.and, 8) | 4 => (.or, 4) | 5 => (.or, 8) | 6 => (.xor, 4)
  | 7 => (.xor, 8) | 8 => (.minS, 4) | 9 => (.maxS, 4) | 10 => (.minU, 4) | 11 => (.maxU, 4) | 12 => (.exch, 4)
  | 13 => (.exch, 8) | 14 => (.fadd, 4) | _ => (.maxU, 8)

/-- The scratchpad atomic that ATOMS's code names (R229). -/
def atomsOf (k : Nat) : AtomFn :=
  match k % 4 with | 0 => .add | 1 => .or | 2 => .maxU | _ => .exch

/-- Bytes of ACAS (R231). -/
def acasBytes (k : Nat) : Nat := if k = 0 then 4 else if k = 1 then 8 else 16

/-- TRIAD of a row token (R210). -/
def tokenTriad (tok : Word) : Nat := bitsOf tok.toNat 43 0
/-- GEN. -/
def tokenGen (tok : Word) : Nat := bitsOf tok.toNat 51 44
/-- IDX. -/
def tokenIdx (tok : Word) : Nat := bitsOf tok.toNat 59 52

/-- The entry that a token names, if the token passes its check (R210). R210 names V, IDX, GEN and TRIAD; that a token which they fit fails where its
entry is free, never opened or released, is the model's choice (log entry 99). -/
def tokenEntry (t : Team) (tok : Word) : Option TriadEntry :=
  if bitsOf tok.toNat 63 63 = 0 then none
  else
    match t.triads[tokenIdx tok]? with
    | none => none
    | some x => if x.used && x.gen == tokenGen tok && x.triad == tokenTriad tok then some x else none

/-- The access of a lane at an offset into a held triad (R236). -/
def rowAcc (e : Env) (n : Nat) (data : Nat → Nat) (l : Nat) : Access :=
  let o := indexOf e l
  let x := accOf l .g (3072 * tokenTriad (e.p.s e.f.a.toNat) + o) n (data l) 0
  if o % n = 0 && decide (0 ≤ o) && decide (o < 3072) then x else misaligned x

/-- The operation and accesses that a memory instruction makes (R224 to R232, R236, R240 to R242); none for a word that makes
none. A replayed word is read again from here (R171). -/
def memPlan (s : State) (i : Instr) (e : Env) : Option (OpKind × List Access) :=
  let f := e.f
  let sz := f.bmod.toNat
  let zero : Nat → Nat := fun _ => 0
  let jarBase : Nat := (jarFor s e.c (e.w.h f.a.toNat)).base
  match i with
  | .ld _ => some (.load f.d.toNat sz, laneAccs e .g (szBytes sz) (addrOf e) zero zero)
  | .st _ => some (.store none, laneAccs e .g (szBytes sz) (addrOf e) (dataOf e (szBytes sz)) zero)
  | .lds _ =>
    let s2 := szOfSz2 sz
    some (.load f.d.toNat s2, laneAccs e (levOf e) (szBytes s2) (addrOf e) zero zero)
  | .sts _ =>
    let s2 := szOfSz2 sz
    some (.scratchStore, laneAccs e (levOf e) (szBytes s2) (addrOf e) (dataOf e (szBytes s2)) zero)
  | .atom _ =>
    let (fn, n) := atomOf sz
    some (.atomic fn (some f.d.toNat), laneAccs e .g n (addrOf e) (dataOf e n) zero)
  | .acas _ =>
    let n := acasBytes sz
    some (.atomic .cas (some f.d.toNat), laneAccs e .g n (addrOf e) (dataOf e n) fun l => regsNat e.w f.d.toNat l (n / 4))
  | .atoms _ => some (.atomic (atomsOf sz) (some f.d.toNat), laneAccs e (levOf e) 4 (addrOf e) (dataOf e 4) zero)
  | .ldu _ =>
    let n := if sz = 5 then 8 else 4
    some (.loadScalar f.d.toNat e.p.pid n, if e.act = 0 then [] else [accOf 0 .g (addrOf e 0) n 0 0])
  | .rowld _ => some (.load f.d.toNat sz, (lanesOf e.act).map (rowAcc e (szBytes sz) zero))
  | .rowst _ => some (.store none, (lanesOf e.act).map (rowAcc e (szBytes sz) (dataOf e (szBytes sz))))
  | .ldt _ => some (.load f.d.toNat sz, laneAccs e .g (szBytes sz) (fun l => jarBase + indexOf e l) zero zero)
  | .stf _ =>
    some (.store (some (handleJar (e.w.h f.a.toNat))),
      laneAccs e .g (szBytes sz) (fun l => jarBase + indexOf e l) (dataOf e (szBytes sz)) zero)
  | .amaxu _ => some (.atomic .amaxu none, laneAccs e .g 4 (addrOf e) (dataOf e 4) zero)
  | .amaxswap _ => some (.atomic .amaxswap (some f.d.toNat), laneAccs e .g 4 (addrOf e) zero zero)
  | .ldb _ =>
    let n := if sz = 1 then 8 else 4
    some (.loadBound f.d.toNat (sz == 1), if e.act = 0 then [] else [needAlign n (accOf 0 .g (addrOf e 0) n 0 0)])
  | .stb _ =>
    let n := if sz = 1 then 8 else 4
    some (.store none, if e.act = 0 then []
      else [needAlign n (accOf 0 .g (addrOf e 0) n ((e.w.bnd f.c.toNat).toNat % 2 ^ (8 * n)) 0)])
  | .lnwb _ =>
    let n := (e.p.s f.c.toNat).toNat
    let x := accOf 0 .g (addrOf e 0) n 0 0
    some (.lnwb, if e.act = 0 || n = 0 then []
      else match rangeFault x.addr n with
        | some (code, sub) => [{ x with fault := some ⟨code, sub, BitVec.ofInt 64 (if sub = 1 then max x.addr Config.vaTop else x.addr)⟩ }]
        | none => [{ x with done := true }])
  | .signal _ =>
    some (.atomic .add none, [accOf 0 .g (baseOf e) 8 (if f.bsp = 1 then (e.p.s f.b.toNat).toNat else imm8u f) 0])
  | _ => none

/-! ## Issue -/

/-- Counter CN of a word. -/
def counterName (f : Fields) : Nat := f.amod.toNat

/-- The counter that a word would raise already holds 255 (R208). -/
def counterFull (s : State) (e : Env) (cn : Option Nat) : Bool :=
  match cn with
  | none => false
  | some k => decide (255 ≤ counterOf s e.who.tid e.who.wave k)

/-- Eight memory instructions of the wave are in flight and have not passed translation (R175); those that a trap frame holds are in flight no
more (R170, R176). -/
def skidFull (s : State) (e : Env) : Bool :=
  decide (8 ≤ ((waveOps s e.who.tid e.who.wave).filter fun o =>
    o.kind.isLsu && decide (o.phase ≠ .parked) && o.accs.any fun x => !x.done && decide (x.level = .g)).length)

/-- DET buffer entries that an access takes (R91). -/
def detEntries (k : OpKind) (x : Access) : Nat :=
  match k with
  | .atomic .cas _ => max 1 ((2 * x.n + 7) / 8)
  | .atomic .amaxswap _ => 1
  | _ => max 1 ((x.n + 7) / 8)

/-- Entries of a lane's DET buffer in use, with those its unperformed stores will take. -/
def detUsed (s : State) (e : Env) (lane : Nat) : Nat :=
  let kindOf (id : Nat) : OpKind := match findOp s id with | some o => o.kind | none => .none
  let a := e.t.det.foldl (fun n x => if x.wave == e.who.wave && x.acc.lane == lane && !(kindOf x.op).isTile then n + detEntries (kindOf x.op) x.acc else n) 0
  (waveOps s e.who.tid e.who.wave).foldl (fun n o =>
    if o.kind.stores then o.accs.foldl (fun n x => if x.lane == lane && x.open then n + detEntries o.kind x else n) n else n) a

/-- A buffered access finds no room in its lane's DET buffer (R90, R91). -/
def detFull (s : State) (e : Env) (k : OpKind) (accs : List Access) : Bool :=
  isDet s e.t && (k.stores || k.isAtomic) && accs.any fun x => decide (64 < detUsed s e x.lane + detEntries k x)

/-- The lanes whose register sources a memory instruction has not read as it issues (R30): none, or all, as the step's inputs have it. -/
def unreadAt (s : State) (e : Env) (accs : List Access) : W32 :=
  if s.inputs.late && decide ((formOf e.i).eng = .lsu) then accs.foldl (fun m x => m ||| laneBit x.lane) 0 else 0

/-- What an operation on rows keeps of its token: the entry (R237). -/
def keptAt (e : Env) : List Nat :=
  match e.i with
  | .rowld _ | .rowst _ => [tokenIdx (e.p.s e.f.a.toNat)]
  | _ => []

/-- The operation that a memory instruction becomes. -/
def memOp (s : State) (e : Env) (cn : Option Nat) (kind : OpKind) (accs : List Access) : Op :=
  let un := unreadAt s e accs
  let regWork := !accs.isEmpty && (kind.loads || (match kind with | .atomic _ (some _) => true | _ => false))
  let phase : Phase := if accs.isEmpty then .complete else if accs.any fun x => x.fault.isSome then .faulted else .issued
  { mkOp s e.who e.w kind cn e.va (e.k.words.getD e.k.idx 0) (pathFlags e.p) accs (regWork || decide (un ≠ 0)) phase with
    unread := un, kept := keptAt e }

/-- A memory instruction issues: it waits for its counter, for translation room and for DET room, and otherwise becomes an operation
(R42, R175, R208, R223). An atomic under DET ends the quantum (R90). -/
def issueMem (s : State) (e : Env) (cn : Option Nat) (kind : OpKind) (accs : List Access) : Verdict :=
  if counterFull s e cn || skidFull s e then tryAgain s e
  else if detFull s e kind accs then .stall (updCur s e.who fun w => { w with status := .quantum })
  else
    let s1 := lower (pushOp s (memOp s e cn kind accs))
    .ok (if isDet s e.t && kind.isAtomic && !accs.isEmpty then updCur s1 e.who fun w => { w with status := .quantumEnd } else s1)

/-- The issue of a word that makes one memory operation. -/
def issuePlan (i : Instr) (cn : Option Nat) (s : State) : Host.Outcome State Fault Refusal :=
  issue i s fun e s =>
    match memPlan s i e with
    | some (k, xs) => issueMem s e cn k xs
    | none => .ok s

/-! ## Loads, stores and atomics -/

/-- LD (R224). -/
def execLd (f : Fields) (s : State) : Host.Outcome State Fault Refusal := issuePlan (.ld f) (some (counterName f)) s
/-- ST (R225). -/
def execSt (f : Fields) (s : State) : Host.Outcome State Fault Refusal := issuePlan (.st f) (some (counterName f)) s
/-- LDS (R228). -/
def execLds (f : Fields) (s : State) : Host.Outcome State Fault Refusal := issuePlan (.lds f) (some (counterName f)) s
/-- STS (R228). -/
def execSts (f : Fields) (s : State) : Host.Outcome State Fault Refusal := issuePlan (.sts f) none s
/-- ATOM (R230). -/
def execAtom (f : Fields) (s : State) : Host.Outcome State Fault Refusal := issuePlan (.atom f) (some (counterName f)) s
/-- ACAS (R231). -/
def execAcas (f : Fields) (s : State) : Host.Outcome State Fault Refusal := issuePlan (.acas f) (some (counterName f)) s
/-- ATOMS (R229). -/
def execAtoms (f : Fields) (s : State) : Host.Outcome State Fault Refusal := issuePlan (.atoms f) (some (counterName f)) s
/-- LDU (R226). -/
def execLdu (f : Fields) (s : State) : Host.Outcome State Fault Refusal := issuePlan (.ldu f) (some (counterName f)) s
/-- AMAXU (R232). -/
def execAmaxu (f : Fields) (s : State) : Host.Outcome State Fault Refusal := issuePlan (.amaxu f) (some (counterName f)) s
/-- AMAXSWAP (R232). -/
def execAmaxswap (f : Fields) (s : State) : Host.Outcome State Fault Refusal := issuePlan (.amaxswap f) (some (counterName f)) s
/-- LDB (R242). -/
def execLdb (f : Fields) (s : State) : Host.Outcome State Fault Refusal := issuePlan (.ldb f) (some (counterName f)) s
/-- STB (R242). -/
def execStb (f : Fields) (s : State) : Host.Outcome State Fault Refusal := issuePlan (.stb f) (some (counterName f)) s

/-! ## FENCE and WAITC (R83, R233, R234) -/

/-- FENCE's conditions on one operation of the wave (R83): loads performed, atomics and wide stores with their T returned, narrow
stores accepted by the L1 or written. What an open task's version holds is not waited for; a scratchpad level holds no version (R228). -/
def fenceOp (s : State) (c : Context) (scope : Nat) (o : Op) : Bool :=
  if o.phase = .complete then true
  else
    match o.kind with
    | .tdrop _ _ noPublish => decide (scope < 3) || noPublish || o.inTask
    | k =>
      if !k.isLsu then true
      else if o.inTask && !k.loads then o.accs.all fun x => x.done || decide (x.level = .g)
      else if k.loads || k.isAtomic || decide (3 ≤ scope) then o.over
      else o.accs.all fun x => x.done || (decide (x.level = .g) && !o.unreads x.lane && cacheable s c x.addr)

/-- FENCE returns (R83). -/
def fenceDone (s : State) (e : Env) (scope : Nat) : Bool :=
  (waveOps s e.who.tid e.who.wave).all (fenceOp s e.c scope) && (decide (scope < 3) || decide (e.w.horizon < s.now))

/-- A DET quantum boundary that has not been committed yet (R90). -/
def atBoundary (s : State) (e : Env) : Bool := isDet s e.t && !e.w.qpass

/-- The wave stalls at a quantum boundary. -/
def quantumStop (s : State) (e : Env) : Verdict := .stall (updCur s e.who fun w => { w with status := .quantum })

/-- FENCE. -/
def execFence (f : Fields) (s : State) : Host.Outcome State Fault Refusal :=
  issue (.fence f) s fun e s =>
    if atBoundary s e then quantumStop s e
    else if fenceDone s e f.bmod.toNat then .ok s else tryAgain s e

/-- WAITC's threshold (R234). -/
def waitLimit (e : Env) : Nat := if e.f.bsp = 1 then (e.p.s e.f.b.toNat).toNat else imm8u e.f

/-- WAITC. -/
def execWaitc (f : Fields) (s : State) : Host.Outcome State Fault Refusal :=
  issue (.waitc f) s fun e s =>
    if counterOf s e.who.tid e.who.wave (counterName f) ≤ waitLimit e then .ok s else tryAgain s e

/-! ## PREF and LNWB (R227, R243) -/

/-- One lane of PREF: a copy with a lease, or nothing if the access would fault or the line takes none. -/
def prefetch (e : Env) (lvl : Nat) (s : State) (l : Nat) : State :=
  match accessFrom s e.c (seatOf e.t) (addrOf e l) 1 0 1 .load with
  | .ok pa pte =>
    let va := (addrOf e l).toNat
    let s1 := noteAccess s e.c (seatOf e.t) va pa pte .load
    if lvl = 0 then grantCopies s1 e.c e.t.die e.t.core va pa pte
    else if lvl = 1 then (grantL2 s1 e.c e.t.die va pa pte).1
    else noteHome s1 e.c va pa pte false
  | _ => s

/-- PREF. -/
def execPref (f : Fields) (s : State) : Host.Outcome State Fault Refusal :=
  issue (.pref f) s fun e s => .ok ((lanesOf e.act).foldl (prefetch e f.bmod.toNat) s)

/-- LNWB: nothing that a load returns changes; the range obeys R195. -/
def execLnwb (f : Fields) (s : State) : Host.Outcome State Fault Refusal := issuePlan (.lnwb f) (some (counterName f)) s

/-! ## Held rows (R235 to R238) -/

/-- The token of an entry (R210). -/
def tokenOf (ix : Nat) (x : TriadEntry) (hold : Bool) : Word :=
  BitVec.ofNat 64 (2 ^ 63 + (if x.lost then 2 ^ 62 else 0) + (if hold then 2 ^ 61 else 0) + ix * 2 ^ 52 + x.gen % 256 * 2 ^ 44 + x.triad % 2 ^ 44)

/-- The entry that ROWOPEN uses or takes for a triad (R235 step 1). -/
def pickEntry (l : List TriadEntry) (triad : Nat) : Option Nat :=
  match l.findIdx? fun x => x.used && x.triad == triad with
  | some k => some k
  | none => l.findIdx? fun x => !x.used

/-- ROWOPEN: step 1, then the operation whose steps 2 to 4 an event carries out; no younger instruction of its path issues meanwhile. R235 does not
say whether step 1 takes an entry where sA + y is no valid VA: none is taken then, and a negative address is looked up as triad 0 (the model's choice,
log entry 100). -/
def execRowopen (f : Fields) (s : State) : Host.Outcome State Fault Refusal :=
  issue (.rowopen f) s fun e s =>
    if e.act = 0 then issueMem s e (some (counterName f)) .none []
    else if counterFull s e (some (counterName f)) || skidFull s e then tryAgain s e
    else
      let va := addrOf e 0
      match pickEntry e.t.triads (va.toNat / 3072) with
      | none => faulting .rowLimit 1 0
      | some k =>
        let x : Access := accOf 0 .g va 1 0 0
        let bad := rangeFault va 1
        let acc : Access := match bad with
          | some (code, sub) => { x with fault := some ⟨code, sub, faultAddr va 0 1 code sub noPoison⟩ }
          | none => x
        let op := mkOp s e.who e.w (.rowOpen f.d.toNat e.p.pid k (f.bmod == 1)) (some (counterName f)) e.va
          (e.k.words.getD e.k.idx 0) (pathFlags e.p) [acc] true (if bad.isSome then .faulted else .issued)
        let s1 := if bad.isSome then s
          else updTeam s e.t.tid fun t =>
            { t with triads := t.triads.modify k fun y =>
                if y.used then y else { y with used := true, triad := va.toNat / 3072, slot := none, socket := 0, lost := false, hold := false } }
        .ok (updCur (pushOp s1 op) e.who fun w => if e.who.lane.isNone then { w with status := .rowOpen op.id } else w)

/-- A token in a scalar that the word may name fails its check (R210, R236). -/
def tokenErrors (e : Env) : List Nat :=
  if scalarAt e.f.asp e.f.a && (tokenEntry e.t (e.p.s e.f.a.toNat)).isNone then [subField] else []

/-- A row access goes out: a token that fails its check is refused, whatever lanes are active (R236). -/
def rowIssue (i : Instr) (f : Fields) (s : State) : Host.Outcome State Fault Refusal :=
  issueWith i (fun e _ => tokenErrors e) s fun e s =>
    match memPlan s i e with
    | some (k, xs) => issueMem s e (some (counterName f)) k xs
    | none => .ok s

/-- ROWLD (R236). -/
def execRowld (f : Fields) (s : State) : Host.Outcome State Fault Refusal := rowIssue (.rowld f) f s
/-- ROWST (R236). -/
def execRowst (f : Fields) (s : State) : Host.Outcome State Fault Refusal := rowIssue (.rowst f) f s

/-- A row instruction of the wave through an entry is still outstanding (R237). -/
def rowBusy (s : State) (e : Env) (entry : Nat) : Bool :=
  (waveOps s e.who.tid e.who.wave).any fun o =>
    o.phase != .complete && (match o.kind with
      | .rowOpen _ _ k _ => k == entry
      | _ => ((opOfWord o.word).toNat == 0x5C || (opOfWord o.word).toNat == 0x5D) && o.kept == [entry])

/-- ROWREL (R237). With no active lane it frees the entry as well: R42 does not name the held-triad list (the model's choice, log entry 27). -/
def execRowrel (f : Fields) (s : State) : Host.Outcome State Fault Refusal :=
  issueWith (.rowrel f) (fun e _ => tokenErrors e) s fun e s =>
    let tok := e.p.s f.a.toNat
    match tokenEntry e.t tok with
    | none => illegal subField
    | some x =>
      if rowBusy s e (tokenIdx tok) then tryAgain s e
      else
        let s1 := updTeam s e.t.tid fun t =>
          { t with triads := t.triads.modify (tokenIdx tok) fun y => { y with used := false, slot := none, gen := (y.gen + 1) % 256 } }
        let shared := s1.teams.any fun t => t.triads.any fun y => y.used && y.slot.isSome && y.slot == x.slot && y.socket == x.socket
        .ok (match x.slot with
          | none => s1
          | some n => if shared then s1 else freeHold s1 x.socket n)

/-- ROWQ (R238). -/
def execRowq (f : Fields) (s : State) : Host.Outcome State Fault Refusal :=
  issue (.rowq f) s fun e s =>
    if e.act = 0 then .ok s
    else
    let tok := e.p.s f.a.toNat
    match tokenEntry e.t tok with
    | none => .ok (setScalar s e.who f.d.toNat 0)
    | some x =>
      let s1 := setScalar s e.who f.d.toNat (tokenOf (tokenIdx tok) x x.slot.isSome)
      .ok (if f.bmod = 1 then updTeam s1 e.t.tid fun t => { t with triads := t.triads.modify (tokenIdx tok) fun y => { y with lost := false } }
        else s1)

/-! ## Jars (R239 to R241) -/

/-- Some active lane's offset lies outside the jar (R239, R308 BOUNDS). -/
def jarBoundsBad (e : Env) (r : JarRec) (n : Nat) : Bool :=
  (lanesOf e.act).any fun l => decide (indexOf e l < 0) || decide ((jarBytes r : Int) < indexOf e l + n)

/-- What LDT's handle must pass (R239, R240): the fault, or none. -/
def ldtFault (s : State) (e : Env) : Option FaultInfo :=
  let h := e.w.h e.f.a.toNat
  match staleSub s e.c h with
  | some sub => some ⟨.staleHandle, sub, h⟩
  | none =>
    if isFill h then some ⟨.fillCopy, 1, h⟩
    else if !hasRight h rightRead then some ⟨.jarRights, 1, h⟩
    else if jarBoundsBad e (jarFor s e.c h) (szBytes e.f.bmod.toNat) then some ⟨.jarRights, 5, h⟩
    else if (jarFor s e.c h).state = 3 then some ⟨.abandonedFill, 0, h⟩
    else none

/-- What STF's handle must pass (R239). -/
def stfFault (s : State) (e : Env) : Option FaultInfo :=
  let h := e.w.h e.f.a.toNat
  match staleSub s e.c h with
  | some sub => some ⟨.staleHandle, sub, h⟩
  | none =>
    if isSee h || !hasRight h rightWrite then some ⟨.jarRights, 2, h⟩
    else if jarBoundsBad e (jarFor s e.c h) (szBytes e.f.bmod.toNat) then some ⟨.jarRights, 5, h⟩
    else none

/-- LDT: it waits for the record of a jar of another Y3, and parks while the jar is not published. With no active lane it is checked, and accesses
nothing (R42). -/
def execLdt (f : Fields) (s : State) : Host.Outcome State Fault Refusal :=
  issue (.ldt f) s fun e s =>
    let h := e.w.h f.a.toNat
    if !recordSeen s e.c h then tryAgain s e
    else
      match ldtFault s e with
      | some fi => .trap fi
      | none =>
        if e.act ≠ 0 && (jarFor s e.c h).state = 1 then parkAs s e (.ldt (handleJar h) (handleDev h))
        else
          match memPlan s (.ldt f) e with
          | some (k, xs) => issueMem s e (some (counterName f)) k xs
          | none => .ok s

/-- STF. -/
def execStf (f : Fields) (s : State) : Host.Outcome State Fault Refusal :=
  issue (.stf f) s fun e s =>
    if !recordSeen s e.c (e.w.h f.a.toNat) then tryAgain s e
    else
      match stfFault s e with
      | some fi => .trap fi
      | none =>
        match memPlan s (.stf f) e with
        | some (k, xs) => issueMem s e (some (counterName f)) k xs
        | none => .ok s

/-! ## Register sources read after the issue, and words that are replayed (R30, R171) -/

/-- What an operation's word sees when its registers are read again for some lanes. -/
def envAgain (s : State) (o : Op) (lanes : W32) : Option Env :=
  match opEnv s o, decode o.word with
  | some (w, t, c), .ok i =>
    match fieldsOf i, sweepOf s t with
    | some f, some sw =>
      some ⟨i, ⟨o.tid, o.wave, o.lane⟩, w, (w.pathPid o.pid).getD w.path, t, c, sw, ⟨o.xpc - 8, 0, [o.word], 0⟩, f, lanes, o.xpc⟩
    | _, _ => none
  | _, _ => none

/-- What an operation's word plans for some lanes, its registers read again. -/
def planAgain (s : State) (o : Op) (lanes : W32) : Option (OpKind × List Access) :=
  (envAgain s o lanes).bind fun e => memPlan s e.i e

/-- The address of the word's access was checked as it issued, and stands (R236, R239); its data is read later (R30, log entry 7). -/
def addrFixed (i : Instr) : Bool := match i with | .rowld _ | .rowst _ | .ldt _ | .stf _ => true | _ => false

/-- The access of a lane as its registers, read now, give it. -/
def readAccess (s : State) (o : Op) (x : Access) : Access :=
  match (envAgain s o (laneBit x.lane)).bind fun e => (memPlan s e.i e).bind fun p => (p.2.find? fun y => y.lane == x.lane).map fun y => (e.i, y) with
  | some (i, y) => if addrFixed i then { x with data := y.data, data2 := y.data2 } else y
  | none => x

/-- The selected lanes of an operation read their register sources (R30); its register work is then over if it writes none (R29). -/
def readSources (s : State) (o : Op) (sel : Access → Bool) : State :=
  let now (x : Access) : Bool := sel x && o.unreads x.lane
  let un := o.accs.foldl (fun m x => if now x then m &&& ~~~laneBit x.lane else m) o.unread
  let accs := o.accs.map fun x => if now x then readAccess s o x else x
  let writes := o.kind.loads || (match o.kind with | .atomic _ (some _) => true | _ => false)
  updOp s o.id fun o =>
    { o with accs := accs, unread := un, regWork := o.regWork && (writes || decide (un ≠ 0))
             phase := if accs.any fun x => x.fault.isSome then .faulted else o.phase }

end Sys2Proof.Machine
end

