-- ==== Sys2Proof/Machine/Seq.lean ====
section
/-!
DEFINITION. The control instructions: branches, calls, joins and ejection (R141 to R147), barriers and waits (R148 to R154), register
blocks (R155), tasks (R156 to R159), die distances and signals (R160, R162, R163), with the events that end their waits. ENQ
stands with the queues.
-/

namespace Sys2Proof.Machine

/-! ## Branches (R141, R142) -/

/-- The near BRA's join offset, in D:A (R140). -/
def joinOfDA (f : Fields) : Int := (f.d ++ f.a).toInt

/-- What a transfer that diverges breaks: join offset 0 (R139), or a stack that cannot spill (R127). -/
def splitErrors (e : Env) (join : Int) : List Nat :=
  if e.act = 0 ∨ remaining e = 0 then [] else if join = 0 then [subField] else spillErrors e

/-- BRA, near form. -/
def execBra (f : Fields) (s : State) : Host.Outcome State Fault Refusal :=
  issueWith (.bra f) (fun e _ => splitErrors e (joinOfDA f)) s fun e s => branchTo s e (nearVa e) (joinOfDA f)

/-- BRA, far form: every enabled lane goes, so it never diverges. -/
def execBraFar (f : Fields) (s : State) : Host.Outcome State Fault Refusal :=
  issue (.braFar f) s fun e s => if e.act = 0 then .ok s else .moved (jumpTo s e.who (farVa e))

/-- A transfer to the byte code-base offset in a scalar, checked before anything moves (R138, R141, R145). -/
def toOffset (e : Env) (v : Word) (go : Nat → Verdict) : Verdict :=
  if v.toNat % 8 ≠ 0 then .trapAt ⟨.illegalClause, 6, 0⟩ (e.sw.code + v.toNat) else go (e.sw.code + v.toNat)

/-- An offset in a scalar must lie below 2^32 (R138, R145). -/
def offsetErrors (v : Word) : List Nat := if v.toNat ≥ 2 ^ 32 then [subField] else []

/-- BRX. One that diverges with join offset 0 raises FIELD (R139), the lower code, before MISALIGN (R33). -/
def execBrx (f : Fields) (s : State) : Host.Outcome State Fault Refusal :=
  issueWith (.brx f) (fun e _ => splitErrors e (nearOffset f) ++ if e.act = 0 || !scalarAt f.asp f.a then [] else offsetErrors (e.p.s f.a.toNat)) s fun e s =>
    if e.act = 0 then .ok s else toOffset e (e.p.s f.a.toNat) fun va => branchTo s e va (nearOffset f)

/-- LOOP (R142); with no enabled lane it does nothing (R42). -/
def execLoop (f : Fields) (s : State) : Host.Outcome State Fault Refusal :=
  issue (.loop f) s fun e s =>
    let v := e.p.s f.d.toNat
    if e.act = 0 || v = 0 then .ok s
    else
      let s1 := setScalar s e.who f.d.toNat (v - 1)
      if v - 1 = 0 then .ok s1 else .moved (jumpTo s1 e.who (nearVa e))

/-! ## Calls (R143 to R145) -/

/-- The return offset: that of the next clause's header (R143). -/
def returnOffset (e : Env) : Nat := nextHeader e - e.sw.code

/-- A return offset of 2^32 or more (R143). -/
def returnErrors (e : Env) : List Nat := if e.act ≠ 0 ∧ returnOffset e ≥ 2 ^ 32 then [subField] else []

/-- CALL. -/
def execCall (f : Fields) (s : State) : Host.Outcome State Fault Refusal :=
  issueWith (.call f) (fun e _ => returnErrors e) s fun e s =>
    let ro := returnOffset e
    if e.act = 0 then .ok s
    else
      let s1 := updCur s e.who fun w => w.setLanes 58 e.p.em fun _ => BitVec.ofNat 32 ro
      .moved (jumpTo (setScalar s1 e.who 62 (BitVec.ofNat 64 ro)) e.who (farVa e))

/-- A number inserted in ascending order, once. -/
def insertUp (x : Nat) : List Nat → List Nat
  | [] => [x]
  | y :: r => if x < y then x :: y :: r else if x = y then y :: r else y :: insertUp x r

/-- The distinct target values of an ICALL, ascending (R144). -/
def callTargets (e : Env) : List Nat :=
  (lanesOf e.act).foldl (fun m l => insertUp (e.w.v e.f.a.toNat l).toNat m) []

/-- The lanes of one group. -/
def groupLanes (e : Env) (t : Nat) : W32 := maskOf fun l => e.act.getLsbD l && (e.w.v e.f.a.toNat l).toNat == t

/-- The paths of the groups, numbered from `pid`, each with s62 set. -/
def groupPaths (e : Env) (ro pid : Nat) : List Path :=
  (callTargets e).zipIdx.map fun q =>
    ({ forkPath e.p (pid + q.2) (e.sw.code + q.1) (groupLanes e q.1) with grp := true }).setS 62 (BitVec.ofNat 64 ro)

/-- What an ICALL breaks: R143's limit, and for the wave itself, which opens a level, a stack that cannot spill (R127, R144). -/
def icallErrors (e : Env) : List Nat := returnErrors e ++ if e.act = 0 ∨ e.who.lane.isSome then [] else spillErrors e

/-- ICALL: a level of kind CALL whose paths are the groups; for a continuation the one lane's call. -/
def execIcall (f : Fields) (s : State) : Host.Outcome State Fault Refusal :=
  issueWith (.icall f) (fun e _ => icallErrors e) s fun e s =>
    let ro := returnOffset e
    if e.act = 0 then .ok s
    else
      match e.who.lane with
      | some l =>
        let s1 := updCur s e.who fun w => w.setLanes 58 e.act fun _ => BitVec.ofNat 32 ro
        let s2 := setScalar s1 e.who 62 (BitVec.ofNat 64 ro)
        .moved (updPath s2 e.who fun p => { p.goto (e.sw.code + (e.w.v f.a.toNat l).toNat) p.em with grp := true })
      | none =>
        match groupPaths e ro (s.fresh + 1) with
        | [] => .ok s
        | p :: more =>
          let lvl := newLevel s e .call (nextHeader e) 0 more
          let s1 := pushLevel { s with fresh := s.fresh + 2 + more.length } e lvl
          .moved (updCur s1 e.who fun w => startPath w lvl p e.sw.code)

/-- RET (R145, R136): at the return point of the group of an ICALL, the group ends. R145 does not say what a path with no enabled lane does here;
it transfers (the model's choice, log entry 27). -/
def execRet (f : Fields) (s : State) : Host.Outcome State Fault Refusal :=
  issueWith (.ret f) (fun e _ => offsetErrors (e.p.s 62)) s fun e s =>
    toOffset e (e.p.s 62) fun va =>
      match e.who.lane, e.w.stack with
      | none, d :: _ =>
        if d.kind = .call && d.recon = va then .moved (updCur s e.who fun w => (arrive w e.sw.code va).getD w)
        else .moved (jumpTo s e.who va)
      | _, _ => .moved (jumpTo s e.who va)

/-! ## Joins and ejection (R146, R147) -/

/-- The levels that enclose a continuation, its own first. -/
def levelsFrom (lid : Nat) : List DivLevel → List DivLevel
  | [] => []
  | d :: r => if d.lid = lid then d :: r else levelsFrom lid r

/-- A continuation rejoins at its level's JOIN (R126). -/
def rejoin (w : Wave) (c : Cont) : Wave :=
  { w with
    conts := w.conts.filter fun x => x.lane != c.lane
    stack := w.stack.map fun d =>
      if d.lid = c.lid then { d with joinCount := d.joinCount - 1, done := d.done ++ [donePath c.path] } else d }

/-- The levels that enclose the path that issues, its own first: all of them for the wave's own, those from its level for a continuation. -/
def levelsOf (e : Env) : List DivLevel :=
  match e.who.lane with
  | none => e.w.stack
  | some l => match e.w.conts.find? fun c => c.lane == l with | some c => levelsFrom c.lid e.w.stack | none => []

/-- What a JOIN breaks: its header is where some deeper level reconverges, and not the path's own (R146). -/
def joinErrors (e : Env) : List Nat :=
  match levelsOf e with
  | [] => []
  | d :: outer => if d.recon ≠ e.k.hdrVa ∧ (outer.any fun x => x.recon = e.k.hdrVa) then [subField] else []

/-- JOIN of a continuation: at its own level's reconvergence it rejoins. -/
def joinCont (s : State) (e : Env) (l : Nat) : Verdict :=
  match e.w.conts.find? fun c => c.lane == l with
  | none => .ok s
  | some c =>
    match levelsFrom c.lid e.w.stack with
    | [] => .ok s
    | d :: _ => if d.recon = e.k.hdrVa then .moved (updCur s e.who fun w => rejoin w c) else .ok s

/-- JOIN of the main path. -/
def joinMain (s : State) (e : Env) : Verdict :=
  match e.w.stack with
  | [] => .ok s
  | d :: _ =>
    if d.recon = e.k.hdrVa then
      match arrive e.w e.sw.code (nextHeader e) with
      | some _ => .moved (updCur s e.who fun w => (arrive w e.sw.code (nextHeader e)).getD w)
      | none => waitAs s e .join
    else .ok s

/-- JOIN (R146, R128). -/
def execJoin (f : Fields) (s : State) : Host.Outcome State Fault Refusal :=
  issueWith (.join f) (fun e _ => joinErrors e) s fun e s =>
    match e.who.lane with
    | some l => joinCont s e l
    | none => joinMain s e

/-- EJECT (R147). -/
def execEject (f : Fields) (s : State) : Host.Outcome State Fault Refusal :=
  issueWith (.eject f) (fun e _ => if nearOffset f = 0 then [subField] else if e.act = 0 then [] else spillErrors e) s fun e s =>
    if e.act = 0 then .ok s
    else
      let recon := codeVa (e.k.hdrVa + 8 * nearOffset f)
      let n := countLanes e.act
      let lvl := newLevel s e .join recon n []
      let s1 := pushLevel { s with fresh := s.fresh + n + 2 } e lvl
      let rest := remaining e
      .moved (updCur s1 e.who fun w =>
        { w with conts := w.conts ++ ejectLanes e.p lvl.lid (nextHeader e) (lvl.lid + 2) e.act s.now
                 path := forkPath e.p (lvl.lid + 1) (if rest = 0 then recon else nextHeader e) rest })

/-! ## Ends of waits -/

/-- What the wave stands at, with the wave as the current agent. -/
def waitEnv (s : State) (tid wave : Nat) : Option Env :=
  match (findWave s tid wave).bind (·.path.clause) with
  | none => none
  | some c =>
    match c.words[c.idx]? with
    | none => none
    | some x =>
      match decode x with
      | .error _ => none
      | .ok i =>
        match fieldsOf i with
        | none => none
        | some f => envOf { s with cur := some ⟨tid, wave, none⟩ } i f

/-- A waiting instruction retires. A wave restored in the middle of its wait holds no clause and goes on at the next header: each of
these instructions stands last. -/
def finishWait (s : State) (a : AgentRef) : State :=
  let s1 := updCur s a fun w => { w.count 2 1 with holdA := none, holdB := none }
  match (findWave s1 a.tid a.wave).map (·.path.clause) with
  | some (some _) => retire s1 a
  | _ => retireMoved (updPath s1 a fun p => { p with pc := p.pc + 8, mid := false }) a

/-! ## Barriers (R148, R149) -/

/-- A team's barrier record; one that nothing has used is empty. -/
def barrierOf (t : Team) (id : Nat) : Barrier := (t.barriers.find? fun b => b.id == id).getD ⟨id, [], none, 0, false⟩

/-- The team with a barrier record written. -/
def setBarrier (t : Team) (b : Barrier) : Team :=
  { t with barriers := if t.barriers.any fun x => x.id == b.id then t.barriers.map fun x => if x.id == b.id then b else x else t.barriers ++ [b] }

/-- The wave's control flow is split (R148). -/
def isSplit (w : Wave) : Bool := !w.stack.isEmpty || !w.conts.isEmpty

/-- A barrier after a wave's arrival: the first of a generation fixes the count, the last closes the generation (R149). -/
def arriving (b : Barrier) (wave : Nat) (n : Option Nat) : Barrier :=
  let n1 := if b.arrived.isEmpty then n else b.n
  let l := if b.arrived.contains wave then b.arrived else b.arrived ++ [wave]
  { b with n := n1, arrived := l, closed := b.closed || (match n1 with | some k => decide (k ≤ l.length) | none => false) }

/-- FENCE.team, then arrival at a barrier, where the wave waits for its release. Where the generation has all its arrivals, the wave belongs to
the next, which begins with the release. -/
def arriveAt (s : State) (e : Env) (id : Nat) (n : Option Nat) : Verdict :=
  if atBoundary s e then quantumStop s e
  else if !fenceDone s e 1 then tryAgain s e
  else
    let b := barrierOf e.t id
    if b.closed && !b.arrived.contains e.who.wave then tryAgain s e
    else waitAs (updTeam s e.t.tid fun t => setBarrier t (arriving b e.who.wave n)) e (.barrier id)

/-- BAR. -/
def execBar (f : Fields) (s : State) : Host.Outcome State Fault Refusal :=
  issueWith (.bar f) (fun e _ => if isSplit e.w then [subField] else []) s fun e s => arriveAt s e 0 none

/-- BARC's own checks: the identifier, the count, and the count that the first arrival fixed. -/
def barcErrors (e : Env) : List Nat :=
  let id := e.f.b.toNat
  let n := (e.p.s e.f.a.toNat).toNat
  let b := barrierOf e.t id
  let count := scalarAt e.f.asp e.f.a
    && (decide (n < 1) || decide (16 < n) || (!b.arrived.isEmpty && !(b.closed && !b.arrived.contains e.who.wave) && b.n != some n))
  if isSplit e.w || decide (id < 1) || decide (7 < id) || count then [subField] else []

/-- BARC. -/
def execBarc (f : Fields) (s : State) : Host.Outcome State Fault Refusal :=
  issueWith (.barc f) (fun e _ => barcErrors e) s fun e s =>
    arriveAt s e f.b.toNat (some (e.p.s f.a.toNat).toNat)

/-- A word is a BAR or BARC. -/
def isBarrierWord (x : Word) : Bool := [0x96, 0x97].contains (opOfWord x).toNat

/-- The path stands at a BAR or BARC; one that was restored has no clause. -/
def standsAtBarrier (s : State) (w : Wave) : Bool :=
  match w.path.clause with
  | some c => match c.words[c.idx]? with
    | some x => isBarrierWord x
    | none => false
  | none =>
    match w.path.mid, (findTeam s w.tid).bind (teamCtx s) with
    | true, some c => match codeWord s c 0 w.path.pc with | .ok x => isBarrierWord x | .error _ => false
    | _, _ => false

/-- One wave is released. A wave whose fault was delivered while it waited goes on behind the barrier when its handler returns. -/
def releaseWave (tid id : Nat) (s : State) (ix : Nat) : State :=
  match findWave s tid ix with
  | none => s
  | some w =>
    if w.status = .ended then s
    else if standsAtBarrier s w then
      let s1 := finishWait s ⟨tid, ix, none⟩
      if w.status = .barrier id then makeReady s1 tid ix else s1
    else
      updWave s tid ix fun w => { w with frame := w.frame.map fun fr => { fr with resume := fr.resume + 8 } }

/-- The generation of a barrier is complete. -/
def barrierFull (s : State) (t : Team) (b : Barrier) : Bool :=
  !b.arrived.isEmpty &&
    (if b.id = 0 then s.waves.all fun w => w.tid != t.tid || w.status = .ended || b.arrived.contains w.ix
     else b.closed)

/-- BARRIER_RELEASE: all that arrived are released together and the generation advances (R148, R149); the waves of a team that is being
pre-empted stay at their yield point (R183). -/
def execBarrierRelease (tid id : Nat) (s : State) : Host.Outcome State Fault Refusal :=
  match findTeam s tid with
  | none => .fault .notEnabled
  | some t =>
    let b := barrierOf t id
    if !barrierFull s t b || t.preempt.isSome then .fault .notEnabled
    else
      let s1 := updTeam s tid fun t => setBarrier t { b with arrived := [], n := none, gen := b.gen + 1, closed := false }
      .next (b.arrived.foldl (releaseWave tid id) s1)

/-- JOIN_RELEASE: the paths that a waiting JOIN stands for have come, or a recalled path is to run (R128). -/
def execJoinRelease (tid wave : Nat) (s : State) : Host.Outcome State Fault Refusal :=
  match findWave s tid wave, (waitEnv s tid wave) with
  | some w, some e =>
    match w.status, arrive w e.sw.code (nextHeader e) with
    | .join, some w' =>
      if heldAtYield w then .fault .notEnabled
      else
      let s1 := updWave s tid wave fun _ => { w' with status := .running }
      .next (updWave (retireMoved (updCur s1 e.who fun w => w.count 2 1) e.who) tid wave fun w => { w with favoured := true })
    | _, _ => .fault .notEnabled
  | _, _ => .fault .notEnabled

/-! ## WAITF, SLEEP, YIELD, EXIT (R150 to R153) -/

/-- The clause holds an instruction whose register work outlives its issue (R29). -/
def slowClause (k : Clause) : Bool :=
  k.words.any fun x => match classOf x with | some .lsu | some .cpy | some .mat => true | _ => false

/-- The flags that WAITF sees: its own clause counts only through the work it has handed over, unless it clears at its end. -/
def flagsAtWait (s : State) (e : Env) : BitVec 12 :=
  if slowClause e.k then flagsOf s { e.w with path := { e.w.path with clause := none } } else flagsOf s e.w

/-- WAITF. -/
def execWaitf (f : Fields) (s : State) : Host.Outcome State Fault Refusal :=
  issueWith (.waitf f) (fun _ _ => if imm16u f / 4096 ≠ 0 then [subField] else []) s fun e s =>
    if flagsAtWait s e &&& BitVec.ofNat 12 (imm16u f) = 0 && !(heldAtYield e.w && e.who.lane.isNone) then .ok s else tryAgain s e

/-- The wake tick of a SLEEP (R151). -/
def wakeTick (s : State) (e : Env) : Nat :=
  let b := (if e.f.bsp = 1 then e.p.s e.f.b.toNat else immWord e.f).toNat
  if e.f.d = 1 then b else min (s.now + b) (2 ^ 64 - 1)

/-- SLEEP. -/
def execSleep (f : Fields) (s : State) : Host.Outcome State Fault Refusal :=
  issue (.sleep f) s fun e s => if wakeTick s e ≤ s.now then .ok s else waitAs s e (.sleep (wakeTick s e))

/-- The team stands on a core. -/
def isPlaced (s : State) (tid : Nat) : Bool := match findTeam s tid with | some t => decide (t.status = .placed) | none => false

/-- SLEEP_WAKE: the wake tick has come. -/
def execSleepWake (tid wave : Nat) (s : State) : Host.Outcome State Fault Refusal :=
  match findWave s tid wave with
  | none => .fault .notEnabled
  | some w =>
    match w.status with
    | .sleep t => if t ≤ s.now && isPlaced s tid && !heldAtYield w then .next (makeReady (finishWait s ⟨tid, wave, none⟩) tid wave) else .fault .notEnabled
    | _ => .fault .notEnabled

/-- YIELD. -/
def execYield (f : Fields) (s : State) : Host.Outcome State Fault Refusal :=
  issue (.yield f) s fun e s => .ok (if e.w.preq then updCur s e.who fun w => { w with status := .stopped } else s)

/-- Lanes leave the wave: its running path and the mask to restore of every level (R153). -/
def dropLanes (w : Wave) (m : W32) : Wave :=
  { w with
    alive := w.alive &&& ~~~m
    path := { w.path with em := w.path.em &&& ~~~m, mask := w.path.mask &&& ~~~m }
    stack := w.stack.map fun d => { d with restore := d.restore &&& ~~~m, outerMask := d.outerMask &&& ~~~m } }

/-- EXIT. -/
def execExit (f : Fields) (s : State) : Host.Outcome State Fault Refusal :=
  issueWith (.exit f) (fun e _ => if e.w.gr ≠ 0 then [subField] else []) s fun e s =>
    if e.w.task.isSome then faulting .taskNest 3 0
    else if e.act = 0 then .ok s
    else if e.t.lost.isSome && e.w.frame.isSome then .moved (endWave s e.who.tid e.who.wave)
    else
      let w1 := dropLanes e.w e.act
      let s1 := updCur s e.who fun w => dropLanes w e.act
      if w1.alive = 0 then .moved (checkTeamEnd (breakGangs (endWave s1 e.who.tid e.who.wave) e.who.tid e.who.wave) e.who.tid)
      else if w1.path.mask ≠ 0 then .ok s1
      else
        .moved (updCur { s1 with fresh := s1.fresh + 1 } e.who fun w => afterEnd w e.sw.code s1.fresh w.stack)

/-! ## Register blocks (R155) -/

/-- The role budget of a wave (R114). -/
def blockBudget (w : Wave) (k : KInfo) : Nat :=
  match w.role with | .copy => k.extCopy | .matrix => k.extMatrix | .vector => k.extVector

/-- REGGET's own checks. -/
def reggetErrors (e : Env) : List Nat :=
  let n := e.f.b.toNat
  (if n < 1 || 3 < n || isSplit e.w then [subField] else [])
    ++ (if e.w.blocks ≠ 0 || blockBudget e.w e.t.k < n then [subRegget] else [])

/-- REGGET: the wave waits for the grant. -/
def execRegget (f : Fields) (s : State) : Host.Outcome State Fault Refusal :=
  issueWith (.regget f) (fun e _ => reggetErrors e) s fun e s => waitAs s e (.regget f.b.toNat)

/-- Another wave of the core comes first in the order of grants: ascending sweep index, then `%waveix`. -/
def grantedFirst (s : State) (t : Team) (w x : Wave) : Bool :=
  match x.status, findTeam s x.tid with
  | .regget _, some u =>
    u.status = .placed && u.die == t.die && u.core == t.core
      && (decide (u.teamix < t.teamix) || (u.tid == t.tid && decide (x.ix < w.ix)))
  | _, _ => false

/-- REGGET_GRANT: the blocks are granted and read as 0 (R118, R155). -/
def execReggetGrant (tid wave : Nat) (s : State) : Host.Outcome State Fault Refusal :=
  match findWave s tid wave, findTeam s tid with
  | some w, some t =>
    match w.status with
    | .regget n =>
      if s.waves.any (grantedFirst s t w) || heldAtYield w then .fault .notEnabled
      else
        let s1 := updWave s tid wave fun w => { w with blocks := n, lanes := Sparse.clear w.lanes 2048 6144 }
        .next (makeReady (finishWait s1 ⟨tid, wave, none⟩) tid wave)
    | _ => .fault .notEnabled
  | _, _ => .fault .notEnabled

/-- An operation still has to write a lane register of an extended block. -/
def writesBlock (o : Op) : Bool :=
  o.regWork && o.phase != .complete &&
    match o.kind with
    | .load d sz => decide (64 ≤ d + (extendLoad sz 0).length - 1)
    | .atomic _ (some d) => decide (64 ≤ d + 3)
    | _ => false

/-- The word of an operation names a lane register of an extended block. -/
def namesBlock (o : Op) : Bool :=
  match decode o.word with
  | .error _ => false
  | .ok i => match fieldsOf i with | some f => (laneGroups (formOf i) f).any fun g => decide (64 < g.1 + g.2) | none => false

/-- An operation still uses an extended block (R155): it has a lane register there to write, or lanes whose sources it has still to read (R30); the
lanes that an ACCRD gone out behind its tile has still to write stand in `unread` as well. -/
def usesBlock (o : Op) : Bool := writesBlock o || (o.phase != .complete && decide (o.unread ≠ 0) && namesBlock o)

/-- REGPUT. -/
def execRegput (f : Fields) (s : State) : Host.Outcome State Fault Refusal :=
  issueWith (.regput f) (fun e _ => if isSplit e.w then [subField] else []) s fun e s =>
    if e.w.blocks = 0 then .ok s
    else if (waveOps s e.who.tid e.who.wave).any usesBlock then tryAgain s e
    else .ok (updCur s e.who fun w => { w with blocks := 0, lanes := Sparse.clear w.lanes 2048 6144 })

/-! ## Tasks (R156 to R159) -/

/-- TBEGIN's ILLEGAL_OP checks; an open task comes first (R158). -/
def tbeginErrors (e : Env) (s : State) : List Nat :=
  if e.w.task.isSome then []
  else
    let mask := (e.p.s e.f.a.toNat).toNat
    let badMask := scalarAt e.f.asp e.f.a && (decide (mask / 2 ^ e.t.k.acc ≠ 0) || (decide (mask ≠ 0) && e.w.role ≠ .matrix))
    (if isSplit e.w || e.f.b.toNat / 2 ≠ 0 || badMask then [subField] else [])
      ++ (if e.f.b.getLsbD 0 && !featOn s 5 then [subFeature] else [])

/-- TBEGIN. -/
def execTbegin (f : Fields) (s : State) : Host.Outcome State Fault Refusal :=
  issueWith (.tbegin f) tbeginErrors s fun e s =>
    if e.w.task.isSome then faulting .taskNest 1 0
    else if atBoundary s e then quantumStop s e
    else
      .ok (updCur s e.who fun w =>
        { w with attempt := 0
                 task := some ⟨returnOffset e, f.b.getLsbD 0, e.p.s f.a.toNat, w.exact, [], [], [], [], none⟩ })

/-- Every access that the wave issued in its task is performed, or held in the version (R159). -/
def taskQuiet (s : State) (tid wave : Nat) : Bool :=
  (waveOps s tid wave).all fun o => !o.inTask || o.phase = .complete || (o.over && !o.kind.isMatWord)

/-- The commit tick of a version: no line's store comes into force before its own T (R89). -/
def commitTick (s : State) (k : Task) : Nat := k.lines.foldl (fun m l => max m (completionTime s l.1 true)) s.now

/-- The places of a version's atomics, where they are performed at the commit (R87, R206). -/
def leaveForAtomics (s : State) (tid : Nat) (k : Task) : State :=
  match (findTeam s tid).bind (teamCtx s) with
  | none => s
  | some c =>
    k.writes.foldl (fun s w =>
      match w with
      | .put _ _ => s
      | .atom op lane _ _ pa _ _ =>
        match (findOp s op).bind fun o => o.accs.find? fun x => x.lane == lane with
        | some x => leaveAt s c x.addr.toNat pa
        | none => s) s

/-- A version is committed at tick `c`: its bytes come into force there, its atomics have read there, and its operations may complete (R87,
R89, R159). -/
def commitTask (s : State) (tid wave : Nat) (k : Task) (c : Nat) : State :=
  let v := resolveVersion s k
  let s0 := v.2.foldl (fun s r => updAcc s r.1 r.2.1 fun x => { x with data := r.2.2 }) (leaveForAtomics s tid k)
  let req := (findTeam s tid).map fun t => 64 * t.die + t.core
  let op := (((waveOps s tid wave).find? (·.inTask)).map (·.id)).getD 0
  let s1 := v.1.foldl (fun (s : State) b => { s with homeStores := s.homeStores ++ [⟨op, none, req, c, b.1, [b.2]⟩] }) s0
  let s2 := k.lines.foldl (fun s l => { s with lineT := Sparse.set 0 s.lineT l.1 (c + 1) }) s1
  let s3 := { s2 with ops := s2.ops.map fun o =>
    if o.tid == tid && o.wave == wave && o.inTask then { o with inTask := false, last := max o.last c } else o }
  settle (updWave s3 tid wave fun w => { w with horizon := max w.horizon c, task := some { k with commit := some c } })

/-- TEND. -/
def execTend (f : Fields) (s : State) : Host.Outcome State Fault Refusal :=
  issue (.tend f) s fun e s =>
    match e.w.task with
    | none => faulting .taskNest 2 0
    | some k =>
      match k.commit with
      | some c =>
        if s.now ≤ c then tryAgain s e
        else .ok (updCur s e.who fun w => { restoreModes w k with task := none })
      | none =>
        if !taskQuiet s e.who.tid e.who.wave then tryAgain s e
        else if atBoundary s e then quantumStop s e
        else tryAgain (commitTask s e.who.tid e.who.wave k (commitTick s k)) e

/-- TABORT. -/
def execTabort (f : Fields) (s : State) : Host.Outcome State Fault Refusal :=
  issue (.tabort f) s fun e s =>
    match e.w.task with
    | none => faulting .taskNest 2 0
    | some k =>
      if atBoundary s e then quantumStop s e
      else
        .ok (updCur (discardTask s e.w) e.who fun w =>
          { restoreModes w k with
            task := none
            xtask := BitVec.ofNat 64 (2 ^ 63 + 2 ^ 48 + f.b.toNat * 2 ^ 40 + (k.start - 8) % 2 ^ 35) })

/-! ## Dies and signals (R160, R162, R163) -/

/-- The hop distance between compute dies (R7). -/
def hops (i j : Nat) : Nat := ((i / 4 : Int) - j / 4).natAbs + ((i % 4 : Int) - (j % 4 : Nat)).natAbs

/-- DIEHOPS. -/
def execDiehops (f : Fields) (s : State) : Host.Outcome State Fault Refusal :=
  issue (.diehops f) s fun e s =>
    let b := if f.bsp = 1 then (e.p.s f.b.toNat).toNat else imm8u f
    .ok (writeScalar e s (match physDie e.c (e.p.s f.a.toNat).toNat, physDie e.c b with
      | some i, some j => BitVec.ofNat 64 (hops i j)
      | _, _ => 0xFFFFFFFFFFFFFFFF))

/-- SIGNAL: FENCE.device, then one atomic add that the wave does not wait for. -/
def execSignal (f : Fields) (s : State) : Host.Outcome State Fault Refusal :=
  issue (.signal f) s fun e s =>
    if e.act = 0 then .ok s
    else if baseOf e % 8 ≠ 0 then faulting .align 3 (e.p.s f.a.toNat)
    else if atBoundary s e then quantumStop s e
    else if !fenceDone s e 5 then tryAgain s e
    else
      match memPlan s (.signal f) e with
      | some (k, xs) => issueMem s e none k xs
      | none => .ok s

/-- WAITS: it waits for its loads, which an event performs. -/
def execWaits (f : Fields) (s : State) : Host.Outcome State Fault Refusal :=
  issue (.waits f) s fun e s =>
    if e.act = 0 then .ok s
    else if baseOf e % 8 ≠ 0 then faulting .align 3 (e.p.s f.a.toNat)
    else waitAs s e (.waits (baseOf e) (e.p.s f.b.toNat) f.d.toNat s.now)

/-- What a load of a waiting wave meets that is not its bytes: a park on a page fault, or a trap. `kind` is the record's. -/
def waitFault (s : State) (e : Env) (va : Int) (n : Nat) (r : AccRes) : State :=
  match r with
  | .ok _ _ => s
  | .page sub second ucode usub =>
    updCur (noteFault s e.c va.toNat 0 e.t.vdie e.t.core sub second ucode usub (.wave e.who.tid e.who.wave)) e.who
      fun w => w.park .parked 1
  | .fault code sub =>
    deliver s e.who ⟨code, sub, faultAddr va 0 n code sub (poisonedByte s e.c (seatOf e.t) .load)⟩ ⟨e.va, 0, 1, e.va, []⟩

/-- WAITS_RELOAD: the word is loaded again, unless a pre-emption holds the wave (R183); when it satisfies, the value is written, and the wave goes on after FENCE.device (R163). -/
def execWaitsReload (tid wave : Nat) (s : State) : Host.Outcome State Fault Refusal :=
  match findWave s tid wave, waitEnv s tid wave with
  | some w, some e =>
    match w.status with
    | .waits va v dst _ =>
      if heldAtYield w then .fault .notEnabled
      else if dst = 64 then
        if !atBoundary s e && fenceDone s e 5 then .next (makeReady (finishWait s e.who) tid wave) else .fault .notEnabled
      else
        match accessFrom s e.c (seatOf e.t) va 8 0 8 .load with
        | .ok pa pte =>
          let o := mkOp s e.who w (.load 0 5) none e.va 0 0 [] false .issued
          let x := leNat ((upto 8).map fun i => loadByte s o w e.t (accOf 0 .g va 8 0 0) (va + i) (pa + i) (isNormal pte (pa / 49152)))
          let s1 := grantCopies (noteAccess s e.c (seatOf e.t) va pa pte .load) e.c e.t.die e.t.core va pa pte
          if v.toNat ≤ x then
            .next (updCur (setScalar s1 e.who dst (BitVec.ofNat 64 x)) e.who fun w => { w with status := .waits va v 64 s.now })
          else .next (updCur s1 e.who fun w => { w with status := .waits va v dst s.now })
        | r => .next (waitFault s e va 8 r)
    | _ => .fault .notEnabled
  | _, _ => .fault .notEnabled

end Sys2Proof.Machine
end

