-- ==== Sys2Proof/Machine/Queue.lean ====
section
/-!
DEFINITION. Queues (R396 to R403, R426): the merge check, wakes and the reading of packets, the order of starts and completions, the
scheduler's order (R404), refusals and failures (R399, R428), ENQ (R161), and the NOP packet.
-/

namespace Sys2Proof.Machine

/-! ## The layout of packets (R399, R401) -/

/-- The length in sectors of a listed kind (R399). -/
def packetLen (kind : Nat) : Option Nat :=
  if kind = 1 then some 2 else if kind ≤ 12 then some 1 else if 0x20 ≤ kind && kind ≤ 0x27 then some 1 else none

/-- The feature bit that a kind belongs to (R48, R399). -/
def packetFeature (kind : Nat) : Nat := if kind = 8 then 13 else if kind = 10 || kind = 11 then 12 else 0

/-- The kinds that the admin queue alone runs (R394). -/
def adminKind (kind : Nat) : Bool := decide (0x20 ≤ kind) && decide (kind ≤ 0x27)

/-- The bytes that a kind's table names beyond the header, as first byte and count; none for NOP, of which the spec says nothing. -/
def namedBytes (kind : Nat) : List (Nat × Nat) :=
  match kind with
  | 0x00 => [(8, 40)]
  | 0x01 => [(8, 31), (40, 56)]
  | 0x02 => [(8, 5)]
  | 0x03 => [(8, 20)]
  | 0x04 | 0x05 | 0x06 => [(8, 16)]
  | 0x07 => [(8, 8), (24, 4)]
  | 0x08 => [(8, 24)]
  | 0x09 => [(8, 27)]
  | 0x0A => [(8, 17), (32, 10)]
  | 0x0B => [(8, 16)]
  | 0x0C => [(8, 9)]
  | 0x20 | 0x22 => [(8, 8)]
  | 0x21 => [(8, 2)]
  | 0x23 | 0x26 => [(8, 2), (12, 4)]
  | 0x24 => [(8, 1), (12, 6)]
  | 0x25 => [(8, 3)]
  | 0x27 => [(8, 13)]
  | _ => []

/-- Every byte beyond the header that no table names is zero. -/
def restZero (kind : Nat) (bs : List Byte) : Bool :=
  bs.zipIdx.all fun q => decide (q.2 < 8) || q.1 == 0 || (namedBytes kind).any fun r => decide (r.1 ≤ q.2) && decide (q.2 < r.1 + r.2)

/-- A field of a packet. -/
def word64 (bs : List Byte) (i : Nat) : Word := BitVec.ofNat 64 (fieldAt bs i 8)
/-- A 32-bit field. -/
def word32 (bs : List Byte) (i : Nat) : W32 := BitVec.ofNat 32 (fieldAt bs i 4)
/-- A 16-bit field. -/
def word16 (bs : List Byte) (i : Nat) : BitVec 16 := BitVec.ofNat 16 (fieldAt bs i 2)
/-- A byte. -/
def word8 (bs : List Byte) (i : Nat) : Byte := BitVec.ofNat 8 (fieldAt bs i 1)

/-- The fields that CTX_DESTROY, Q_UNMAP, BKEN and RELEASE share. -/
def cidBody (bs : List Byte) : CidBody := ⟨word16 bs 8, word8 bs 10, word32 bs 12⟩

/-- The instruction that a packet of a listed kind is (R394, R399, R401). -/
def packetInstr (r : RawPkt) : Option Instr :=
  let p := r.ref
  let bs := r.bytes
  match r.kind with
  | 0x00 => some (.nopPacket p)
  | 0x01 => some (.sweep p ⟨word64 bs 8, word64 bs 16, word64 bs 24, word32 bs 32, word8 bs 36, word8 bs 37, word8 bs 38, word32 bs 40,
      word32 bs 44, (upto 6).map fun k => word64 bs (48 + 8 * k)⟩)
  | 0x02 => some (.resume p ⟨word32 bs 8, word8 bs 12⟩)
  | 0x03 => some (.copyPacket p ⟨word64 bs 8, word64 bs 16, word32 bs 24⟩)
  | 0x04 => some (.waitPacket p ⟨word64 bs 8, word64 bs 16⟩)
  | 0x05 => some (.signalPacket p ⟨word64 bs 8, word64 bs 16⟩)
  | 0x06 => some (.fencePacket p ⟨word64 bs 8, word64 bs 16⟩)
  | 0x07 => some (.indirect p ⟨word64 bs 8, word32 bs 24⟩)
  | 0x08 => some (.graph p ⟨word64 bs 8, word32 bs 16, word32 bs 20, word64 bs 24⟩)
  | 0x09 => some (.notify p ⟨word64 bs 8, word64 bs 16, word64 bs 24, word16 bs 32, word8 bs 34⟩)
  | 0x0A => some (.capture p ⟨word64 bs 8, word64 bs 16, word8 bs 24, word64 bs 32, word16 bs 40⟩)
  | 0x0B => some (.replay p ⟨word64 bs 8, word64 bs 16⟩)
  | 0x0C => some (.migrate p ⟨word64 bs 8, word8 bs 16⟩)
  | 0x20 => some (.ctxCreate p ⟨word64 bs 8⟩)
  | 0x21 => some (.ctxDestroy p (cidBody bs))
  | 0x22 => some (.qMap p ⟨word64 bs 8⟩)
  | 0x23 => some (.qUnmap p (cidBody bs))
  | 0x24 => some (.budget p ⟨word8 bs 8, word32 bs 12, word16 bs 16⟩)
  | 0x25 => some (.bken p (cidBody bs))
  | 0x26 => some (.release p (cidBody bs))
  | 0x27 => some (.fwupdate p ⟨word64 bs 8, word32 bs 16, word8 bs 20⟩)
  | _ => none

/-- A packet whose header its queue has accepted. -/
def mkRaw (q : QRef) (seq va : Nat) (node : Option Nat) (bs : List Byte) (parent : Option Nat) (time : Nat) (tag : Option Nat) (req : Nat) : RawPkt :=
  let kind := fieldAt bs 0 1
  ⟨⟨q, seq, va, node, word8 bs 2, word32 bs 4, restZero kind bs⟩, kind, bs, parent, time, tag, req⟩

/-- The cause for which a packet's header refuses it (R399), as SUB of R428. -/
def headerSub (s : State) (q : Queue) (va : Nat) (bs : List Byte) : Option Nat :=
  let kind := fieldAt bs 0 1
  match packetLen kind with
  | none => some 1
  | some n =>
    if !(if adminKind kind then q.admin else q.kinds.getLsbD kind) then some 2
    else if !featOn s (packetFeature kind) then some 3
    else if fieldAt bs 1 1 ≠ n then some 4
    else if va % 192 + 48 * n > 192 then some 5
    else if 2 ≤ fieldAt bs 2 1 || fieldAt bs 3 1 ≠ 0 then some 6
    else none

/-! ## Waiting for an answer (R426) -/

/-- Something waits for the answer to a fault. -/
def isWaiting (s : State) (w : Waiter) : Bool := s.contexts.any fun c => c.faults.any fun r => r.answer.isNone && r.waiters.any fun x => x.1 = w

/-- An access of the packet cores meets a page fault: a record with VDIE 0xFF and CORE 0xFFFF, and the access waits (R426). -/
def pageWait (s : State) (q : Queue) (va kind : Nat) (r : AccRes) (w : Waiter) : State :=
  match r, queueCtx s q with
  | .page sub second ucode usub, some c => noteFault s c va kind 0xFF 0xFFFF sub second ucode usub w
  | _, _ => s

/-! ## Error records of packets (R428) -/

/-- A TYPE 0x07 record. -/
def packetRecord (s : State) (p : PktRef) (code sub xaddr : Nat) : ErrorRecord :=
  ⟨p.q, 7, code, sub, 0, p.ptag, s.now, 0, 0, 0, BitVec.ofNat 64 xaddr, p.q.cid, 0xFF, 0xFF, 0⟩

/-! ## Completion (R400) -/

/-- The state with the graph of a packet changed. -/
def updGraph (s : State) (q : QRef) (seq : Nat) (g : Graph → Graph) : State :=
  { s with graphs := s.graphs.map fun x => if x.pkt.q = q && x.pkt.seq == seq then g x else x }

/-- The graph that a packet started. -/
def findGraph (s : State) (q : QRef) (seq : Nat) : Option Graph := s.graphs.find? fun x => x.pkt.q = q && x.pkt.seq == seq

/-- The state with one node of a graph changed. -/
def updNode (s : State) (q : QRef) (seq k : Nat) (g : GraphNode → GraphNode) : State :=
  updGraph s q seq fun x => { x with nodes := x.nodes.modify k g }

/-- A packet of the ring, or of a buffer or log, has completed: it counts for DONE, or for the packet that holds it, which completes
with its last one once nothing is left to read. -/
def countDone (q : QRef) (seq : Nat) : Nat → Option Nat → State → State
  | _, none, s => updQueue s q fun x => { x with ring := x.ring.map fun e => if e.1 == seq then (seq, true) else e }
  | 0, some _, s => s
  | n + 1, some p, s =>
    let s1 := updQueue s q fun x => { x with started := x.started.map fun e =>
      if e.ref.seq == p && e.ref.node.isNone then { e with left := e.left - 1 } else e }
    match (findQueue s1 q).bind fun x => (x.started.find? fun e => e.ref.seq == p && e.ref.node.isNone && e.left == 0).map fun e => (x, e) with
    | some (x, e) =>
      if x.readers.any fun r => r.seq == p then s1
      else
        countDone q p n e.parent (updQueue s1 q fun x => { x with started := x.started.filter fun e => !(e.ref.seq == p && e.ref.node.isNone)
                                                                  replay := if e.kind = 11 then none else x.replay })
    | none => s1

/-- A started packet completes. -/
def completePkt (s : State) (p : PktRef) : State :=
  match findQueue s p.q with
  | none => s
  | some q =>
    match q.started.find? fun e => e.ref = p with
    | none => s
    | some e =>
      let s1 := updQueue s p.q fun x =>
        { x with
          started := x.started.filter fun e => e.ref ≠ p
          readers := if p.node.isNone then x.readers.filter fun r => r.seq != p.seq else x.readers
          replay := if p.node.isNone && e.kind = 11 then none else x.replay }
      match p.node with
      | some k => updNode s1 p.q p.seq k fun n => { n with phase := .complete }
      | none => countDone p.q p.seq 4 e.parent s1

/-- A started packet completes with an error record and has no further effect (R426, R428). -/
def failPkt (s : State) (p : PktRef) (code sub xaddr : Nat) : State := completePkt (postError s (packetRecord s p code sub xaddr)) p

/-- The packet leaves those that wait to start. -/
def takePkt (s : State) (r : RawPkt) : State :=
  match r.ref.node with
  | none => updQueue s r.ref.q fun q => { q with pending := q.pending.filter fun x => x.ref ≠ r.ref }
  | some k => updNode s r.ref.q r.ref.seq k fun n => { n with raw := none }

/-- A packet is refused: one error record, and it counts as completed; a node's body is not finished by it (R399, R406). -/
def refuseWith (s : State) (r : RawPkt) (code sub xaddr : Nat) : State :=
  let s1 := takePkt (postError s (packetRecord s r.ref code sub xaddr)) r
  match r.ref.node with
  | none => countDone r.ref.q r.ref.seq 4 r.parent s1
  | some k => updGraph (updNode s1 r.ref.q r.ref.seq k fun n => { n with phase := .refused }) r.ref.q r.ref.seq fun g => { g with refused := true }

/-- A packet is refused for a cause of its own (R428). -/
def refusePkt (s : State) (r : RawPkt) (sub : Nat) : State := refuseWith s r 0 sub r.ref.va

/-! ## The scheduler (R404) -/

/-- A guest's budget; one that no BUDGET has set has all of each window and every core. -/
def guestOf (s : State) (g : Nat) : Guest := (s.guests.find? fun x => x.guest == g).getD ⟨g, 940000, 288, 0, false, none⟩

/-- The guest is in budget. -/
def inBudget (g : Guest) : Bool := !g.out && decide (g.charge < 288 * g.budget)

/-- The queue's priority: PRIO, at most PMAX (R398). -/
def priority (q : Queue) : Nat := min q.prio q.pmax

/-- Guest `a` comes before guest `b`: in budget, and with the smaller share of its budget spent. -/
def guestBefore (a b : Guest) : Bool :=
  if inBudget a != inBudget b then inBudget a else decide (a.charge * b.budget < b.charge * a.budget)

/-- Queue `a` is served before queue `b` for packets read at `ta` and `tb`. -/
def servedBefore (s : State) (a b : Queue) (ta tb : Nat) : Bool :=
  let ga := guestOf s a.guest
  let gb := guestOf s b.guest
  if a.guest ≠ b.guest then guestBefore ga gb
  else if priority a ≠ priority b then decide (priority b < priority a)
  else decide (ta < tb)

/-- The packets of buffers and logs that hold a packet. -/
def holders (q : Queue) : Nat → Option Nat → List Nat
  | _, none => []
  | 0, _ => []
  | n + 1, some p => p :: holders q n ((q.started.find? fun e => e.ref.seq == p && e.ref.node.isNone).bind (·.parent))

/-- A packet waits for every earlier packet of its queue: BARRIER, SIGNAL and FENCE always (R400), and CAPTURE's START, whose regions are
read after them (R408). -/
def waitsForAll (r : RawPkt) : Bool :=
  r.ref.flags.getLsbD 0 || r.kind = 5 || r.kind = 6 || (r.kind = 10 && fieldAt r.bytes 24 1 = 0)

/-- The packet cores start packets: the feature word is accepted, and no update runs (R410, R411). -/
def queuesRun (s : State) : Bool := (s.featStat == 1 || s.featStat == 3) && s.update.isNone

/-- The context of a queue accepts packets (R9, R394). -/
def queueLives (s : State) (q : Queue) : Bool := q.admin || (match ctxOf s q.q.cid with | some c => !c.dead | none => false)

/-- Packets of a queue may start: it is mapped, its context lives, and nothing holds it. -/
def queueRuns (s : State) (q : Queue) : Bool := q.mapped && queueLives s q && !isWaiting s (.queue q.q)

/-- The packet at the head of a queue may start, the scheduler's order apart (R400). -/
def headReady (s : State) (q : Queue) (r : RawPkt) : Bool :=
  let up := holders q 4 r.parent
  let busy := q.started.filter fun e => e.ref.node.isNone && !(up.contains e.ref.seq)
  queuesRun s && queueRuns s q && !isWaiting s (.packet r.ref)
    && (!waitsForAll r || busy.isEmpty) && decide ((q.started.filter fun e => e.ref.node.isNone).length < 64)

/-- A team of a guest waits at a dibber. -/
def teamWaits (s : State) (g : Nat) : Bool :=
  s.teams.any fun t => t.status = .waiting && (match (sweepOf s t).bind fun sw => findQueue s sw.pkt.q with | some q => q.guest == g | none => false)

/-- A body of a node that has been read may start, the scheduler's order apart (R406). -/
def bodyReady (s : State) (q : Queue) (r : RawPkt) : Bool :=
  queuesRun s && queueLives s q && !isWaiting s (.queue q.q) && !isWaiting s (.packet r.ref)

/-- The packets of a queue that wait to be admitted: the one at its head, and the bodies of nodes (R404). -/
def waitingPkts (s : State) (q : Queue) : List RawPkt :=
  (match q.pending.head? with | some y => if headReady s q y then [y] else [] | none => [])
    ++ ((s.graphs.filter fun g => g.pkt.q = q.q && !q.admin).flatMap fun g =>
      (g.nodes.filter fun n => decide (n.phase = .ready)).filterMap (·.raw)).filter (bodyReady s q)

/-- No other queue's packet or team comes before this one (R404). -/
def admitsNow (s : State) (q : Queue) (r : RawPkt) : Bool :=
  s.queues.all (fun x => (x.q = q.q && x.admin == q.admin) || (waitingPkts s x).all fun y => !servedBefore s x q y.time r.time)
  && (inBudget (guestOf s q.guest) || s.queues.all fun x => !(inBudget (guestOf s x.guest) && teamWaits s x.guest))

/-- The queue and the bytes of a packet that waits to start: at the head of its queue, or the body of a node. -/
def headPkt (s : State) (p : PktRef) : Option (Queue × RawPkt) :=
  match findQueue s p.q with
  | none => none
  | some q =>
    match p.node with
    | none => match q.pending with | r :: _ => if r.ref = p then some (q, r) else none | [] => none
    | some k =>
      match (findGraph s p.q p.seq).bind fun g => g.nodes[k]? with
      | some n => if n.phase = .ready then n.raw.bind fun r => if r.ref = p then some (q, r) else none else none
      | none => none

/-- The packet may start now. -/
def mayStartPkt (s : State) (q : Queue) (r : RawPkt) : Bool :=
  match r.ref.node with
  | none => headReady s q r && admitsNow s q r
  | some _ => bodyReady s q r && admitsNow s q r

/-- What a capture logs of a packet that starts (R408): the timebase, its sweep's tag, and its sectors. -/
def logPacket (s : State) (q : Queue) (r : RawPkt) (tag : Nat) (plain : Bool) : State :=
  let n := r.bytes.length / 48
  let sectors := (upto n).map fun k => (r.bytes.drop (48 * k)).take 48
  logAppend s q ((if plain then [LogEntry.bytes ⟨.unreplayable, 0, tag, 0, 0, 0, 0⟩] else [])
    ++ LogEntry.bytes ⟨.packet, n, tag, 0, 0, s.now, r.ref.va⟩ :: sectors)

/-- The entries of the body of a node that starts under a capture: a SWEEP without DET is unreplayable (R408), and a SWEEP's tag is noted for the
replay of its TSTAMPs (R409, log entry 30). -/
def logBody (s : State) (q : Queue) (r : RawPkt) (k tag : Nat) (plain : Bool) : State :=
  if r.kind ≠ 1 then s
  else
    let arms := ((findGraph s r.ref.q r.ref.seq).map (·.arms)).getD 0
    logAppend s q ((if plain then [LogEntry.bytes ⟨.unreplayable, 0, tag, 0, 0, 0, 0⟩] else []) ++ [LogEntry.bytes ⟨.node, 0, tag, k, 0, arms, r.ref.seq⟩])

/-- The sectors that a capture takes for a packet that starts, at most. -/
def logSectors (r : RawPkt) : Nat :=
  match r.ref.node with
  | none => if r.kind = 10 then 0 else r.bytes.length / 48 + 2
  | some _ => if r.kind = 1 then 2 else 0

/-- A packet starts: it joins the started ones, and an active capture logs it. Of the bodies of nodes, whose GRAPH is logged, only SWEEPs leave
entries; the CAPTURE that stops the log leaves none. -/
def startPkt (s : State) (q : Queue) (r : RawPkt) (tag : Nat) (plain : Bool) : State :=
  let s1 := takePkt s r
  let s2 := match r.ref.node with
    | none => if r.kind = 10 then s1 else logPacket s1 q r tag plain
    | some k => logBody (updNode s1 r.ref.q r.ref.seq k fun n => { n with phase := .running }) q r k tag plain
  updQueue s2 r.ref.q fun q => { q with started := q.started ++ [⟨r.ref, r.kind, r.parent, 0, 0, 0, none, s.now, r.req⟩] }

/-- A started packet's own entry changed. -/
def updStarted (s : State) (p : PktRef) (g : StartedPkt → StartedPkt) : State :=
  updQueue s p.q fun q => { q with started := q.started.map fun e => if e.ref = p then g e else e }

/-- A packet that waits to start fails in its own access: it starts and completes with an error record (R426). -/
def failHead (s : State) (q : Queue) (r : RawPkt) (code sub xaddr : Nat) : State := failPkt (startPkt s q r 0 false) r.ref code sub xaddr

/-- A sector of its queue's log that a packet is to be noted in meets a fault (R426): the packet waits for a page; otherwise the capture ends, and
the packet completes with an error record (log entry 101). -/
def logStops (s : State) (q : Queue) (r : RawPkt) (va : Nat) (x : AccRes) : State :=
  match x with
  | .page a b c d => pageWait s q va 1 (.page a b c d) (.packet r.ref)
  | .fault code sub =>
    failHead (updQueue s q.q fun y => { y with capture := none }) { q with capture := none } r code.num sub va
  | .ok _ _ => s

/-- The step of a packet that waits to start. `body` takes it from there, once the sectors that an active capture writes for it are in reach. -/
def onPacket (i : Instr) (p : PktRef) (s : State) (body : Queue → RawPkt → State) : Host.Outcome State Fault Refusal :=
  match headPkt s p with
  | none => .fault .notEnabled
  | some (q, r) =>
    if packetInstr r = some i && mayStartPkt s q r then
      .next (match logMeets s q (logSectors r) with | some (va, x) => logStops s q r va x | none => body q r)
    else .fault .notEnabled

/-- NOP: it completes as it starts. -/
def execNopPacket (p : PktRef) (s : State) : Host.Outcome State Fault Refusal :=
  onPacket (.nopPacket p) p s fun q r => completePkt (startPkt s q r 0 false) p

/-! ## Queue records (R396 to R398) -/

/-- The queue with the fields of its shadow half as it stands now (R397, R398). -/
def loadShadow (s : State) (q : Queue) : Queue :=
  let b (i n : Nat) : Nat := memNat s.mem (q.shadow + i - 96) n
  { q with
    asid := b 98 2, kinds := BitVec.ofNat 32 (b 100 4), guest := b 104 1, pmax := b 105 1, devsub := bitsOf (b 106 1) 0 0 == 1
    rowsmax := b 107 1, pdl := if b 108 4 = 0 then 20000 else b 108 4, uva := b 120 8 }

/-- Zero bytes at a physical address. -/
def zeroAt (s : State) (pa n : Nat) : Bool := memNat s.mem pa n == 0

/-- A shadow half breaks its table (R397, R398; log entry 94). -/
def shadowBad (s : State) (q : Queue) : Bool :=
  let flags := memNat s.mem (q.shadow + 10) 1
  !zeroAt s (q.shadow + 20) 4 || !zeroAt s (q.shadow + 32) 64 || 32 ≤ flags || (bitsOf flags 4 4 == 1) != q.admin || q.uva % 96 ≠ 0
    || decide (63 < q.guest) || decide (7 < q.pmax)

/-- A user half at `u` breaks its table, or names more sectors than its ring holds (R396, R398). -/
def userBad (s : State) (q : Queue) (u : Nat) : Bool :=
  let n (i k : Nat) : Nat := memNat s.mem (u + i) k
  let rsize := n 8 4
  !zeroAt s (u + 12) 4 || !zeroAt s (u + 65) 31 || n 0 8 % 192 ≠ 0 || decide (rsize < 4) || decide (2 ^ 20 < rsize)
    || Nat.land rsize (rsize - 1) ≠ 0 || n 48 8 % 48 ≠ 0 || decide (n 56 4 < 1) || decide (65536 < n 56 4)
    || decide (n 16 8 < q.rptr) || decide (rsize < n 16 8 - q.rptr)

/-- What loading a queue record finds (R398). -/
inductive LoadRes where
  /-- the merged queue, and the physical address of its user half -/
  | good (q : Queue) (u : Nat)
  | bad (q : Queue)
  | wait (q : Queue) (r : AccRes)
  /-- a fault on one of its halves that no answer resolves, with its first faulting byte (R426, R428) -/
  | lost (q : Queue) (code : Code) (sub va : Nat)
  deriving DecidableEq, Repr

/-- The first byte of a part of a range that cannot be reached. -/
def firstBad (s : State) (q : Queue) (va n : Nat) (k : AccKind) : Nat :=
  match (upto n).find? fun i => match queueAddr s q (va + i) 1 k with | .ok _ _ => false | _ => true with
  | some i => va + i
  | none => va

/-- A queue record loaded and merge-checked. Its shadow half stands at a physical address, and may be poisoned (R423); a fault on the user half
reports itself (R426, R428). -/
def loadRecord (s : State) (q0 : Queue) : LoadRes :=
  match firstPoison s q0.shadow 96 with
  | some (i, sub) => .lost q0 .poison sub (q0.shadow + i)
  | none =>
    let q := loadShadow s q0
    if shadowBad s q then .bad q
    else
      match queueAddr s q q.uva 96 .atomic with
      | .ok u _ => if userBad s q u then .bad q else .good { q with prio := memNat s.mem (u + 64) 1 } u
      | .page a b c d => .wait q (.page a b c d)
      | .fault code sub => .lost q code sub (firstBad s q q.uva 96 .atomic)

/-- The error ring that a queue's record names cannot be used (R398). -/
def eringBad (s : State) (q : Queue) : Bool :=
  q.uva % 96 ≠ 0 ||
    match queueAddr s q q.uva 96 .atomic with
    | .ok u _ => memNat s.mem (u + 48) 8 % 48 ≠ 0 || decide (memNat s.mem (u + 56) 4 < 1) || decide (65536 < memNat s.mem (u + 56) 4)
    | .page _ _ _ _ => false
    | .fault _ _ => true

/-- A queue's record loaded for a service: it halts at a failed check (SUB 0x08), waits for a page, or goes on. -/
def withRecord (s : State) (q : Queue) (go : Queue → Nat → State) : State :=
  match loadRecord s q with
  | .bad q1 =>
    if q.halt then s
    else
      let s1 := updQueue s q.q fun _ => { q1 with halt := true }
      let r : ErrorRecord := ⟨q.q, 7, 0, 8, 0, 0, s.now, 0, 0, 0, 0, q.q.cid, 0xFF, 0xFF, 0⟩
      if eringBad s q1 then postAdmin { s1 with errors := s1.errors ++ [r] } r else postError s1 r
  | .wait q1 r => pageWait s q1 q1.uva 0 r (.queue q.q)
  | .lost q1 code sub va => if q.halt then s else haltQueue (updQueue s q.q fun _ => q1) q1 code.num sub va
  | .good q1 u => queueNoted (go q1 u) q1 q1.uva 96 .atomic

/-! ## Reading packets (R399, R401, R402) -/

/-- Nothing is read past a FENCE until it is satisfied, nor past a packet whose own packets come first. -/
def mayRead (s : State) (q : Queue) : Bool :=
  let stops (k : Nat) : Bool := k = 6 || k = 7 || k = 11
  q.mapped && !q.halt && queuesRun s && queueRuns s q && !(q.pending.any fun r => stops r.kind) && !(q.started.any fun e => e.kind == 6 || (e.kind == 11 && isWaiting s (.packet e.ref)))

/-- A packet has been read: it waits to start, or its header refuses it. `inner` says that it stands in a buffer or log. -/
def acceptPkt (s : State) (q : Queue) (va : Nat) (bs : List Byte) (parent tag : Option Nat) (inner : Bool) : State :=
  let seq := q.nextSeq
  let raw := mkRaw q.q seq va none bs parent s.now tag q.waker
  let s1 := updQueue s q.q fun x =>
    { x with
      nextSeq := seq + 1
      pending := x.pending ++ [raw]
      ring := if parent.isNone then x.ring ++ [(seq, false)] else x.ring
      started := x.started.map fun e => if some e.ref.seq = parent && e.ref.node.isNone then { e with left := e.left + 1 } else e }
  match (if inner && raw.kind = 7 then some 2 else headerSub s q va bs) with
  | some sub => refusePkt s1 raw sub
  | none => s1

/-- The sectors that a packet's kind takes from its own place, within its line (R399). -/
def passLen (kind va : Nat) : Nat := min ((packetLen kind).getD 1) ((192 - va % 192) / 48)

/-- A packet of the ring read; none if nothing is to be read now. -/
def readRingPkt (s : State) (q0 : Queue) : Option State :=
  if q0.visible ≤ q0.rptr then none
  else
    some <| withRecord s q0 fun q u =>
      let rsize := memNat s.mem (u + 8) 4
      let va := memNat s.mem u 8 + 48 * (q.rptr % rsize)
      match queueAddr s q va 48 .load with
      | .page a b c d => pageWait s q va 0 (.page a b c d) (.queue q.q)
      | .fault code sub => haltQueue s q code.num sub va
      | .ok pa _ =>
        let n := passLen (memNat s.mem pa 1) va
        if q.visible < q.rptr + n then s
        else
          match queueAddr s q va (48 * n) .load with
          | .fault code sub => haltQueue s q code.num sub (firstBad s q va (48 * n) .load)
          | _ =>
            let s1 := (storeAfter (updQueue (queueNoted s q va 48 .load) q.q fun x => { x with rptr := q.rptr + n }) (u + 24) (leBytes 8 (q.rptr + n)) s.now).1
            acceptPkt s1 q va (bytesAt s.mem pa (48 * n)) none none false

/-- A buffer or log is read to its end: the packet that names it completes once the packets read from it have. -/
def dropReader (s : State) (q : Queue) (r : Reader) : State :=
  let s1 := updQueue s q.q fun x => { x with readers := x.readers.filter fun y => y.seq != r.seq
                                             started := x.started.map fun e =>
                                               if e.ref.seq == r.seq && e.ref.node.isNone then { e with left := e.left + 1 } else e }
  countDone q.q r.seq 4 (some r.seq) s1

/-- A reader changed. -/
def updReader (s : State) (q : Queue) (r : Reader) (g : Reader → Reader) : State :=
  updQueue s q.q fun x => { x with readers := x.readers.map fun y => if y.seq == r.seq then g y else y }

/-- The next packet of a line of a buffer, as the line was read. -/
def takeFromLine (s : State) (q : Queue) (r : Reader) (line : List Byte) : State :=
  let n := passLen (fieldAt line 0 1) r.va
  acceptPkt (updReader s q r fun y => { y with va := r.va + 48 * n, line := line.drop (48 * n) }) q r.va (line.take (48 * n)) (some r.seq) none true

/-- A packet of a buffer read, its record loaded before it (R398): the line is read as a whole, at one tick, and its packets are taken from what was
read (R402). -/
def readBuffer (s : State) (q0 : Queue) (r : Reader) : State :=
  withRecord s q0 fun q _ =>
    if !r.line.isEmpty then takeFromLine s q r r.line
    else
      let n := 192 - r.va % 192
      match queueAddr s q r.va n .load with
      | .page a b c d => pageWait s q r.va 0 (.page a b c d) (.queue q.q)
      | .fault code sub => haltQueue s q code.num sub (firstBad s q r.va n .load)
      | .ok pa _ => takeFromLine (queueNoted s q r.va n .load) q r (bytesAt s.mem pa n)

/-- The reading of a log meets a fault (R426): the REPLAY waits for a page, or completes with an error record. -/
def logFails (s : State) (q : Queue) (r : Reader) (va : Nat) (x : AccRes) : State :=
  match q.started.find? fun e => e.ref.seq == r.seq && e.ref.node.isNone with
  | none => dropReader s q r
  | some e =>
    match x with
    | .page a b c d => pageWait s q va 0 (.page a b c d) (.packet e.ref)
    | .fault code sub => failPkt s e.ref code.num sub va
    | .ok _ _ => s

/-- The next packet of a log (R409); an INDIRECT is passed over, since the packets of its buffer follow it in the log. -/
def readLogged (s : State) (q0 : Queue) (r : Reader) : State :=
  withRecord s q0 fun q _ =>
    match queueSectors s q r.va 1 with
    | .error (va, x) => logFails s q r va x
    | .ok head =>
      match readEntry head with
      | none => dropReader s q r
      | some x =>
        let s := queueNoted s q r.va 48 .load
        let step (n : Nat) (s : State) : State := updReader s q r fun z => { z with va := r.va + 48 * (n + 1) }
        match x.kind with
        | .ending | .full => dropReader s q r
        | .regions => step x.n s
        | .stamp | .unreplayable | .node => step 0 s
        | .packet =>
          match queueSectors s q (r.va + 48) x.n with
          | .error (va, y) => logFails s q r va y
          | .ok bs => if fieldAt bs 0 1 = 7 then step x.n s else acceptPkt (step x.n s) q x.value bs (some r.seq) (some x.tag) true

/-- One packet read from where the queue reads now. -/
def readOne (s : State) (q : Queue) : Option State :=
  match q.readers with
  | r :: _ => some (if r.stop ≤ r.va then dropReader s q r else if r.log then readLogged s q r else readBuffer s q r)
  | [] => readRingPkt s q

/-- Packets are read ahead as far as R402 allows now. -/
def readAhead (ref : QRef) : Nat → State → State
  | 0, s => s
  | n + 1, s =>
    match findQueue s ref with
    | none => s
    | some q => if mayRead s q then (match readOne s q with | some s1 => readAhead ref n s1 | none => s) else s

/-- The sectors and entries that a queue may still read. -/
def readFuel (q : Queue) : Nat := q.readers.foldl (fun n r => n + (r.stop - r.va) / 48 + 2) (q.visible - q.rptr + 1)

/-! ## Wakes (R403) -/

/-- A wake is served: the record is loaded, its WPTR becomes visible, and packets are read (R402, R403). -/
def serveWake (s : State) (q : Queue) : State :=
  if q.halt then updQueue s q.q fun q => { q with woken := false }
  else
    withRecord s q fun q1 u =>
      let wptr := memNat s.mem (u + 16) 8
      let s1 := updQueue s q.q fun _ => { q1 with visible := wptr, woken := false }
      match findQueue s1 q.q with
      | some q2 => readAhead q.q (readFuel q2) s1
      | none => s1

/-- A wake comes to a queue: it is to be served, or sets MISSED while the queue is unmapped or the firmware is updated (R403, R412). -/
def wakeQueue (s : State) (q : Queue) : State :=
  if q.mapped && s.update.isNone then updQueue s q.q fun q => { q with woken := true }
  else updQueue s q.q fun q => { q with missed := true }

/-- WAKE_WRITE: a store to a queue's WAKE completes (by an agent outside the Y3, or one of the Y3's that was noted), and the packet
cores serve it. -/
def execWakeWrite (r : QRef) (s : State) : Host.Outcome State Fault Refusal :=
  match findQueue s r with
  | none => .fault .notEnabled
  | some q =>
    if !q.mapped || s.update.isSome then .next (updQueue s r fun q => { q with missed := true })
    else if !queuesRun s || isWaiting s (.queue q.q) then .next (updQueue s r fun q => { q with woken := true })
    else
      let q1 := if q.woken then q else { q with waker := 0x800, woken := true }
      .next (serveWake (updQueue s r fun _ => q1) q1)

/-- Where the bytes of a queue's WAKE stand, which the translation home watches whatever the page permits (R403). -/
def wakePlace (s : State) (q : Queue) : Option Nat :=
  let va := q.uva + 32
  if q.admin then some va
  else
    match (ctxOf s q.q.cid).map fun c => translate s { c with asid := q.asid } (va / 49152) with
    | some (.leaf _ pgn _) => some (49152 * pgn + va % 49152)
    | _ => none

/-- A completed store to the WAKE bytes of a queue is a wake write (R396); one from a core leaves its requester number (R216). -/
def noteWake (h : HomeStore) (s : State) (q : Queue) : State :=
  match wakePlace s q with
  | some a =>
    if h.pa < a + 8 && a < h.pa + h.bytes.length then
      let src : Option Nat := match h.req, h.core with
        | some r, _ => some r
        | none, some c => some (64 * (c / 36) + c % 36)
        | none, none => (findOp s h.op).bind fun o => (findTeam s o.tid).map fun t => 64 * t.die + t.core
      let s1 := match src with | some n => updQueue s q.q fun q => { q with waker := n } | none => s
      wakeQueue s1 q
    else s
  | none => s

/-- The wakes among stores that have just completed. -/
def noteWakes (s : State) (due : List HomeStore) : State :=
  due.foldl (fun s h => s.queues.foldl (noteWake h) s) s

/-! ## What time brings to a queue -/

/-- A started WAIT or FENCE whose word holds `x` completes if its condition holds. -/
def testWord (s : State) (p : PktRef) (v : Word) (x : Nat) : State := if v.toNat ≤ x then completePkt s p else s

/-- The word of a started WAIT or FENCE is loaded again. -/
def reloadWord (s : State) (q : Queue) (e : StartedPkt) : State :=
  match queueAddr s q e.va 8 .load with
  | .ok a _ => testWord (updStarted (queueNoted s q e.va 8 .load) e.ref fun e => { e with last := s.now }) e.ref e.v (memNat s.mem a 8)
  | .page x y z w => pageWait s q e.va 0 (.page x y z w) (.packet e.ref)
  | .fault code sub => failPkt s e.ref code.num sub e.va

/-- The held WAITs and FENCEs of a queue on a word. -/
def heldOn (s : State) (q : Queue) (pa : Nat) : List StartedPkt :=
  q.started.filter fun e => (e.kind == 4 || e.kind == 6) && !isWaiting s (.packet e.ref)
    && (match queueAddr s q e.va 8 .load with | .ok a _ => a == pa | _ => false)

/-- A SIGNAL to a word: every WAIT and FENCE held on it loads it again (R401); a queue that is not mapped takes MISSED instead (R403). -/
def signalWord (s : State) (pa : Nat) : State :=
  s.queues.foldl (fun s q =>
    let es := heldOn s q pa
    if es.isEmpty then s
    else if !q.mapped || s.update.isSome then updQueue s q.q fun q => { q with missed := true }
    else es.foldl (fun s e => reloadWord s q e) s) s

/-- The sweep of a SWEEP packet has finished, and every write of its teams has completed (R400). -/
def sweepOver (s : State) (w : Sweep) : Bool :=
  w.finished && !(s.ops.any fun o => (o.kind.stores || o.kind.isAtomic || o.kind.isCopy || o.kind = .lnwb)
    && (match findTeam s o.tid with | some t => t.sweep = w.ref | none => false))

/-- The teams and waves of a sweep that is over leave the machine; the sweep itself stays, closed, with what it counted, as long as its context
(R388, R391). -/
def dropSweep (s : State) (r : SweepRef) : State :=
  let tids := (s.teams.filter fun t => t.sweep = r).map (·.tid)
  { s with
    sweeps := s.sweeps.map fun w => if w.ref = r then { w with closed := true, snap := [], snapScr := [], snapPad := [] } else w
    teams := s.teams.filter fun t => t.sweep ≠ r
    waves := s.waves.filter fun w => !(tids.contains w.tid)
    ops := s.ops.filter fun o => !(tids.contains o.tid) }

/-- Sweeps that are over complete their packets. -/
def finishSweeps (s : State) : State :=
  s.sweeps.foldl (fun s w => if !w.closed && sweepOver s w then completePkt (dropSweep s w.ref) w.pkt else s) s

/-- Packets whose tick has come complete; a SIGNAL then wakes (R401, R403). -/
def finishDue (s : State) : State :=
  s.queues.foldl (fun s q => q.started.foldl (fun s e =>
    match e.due with
    | some t =>
      if t ≤ s.now then
        let s1 := if e.kind = 5 then (match queueAddr s q e.va 8 .load with | .ok a _ => signalWord s a | _ => s) else s
        completePkt s1 e.ref
      else s
    | none => s) s) s

/-- Records that wait for a queue's error ring are written, in order (R426). -/
def flushErrors (s : State) (q : Queue) : State :=
  if q.errq.isEmpty || isWaiting s (.queue q.q) then s
  else
    let s1 := sendRecords (updQueue s q.q fun q => { q with errq := [] }) q.q q.errq
    match (findQueue s1 q.q).bind fun q1 => (q1.errq.head?).map fun r => (q1, r) with
    | none => s1
    | some (q1, r) =>
      if q1.halt then q1.errq.foldl postAdmin (updQueue s1 q.q fun q => { q with errq := [] })
      else match ringWrite s1 q1 r with | .wait va x => pageWait s1 q1 va 1 x (.queue q.q) | _ => s1

/-- The leading packets that have completed. -/
def leading : List (Nat × Bool) → Nat
  | (_, true) :: r => leading r + 1
  | _ => 0

/-- DONE counts the leading packets that have completed, behind the error records that concern them (R399, R400, R422); a halted queue does
not wait for a page of its user half again. -/
def writeDone (s : State) (q : Queue) : State :=
  let n := leading q.ring
  if n = 0 || !q.errq.isEmpty || isWaiting s (.queue q.q) then s
  else
    match queueAddr s q (q.uva + 40) 8 .store with
    | .ok a _ =>
      updQueue (storeAfter (queueNoted s q (q.uva + 40) 8 .store) a (leBytes 8 (q.done + n)) (max s.now (q.told + 1))).1 q.q fun q => { q with ring := q.ring.drop n, done := q.done + n }
    | .page a b c d =>
      if q.halt then updQueue s q.q fun q => { q with ring := q.ring.drop n, done := q.done + n }
      else pageWait s q (q.uva + 40) 1 (.page a b c d) (.queue q.q)
    | .fault code sub =>
      haltQueue (updQueue s q.q fun q => { q with ring := q.ring.drop n, done := q.done + n }) q code.num sub (q.uva + 40)

/-- MISSED, MAPPED and HALT stand in the shadow half (R397). -/
def writeFlags (s : State) (q : Queue) : State :=
  let old := memNat s.mem (q.shadow + 10) 1
  let new := old - 2 * bitsOf old 3 1 + (if q.missed then 2 else 0) + (if q.mapped then 4 else 0) + (if q.halt then 8 else 0)
  if old = new then s else writeNow s (q.shadow + 10) (leBytes 1 new)

/-- A queue's part of what time brings. -/
def settleQueue (s : State) (r : QRef) : State :=
  let on (g : State → Queue → State) (s : State) : State := match findQueue s r with | some q => g s q | none => s
  on (fun s q => readAhead r (readFuel q) s) (on writeFlags (on writeDone (on flushErrors s)))

/-- What time brings to the command processors. -/
def settleQueues (s : State) : State :=
  let s1 := finishDue (finishSweeps s)
  s1.queues.foldl (fun s q => settleQueue s q.q) s1

/-! ## ENQ (R161) -/

/-- One sector that ENQ reads. -/
def enqSector (s : State) (e : Env) (va : Nat) : Except AccRes (List Byte) :=
  match plainAccess s e.c va 48 .load with
  | .ok pa pte =>
    let o := mkOp s e.who e.w (.load 0 5) none e.va 0 0 [] false .issued
    .ok ((upto 48).map fun i => loadByte s o e.w e.t (accOf 0 .g va 48 0 0) (va + i) (pa + i) (isNormal pte (pa / 49152)))
  | r => .error r

/-- The packet that ENQ submits, of its kind's length. -/
def enqPacket (s : State) (e : Env) (va : Nat) : Except (Nat × AccRes) (List Byte) :=
  match enqSector s e va with
  | .error r => .error (va, r)
  | .ok a =>
    if (packetLen (fieldAt a 0 1)).getD 1 = 2 then
      match enqSector s e (va + 48) with
      | .error r => .error (va + 48, r)
      | .ok b => .ok (a ++ b)
    else .ok a

/-- The translations of the sectors that ENQ has read are noted (R207). -/
def enqNoted (s : State) (e : Env) (va n : Nat) : State :=
  (upto n).foldl (fun s k => match plainAccess s e.c (va + 48 * k : Nat) 48 .load with
    | .ok pa pte => noteAlias s e.c pte (pa / 49152) ((va + 48 * k) / 49152)
    | _ => s) s

/-- A NOP sector (R399). -/
def nopSector : List Byte := leBytes 1 0 ++ leBytes 1 1 ++ leBytes 46 0

/-- The physical addresses of `n` sectors of a ring, from sector `w`. -/
def ringSlots (s : State) (q : Queue) (rbase rsize w n : Nat) : Except (Nat × AccRes) (List Nat) :=
  (upto n).foldr (fun k acc =>
    let va := rbase + 48 * ((w + k) % rsize)
    match queueAddr s q va 48 .store with
    | .ok a _ => acc.map (a :: ·)
    | r => .error (va, r)) (.ok [])

/-- The translations of a queue's user half and of sectors of its ring are noted (R207). -/
def ringNoted (s : State) (q : Queue) (rbase rsize w n : Nat) : State :=
  (upto n).foldl (fun s k => queueNoted s q (rbase + 48 * ((w + k) % rsize)) 48 .store) (queueNoted s q q.uva 96 .atomic)

/-- The sectors, then WPTR, then WAKE, each complete before the next (R161); the wake write carries the number of the wave's core (R216). -/
def enqWrite (s : State) (e : Env) (u w : Nat) (slots : List Nat) (data : List Byte) : State :=
  let r := (slots.zipIdx).foldl (fun (acc : State × Nat) x =>
    let y := storeAfter acc.1 x.1 ((data.drop (48 * x.2)).take 48) s.now
    (y.1, max acc.2 y.2)) (s, s.now)
  let y := storeAfter r.1 (u + 16) (leBytes 8 (w + slots.length)) (r.2 + 1)
  let (x, s2) := takeFree y.1
  (storeAs s2 (64 * e.t.die + e.t.core) (u + 32) (leBytes 8 x.toNat) (y.2 + 1)).1

/-- The packet cores handle a submission: the status, or none while they wait for a page. -/
def submit (s : State) (e : Env) (num : Nat) (data : List Byte) : Option Nat × State :=
  match findQueue s ⟨e.c.cid, num⟩ with
  | none => (some 3, s)
  | some q0 =>
    let q := loadShadow s q0
    let kind := fieldAt data 0 1
    if !q.devsub || !queueLives s q then (some 3, s)
    else if 32 ≤ kind || !q.kinds.getLsbD kind then (some 2, s)
    else if isWaiting s (.queue q.q) then (none, s)
    else
      match queueAddr s q q.uva 96 .atomic with
      | .page a b c d => (none, pageWait s q q.uva 0 (.page a b c d) (.queue q.q))
      | .fault code sub => (some 3, haltQueue s q code.num sub q.uva)
      | .ok u _ =>
        let w := homeNat s (u + 16) 8
        let rsize := memNat s.mem (u + 8) 4
        let n := data.length / 48
        let pad := if 4 < w % 4 + n then 4 - w % 4 else 0
        if rsize + q.rptr < w + pad + n then (some 1, s)
        else
          match ringSlots s q (memNat s.mem u 8) (max 1 rsize) w (pad + n) with
          | .error (va, .page a b c d) => (none, pageWait s q va 1 (.page a b c d) (.queue q.q))
          | .error (va, .fault code sub) => (some 3, haltQueue s q code.num sub va)
          | .error _ => (none, s)
          | .ok slots => (some 0, enqWrite (ringNoted s q (memNat s.mem u 8) (max 1 rsize) w (pad + n)) e u w slots ((List.replicate pad nopSector).flatten ++ data))

/-- ENQ. -/
def execEnq (f : Fields) (s : State) : Host.Outcome State Fault Refusal :=
  issue (.enq f) s fun e s =>
    let va := baseOf e
    if e.act = 0 then .ok s
    else if va % 48 ≠ 0 then faulting .align 3 (e.p.s f.a.toNat)
    else if atBoundary s e then quantumStop s e
    else if !fenceDone s e 5 then tryAgain s e
    else
      match enqPacket s e va with
      | .error (a, r) => .stall (waitFault s e a 48 r)
      | .ok data =>
        match submit (enqNoted s e va (data.length / 48)) e (e.p.s f.b.toNat).toNat data with
        | (none, s1) => tryAgain s1 e
        | (some st, s1) => .ok (writeScalar e s1 (BitVec.ofNat 64 st))

end Sys2Proof.Machine
end

