-- ==== Sys2Proof/Machine/MemEvents.lean ====
section
/-!
DEFINITION. The events of the memory system on load-store operations: LOAD_PERFORM, STORE_AT_HOME, STORE_COMPLETION, ATOMIC_PERFORM
and LEASE_EXPIRY, with the rows of held triads (R209 to R213).
-/

namespace Sys2Proof.Machine

/-! ## Rows and banks (R209, R213) -/

/-- The stack triad of a physical address (R209): 16 for each granule of the stack. -/
def stackTriadOf (pa : Nat) : Nat := 16 * (pa / 49152 % 2 ^ 20) + pa % 49152 / 3072

/-- The bank of a stack triad in each of its pseudo-channels. -/
def triadBank (tr : Nat) : Nat := tr / 64 % 32

/-- The row of a stack triad in pseudo-channel `ch`. -/
def triadRow (tr ch : Nat) : Nat := 3 * (tr / 2048) + (ch + 64 - tr % 64) % 64

/-- Two stack triads share a bank (R209). -/
def sharesBank (a b : Nat) : Bool :=
  triadBank a == triadBank b && (triadChannels a).any fun c => (triadChannels b).contains c && triadRow a c != triadRow b c

/-- How many refreshes have fallen due in a stack by now, and the tick of the last (R214). -/
def duesUpTo (socket now : Nat) : Nat × Nat :=
  let p := (Config.refreshPhase socket).val
  if now < p then (0, 0) else ((now - p) / 3666 + 1, p + (now - p) / 3666 * 3666)

/-- The refresh state of a pseudo-channel in which no triad has been held since reset (R214): each refresh that falls due is performed, and one
more ahead of time until the debt is -8; each occupies the pseudo-channel for 52 ticks. -/
def idleRefresh (socket ch now : Nat) : RefreshState :=
  let k := (duesUpTo socket now).1
  let t := (duesUpTo socket now).2
  if k = 0 then ⟨socket, ch, 0, 0, 0, 0⟩
  else
    let d : Int := -(min 8 (k - 1) : Nat)
    let n := if 9 ≤ k then 1 else 2
    let got := min n ((now - t) / 52)
    ⟨socket, ch, d + 1 - got, n - got, if got < n then t + 52 * (got + 1) else t + 52 * n, t⟩

/-- The refresh state of a pseudo-channel: as it is listed, else as an idle one has it. -/
def refreshOf (s : State) (socket ch : Nat) : RefreshState :=
  (s.refresh.find? fun r => r.socket == socket && r.channel == ch).getD (idleRefresh socket ch s.now)

/-- The state with a pseudo-channel's refresh state written; one that an idle pseudo-channel has is not listed. -/
def setRefresh (s : State) (r : RefreshState) : State :=
  let rest := s.refresh.filter fun x => !(x.socket == r.socket && x.channel == r.channel)
  { s with refresh := if r = idleRefresh r.socket r.channel s.now && !openIn s r.socket r.channel then rest else r :: rest }

/-- A pseudo-channel is refreshing: ahead of time, or working off its debt (R214). -/
def refreshing (s : State) (socket ch : Nat) : Bool :=
  let r := refreshOf s socket ch
  decide (0 < r.running) || (decide (0 < r.debt) && !openIn s socket ch)

/-- The rows of a held triad open, and the refreshes of its pseudo-channels are followed from now on. -/
def openRows (s : State) (socket tr : Nat) : State :=
  let s1 := { s with holds := s.holds.map fun h => if h.socket == socket && h.stackTriad == tr then { h with isOpen := true } else h }
  (triadChannels tr).foldl (fun t ch => setRefresh t (refreshOf s socket ch)) s1

/-- The rows of a stack triad cannot be opened now: another open held triad or a refresh occupies one of its banks. -/
def rowsBusy (s : State) (socket tr : Nat) : Bool :=
  (triadChannels tr).any (refreshing s socket)
    || s.holds.any fun h => h.socket == socket && h.isOpen && h.stackTriad != tr && sharesBank h.stackTriad tr

/-- The lowest hold slot of a stack that is free, of 256 (R211). -/
def freeSlot (s : State) (socket : Nat) : Option Nat :=
  (List.range 256).find? fun n => !(s.holds.any fun h => h.socket == socket && h.slot == n)

/-- The hold slot of a stack triad. -/
def slotOf (s : State) (socket tr : Nat) : Option HoldSlot := s.holds.find? fun h => h.socket == socket && h.stackTriad == tr

/-- A triad's lines, as physical lines, lie from here on. -/
def triadLine (pa : Nat) : Nat := (pa / 49152 * 49152 + pa % 49152 / 3072 * 3072) / 192

/-- The physical line lies in the triad of a physical address. -/
def inTriad (pa pline : Nat) : Bool := decide (triadLine pa ≤ pline) && decide (pline < triadLine pa + 16)

/-- The home slice and the MSC write back their dirty copies of a triad's lines, and the home slice discards its copies (R211). -/
def clearTriad (s : State) (pa : Nat) : State := cleanLines (evictHome s fun y => inTriad pa y.pline) (inTriad pa)

/-- A hold slot for a triad: the one it has, or a free one, to which the row home moves (R211, R235 step 3). -/
def takeSlot (s : State) (cid triad pa : Nat) (isOpen : Bool) : Option (Nat × State) :=
  let pgn := pa / 49152
  match pgnSocket pgn with
  | none => none
  | some so =>
    match slotOf s so (stackTriadOf pa) with
    | some h => some (h.slot, s)
    | none =>
      match freeSlot s so with
      | none => none
      | some n =>
        let s1 := clearTriad s pa
        some (n, { s1 with holds := s1.holds ++ [⟨so, n, cid, triad, pgn, stackTriadOf pa, isOpen⟩] })

/-- The tick at which the last lease on a triad's lines expires (R211). -/
def triadLeases (s : State) (pa : Nat) : Nat :=
  s.copies.foldl (fun m y => if inTriad pa y.pline then max m y.expiry else m) 0

/-- An entry of a team's held-triad list changed. -/
def updEntry (s : State) (tid k : Nat) (g : TriadEntry → TriadEntry) : State :=
  updTeam s tid fun t => { t with triads := t.triads.modify k g }

/-- A wave whose last word is to have issued no more: its counts are as before (R168). -/
def Wave.uncount (w : Wave) (lane : Option Nat) : Wave :=
  match lane with
  | some _ => { w with perf := Sparse.set 0 w.perf 7 (w.pf 7 - 1) }
  | none =>
    let w1 := { w with perf := Sparse.set 0 w.perf 1 (w.pf 1 - 1), status := .running }
    if w.path.clause.isNone then { w1 with perf := Sparse.set 0 w1.perf 0 (w1.pf 0 - 1) } else w1

/-- A ROWOPEN refused for want of a hold slot (R212): its fault is precise, as if the word had not issued. A continuation is recalled with its PC at
the word, and its serial path raises the fault there (R126). One whose task has been discarded has no word to report. -/
def refuseRow (s : State) (o : Op) : State :=
  let s1 := { s with ops := s.ops.filter fun p => p.id != o.id }
  match o.kind with
  | .rowOpen 64 _ _ _ => s1
  | _ =>
    let s2 := updWave s1 o.tid o.wave fun w =>
      (w.uncount o.lane).updPath o.lane fun p => if o.lane.isNone then p else { p with pc := o.xpc, mid := true, clause := none }
    deliver s2 ⟨o.tid, o.wave, o.lane⟩ ⟨.rowLimit, 2, 0⟩ (preciseAt o.xpc)

/-- The token is returned and the operation is complete (R235 step 4). -/
def finishRow (s : State) (o : Op) : State :=
  match o.kind, findTeam s o.tid with
  | .rowOpen dst pid k hold, some t =>
    match t.triads[k]? with
    | none => s
    | some y =>
      let s1 := updWave s o.tid o.wave fun w => if w.status = .ended || 64 ≤ dst then w else setPathScalar w pid dst (tokenOf k y hold)
      lower (updOp s1 o.id fun o => { o with phase := .complete, regWork := false })
  | _, _ => s

/-- A triad that R209 lets ROWOPEN hold: in a near stack, of the normal or near-memory-atomic class. -/
def holdable (pa pte : Nat) : Bool :=
  (match pgnSocket (pa / 49152) with | some so => decide (so ≤ 25) | none => false) && (bitsOf pte 56 55 == 0 || bitsOf pte 56 55 == 2)

/-- ROWOPEN steps 2 to 4 (R235). The wave issues nothing younger until step 3 has granted or refused: a fault of step 2 leaves it where it is. -/
def openRow (s : State) (o : Op) : Option State :=
  match o.kind, o.accs.head?, opEnv s o with
  | .rowOpen _ _ k hold, some x, some (_, t, c) =>
    if !x.open then none
    else
      let wake (s : State) : State := updWave s o.tid o.wave fun w => { w with status := if w.status = .rowOpen o.id then .running else w.status }
      match plainAccess s c x.addr 1 .load with
      | .ok pa pte =>
        if !holdable pa pte then some (markFault s o x.lane ⟨.prot, 5, BitVec.ofInt 64 x.addr⟩)
        else
          let s0 := updOp (noteAlias s c pte (pa / 49152) (x.addr.toNat / 49152)) o.id fun o => { o with accs := o.accs.map fun x => { x with done := true } }
          if !hold then some (finishRow (wake s0) o)
          else
            match takeSlot s0 c.cid (x.addr.toNat / 3072) pa false with
            | none => some (refuseRow s0 o)
            | some (n, s1) =>
              let s2 := updEntry s1 t.tid k fun y => { y with slot := some n, socket := (pgnSocket (pa / 49152)).getD 0, hold := true }
              some (wake (updOp s2 o.id fun o => { o with phase := .started, last := triadLeases s pa }))
      | r => some (failAccess s o t c 0 x x.addr r)
  | _, _, _ => none

/-- What a row access finds of its triad. -/
inductive RowReady where
  /-- the rows are open, or are opened now, or the access goes through the home slice -/
  | ready (s : State)
  /-- a slot has been taken; the access waits for its rows -/
  | slotTaken (s : State)
  /-- it waits: the banks are busy, or leases on the lines have not expired -/
  | waits

/-- The rows of a triad that has a slot are open, or are opened now. None while the banks are busy, or while leases granted before the row home
moved have not expired (R211). -/
def openHeld (s : State) (so tr pa : Nat) : RowReady :=
  match slotOf s so tr with
  | none => .ready s
  | some h =>
    if h.isOpen then .ready s
    else if rowsBusy s so tr || decide (s.now < triadLeases s pa) then .waits
    else .ready (openRows s so tr)

/-- The rows under a ROWLD or ROWST (R213, R236): a triad that has lost its slot takes a free one first, so that the home grants no further leases
(R211), and its access waits for the rows. -/
def readyRow (s : State) (o : Op) (x : Access) : RowReady :=
  let op := (opOfWord o.word).toNat
  if op ≠ 0x5C && op ≠ 0x5D then .ready s
  else
    match opEnv s o with
    | none => .ready s
    | some (_, t, c) =>
      let triad := x.addr.toNat / 3072
      match t.triads.findIdx? fun y => y.used && y.triad == triad with
      | none => .ready s
      | some k =>
        match t.triads[k]?, plainAccess s c x.addr x.n (if op = 0x5D then .store else .load) with
        | some y, .ok pa pte =>
          let so := (pgnSocket (pa / 49152)).getD 0
          let tr := stackTriadOf pa
          if !y.hold then .ready s
          else if y.slot.isSome then openHeld s so tr pa
          else if !holdable pa pte then .ready s
          else
            match takeSlot s c.cid triad pa false with
            | none => .ready s
            | some (n, s1) =>
              let s2 := updEntry s1 t.tid k fun y => { y with slot := some n, socket := so, lost := true }
              match openHeld s2 so tr pa with
              | .waits => .slotTaken s2
              | r => r
        | _, _ => .ready s

/-- A row access made ready, then performed. -/
def withRow (one : State → Op → Access → Option State) (s : State) (o : Op) (x : Access) : Option State :=
  match readyRow s o x with
  | .waits => none
  | .slotTaken s1 => some s1
  | .ready s1 => one s1 o x

/-! ## The events -/

/-- An event that the state does not enable. -/
def orNotEnabled : Option State → Host.Outcome State Fault Refusal
  | some s => .next s
  | none => .fault .notEnabled

/-- The selected lanes of a load are performed (R77); for a ROWOPEN, its translation and its slot (R235); for an operation whose selected
lanes have not read their register sources yet, that they read them now (R30). -/
def performLoads (op : Nat) (lanes : W32) (s : State) : Host.Outcome State Fault Refusal :=
  match findOp s op with
  | none => .fault .notEnabled
  | some o =>
    if (o.accs.any fun x => selects o lanes x && o.unreads x.lane) && decide (o.phase = .issued) then .next (readSources s o (selects o lanes))
    else
    match o.kind with
    | .rowOpen _ _ _ _ => orNotEnabled (openRow s o)
    | k => if k.loads then orNotEnabled (performEach s op (selects o lanes) (withRow performLoad)) else .fault .notEnabled

/-- STORE_AT_HOME: the selected lanes of a store reach their home (R78) or the storage that holds them (R81). -/
def execStoreAtHome (op : Nat) (lanes : W32) (s : State) : Host.Outcome State Fault Refusal :=
  match findOp s op with
  | none => .fault .notEnabled
  | some o => if o.kind.stores then orNotEnabled (performEach s op (selects o lanes) (withRow performStore)) else .fault .notEnabled

/-- A lane of an atomic of no open task has been performed, its T is past, and its destination is still to be written (R30, R87). -/
def lanePending (s : State) (o : Op) (x : Access) : Bool := x.done && !o.inTask && decide (x.data2 ≤ s.now) && !o.kept.contains x.lane

/-- ATOMIC_PERFORM: the selected lanes of an atomic are performed (R87); where none can be, those that have been performed write their destinations,
each lane for itself (R30). -/
def execAtomicPerform (op : Nat) (lanes : W32) (s : State) : Host.Outcome State Fault Refusal :=
  match findOp s op with
  | none => .fault .notEnabled
  | some o =>
    match o.kind with
    | .atomic f _ =>
      match performEach s op (selects o lanes) fun s o x => performAtomic s o f x with
      | some s1 => .next s1
      | none =>
        if o.accs.any fun x => selects o lanes x && lanePending s o x then
          .next (writeAtomLanes s o fun x => selects o lanes x && lanePending s o x)
        else .fault .notEnabled
    | _ => .fault .notEnabled

/-- Every write of an operation has been given its T, none is held back in a version or a DET buffer, and the time has passed the
largest (R85). -/
def canComplete (s : State) (o : Op) : Bool :=
  o.over && decide (o.unread = 0) && o.phase = .issued && (!o.inTask || o.kind = .lnwb || o.accs.all fun x => decide (x.level ≠ .g)) && decide (o.last ≤ s.now)
    && !detWaits s o

/-- A physical line lies under the range of an LNWB: a line of it that its home holds, or one that a translation of the context shows there. -/
def writtenBack (s : State) (c : Context) (va n pline : Nat) : Bool :=
  let inRange (vline : Nat) : Bool := decide (va / 192 ≤ vline) && decide (192 * vline < va + n)
  (s.homeLines.any fun y => y.cid == c.cid && y.pline == pline && inRange y.vline)
    || s.tlb.any fun y => y.cid == c.cid && y.pgn == pline / 256 && inRange (256 * y.vgn + pline % 256)

/-- What an LNWB has written back is clean, and in place (R243). -/
def cleanRange (s : State) (o : Op) : State :=
  match o.kind, o.accs.head?, opEnv s o with
  | .lnwb, some x, some (_, _, c) => cleanLines s (writtenBack s c x.addr.toNat x.n)
  | _, _, _ => s

/-- STORE_COMPLETION (R85). -/
def execStoreCompletion (op : Nat) (s : State) : Host.Outcome State Fault Refusal :=
  match findOp s op with
  | none => .fault .notEnabled
  | some o =>
    if (o.kind.stores || o.kind.isAtomic || o.kind = .lnwb) && canComplete s o then .next (completeOp (cleanRange s o) o) else .fault .notEnabled

/-- LEASE_EXPIRY: the leases on a triad's lines have expired and its rows can be opened, so a ROWOPEN with hold returns (R211, R235). -/
def execLeaseExpiry (op : Nat) (s : State) : Host.Outcome State Fault Refusal :=
  match findOp s op with
  | none => .fault .notEnabled
  | some o =>
    match o.kind, o.accs.head?, opEnv s o with
    | .rowOpen _ _ k true, some x, some (_, t, c) =>
      match t.triads[k]?, plainAccess s c x.addr 1 .load with
      | some y, .ok pa _ =>
        let tr := stackTriadOf pa
        if o.phase = .started && decide (o.last ≤ s.now) && y.slot.isSome && !rowsBusy s y.socket tr then
          .next (finishRow (openRows s y.socket tr) o)
        else if o.phase = .started && y.slot.isNone then .next (finishRow s o)
        else .fault .notEnabled
      | _, _ => if o.phase = .started then .next (finishRow s o) else .fault .notEnabled
    | _, _, _ => .fault .notEnabled

end Sys2Proof.Machine
end

