-- ==== Sys2Proof/Machine/Rows.lean ====
section
/-!
DEFINITION. The stacks' own steps: hold yield (R213), refresh (R214), and the release of CXL extents (R218).
-/

namespace Sys2Proof.Machine

/-! ## Closing held triads (R213) -/

/-- An entry of a held-triad list holds a slot. -/
def holdsSlot (h : HoldSlot) (y : TriadEntry) : Bool := y.used && y.slot == some h.slot && y.socket == h.socket

/-- The held triads that `p` selects close, their slots staying in place: every entry that holds one takes its lost bit. -/
def closeTriads (s : State) (p : HoldSlot → Bool) : State :=
  let shut := s.holds.filter fun h => h.isOpen && p h
  let s1 : State := { s with
    holds := s.holds.map fun (h : HoldSlot) => if h.isOpen && p h then { h with isOpen := false } else h
    teams := s.teams.map fun t =>
      { t with triads := t.triads.map fun y => if shut.any fun (h : HoldSlot) => holdsSlot h y then { y with lost := true } else y } }
  { s1 with refresh := s1.refresh.map (startRefreshes s s1) }

/-- The slots that `p` selects are returned and their entries, which lose them, take their lost bits. -/
def dropTriads (s : State) (p : HoldSlot → Bool) : State :=
  let gone := s.holds.filter p
  let s1 : State := { s with
    holds := s.holds.filter fun h => !p h
    teams := s.teams.map fun t =>
      { t with triads := t.triads.map fun y => if gone.any fun (h : HoldSlot) => holdsSlot h y then { y with slot := none, lost := true } else y } }
  { s1 with refresh := s1.refresh.map (startRefreshes s s1) }

/-- An open access of an operation that has waited 1,880 ticks, or whose operation has, asks for another row of one of a held triad's banks. -/
def waitsForRow (s : State) (h : HoldSlot) (o : Op) : Bool :=
  decide (max o.since o.last + 1880 ≤ s.now) && decide (o.phase = .issued ∨ o.phase = .started) &&
    match opEnv s o with
    | none => false
    | some (_, _, c) => o.accs.any fun x =>
        decide (x.level = .g) && (x.open || (match o.kind with | .rowOpen _ _ _ _ => true | _ => false)) &&
          match granuleOf s c x.addr with
          | none => false
          | some pgn =>
            let tr := stackTriadOf (49152 * pgn + x.addr.toNat % 49152)
            pgnSocket pgn == some h.socket && tr != h.stackTriad && sharesBank h.stackTriad tr

/-- A team's restore has waited 1,880 ticks to reopen a triad in another row of one of a held triad's banks (R188, R213). -/
def restoreWaits (s : State) (h : HoldSlot) (t : Team) : Bool :=
  decide (t.status = .saved) && t.reopenAt.any (fun t0 => decide (t0 + 1880 ≤ s.now)) && t.triads.any fun e =>
    e.used && e.hold && match teamCtx s t with
      | none => false
      | some c =>
        match granuleOf s c (3072 * e.triad) with
        | none => false
        | some pgn =>
          let tr := stackTriadOf (49152 * pgn + 3072 * e.triad % 49152)
          pgnSocket pgn == some h.socket && tr != h.stackTriad && sharesBank h.stackTriad tr

/-- HOLD_YIELD: a request to another row of a bank has waited 1,880 ticks, of a wave, of a restore or from outside, and the held triad that is open there
closes (R213). -/
def execHoldYield (socket channel bank : Nat) (s : State) : Host.Outcome State Fault Refusal :=
  let p (h : HoldSlot) : Bool := h.socket == socket && triadBank h.stackTriad == bank && (triadChannels h.stackTriad).contains channel
  if s.holds.any fun h => h.isOpen && p h && (s.inputs.rowWait.contains (socket, channel, bank) || s.ops.any (waitsForRow s h) || s.teams.any (restoreWaits s h)) then
    .next (closeTriads s p)
  else .fault .notEnabled

/-! ## Refresh (R214) -/

/-- A socket and pseudo-channel of a stack. -/
def isChannel (socket channel : Nat) : Bool := decide (10 ≤ socket) && decide (socket ≤ 41) && decide (channel < 64)

/-- A refresh of the stack falls due now, and has not been counted in the pseudo-channel. -/
def dueNow (s : State) (socket channel : Nat) : Bool :=
  isChannel socket channel && decide (s.now % 3666 = (Config.refreshPhase socket).val)
    && (match s.refresh.find? fun r => r.socket == socket && r.channel == channel with | some r => decide (r.dueAt ≠ s.now) | none => true)

/-- A refresh that falls due is counted: under an open triad it is postponed; without one, it is performed, and one more ahead of time while the
debt lies from -7 to 0. -/
def countDue (s : State) (r : RefreshState) : RefreshState :=
  if openIn s r.socket r.channel then { r with debt := r.debt + 1, dueAt := s.now }
  else { r with debt := r.debt + 1, running := if 0 < r.debt then 0 else if r.debt = -8 then 1 else 2,
                busyUntil := if 0 < r.debt then r.busyUntil else s.now + 52, dueAt := s.now }

/-- REFRESH_DUE: the debt rises by 1, and at +8 every triad open in the pseudo-channel closes. An idle pseudo-channel counts by itself. -/
def execRefreshDue (socket channel : Nat) (s : State) : Host.Outcome State Fault Refusal :=
  if !dueNow s socket channel then .fault .notEnabled
  else
    match s.refresh.find? fun r => r.socket == socket && r.channel == channel with
    | none => .next s
    | some r =>
      let s1 := setRefresh s (countDue s r)
      .next (if r.debt + 1 < 8 then s1 else closeTriads s1 fun h => h.socket == socket && (triadChannels h.stackTriad).contains channel)

/-- REFRESH_PERFORMED: a refresh that has occupied its pseudo-channel for 52 ticks lowers the debt by 1. -/
def execRefreshPerformed (socket channel : Nat) (s : State) : Host.Outcome State Fault Refusal :=
  match s.refresh.find? fun r => r.socket == socket && r.channel == channel with
  | none => .fault .notEnabled
  | some r =>
    if refreshing s socket channel && decide (r.busyUntil ≤ s.now) then
      let more := decide (1 < r.running) || decide (1 < r.debt)
      .next (setRefresh s { r with debt := r.debt - 1, running := r.running - 1, busyUntil := if more then s.now + 52 else r.busyUntil })
    else .fault .notEnabled

/-- The tick up to which time may pass before a refresh of a pseudo-channel that is followed falls due or has been performed (R214). -/
def refreshTick (s : State) (r : RefreshState) : Nat :=
  let p := (Config.refreshPhase r.socket).val
  let due := if r.dueAt ≠ s.now && s.now % 3666 = p then s.now else s.now + (3666 + p - s.now % 3666 - 1) % 3666 + 1
  if refreshing s r.socket r.channel then min due (max s.now r.busyUntil) else due

/-! ## CXL extents (R218) -/

/-- A physical granule lies in an extent of a port. -/
def inExtent (port base count pgn : Nat) : Bool :=
  match hostPlace pgn with
  | some (p, g) => p == port && decide (base ≤ g) && decide (g < base + count)
  | none => false

/-- What both kinds of release do: no copy of the extent's lines is left, no triad in it is held, and the port no longer backs it. -/
def dropExtent (s : State) (port base count : Nat) (forced : Bool) : State :=
  let s1 := dropTriads s fun h => inExtent port base count h.pgn
  { s1 with
    homeLines := s1.homeLines.filter fun y => !(inExtent port base count (y.pline / 256))
    copies := s1.copies.filter fun y => !(inExtent port base count (y.pline / 256))
    mscLines := s1.mscLines.filter fun y => !(inExtent port base count (y.pline / 256))
    extents := s1.extents ++ [(port, base, count, forced)] }

/-- EXTENT_RELEASE: what was stored there is in its memory before the release is acknowledged. -/
def execExtentRelease (port base count : Nat) (s : State) : Host.Outcome State Fault Refusal :=
  if 2 ≤ port || count = 0 || s.homeStores.any fun h => inExtent port base count (h.pa / 49152) then .fault .notEnabled
  else .next (dropExtent s port base count false)

/-- The sectors of stores to an extent that have not come into force: what is dirty in it, since no line of host or CXL memory is kept in a
cache (R94, R218, log entry 31). -/
def dirtySectors (s : State) (port base count : Nat) : List Nat :=
  ((s.homeStores.filter fun h => inExtent port base count (h.pa / 49152)).flatMap fun h =>
    (upto ((h.pa + h.bytes.length - 1) / 48 - h.pa / 48 + 1)).map (h.pa / 48 + ·)).dedup

/-- FORCED_EXTENT_RELEASE: stores that have not come into force are dropped, and a later access to a sector of theirs finds it forced out. -/
def execForcedExtentRelease (port base count : Nat) (s : State) : Host.Outcome State Fault Refusal :=
  if 2 ≤ port || count = 0 then .fault .notEnabled
  else
    .next (dropExtent { s with
      dropped := s.dropped ++ dirtySectors s port base count
      homeStores := s.homeStores.filter fun h => !(inExtent port base count (h.pa / 49152)) } port base count true)

end Sys2Proof.Machine
end

