-- ==== Sys2Proof/Machine/Command.lean ====
section
/-!
DEFINITION. The packets of one sector (R401): COPY, WAIT, SIGNAL, FENCE and INDIRECT, CAPTURE and REPLAY (R408, R409), and MIGRATE (R216, R217).
-/

namespace Sys2Proof.Machine

/-! ## Ranges that a packet names (R426) -/

/-- A range cut at the ends of granules. -/
def granules : Nat → Nat → Nat → List (Nat × Nat)
  | 0, _, _ => []
  | k + 1, va, n =>
    if n = 0 then []
    else
      let m := min n (49152 - va % 49152)
      (va, m) :: granules k (va + m) (n - m)

/-- The parts of a range, each within a granule. -/
def granulesOf (va n : Nat) : List (Nat × Nat) := granules (n / 49152 + 2) va n

/-- What the packet cores meet on a whole range. -/
inductive SpanRes where
  | ok
  /-- a page fault at a VA -/
  | wait (va : Nat) (r : AccRes)
  /-- a fault that no answer resolves, with its first faulting byte -/
  | bad (code : Code) (sub va : Nat)
  deriving DecidableEq, Repr

/-- The parts of a range, in order, up to the first that cannot be reached. -/
def spanParts (s : State) (q : Queue) (k : AccKind) : List (Nat × Nat) → SpanRes
  | [] => .ok
  | (va, n) :: r =>
    match queueAddr s q va n k with
    | .ok _ _ => spanParts s q k r
    | .page a b c d => .wait va (.page a b c d)
    | .fault code sub => .bad code sub (firstBad s q va n k)

/-- A range is reached, waits for a page, or cannot be reached. -/
def span (s : State) (q : Queue) (va n : Nat) (k : AccKind) : SpanRes :=
  match (if q.admin then none else rangeFault va n) with
  | some (code, sub) => .bad code sub (if sub = 1 then max va Config.vaTop else va)
  | none => spanParts s q k (granulesOf va n)

/-- The bytes of a range that is reached. -/
def getSpan (s : State) (q : Queue) (va n : Nat) : List Byte :=
  (granulesOf va n).flatMap fun p => match queueAddr s q p.1 p.2 .load with | .ok a _ => bytesAt s.mem a p.2 | _ => []

/-- The translations of a range that the packet cores read or write are noted (R207). -/
def spanNoted (s : State) (q : Queue) (va n : Nat) (k : AccKind) : State :=
  (granulesOf va n).foldl (fun s p => queueNoted s q p.1 p.2 k) s

/-- Bytes stored to a range that is reached, from tick `t0` on: the state, and the largest T. -/
def putSpan (s : State) (q : Queue) (va : Nat) (bs : List Byte) (t0 : Nat) : State × Nat :=
  (granulesOf va bs.length).foldl (fun acc p =>
    match queueAddr acc.1 q p.1 p.2 .store with
    | .ok a pte =>
      let r := storeAfter (noteQueueAlias acc.1 q p.1 a pte) a ((bs.drop (p.1 - va)).take p.2) t0
      (r.1, max acc.2 r.2)
    | _ => acc) (s, t0)

/-- The step of a packet that goes on if a range is reached, waits for a page under a record of KIND `kind`, or fails. -/
def onSpan (s : State) (q : Queue) (r : RawPkt) (va n : Nat) (k : AccKind) (kind : Nat) (go : State) : State :=
  match span s q va n k with
  | .ok => spanNoted go q va n k
  | .wait a x => pageWait s q a kind x (.packet r.ref)
  | .bad code sub a => failHead s q r code.num sub a

/-- A packet's completion tick is set. -/
def dueAt (s : State) (p : PktRef) (t : Nat) : State := updStarted s p fun e => { e with due := some t }

/-! ## COPY, WAIT, SIGNAL, FENCE, INDIRECT (R401) -/

/-- A COPY's bytes move, the source as it stood before (R293, log entry 11). -/
def moveCopy (s : State) (q : Queue) (r : RawPkt) (dst src n : Nat) : State :=
  let x := putSpan (startPkt s q r 0 false) q dst (getSpan s q src n) s.now
  dueAt x.1 r.ref x.2

/-- COPY_PACKET. -/
def execCopyPacket (p : PktRef) (b : CopyBody) (s : State) : Host.Outcome State Fault Refusal :=
  onPacket (.copyPacket p b) p s fun q r =>
    let n := b.n.toNat
    if !p.rz then refusePkt s r 6
    else if n = 0 then completePkt (startPkt s q r 0 false) p
    else onSpan s q r b.src.toNat n .load 3 (onSpan s q r b.dst.toNat n .store 4 (moveCopy s q r b.dst.toNat b.src.toNat n))

/-- A WAIT or FENCE starts and loads its word. -/
def startWait (s : State) (q : Queue) (r : RawPkt) (b : WordBody) : State :=
  let go (pa : Nat) : State :=
    testWord (updStarted (startPkt (queueNoted s q b.va.toNat 8 .load) q r 0 false) r.ref fun e => { e with va := b.va.toNat, v := b.v }) r.ref b.v (memNat s.mem pa 8)
  match queueAddr s q b.va.toNat 8 .load with
  | .ok a _ => go a
  | .page x y z w => pageWait s q b.va.toNat 0 (.page x y z w) (.packet r.ref)
  | .fault code sub => failHead s q r code.num sub b.va.toNat

/-- WAIT_PACKET. -/
def execWaitPacket (p : PktRef) (b : WordBody) (s : State) : Host.Outcome State Fault Refusal :=
  onPacket (.waitPacket p b) p s fun q r =>
    if !p.rz || b.va.toNat % 8 ≠ 0 then refusePkt s r 6 else startWait s q r b

/-- FENCE_PACKET: with no word it holds at once, its earlier packets being complete. -/
def execFencePacket (p : PktRef) (b : WordBody) (s : State) : Host.Outcome State Fault Refusal :=
  onPacket (.fencePacket p b) p s fun q r =>
    if !p.rz || b.va.toNat % 8 ≠ 0 then refusePkt s r 6
    else if b.va = 0 then completePkt (startPkt s q r 0 false) p
    else startWait s q r b

/-- WAIT_WORD_RELOAD: the word of a started WAIT or FENCE is loaded again. -/
def execWaitWordReload (p : PktRef) (s : State) : Host.Outcome State Fault Refusal :=
  match (findQueue s p.q).bind fun q => (q.started.find? fun e => e.ref = p && (e.kind == 4 || e.kind == 6)).map fun e => (q, e) with
  | none => .fault .notEnabled
  | some (q, e) => if isWaiting s (.packet p) then .fault .notEnabled else .next (reloadWord s q e)

/-- An atomic of a queue is performed at the place of R206. -/
def queueLeave (s : State) (q : Queue) (va pa pte : Nat) : State :=
  match queueCtx s q with | some c => leaveHome s c va pa pte | none => s

/-- SIGNAL_PACKET: one atomic add (R87); what waits on the word is woken when it completes. -/
def execSignalPacket (p : PktRef) (b : WordBody) (s : State) : Host.Outcome State Fault Refusal :=
  onPacket (.signalPacket p b) p s fun q r =>
    let va := b.va.toNat
    if !p.rz || va % 8 ≠ 0 then refusePkt s r 6
    else
      match queueAddr s q va 8 .atomic with
      | .page x y z w => pageWait s q va 2 (.page x y z w) (.packet p)
      | .fault code sub => failHead s q r code.num sub va
      | .ok a pte =>
        let s1 := queueLeave (noteQueueAlias (startPkt s q r 0 false) q va a pte) q va a pte
        let x := storeAfter s1 a (leBytes 8 (homeNat s1 a 8 + b.v.toNat)) s.now
        updStarted x.1 p fun e => { e with va := va, v := b.v, due := some x.2 }

/-- INDIRECT: the packets of its lines are read next. -/
def execIndirect (p : PktRef) (b : IndirectBody) (s : State) : Host.Outcome State Fault Refusal :=
  onPacket (.indirect p b) p s fun q r =>
    let va := b.va.toNat
    let n := b.nline.toNat
    if !p.rz || va % 192 ≠ 0 || n < 1 || 4096 < n then refusePkt s r 6
    else
      updQueue (startPkt s q r 0 false) q.q fun x =>
        { x with readers := ⟨p.seq, va, va + 192 * n, false, []⟩ :: x.readers }

/-! ## CAPTURE (R408) -/

/-- The regions that a table of 16-byte entries names: VA and length. -/
def regionsOf (bs : List Byte) : Nat → List (Nat × Nat)
  | 0 => []
  | n + 1 => (fieldAt bs 0 8, fieldAt bs 8 8) :: regionsOf (bs.drop 16) n

/-- The first region that is not reached decides. -/
def regionsSpan (s : State) (q : Queue) : List (Nat × Nat) → SpanRes
  | [] => .ok
  | (va, n) :: r => match span s q va n .load with | .ok => regionsSpan s q r | x => x

/-- The entries of the regions of a log, in the model's layout (log entry 30): the count, then hash, VA and length of each. -/
def regionSectors (s : State) (q : Queue) (l : List (Nat × Nat)) : List (List Byte) :=
  LogEntry.bytes ⟨.regions, l.length, 0, 0, 0, 0, 0⟩
    :: l.map fun r => leBytes 32 (Config.sha3 (getSpan s q r.1 r.2)).toNat ++ leBytes 8 r.1 ++ leBytes 8 r.2

/-- The tick at which everything that a step has stored since `s` has completed. -/
def storedBy (s s1 : State) : Nat := (s1.homeStores.drop s.homeStores.length).foldl (fun m h => max m h.t) s1.now

/-- A capture starts: the region hashes are logged. -/
def startCapture (s : State) (q : Queue) (r : RawPkt) (b : CaptureBody) (regions : List (Nat × Nat)) : State :=
  let s1 := updQueue (startPkt s q r 0 false) q.q fun x => { x with capture := some (b.log.toNat, b.logsz.toNat, 0) }
  let s2 := match findQueue s1 q.q with | some q1 => logAppend s1 q1 (regionSectors s q regions) | none => s1
  dueAt s2 r.ref (storedBy s1 s2)

/-- A capture stops with an end entry. -/
def stopCapture (s : State) (q : Queue) (r : RawPkt) (va used : Nat) : State :=
  let s1 := updQueue (startPkt s q r 0 false) q.q fun x => { x with capture := none }
  let s2 := (putSector q (s1, va + used) (LogEntry.bytes ⟨.ending, 0, 0, 0, 0, 0, 0⟩)).1
  dueAt s2 r.ref (storedBy s1 s2)

/-- CAPTURE. -/
def execCapture (p : PktRef) (b : CaptureBody) (s : State) : Host.Outcome State Fault Refusal :=
  onPacket (.capture p b) p s fun q r =>
    let n := b.nreg.toNat
    if !p.rz || b.log.toNat % 192 ≠ 0 || 1 < b.op.toNat || 64 < n then refusePkt s r 6
    else
      match b.op, q.capture with
      | 0, some _ => refusePkt s r 0x0F
      | 0, none =>
        onSpan s q r b.rtab.toNat (16 * n) .load 0 <|
          let regions := regionsOf (getSpan s q b.rtab.toNat (16 * n)) n
          match regionsSpan s q regions with
          | .wait a x => pageWait s q a 0 x (.packet p)
          | .bad code sub a => failHead s q r code.num sub a
          | .ok => onSpan s q r b.log.toNat (min b.logsz.toNat (48 * (n + 2))) .store 1 (startCapture s q r b regions)
      | _, none => refusePkt s r 0x0F
      | _, some (va, _, used) => onSpan s q r (va + used) 48 .store 1 (stopCapture s q r va used)

/-! ## REPLAY (R409) -/

/-- What a REPLAY finds in its log. -/
inductive LogScan where
  /-- the regions' VAs, lengths and hashes, and whether an entry forbids the replay -/
  | found (regions : List (Nat × Nat × Nat)) (stops : Bool)
  | wait (va : Nat) (r : AccRes)
  | bad (code : Code) (sub va : Nat)
  deriving DecidableEq, Repr

/-- A log read from `va`, at most `n` sectors: `hashes` of them are regions, `skip` belong to a packet. -/
def scanLog (s : State) (q : Queue) : Nat → Nat → Nat → Nat → List (Nat × Nat × Nat) → Bool → LogScan
  | 0, _, _, _, rs, st => .found rs st
  | n + 1, hashes, skip, va, rs, st =>
    match queueAddr s q va 48 .load with
    | .page a b c d => .wait va (.page a b c d)
    | .fault code sub => .bad code sub va
    | .ok pa _ =>
      let bs := bytesAt s.mem pa 48
      match hashes, skip with
      | h + 1, k => scanLog s q n h k (va + 48) (rs ++ [(fieldAt bs 32 8, fieldAt bs 40 8, fieldAt bs 0 32)]) st
      | 0, k + 1 => scanLog s q n 0 k (va + 48) rs st
      | 0, 0 =>
        match readEntry bs with
        | none => .found rs st
        | some x =>
          match x.kind with
          | .ending => .found rs st
          | .full => .found rs true
          | .unreplayable => scanLog s q n 0 0 (va + 48) rs true
          | .regions => scanLog s q n x.n 0 (va + 48) rs st
          | .packet => scanLog s q n 0 x.n (va + 48) rs st
          | .stamp | .node => scanLog s q n 0 0 (va + 48) rs st

/-- A region of a log holds other bytes than were captured. -/
def regionDiffers (s : State) (q : Queue) (r : Nat × Nat × Nat) : Bool := (Config.sha3 (getSpan s q r.1 r.2.1)).toNat != r.2.2

/-- A replay starts: the packets of the log are read next, its SWEEPs under DET. -/
def startReplay (s : State) (q : Queue) (r : RawPkt) (va size : Nat) : State :=
  updQueue (startPkt s q r 0 false) q.q fun x =>
    { x with readers := ⟨r.ref.seq, va, va + size, true, []⟩ :: x.readers, replay := some (va, size, 0) }

/-- REPLAY. -/
def execReplay (p : PktRef) (b : ReplayBody) (s : State) : Host.Outcome State Fault Refusal :=
  onPacket (.replay p b) p s fun q r =>
    let va := b.log.toNat
    let size := b.logsz.toNat
    if !p.rz || va % 192 ≠ 0 then refusePkt s r 6
    else
      match scanLog s q (size / 48) 0 0 va [] false with
      | .wait a x => pageWait s q a 0 x (.packet p)
      | .bad code sub a => failHead s q r code.num sub a
      | .found rs stops =>
        match regionsSpan s q (rs.map fun x => (x.1, x.2.1)) with
        | .wait a x => pageWait s q a 0 x (.packet p)
        | .bad code sub a => failHead s q r code.num sub a
        | .ok =>
          match rs.find? (regionDiffers s q) with
          | some x => refuseWith s r 0 0x10 x.1
          | none => if stops then refusePkt s r 0x11 else startReplay s q r va size

/-! ## MIGRATE (R216, R217) -/

/-- A TARGET breaks its row, or names a virtual die that the context does not bind. -/
def targetBad (c : Context) (t : Byte) : Bool :=
  let low := t.toNat % 8
  bitsOf t.toNat 6 3 ≠ 0 || (if 128 ≤ t.toNat then low ≠ 0 else (physDie c low).isNone)

/-- The request of a MIGRATE is sent to the granule's translation home (R217 step 3). -/
def sendMigrate (s : State) (q : Queue) (r : RawPkt) (b : MigrateBody) : State :=
  updStarted (startPkt s q r 0 false) r.ref fun e => { e with va := b.va.toNat, v := b.target.zeroExtend 64, last := r.time }

/-- MIGRATE, steps 1 to 3: the entry is read, and the request sent to the granule's translation home. Whether the entry is malformed is decided
there; step 2 reads its FT as it stands. -/
def execMigrate (p : PktRef) (b : MigrateBody) (s : State) : Host.Outcome State Fault Refusal :=
  onPacket (.migrate p b) p s fun q r =>
    let va := b.va.toNat
    match queueCtx s q with
    | none => refusePkt s r 2
    | some c =>
      if !p.rz || va % 49152 ≠ 0 || targetBad c b.target then refusePkt s r 6
      else
        match rangeFault va 1, translate s c (va / 49152) with
        | some (code, sub), _ => failHead s q r code.num sub va
        | none, .second bad => pageWait s q va 0 (.page 2 true (if bad then .prot else .page) (if bad then 4 else 2)) (.packet p)
        | none, .poisoned sub => failHead s q r Code.poison.num sub va
        | none, .absent => failHead s q r Code.page.num 1 va
        | none, .malformed pte => if bitsOf pte 54 53 ≠ 0 then failHead s q r Code.page.num 5 va else sendMigrate s q r b
        | none, .leaf pte _ _ => if bitsOf pte 54 53 ≠ 0 then failHead s q r Code.page.num 5 va else sendMigrate s q r b

/-- FT of a leaf entry written (R215 to R217). -/
def writeFt (s : State) (entry ft : Nat) : State :=
  let pte := memNat s.mem entry 8
  writeNow s entry (leBytes 8 (pte - bitsOf pte 54 53 * 2 ^ 53 + ft * 2 ^ 53))

/-- A migration wins: FT becomes 2, its record is written, the held triads of the granule close, their slots returned (R213, R216; log entry
86), and what the homes hold of its lines is in memory, where the driver moves it (R93). -/
def startMigrate (s : State) (c : Context) (pgn entry : Nat) (r : FaultRecord) : State :=
  let inside (pline : Nat) : Bool := pline / 256 == pgn
  let s1 := cleanLines (evictHome (dropTriads (writeFt s entry 2) fun h => h.pgn == pgn) fun y => inside y.pline) inside
  writeRecords (updCtx s1 c.cid fun c => { c with faults := c.faults ++ [r] }) c.cid

/-- Stores to a physical granule have not come into force. -/
def storesPending (s : State) (pgn : Nat) : Bool := s.homeStores.any fun h => h.pa / 49152 == pgn

/-- A migration request arrives at the translation home (R217 steps 3 and 4). One that finds FT = 2 with no record pending has nothing to wait for
and loses (log entry 86). One that would win waits for the stores that the home has taken for the granule, so that the move misses none (R93). -/
def arriveMigrate (s : State) (q : Queue) (e : StartedPkt) : State :=
  match queueCtx s q with
  | none => s
  | some c =>
    let g := e.va / 49152
    let s1 := updStarted s e.ref fun e => { e with left := 1 }
    let kind5 : FaultRecord :=
      { seq := none, written := 0, va := e.va, time := s.now, asid := c.asid, kind := 5, vdie := if 128 ≤ e.v.toNat then 0xFF else e.v.toNat % 8
        core := e.req % 65536, granule := g, sub := 5, second := false, ucode := .page, usub := 5, waiters := [(.migrate e.ref, e.va)], answer := none }
    let pending (r : FaultRecord) : Bool := r.granule == g && !r.second && r.answer.isNone
    match translate s c g with
    | .absent => failPkt s1 e.ref Code.page.num 1 e.va
    | .malformed _ => failPkt s1 e.ref Code.prot.num 4 e.va
    | .poisoned sub => failPkt s1 e.ref Code.poison.num sub e.va
    | .second _ => failPkt s1 e.ref Code.page.num 2 e.va
    | .leaf pte pgn entry =>
      if bitsOf pte 54 53 = 1 then failPkt s1 e.ref Code.page.num 4 e.va
      else if bitsOf pte 54 53 = 0 then (if storesPending s pgn then s else startMigrate s1 c pgn entry kind5)
      else if c.faults.any pending then
        updCtx s1 c.cid fun c =>
          { c with faults := c.faults.map fun r => if pending r then { r with waiters := r.waiters ++ [(.migrate e.ref, e.va)] } else r }
      else failPkt s1 e.ref Code.page.num 5 e.va

/-- Request `a` is served before request `b`: by the tick at which its packet was read, then by requester number (R216). -/
def requestBefore (a b : StartedPkt) : Bool := if a.last = b.last then decide (a.req < b.req) else decide (a.last < b.last)

/-- A request inserted behind those that it does not come before. -/
def insertRequest (x : Queue × StartedPkt) : List (Queue × StartedPkt) → List (Queue × StartedPkt)
  | [] => [x]
  | y :: r => if requestBefore x.2 y.2 then x :: y :: r else y :: insertRequest x r

/-- The migration requests in flight arrive, those of one tick together, in the order of R216. -/
def settleMigrations (s : State) : State :=
  let flying := s.queues.flatMap fun q => (q.started.filter fun e => e.kind == 12 && e.left == 0).map fun e => (q, e)
  (flying.foldl (fun l x => insertRequest x l) []).foldl (fun s x => arriveMigrate s x.1 x.2) s

end Sys2Proof.Machine
end

