-- ==== Sys2Proof/Machine/Graph.lean ====
section
/-!
DEFINITION. Command graphs (R405, R406) and host rings (R407).
-/

namespace Sys2Proof.Machine

/-! ## The node table (R405) -/

/-- A node from its 48 bytes. -/
def nodeOf (bs : List Byte) : GraphNode :=
  { kind := fieldAt bs 0 1, nsucc := fieldAt bs 1 1, npred := fieldAt bs 2 2, body := fieldAt bs 8 8
    succ := (upto 4).map fun i => fieldAt bs (16 + 4 * i) 4, opnd := BitVec.ofNat 64 (fieldAt bs 32 8), cc := fieldAt bs 40 1
    act := fieldAt bs 41 1, unread := none, pend := 0, phase := .idle, raw := none }

/-- A node that could not be read: no field of it is known. -/
def nodeUnread (code : Code) (sub : Nat) : GraphNode := { nodeOf [] with unread := some (code, sub) }

/-- The node is a COND. -/
def GraphNode.isCond (n : GraphNode) : Bool := n.kind == 0x0D

/-- COND's action on true or false: 0 END, 1 SUCC, 2 REARM. -/
def condAct (n : GraphNode) (holds : Bool) : Nat := if holds then bitsOf n.act 1 0 else bitsOf n.act 3 2

/-- The references that a node makes: a COND's by its actions, else its first NSUCC successors. -/
def nodeRefs (n : GraphNode) : List Nat :=
  if n.unread.isSome then []
  else if n.isCond then (if condAct n true = 1 then [n.succ.getD 0 0] else []) ++ (if condAct n false = 1 then [n.succ.getD 1 0] else [])
  else n.succ.take n.nsucc

/-- A node's fields break its table; `bs` are its bytes. -/
def nodeBad (nnode : Nat) (bs : List Byte) : Bool :=
  let n := nodeOf bs
  !([0x01, 0x03, 0x04, 0x05, 0x09, 0x0D].contains n.kind) || decide (4 < n.nsucc) || fieldAt bs 4 4 ≠ 0 || fieldAt bs 42 6 ≠ 0
    || (if n.isCond then
          n.body % 8 ≠ 0 || !([0, 1, 6, 7, 8, 9].contains n.cc) || bitsOf n.act 7 4 ≠ 0 || condAct n true = 3 || condAct n false = 3
        else n.body % 48 ≠ 0 || n.opnd ≠ 0 || n.cc ≠ 0 || n.act ≠ 0)
    || (nodeRefs n).any fun k => decide (nnode ≤ k)

/-- How often a node is referred to. -/
def refCount (nodes : List GraphNode) (k : Nat) : Nat := (nodes.flatMap nodeRefs).count k

/-- The counts of a table are wrong: no entry node, or an NPRED that is not the count of references. With a node unread its references
are not known, and no count is checked (log entry 35). -/
def tableBad (nodes : List GraphNode) : Bool :=
  !(nodes.any fun n => n.npred == 0)
    || (nodes.all (fun n => n.unread.isNone) && nodes.zipIdx.any fun x => x.1.npred != refCount nodes x.2)

/-- A node that could not be read starts once every node that refers to it has lowered it. -/
def fillUnread (nodes : List GraphNode) : List GraphNode :=
  nodes.zipIdx.map fun x => if x.1.unread.isSome then { x.1 with npred := refCount nodes x.2 } else x.1

/-! ## An iteration (R406) -/

/-- The reference under which a node's own access waits for an answer: its body, or COND's word. -/
def nodeRef (g : Graph) (k : Nat) (n : GraphNode) : PktRef := ⟨g.pkt.q, g.pkt.seq, n.body, some k, 0, g.pkt.ptag, true⟩

/-- A node is refused: one error record, and it does not finish (R406). -/
def refuseNode (s : State) (g : Graph) (k : Nat) (code sub xaddr : Nat) : State :=
  let s1 := postError s (packetRecord s g.pkt code sub xaddr)
  updGraph (updNode s1 g.pkt.q g.pkt.seq k fun n => { n with phase := .refused }) g.pkt.q g.pkt.seq fun g => { g with refused := true }

/-- A node's body is read, whole, within its line; its header, its kind and its LEN are checked (R399, R405). A body of a replayed GRAPH belongs to
the replay (R409): its log tag is that of the node's start in the log. -/
def readBody (s : State) (g : Graph) (k : Nat) (n : GraphNode) : State :=
  match findQueue s g.pkt.q with
  | none => s
  | some q =>
    let len := 48 * passLen n.kind n.body
    match queueAddr s q n.body len .load with
    | .page a b c d => pageWait s q n.body 0 (.page a b c d) (.packet (nodeRef g k n))
    | .fault code sub => refuseNode s g k code.num sub n.body
    | .ok pa _ =>
      let bs := bytesAt s.mem pa len
      let raw := mkRaw g.pkt.q g.pkt.seq n.body (some k) bs none s.now (g.logTag.map fun t => loggedNode s q t k g.arms) q.waker
      let stop (sub : Nat) : State := refuseWith (updNode s g.pkt.q g.pkt.seq k fun n => { n with raw := some raw }) raw 0 sub n.body
      if raw.kind ≠ n.kind then stop 0x0D
      else
        match headerSub s q n.body bs with
        | some sub => stop sub
        | none => updNode (queueNoted s q n.body len .load) g.pkt.q g.pkt.seq k fun n => { n with phase := .ready, raw := some raw }

/-- A node starts: an unread one is refused, a COND will load its word, another's body is read. -/
def startNode (q : QRef) (seq : Nat) (s : State) (k : Nat) : State :=
  match (findGraph s q seq).bind fun g => (g.nodes[k]?).map fun n => (g, n) with
  | none => s
  | some (g, n) =>
    let s1 := updNode s q seq k fun n => { n with phase := .entry }
    match n.unread with
    | some (code, sub) => refuseNode s1 g k code.num sub (g.base + 48 * k)
    | none => if n.isCond then s1 else readBody s1 g k n

/-- A successor's count falls, and it starts at 0. -/
def lowerNode (q : QRef) (seq : Nat) (s : State) (k : Nat) : State :=
  let s1 := updNode s q seq k fun n => { n with pend := n.pend - 1 }
  match (findGraph s1 q seq).bind fun g => g.nodes[k]? with
  | some n => if n.pend = 0 && n.phase = .idle then startNode q seq s1 k else s1
  | none => s1

/-- An iteration begins: every count is NPRED, and every node at 0 starts. -/
def beginIteration (s : State) (q : QRef) (seq : Nat) : State :=
  let s1 := updGraph s q seq fun g =>
    { g with refused := false, ends := false, rearm := false
             nodes := g.nodes.map fun n => { n with pend := n.npred, phase := .idle, raw := none } }
  match findGraph s1 q seq with
  | none => s1
  | some g => ((upto g.nodes.length).filter fun k => ((g.nodes[k]?).map (·.pend)) == some 0).foldl (startNode q seq) s1

/-- The reason with which a graph ends: 1 NONE, 2 END, 3 LIMIT, 4 ERROR; none if it goes round again. -/
def endReason (g : Graph) : Option Nat :=
  if g.refused then some 4
  else if g.ends then some 2
  else if !g.rearm then some 1
  else if g.maxarm ≠ 0 && g.arms = g.maxarm then some 3
  else none

/-- The result in STAT (R405). -/
def statBytes (arms reason : Nat) : List Byte := leBytes 4 arms ++ leBytes 1 reason ++ leBytes 11 0

/-- A graph ends: its result is written, unless it cannot be, and its packet completes then (R400, R426). -/
def endGraph (s : State) (q : Queue) (g : Graph) (reason : Nat) : State :=
  let drop (s : State) : State := { s with graphs := s.graphs.filter fun x => !(x.pkt.q = g.pkt.q && x.pkt.seq == g.pkt.seq) }
  if g.stat = 0 then completePkt (drop s) g.pkt
  else
    match span s q g.stat 16 .store with
    | .ok =>
      let x := putSpan (drop s) q g.stat (statBytes g.arms reason) s.now
      dueAt x.1 g.pkt x.2
    | .wait a r => pageWait s q a 1 r (.packet g.pkt)
    | .bad _ _ _ => completePkt (drop s) g.pkt

/-- No node of the iteration runs, and none can start. -/
def iterationOver (g : Graph) : Bool := !g.reading && g.nodes.all fun n => n.phase == .idle || n.phase == .finished || n.phase == .refused

/-- An iteration that is over ends its graph or begins the next one. -/
def settleGraph (s : State) (g : Graph) : State :=
  match findQueue s g.pkt.q with
  | none => s
  | some q =>
    if !iterationOver g || isWaiting s (.packet g.pkt) then s
    else
      match endReason g with
      | some reason => endGraph s q g reason
      | none => beginIteration (updGraph s g.pkt.q g.pkt.seq fun g => { g with arms := g.arms + 1 }) g.pkt.q g.pkt.seq

/-- What time brings to the graphs. -/
def settleGraphs (s : State) : State := s.graphs.foldl settleGraph s

/-! ## GRAPH (R405) -/

/-- A GRAPH's fields break its table. -/
def graphBad (p : PktRef) (b : GraphBody) : Bool :=
  !p.rz || b.nodes.toNat % 48 ≠ 0 || decide (b.nnode.toNat < 1) || decide (4096 < b.nnode.toNat) || b.stat.toNat % 16 ≠ 0

/-- The table of a graph, read node by node; none of it is read twice. The result says whether a page fault holds it. -/
def readTable (q : Queue) (r : RawPkt) (nnode : Nat) : Nat → State → Bool × State
  | 0, s => (false, s)
  | n + 1, s =>
    match findGraph s r.ref.q r.ref.seq with
    | none => (true, s)
    | some g =>
      let k := g.nodes.length
      if nnode ≤ k then (false, s)
      else
        let put (x : GraphNode) (s : State) : State := updGraph s r.ref.q r.ref.seq fun g => { g with nodes := g.nodes ++ [x] }
        match queueAddr s q (g.base + 48 * k) 48 .load with
        | .page a b c d => (true, pageWait s q (g.base + 48 * k) 0 (.page a b c d) (.packet r.ref))
        | .fault code sub => readTable q r nnode n (put (nodeUnread code sub) s)
        | .ok pa _ =>
          let bs := bytesAt s.mem pa 48
          readTable q r nnode n (put (if nodeBad nnode bs then { nodeOf bs with kind := 0xFF } else nodeOf bs) (queueNoted s q (g.base + 48 * k) 48 .load))

/-- A read table: the graph is malformed and refused, or it starts. -/
def startGraph (s : State) (q : Queue) (r : RawPkt) : State :=
  match findGraph s r.ref.q r.ref.seq with
  | none => s
  | some g =>
    let drop : State := { s with graphs := s.graphs.filter fun x => !(x.pkt.q = r.ref.q && x.pkt.seq == r.ref.seq) }
    if (g.nodes.any fun n => n.kind == 0xFF) || tableBad g.nodes then refusePkt drop r 0x0D
    else
      let s1 := updGraph (startPkt s q r r.ref.seq false) r.ref.q r.ref.seq fun g => { g with reading := false, nodes := fillUnread g.nodes }
      beginIteration s1 r.ref.q r.ref.seq

/-- GRAPH: its table is read once; a page fault holds the packet, and the reading goes on where it stood (R426). -/
def execGraph (p : PktRef) (b : GraphBody) (s : State) : Host.Outcome State Fault Refusal :=
  onPacket (.graph p b) p s fun q r =>
    if graphBad p b then refusePkt s r 6
    else
      let s1 := match findGraph s p.q p.seq with
        | some _ => s
        | none => { s with graphs := s.graphs ++ [⟨p, b.nodes.toNat, b.nnode.toNat, b.maxarm.toNat, b.stat.toNat, true, [], 0, false, false, false, r.logTag⟩] }
      let x := readTable q r b.nnode.toNat (b.nnode.toNat + 1) s1
      if x.1 then x.2 else startGraph x.2 q r

/-- The conditions of a COND, as R258 numbers them: the operands unsigned. -/
def condHolds (cc : Nat) (x y : Word) : Bool :=
  match cc with
  | 0 => x = y
  | 1 => x ≠ y
  | 6 => decide (x.toNat < y.toNat)
  | 7 => decide (x.toNat ≤ y.toNat)
  | 8 => decide (y.toNat < x.toNat)
  | _ => decide (y.toNat ≤ x.toNat)

/-- A COND whose word is `x` acts and finishes. -/
def finishCond (s : State) (g : Graph) (k : Nat) (n : GraphNode) (x : Word) : State :=
  let holds := condHolds n.cc x n.opnd
  let s1 := updNode s g.pkt.q g.pkt.seq k fun n => { n with phase := .finished }
  match condAct n holds with
  | 0 => updGraph s1 g.pkt.q g.pkt.seq fun g => { g with ends := true }
  | 1 => lowerNode g.pkt.q g.pkt.seq s1 (n.succ.getD (if holds then 0 else 1) 0)
  | _ => updGraph s1 g.pkt.q g.pkt.seq fun g => { g with rearm := true }

/-- GRAPH_NODE_FINISH: a node whose body has completed finishes and its successors' counts fall; a COND loads its word and acts. -/
def execGraphNodeFinish (p : PktRef) (node : Nat) (s : State) : Host.Outcome State Fault Refusal :=
  match (findGraph s p.q p.seq).bind fun g => (findQueue s p.q).bind fun q => (g.nodes[node]?).map fun n => (q, g, n) with
  | none => .fault .notEnabled
  | some (q, g, n) =>
    if g.pkt ≠ p || g.reading then .fault .notEnabled
    else if n.phase = .complete then
      .next ((n.succ.take n.nsucc).foldl (lowerNode p.q p.seq) (updNode s p.q p.seq node fun n => { n with phase := .finished }))
    else if n.isCond && n.phase = .entry && !isWaiting s (.packet (nodeRef g node n)) then
      match queueAddr s q n.body 8 .load with
      | .page a b c d => .next (pageWait s q n.body 0 (.page a b c d) (.packet (nodeRef g node n)))
      | .fault code sub => .next (refuseNode s g node code.num sub n.body)
      | .ok pa _ => .next (finishCond (queueNoted s q n.body 8 .load) g node n (BitVec.ofNat 64 (memNat s.mem pa 8)))
    else .fault .notEnabled

/-! ## NOTIFY (R407) -/

/-- A host ring's descriptor breaks its table. -/
def ringDescBad (bs : List Byte) : Bool :=
  let nent := fieldAt bs 8 4
  let coal := fieldAt bs 12 4
  Nat.land nent (nent - 1) ≠ 0 || decide (nent < 2) || decide (2 ^ 20 < nent) || decide (coal < 1) || decide (nent < coal)
    || decide (1 < fieldAt bs 38 1) || decide (2047 < fieldAt bs 36 2) || fieldAt bs 0 8 % 16 ≠ 0 || fieldAt bs 39 9 ≠ 0

/-- The posting of a packet. -/
def findPosting (s : State) (p : PktRef) : Option Posting := s.postings.find? fun x => x.pkt = p

/-- The state with a posting changed. -/
def updPosting (s : State) (p : PktRef) (g : Posting → Posting) : State :=
  { s with postings := s.postings.map fun x => if x.pkt = p then g x else x }

/-- A posting is over. -/
def dropPosting (s : State) (p : PktRef) : State := { s with postings := s.postings.filter fun x => x.pkt ≠ p }

/-- NOTIFYs that name one ring post one at a time, in the order they start. -/
def atTurn (s : State) (x : Posting) : Bool :=
  ((s.postings.find? fun y => y.pkt.q.cid == x.pkt.q.cid && y.hring == x.hring).map (·.pkt)) = some x.pkt

/-- What a posting does next on a range: it goes on, waits for a page, or fails with its packet. -/
def postSpan (s : State) (q : Queue) (x : Posting) (va n : Nat) (k : AccKind) (kind : Nat) (go : State × Bool) : State × Bool :=
  match span s q va n k with
  | .ok => go
  | .wait a r => (pageWait s q a kind r (.packet x.pkt), false)
  | .bad code sub a => (failPkt (dropPosting s x.pkt) x.pkt code.num sub a, false)

/-- HEAD and PEND are written once the entries they cover have completed. -/
def writeHead (s : State) (q : Queue) (x : Posting) (stage : Nat) : State × Bool :=
  postSpan s q x (x.hring + 16) 20 .store 1 <|
    let a := putSpan s q (x.hring + 16) (leBytes 8 x.head) (x.cover + 1)
    let b := putSpan a.1 q (x.hring + 32) (leBytes 4 x.pend) (x.cover + 1)
    (updPosting b.1 x.pkt fun x => { x with stage := stage, last := max a.2 b.2 }, true)

/-- One entry is copied to the ring. -/
def postEntry (s : State) (q : Queue) (x : Posting) : State × Bool :=
  postSpan s q x (x.hring + 24) 8 .load 0 <|
    let tail := leNat (getSpan s q (x.hring + 24) 8)
    if x.nent ≤ wrapInt 64 ((x.head : Int) - tail) then
      (updPosting s x.pkt fun x => { x with full := true, last := s.now }, false)
    else
      postSpan s q x (x.src + 16 * x.posted) 16 .load 0 <|
        let slot := x.base + 16 * (x.head % x.nent)
        postSpan s q x slot 16 .store 1 <|
          let y := putSpan s q slot (getSpan s q (x.src + 16 * x.posted) 16) s.now
          let s1 := updPosting y.1 x.pkt fun x =>
            { x with posted := x.posted + 1, head := (x.head + 1) % 2 ^ 64, pend := (x.pend + 1) % 2 ^ 32, cover := max x.cover y.2, full := false }
          match findPosting s1 x.pkt with
          | some z => if z.pend = z.coal then writeHead s1 q z 1 else (s1, true)
          | none => (s1, false)

/-- The next thing that a posting does; the result says whether it may go on at once. -/
def stepPosting (s : State) (q : Queue) (x : Posting) : State × Bool :=
  match x.stage with
  | 0 =>
    if !x.begun then
      postSpan s q x (x.hring + 16) 20 .load 0
        (updPosting s x.pkt fun y =>
          { y with begun := true, head := leNat (getSpan s q (x.hring + 16) 8), pend := leNat (getSpan s q (x.hring + 32) 4) }, true)
    else if x.posted < x.n then (if x.full then (s, false) else postEntry s q x)
    else if x.flush && decide (0 < x.pend) then writeHead s q x 1
    else writeHead s q x 2
  | 1 =>
    if s.now < x.last then (s, false)
    else
      (updPosting { s with irqs := s.irqs ++ [(x.port, x.vec)] } x.pkt fun x => { x with stage := 0, pend := 0, cover := max x.cover s.now }, true)
  | _ => if s.now < x.last then (s, false) else (completePkt (dropPosting s x.pkt) x.pkt, false)

/-- A posting goes on as far as it can now. -/
def runPosting (p : PktRef) : Nat → State → State
  | 0, s => s
  | n + 1, s =>
    match findPosting s p, findQueue s p.q with
    | some x, some q =>
      if !atTurn s x || isWaiting s (.packet p) then s
      else
        let r := stepPosting s q x
        if r.2 then runPosting p n r.1 else r.1
    | _, _ => s

/-- What time brings to the postings. -/
def settlePostings (s : State) : State := s.postings.foldl (fun s x => runPosting x.pkt (3 * x.n + 8) s) s

/-- A NOTIFY posts, once its descriptor is found good. -/
def startPosting (s : State) (q : Queue) (r : RawPkt) (b : NotifyBody) (n : Nat) : State :=
  let hring := b.hring.toNat
  let bs := getSpan s q hring 48
  if ringDescBad bs then failHead s q r 0 0x0E r.ref.va
  else
    let x : Posting :=
      { pkt := r.ref, hring := hring, src := b.src.toNat, n := n, flush := b.nflags.getLsbD 0, base := fieldAt bs 0 8, nent := fieldAt bs 8 4
        coal := fieldAt bs 12 4, vec := fieldAt bs 36 2, port := fieldAt bs 38 1, begun := false, posted := 0, head := 0, pend := 0
        stage := 0, cover := s.now, last := s.now, full := false }
    let s1 := startPkt s q r 0 false
    runPosting r.ref (3 * n + 8) { s1 with postings := s1.postings ++ [x] }

/-- A NOTIFY's fields break its table; NFIX above 64 is a count out of range where it is the count. -/
def notifyBad (p : PktRef) (b : NotifyBody) : Bool :=
  !p.rz || b.hring.toNat % 48 ≠ 0 || b.src.toNat % 16 ≠ 0 || b.cntva.toNat % 4 ≠ 0 || decide (1 < b.nflags.toNat)
    || (b.cntva ≠ 0 && decide (64 < b.nfix.toNat))

/-- NOTIFY. -/
def execNotify (p : PktRef) (b : NotifyBody) (s : State) : Host.Outcome State Fault Refusal :=
  onPacket (.notify p b) p s fun q r =>
    let go (n : Nat) : State :=
      if 64 < n then failHead s q r 0 0x0E p.va else onSpan s q r b.hring.toNat 48 .load 0 (startPosting s q r b n)
    if notifyBad p b then refusePkt s r 6
    else if b.cntva = 0 then go b.nfix.toNat
    else onSpan s q r b.cntva.toNat 4 .load 0 (go (leNat (getSpan s q b.cntva.toNat 4)))

/-- HOST_RING_TAIL_RELOAD: a NOTIFY that found no room loads TAIL again and goes on if there is some. -/
def execHostRingTailReload (p : PktRef) (s : State) : Host.Outcome State Fault Refusal :=
  match findPosting s p with
  | none => .fault .notEnabled
  | some x =>
    if x.full && x.stage = 0 && atTurn s x && !isWaiting s (.packet p) then
      .next (runPosting p (3 * x.n + 8) (updPosting s p fun x => { x with full := false }))
    else .fault .notEnabled

end Sys2Proof.Machine
end

