-- ==== Sys2Proof/Machine/Rake.lean ====
section
/-!
DEFINITION. The rake and the dibber: SWEEP and RESUME packets (R372, R373, R382), chunks and claims (R376 to R381), placement (R112, R113,
R116, R119, R383, R384) and grafts (R385).
-/

namespace Sys2Proof.Machine

/-! ## The launch record (R55) and the descriptor (R373) -/

/-- A launch record from its 48 bytes. -/
def kinfoOf (bs : List Byte) : KInfo :=
  let b (i : Nat) : Nat := fieldAt bs i 1
  ⟨fieldAt bs 0 8, b 8, b 9, b 10, b 11, b 12, b 13, b 14, b 15, fieldAt bs 16 4, fieldAt bs 20 2⟩

/-- A launch record breaks R55 or N5 to N10. -/
def kinfoBad (bs : List Byte) : Bool :=
  let k := kinfoOf bs
  fieldAt bs 22 2 ≠ 0 || fieldAt bs 28 20 ≠ 0 || decide (k.team < 1) || decide (16 < k.team) || k.nCopy + k.nMatrix + k.nVector ≠ k.team
    || decide (3 < max k.extCopy (max k.extMatrix k.extVector)) || decide (64 < k.nMatrix * k.acc) || (k.nMatrix = 0 && k.acc ≠ 0)
    || k.scratch % 192 ≠ 0 || k.laneslice % 16 ≠ 0 || decide (4096 < k.laneslice)
    || decide (524288 < k.scratch + 32 * k.laneslice * k.team)

/-- The fields of a tensor descriptor that the walk uses (R373). -/
structure TensorDesc where
  fmt : Nat
  rank : Nat
  shape : List Nat
  tshape : List Nat
  plot : Nat
  nplot : Nat

/-- A tensor descriptor from its 192 bytes. -/
def descOf (bs : List Byte) : TensorDesc :=
  ⟨fieldAt bs 8 1, fieldAt bs 9 1, (upto 5).map fun d => fieldAt bs (16 + 4 * d) 4, (upto 5).map fun d => fieldAt bs (36 + 4 * d) 4,
    fieldAt bs 56 8, fieldAt bs 64 4⟩

/-- Bits of an element by FMT (R375). -/
def descBits (fmt : Nat) : Nat :=
  if fmt = 0 || fmt = 0x10 then 32 else if fmt = 0x11 then 64 else match fmtOfCode fmt with | some f => fmtBits f | none => 32

/-- The product of the tile extents. -/
def tileElems (d : TensorDesc) : Nat := d.tshape.foldl (· * ·) 1

/-- The grid extent of a dimension (R373). -/
def gridExtent (shape tshape : List Nat) (d : Nat) : Nat :=
  let t := max 1 (tshape.getD d 1)
  (shape.getD d 1 + t - 1) / t

/-- A descriptor breaks its table, the end of its plot table apart (R373). -/
def descBad (bs : List Byte) : Bool :=
  let d := descOf bs
  let dimBad (k : Nat) : Bool :=
    let s := d.shape.getD k 0
    let t := d.tshape.getD k 0
    decide (s < 1) || decide (t < 1) || decide (s < t) || (decide (d.rank ≤ k) && (s ≠ 1 || t ≠ 1)) || decide (65536 < gridExtent d.shape d.tshape k)
  !(d.fmt = 0x10 || d.fmt = 0x11 || (fmtOfCode d.fmt).isSome || (d.fmt = 0 && fieldAt bs 10 2 = 1))
    || decide (d.rank < 1) || decide (5 < d.rank) || decide (1 < fieldAt bs 10 2) || fieldAt bs 12 4 ≠ 0 || fieldAt bs 68 4 ≠ 0
    || fieldAt bs 80 112 ≠ 0 || (upto 5).any dimBad || decide (2 ^ 32 - 1 < tileElems d) || d.plot % 48 ≠ 0 || fieldAt bs 72 8 % 16 ≠ 0

/-! ## SWEEP (R372) -/

/-- A SWEEP's fields break R372. -/
def sweepBad (p : PktRef) (b : SweepBody) : Bool :=
  let fl := b.flags.toNat
  !p.rz || b.desc.toNat % 192 ≠ 0 || b.kinfo.toNat % 48 ≠ 0 || b.code.toNat % 192 ≠ 0 || decide (1 < bitsOf fl 2 1)
    || decide (8 < bitsOf fl 7 4) || decide (1 < b.rowpol.toNat)

/-- The state with the context's next tag handed out, if the packet asks for one (R372). -/
def takeTag (s : State) (c : Context) (tag : W32) : Nat × State :=
  if tag = 0 then
    (c.nextTag, updCtx s c.cid fun c => { c with nextTag := if c.nextTag + 1 < 2 ^ 32 then c.nextTag + 1 else 1 })
  else (tag.toNat, s)

/-- The rakes that walk a sweep: one for each bound die. -/
def newRakes (c : Context) : List Rake := (upto (boundDies c)).map fun v => ⟨v, none, 0, [], [], [], false, false⟩

/-- A sweep is admitted. -/
def admitSweep (s : State) (q : Queue) (r : RawPkt) (c : Context) (b : SweepBody) (det : Bool) (k : KInfo) (d : TensorDesc) : State :=
  let (tag, s1) := takeTag s c b.tag
  let s2 := startPkt s1 q r tag (!det)
  let fl := b.flags.toNat
  let w : Sweep :=
    { ref := ⟨c.cid, tag, s2.nextOrder⟩, pkt := r.ref, plot := d.plot, nplot := d.nplot, rank := d.rank, fmt := d.fmt
      shape := d.shape, tshape := d.tshape, k := k, code := b.code.toNat, rw := bitsOf fl 2 1 == 1, det := det
      graft := bitsOf fl 3 3 == 1, ejt := bitsOf fl 7 4, rows := b.rows.toNat, drop := b.rowpol == 1, gwait := b.gwait.toNat
      seed := b.seed, args := b.args, pdl := q.pdl, cursor := 0, rakes := newRakes c, cause := 0, claimed := 0, skipped := 0, ended := 0
      halted := false, errored := false, finished := false, closed := false, snap := if det then s2.mem else [],
      snapScr := if det then s2.scratch else [], snapPad := if det then s2.diePad else [], commits := 0, logTag := r.logTag }
  { s2 with sweeps := s2.sweeps ++ [noteFinish w], nextOrder := s2.nextOrder + 1 }

/-- SWEEP, its launch record and descriptor read. -/
def checkSweep (s : State) (q : Queue) (r : RawPkt) (c : Context) (b : SweepBody) (ki di : List Byte) : State :=
  let k := kinfoOf ki
  let d := descOf di
  let det := b.flags.getLsbD 0 || r.logTag.isSome
  if kinfoBad ki then refusePkt s r 7
  else if descBad di then refusePkt s r 6
  else if Config.vaTop ≤ d.plot + 48 * d.nplot - 1 then refuseWith s r Code.range.num 1 (max d.plot Config.vaTop)
  else if det && decide (524288 < footprint k true) then refusePkt s r 0x0B
  else admitSweep s q r c b det k d

/-- SWEEP: it is checked, its launch record and descriptor are read, and its sweep begins; a page fault on these holds the packet (R373). A
queue of no context launches nothing (log entry 32). A body that breaks several of these checks at once, a DET that is not accepted among them, is
refused for the first in the order of the tests here, 0x06 before 0x0B before 0x03: the spec gives no order (DESIGN CHOICE, log entry 93). -/
def execSweep (p : PktRef) (b : SweepBody) (s : State) : Host.Outcome State Fault Refusal :=
  onPacket (.sweep p b) p s fun q r =>
    match queueCtx s q with
    | none => refusePkt s r 2
    | some c =>
      if sweepBad p b then refusePkt s r 6
      else if q.rowsmax < b.rows.toNat then refusePkt s r 0x0B
      else if b.flags.getLsbD 0 && !featOn s 12 then refusePkt s r 3
      else
        match queueAddr s q b.kinfo.toNat 48 .load, queueAddr s q b.desc.toNat 192 .load with
        | .page x y z w, _ => pageWait s q b.kinfo.toNat 0 (.page x y z w) (.packet p)
        | .fault code sub, _ => refuseWith s r code.num sub (firstBad s q b.kinfo.toNat 48 .load)
        | _, .page x y z w => pageWait s q b.desc.toNat 0 (.page x y z w) (.packet p)
        | _, .fault code sub => refuseWith s r code.num sub (firstBad s q b.desc.toNat 192 .load)
        | .ok ka _, .ok da _ =>
          checkSweep (queueNoted (queueNoted s q b.kinfo.toNat 48 .load) q b.desc.toNat 192 .load) q r c b (bytesAt s.mem ka 48) (bytesAt s.mem da 192)

/-! ## Rakes -/

/-- A rake of a sweep. -/
def findRake (w : Sweep) (vdie : Nat) : Option Rake := w.rakes.find? fun r => r.vdie == vdie

/-- The state with a rake changed. -/
def updRake (s : State) (ref : SweepRef) (vdie : Nat) (g : Rake → Rake) : State :=
  updSweep s ref fun w => { w with rakes := w.rakes.map fun r => if r.vdie == vdie then g r else r }

/-- A sweep by its name. -/
def findSweep (s : State) (ref : SweepRef) : Option Sweep := s.sweeps.find? fun w => w.ref = ref

/-- The context of a sweep, with the ASID of its queue. -/
def sweepCtx (s : State) (w : Sweep) : Option Context :=
  match findQueue s w.pkt.q with | some q => queueCtx s q | none => ctxOf s w.ref.cid

/-- Some guest in budget has a packet that could start or a team waiting (R404). -/
def budgetWaits (s : State) : Bool :=
  s.queues.any fun q => inBudget (guestOf s q.guest)
    && (teamWaits s q.guest || (match q.pending.head? with | some r => headReady s q r | none => false))

/-- The scheduler has pre-empted the queue of a sweep: its guest is out of budget and work of one in budget waits. The sweep's rakes then stand at
their record boundaries (R388, R404). -/
def rakeHeld (s : State) (w : Sweep) : Bool :=
  (match findQueue s w.pkt.q with | some q => !inBudget (guestOf s q.guest) | none => false) && budgetWaits s

/-- The end of a rake's chunk. -/
def chunkEnd (w : Sweep) (r : Rake) : Nat := match r.chunk with | some c => min (64 * c + 64) w.nplot | none => 0

/-- A record inserted among those to claim again, in ascending order. -/
def insertRedo (x : Nat × Bool) : List (Nat × Bool) → List (Nat × Bool)
  | [] => [x]
  | y :: r => if x.1 < y.1 then x :: y :: r else if x.1 = y.1 then x :: r else y :: insertRedo x r

/-- CHUNK_TAKE: a rake with no chunk takes the cursor's (R376). -/
def execChunkTake (ref : SweepRef) (vdie : Nat) (s : State) : Host.Outcome State Fault Refusal :=
  match findSweep s ref with
  | none => .fault .notEnabled
  | some w =>
    match findRake w vdie with
    | none => .fault .notEnabled
    | some r =>
      if r.chunk.isSome || r.stopped || r.parked || decide (w.nplot ≤ 64 * w.cursor) || rakeHeld s w then .fault .notEnabled
      else
        .next (updRake (updSweep s ref fun w => { w with cursor := w.cursor + 1 }) ref vdie fun r =>
          { r with chunk := some w.cursor, next := 64 * w.cursor })

/-- The rake has walked its chunk to its end: it has none (R376), and the sweep may be finished (R388). -/
def closeChunk (s : State) (ref : SweepRef) (vdie : Nat) : State :=
  match (findSweep s ref).bind fun w => (findRake w vdie).map fun r => (w, r) with
  | none => s
  | some (w, r) =>
    if r.chunk.isSome && decide (chunkEnd w r ≤ r.next) && r.claims.isEmpty && r.redo.isEmpty && !r.stopped && !r.parked then
      updSweep (updRake s ref vdie fun r => { r with chunk := none }) ref noteFinish
    else s

/-! ## Claims (R374, R375, R377, R378) -/

/-- Coordinate `d` of a plot record. -/
def recCoord (bs : List Byte) (d : Nat) : Nat := fieldAt bs (2 * d) 2
/-- STATE. -/
def recState (bs : List Byte) : Nat := fieldAt bs 10 1 % 8
/-- The record is unplaced. -/
def recUnplaced (bs : List Byte) : Bool := fieldAt bs 11 1 / 128 == 1
/-- HOME. -/
def recHome (bs : List Byte) : Nat := fieldAt bs 11 1 % 8
/-- TILE. -/
def recTile (bs : List Byte) : Nat := fieldAt bs 24 8

/-- Bytes of a tile (R375). -/
def tileBytes (w : Sweep) : Nat := (w.tshape.foldl (· * ·) 1 * descBits w.fmt + 7) / 8

/-- A plot record is malformed (R375). -/
def recordMalformed (w : Sweep) (n : Nat) (bs : List Byte) : Bool :=
  let st := fieldAt bs 10 1
  let home := fieldAt bs 11 1
  decide (4 < st) || bitsOf home 6 3 ≠ 0 || decide (7 < fieldAt bs 13 1) || fieldAt bs 14 2 ≠ 0 || fieldAt bs 32 16 ≠ 0
    || ((upto 5).any fun d => if d < w.rank then decide (gridExtent w.shape w.tshape d ≤ recCoord bs d) else recCoord bs d ≠ 0)
    || (!recUnplaced bs && decide (n ≤ recHome bs)) || (recUnplaced bs && st ≠ 0) || (st = 1 && decide (n ≤ fieldAt bs 13 1))
    || (st = 2 && fieldAt bs 12 1 / 2 ^ n ≠ 0) || recTile bs % 16 ≠ 0 || decide (Config.vaTop ≤ recTile bs + tileBytes w - 1)

/-- What a claim finds, as `ClaimResult.outcome`: 0 CLAIMED, 1 SKIPPED_CLAIMED, 2 STOP on a FAULTED record, 3 STOP on a malformed one, 4 the
write of a RESUME with SKIP. -/
def claimOutcome (w : Sweep) (n : Nat) (skip : Bool) (bs : List Byte) : Nat :=
  if skip then 4
  else if fieldAt bs 20 4 = w.ref.tag then 1
  else if recordMalformed w n bs then 3
  else if fieldAt bs 10 1 = 4 then 2
  else 0

/-- A rake stops at a record: the cause, the record for its queue (R380). -/
def stopRake (s : State) (w : Sweep) (vdie i cause gen tick : Nat) : State :=
  let s1 := updRake (updSweep s w.ref fun w => { w with cause := cause }) w.ref vdie fun r =>
    { r with stopped := true, redo := insertRedo (i, true) r.redo }
  postError s1 ⟨w.pkt.q, 2, cause, 0, 0, w.pkt.ptag, tick, w.ref.tag, i, 0, 0, w.ref.cid, vdie, 0xFF, gen⟩

/-- The cause of R380 for a fault that no answer resolves. -/
def stopCause (c : Code) : Nat := match c with | .poison => 5 | .extentGone => 6 | _ => 4

/-- The record that a rake claims next, and whether it is one to claim again. -/
def nextRecord (w : Sweep) (r : Rake) : Option Nat :=
  match r.redo with
  | (i, _) :: _ => some i
  | [] => if r.next < chunkEnd w r then some r.next else none

/-- The rake goes past a record that it claims. -/
def passRecord (i : Nat) (r : Rake) : Rake :=
  match r.redo with
  | (j, _) :: rest => if j = i then { r with redo := rest } else r
  | [] => { r with next := i + 1 }

/-- Teams that wait at a die's dibber. -/
def waitingAt (s : State) (die : Nat) : List Team := s.teams.filter fun t => t.status = .waiting && t.die == die

/-- A team is launched for a claim's outcome (R378). -/
def makesTeam (x : ClaimResult) : Bool := x.outcome == 0 && recState x.bytes != 3

/-! ## The resources of a core (R112, R119) -/

/-- What is free on a core: wave slots by quadrant, the scratchpad ranges in use, tiles and extended blocks. -/
structure CoreRoom where
  slots : List Nat
  used : List (Nat × Nat)
  tiles : Nat
  blocks : Nat

/-- Waves of a team in quadrant `q`. -/
def quadWaves (k : KInfo) (q : Nat) : Nat := (k.team + 3 - q) / 4

/-- A team's block budget (R119). -/
def teamBlocks (k : KInfo) : Nat := k.nCopy * k.extCopy + k.nMatrix * k.extMatrix + k.nVector * k.extVector

/-- A team's tiles. -/
def teamTiles (k : KInfo) : Nat := k.nMatrix * k.acc

/-- The room without a team at `p0`. -/
def CoreRoom.take (r : CoreRoom) (k : KInfo) (p0 n : Nat) : CoreRoom :=
  ⟨(upto 4).map fun q => r.slots.getD q 0 - quadWaves k q, (p0, n) :: r.used, r.tiles - teamTiles k, r.blocks - teamBlocks k⟩

/-- The room of a core with the teams that are placed there. -/
def coreRoom (s : State) (die core : Nat) : CoreRoom :=
  (s.teams.filter fun t => t.status = .placed && t.die == die && t.core == core).foldl
    (fun r t => r.take t.k t.p0 (footprint t.k (isDet s t))) ⟨[16, 16, 16, 16], [], 64, 64⟩

/-- The lowest multiple of 192 at which `n` bytes are free (R112). -/
def findPlace (used : List (Nat × Nat)) (n : Nat) : Option Nat :=
  let up (x : Nat) : Nat := (x + 191) / 192 * 192
  let fits (p : Nat) : Bool := decide (p + n ≤ 524288) && used.all fun u => decide (p + n ≤ u.1) || decide (u.1 + u.2 ≤ p) || n == 0 || u.2 == 0
  ((0 :: used.map fun u => up (u.1 + u.2)).filter fits).min?

/-- Where a team fits on a core. -/
def CoreRoom.fits (r : CoreRoom) (k : KInfo) (n : Nat) : Option Nat :=
  if (upto 4).all (fun q => decide (quadWaves k q ≤ r.slots.getD q 0)) && decide (teamTiles k ≤ r.tiles) && decide (teamBlocks k ≤ r.blocks)
  then findPlace r.used n else none

/-- How many more teams of a kernel a core can take; at most 64, one for each wave slot. -/
def CoreRoom.count (k : KInfo) (n : Nat) : Nat → CoreRoom → Nat
  | 0, _ => 0
  | m + 1, r => match r.fits k n with | some p => CoreRoom.count k n m (r.take k p n) + 1 | none => 0

/-- The wave stack slots of a context that its teams hold (R112, R135). -/
def slotsHeld (s : State) (cid : Nat) : List Nat :=
  s.teams.foldl (fun l t => if t.sweep.cid == cid && t.status != .ended then l ++ t.slots else l) []

/-- The lowest `n` free wave stack slots of a context, if it has them. -/
def freeStack (s : State) (c : Context) (n : Nat) : Option (List Nat) :=
  let held := slotsHeld s c.cid
  let free := ((upto (held.length + n)).filter fun k => !held.contains k && decide (k < c.nslot)).take n
  if free.length = n then some free else none

/-- The free team slots F(d) of a die for a sweep (R383); a fenced die runs no team (R9). -/
def freeTeams (s : State) (w : Sweep) (c : Context) (die : Nat) : Nat :=
  if s.dieFence.getLsbD die then 0
  else
  let n := footprint w.k w.det
  let cores := (upto 36).foldl (fun m k => m + CoreRoom.count w.k n 64 (coreRoom s die k)) 0
  let stack := (c.nslot - (slotsHeld s c.cid).length) / max 1 w.k.team
  min cores stack - (waitingAt s die).length

/-! ## What a claim's return does (R378, R380, R384) -/

/-- The affinity hash (R384). -/
def affinity (seed : W32) (bs : List Byte) : W32 :=
  let c (d : Nat) : W32 := BitVec.ofNat 32 (recCoord bs d)
  seed + c 0 * 0x9E3779B1 + c 1 * 0x85EBCA77 + c 2 * 0xC2B2AE3D + c 3 * 0x27D4EB2F + c 4 * 0x165667B1

/-- The die of a mask with the most free team slots, the lowest on a tie (R378). -/
def bestReplica (s : State) (w : Sweep) (c : Context) (vs : List Nat) : Nat :=
  (vs.foldl (fun (m : Option (Nat × Nat)) v =>
    let f := freeTeams s w c ((physDie c v).getD 0)
    match m with
    | none => some (v, f)
    | some (u, g) => if g < f then some (v, f) else some (u, g)) none).elim 0 (·.1)

/-- The virtual die of a claimed record's team (R378). -/
def teamDie (s : State) (w : Sweep) (c : Context) (bs : List Byte) : Nat :=
  let n := max 1 (boundDies c)
  match recState bs with
  | 1 => fieldAt bs 13 1 % 8
  | 2 =>
    if w.rw || w.det then recHome bs
    else bestReplica s w c ((upto n).filter fun v => v == recHome bs || bitsOf (fieldAt bs 12 1) v v == 1)
  | _ => if recUnplaced bs then (affinity w.seed bs).toNat / 65536 % n else recHome bs

/-- The preferred cluster (R383). -/
def prefCluster (w : Sweep) (bs : List Byte) : Nat :=
  if recUnplaced bs then bitsOf (affinity w.seed bs).toNat 15 12 % 9 else homeSlice (recTile bs / 192) % 9

/-- A team for a claimed record, handed to its dibber. -/
def newTeam (s : State) (w : Sweep) (c : Context) (i : Nat) (bs : List Byte) : Team :=
  let v := teamDie s w c bs
  { tid := s.fresh, sweep := w.ref, teamix := i, tile := BitVec.ofNat 64 (recTile bs), elems := w.tshape.foldl (· * ·) 1
    coords := (upto 5).map (recCoord bs), vdie := v, die := (physDie c v).getD 0, core := 0, p0 := 0, k := w.k, handed := s.now
    pref := prefCluster w bs, grafted := false, status := .waiting, slots := [], barriers := [], rounds := []
    triads := List.replicate w.rows ⟨false, 0, 0, none, false, false, 0⟩, det := [], preempt := none, lost := none, saved := [], saveAt := none
    placedAt := 0, reopenAt := none }

/-- The rake's oldest claim has returned and the dibber that its team goes to is full: the rake waits, and its later claims behind it (R383). -/
def handoffWaits (s : State) (w : Sweep) (c : Context) (r : Rake) : Bool :=
  match r.claims.head? with
  | some x => decide (x.tick ≤ s.now) && makesTeam x && decide (4096 ≤ (waitingAt s (newTeam s w c x.index x.bytes).die).length)
  | none => false

/-- CLAIM: one atomic on the next record (R377) at the place of R206, or the write of a RESUME with SKIP (R382). A page fault parks the rake, another
stops it (R381). -/
def execClaim (ref : SweepRef) (vdie : Nat) (s : State) : Host.Outcome State Fault Refusal :=
  match (findSweep s ref).bind fun w => (findRake w vdie).bind fun r => (nextRecord w r).map fun i => (w, r, i) with
  | none => .fault .notEnabled
  | some (w, r, i) =>
    match sweepCtx s w with
    | none => .fault .notEnabled
    | some c =>
      if r.stopped || r.parked || decide (8 ≤ r.claims.length) || rakeHeld s w || handoffWaits s w c r then .fault .notEnabled
      else
        let va := w.plot + 48 * i
        let s1 := updRake s ref vdie (passRecord i)
        match accessFrom s c 0 va 48 0 48 .atomic with
        | .page sub second ucode usub =>
          let s2 := updRake s1 ref vdie fun r => { r with parked := true, redo := insertRedo (i, false) r.redo }
          .next (noteFault s2 c va 2 vdie 0xFFFF sub second ucode usub (.rake ref vdie))
        | .fault code _ => .next (stopRake s1 w vdie i (stopCause code) 0 s.now)
        | .ok pa pte =>
          if pgnHost (pa / 49152) then .next (stopRake s1 w vdie i 4 0 s.now)
          else
            let bs := (upto 48).map fun k => homeByte s (pa + k)
            let o := claimOutcome w (boundDies c) (r.skips.contains i) bs
            let s2 := leaveHome (noteAccess s1 c 0 va pa pte .atomic) c va pa pte
            let (s3, t) := atomicHome s2 0 (isNormal pte (pa / 49152)) (pa + 20) 4 (if o = 0 || o = 4 then some w.ref.tag else none)
            .next (updRake s3 ref vdie fun r => { r with claims := r.claims ++ [⟨i, o, bs, t⟩], skips := r.skips.filter (· != i) })

/-- CLAIM_RETURN: the oldest claim in flight returns once its T has come. A dibber that is full makes the rake wait (R383). A team claimed for a die that
has been fenced ends as those that ran there (R9, log entry 61). -/
def execClaimReturn (ref : SweepRef) (vdie : Nat) (s : State) : Host.Outcome State Fault Refusal :=
  match (findSweep s ref).bind fun w => (findRake w vdie).bind fun r => r.claims.head?.map fun x => (w, x) with
  | none => .fault .notEnabled
  | some (w, x) =>
    match sweepCtx s w with
    | none => .fault .notEnabled
    | some c =>
      if s.now < x.tick then .fault .notEnabled
      else
        let s1 := updRake s ref vdie fun r => { r with claims := r.claims.drop 1 }
        if makesTeam x then
          let t := newTeam s w c x.index x.bytes
          if 4096 ≤ (waitingAt s t.die).length then .fault .notEnabled
          else
            let s2 := updSweep { s1 with teams := s1.teams ++ [t], fresh := s1.fresh + 1 } ref fun w => { w with claimed := w.claimed + 1 }
            .next (closeChunk (if s.dieFence.getLsbD t.die then endTeam s2 t.tid 3 0 0 0xFF 0 0 none else s2) ref vdie)
        else if x.outcome = 2 || x.outcome = 3 then
          .next (stopRake s1 w vdie x.index (x.outcome - 1) (fieldAt x.bytes 16 4) x.tick)
        else .next (closeChunk (updSweep s1 ref fun w => { w with skipped := w.skipped + 1 }) ref vdie)

/-! ## Placement (R112, R113, R383) -/

/-- The top of stack region `n` of a context (R135). -/
def stackTop (c : Context) (n : Nat) : Nat := c.stackBase + Config.stackRegion * (n + 1)

/-- The role of team wave `ix` (N6). -/
def roleOf (k : KInfo) (ix : Nat) : Role := if ix < k.nCopy then .copy else if ix < k.nCopy + k.nMatrix then .matrix else .vector

/-- The scalars of a wave at its start (R20, R113); a launch argument the packet lacks reads as 0. -/
def startScalars (t : Team) (args : List Word) (top : Nat) : Sparse Word :=
  let put (k : Nat) (x : Word) (m : Sparse Word) : Sparse Word := Sparse.set 0 m k x
  put 63 (BitVec.ofNat 64 top) ((upto 6).foldl (fun m k => put (50 + k) (args.getD k 0) m)
    (put 49 (BitVec.ofNat 64 t.elems) (put 48 t.tile [])))

/-- A wave at its start (R113); v57 holds the low 32 bits of its VA (log entry 33). -/
def newWave (c : Context) (w : Sweep) (t : Team) (ix slot : Nat) : Wave :=
  { tid := t.tid, ix := ix, role := roleOf t.k ix
    path := ⟨0, w.code + t.k.entry, false, false, none, 0xFFFFFFFF, 0xFFFFFFFF, startScalars t w.args (stackTop c (33 * slot + 32)), 0, []⟩
    stack := [], conts := [], alive := 0xFFFFFFFF
    lanes := (upto 32).foldl (fun m l => Sparse.set 0 m (32 * 57 + l) (BitVec.ofNat 32 (stackTop c (33 * slot + l)))) []
    preds := [], handles := [], blocks := 0, gr := 0, gangEnded := false, horizon := 0, xpc := 0, xcause := 0, skip := false, xaddr := 0, xskid := 0
    xmask := 0, maskBefore := none, xtask := 0, tba := 0, preq := false, fpm := 0, fpf := 0, attempt := 0, trapMask := false, frame := none, holdA := none
    holdB := none, flagsHeld := 0, task := none, perf := [], wejt := 15, slot := slot, acc := [], exact := 0, bounds := []
    status := .running, lastIssue := 0, favoured := false, deadline := none, allowance := 0, qpass := false }

/-- A team's allocation zeroed at a core (R112). -/
def zeroAllocation (s : State) (die core p0 n : Nat) : State :=
  let key := scratchKey die core p0
  { s with scratch := Sparse.clear s.scratch key n, scratchPoison := clearPoison s.scratchPoison key n }

/-- The cores of a die in the order in which a team tries them (R383). -/
def coreOrder (pref : Nat) : List Nat := (upto 9).flatMap fun k => (upto 4).map fun j => 4 * ((pref + k) % 9) + j

/-- The guest of a team. -/
def guestOfTeam (s : State) (t : Team) : Nat := match (sweepOf s t).bind fun w => findQueue s w.pkt.q with | some q => q.guest | none => 0

/-- The cores on which a guest holds a team. -/
def guestCores (s : State) (g : Nat) : List (Nat × Nat) :=
  ((s.teams.filter fun t => t.status = .placed && guestOfTeam s t == g).map fun t => (t.die, t.core)).dedup

/-- The team would take its guest beyond its core cap there (R404). -/
def overCap (s : State) (t : Team) (core : Nat) : Bool :=
  let g := guestOfTeam s t
  let cs := guestCores s g
  !(cs.contains (t.die, core)) && decide ((guestOf s g).cores ≤ cs.length)

/-- Where a team can be placed now, cores in `shut` apart: its core and offset; nowhere on a fenced die (R9). -/
def findCore (s : State) (t : Team) (shut : List Nat) : Option (Nat × Nat) :=
  if s.dieFence.getLsbD t.die then none
  else (coreOrder t.pref).findSome? fun k =>
    if shut.contains k || overCap s t k then none
    else ((coreRoom s t.die k).fits t.k (footprint t.k (isDet s t))).map fun p => (k, p)

/-- The number of the next placement, above those of all teams before it. -/
def nextPlace (s : State) : Nat := s.teams.foldl (fun m t => max m t.placedAt) 0 + 1

/-- A waiting team is placed. -/
def placeTeam (s : State) (t : Team) (shut : List Nat) : Option State :=
  match sweepOf s t, teamCtx s t with
  | some w, some c =>
    match findCore s t shut, freeStack s c t.k.team with
    | some (core, p0), some slots =>
      let s1 := zeroAllocation s t.die core p0 (footprint t.k w.det)
      let t1 := { t with core := core, p0 := p0, slots := slots, status := .placed, placedAt := nextPlace s }
      some { updTeam s1 t.tid fun _ => t1 with waves := s1.waves ++ slots.zipIdx.map fun x => newWave c w t1 x.2 x.1 }
    | _, _ => none
  | _, _ => none

/-- The cores whose extended blocks do not hold a team's budget: no later team is placed there ahead of it (R119). -/
def shutCores (s : State) (t : Team) : List Nat := (upto 36).filter fun k => decide ((coreRoom s t.die k).blocks < teamBlocks t.k)

/-- Team `a` is served before team `b` at a dibber: by the scheduler's order of their queues (R404), then by R383. -/
def teamBefore (s : State) (a b : Team) : Bool :=
  let q (t : Team) : Option Queue := (sweepOf s t).bind fun w => findQueue s w.pkt.q
  let byRake : Bool :=
    if guaranteed s a != guaranteed s b then guaranteed s a
    else if a.sweep.order ≠ b.sweep.order then decide (a.sweep.order < b.sweep.order)
    else decide (a.teamix < b.teamix)
  match q a, q b with
  | some x, some y =>
    if servedBefore s x y 0 0 then true else if servedBefore s y x 0 0 then false else byRake
  | _, _ => byRake

/-- A team inserted in the order of service. -/
def insertTeam (s : State) (t : Team) : List Team → List Team
  | [] => [t]
  | u :: r => if teamBefore s t u then t :: u :: r else u :: insertTeam s t r

/-- The cores that a team which waits keeps from later ones: the core where the guaranteed team of a sweep would go (R117), or those whose blocks do
not hold its budget (R119). -/
def keptCores (s : State) (t : Team) (shut : List Nat) : List Nat :=
  match findCore s t shut with
  | some (k, _) => if guaranteed s t then [k] else []
  | none => shutCores s t

/-- One pass of a dibber over teams in order, of which it places those that `may` admits: a team that does not fit stops the later ones of its sweep
(R383), and one that waits for its commit keeps its place (R90, R117). -/
def placePass (may : Team → Bool) : List Team → List SweepRef → List Nat → State → State
  | [], _, _, s => s
  | t :: r, stop, shut, s =>
    if stop.contains t.sweep || (!inBudget (guestOf s (guestOfTeam s t)) && budgetWaits s) then placePass may r stop shut s
    else if !may t then placePass may r stop (shut ++ keptCores s t shut) s
    else
      match placeTeam s t shut with
      | some s1 => placePass may r stop shut s1
      | none => placePass may r (t.sweep :: stop) (shut ++ keptCores s t shut) s

/-- The teams waiting at a dibber, in the order of service. -/
def dibberOrder (s : State) (die : Nat) : List Team := (waitingAt s die).foldl (fun l t => insertTeam s t l) []

/-- The cores that teams waiting at its dibber in front of a team keep from it (R117, R119), and whether one of its own sweep is among them that does
not fit, which stops it (R383). -/
def keptBefore (s : State) (t : Team) : List Nat × Bool :=
  ((dibberOrder s t.die).filter fun u => teamBefore s u t).foldl (fun m u =>
    (m.1 ++ keptCores s u m.1, m.2 || (u.sweep = t.sweep && (findCore s u m.1).isNone))) ([], false)

/-- DIBBER_PLACEMENT: a dibber places what it can; teams of DET sweeps wait for a commit (R90). -/
def execDibberPlacement (die : Nat) (s : State) : Host.Outcome State Fault Refusal :=
  let s1 := placePass (fun t => !isDet s t) (dibberOrder s die) [] [] s
  if (waitingAt s1 die).length < (waitingAt s die).length then .next s1 else .fault .notEnabled

/-! ## Grafts (R385) -/

/-- The virtual die a team would be grafted to: the nearest with room, the lowest on a tie. -/
def graftTarget (s : State) (w : Sweep) (c : Context) (t : Team) : Option Nat :=
  ((upto (boundDies c)).foldl (fun (m : Option (Nat × Nat)) v =>
    match physDie c v with
    | none => m
    | some d =>
      if d = t.die || freeTeams s w c d = 0 then m
      else
        match m with
        | some (_, h) => if hops t.die d < h then some (v, hops t.die d) else m
        | none => some (v, hops t.die d)) none).map (·.1)

/-- A team's own die has room for it, the teams before it apart that wait there (R385). -/
def roomAtHome (s : State) (c : Context) (t : Team) : Bool :=
  let before := keptBefore s t
  !before.2 && !s.dieFence.getLsbD t.die && (freeStack s c t.k.team).isSome
    && (upto 36).any fun k => !before.1.contains k && ((coreRoom s t.die k).fits t.k (footprint t.k (isDet s t))).isSome

/-- A team has waited long enough, in a sweep that grafts, where its die has no room and another has. -/
def graftable (s : State) (t : Team) : Option Nat :=
  match sweepOf s t, teamCtx s t with
  | some w, some c =>
    if t.status = .waiting && w.graft && !w.det && !t.grafted && decide (t.handed + w.gwait ≤ s.now) && !roomAtHome s c t then graftTarget s w c t
    else none
  | _, _ => none

/-- TEAM_GRAFT: grafts are decided in ascending `%teamix`. -/
def execTeamGraft (tid : Nat) (s : State) : Host.Outcome State Fault Refusal :=
  match findTeam s tid with
  | none => .fault .notEnabled
  | some t =>
    match graftable s t, teamCtx s t with
    | some v, some c =>
      if s.teams.any fun u => u.sweep = t.sweep && decide (u.teamix < t.teamix) && (graftable s u).isSome then .fault .notEnabled
      else .next (updTeam s tid fun t => { t with vdie := v, die := (physDie c v).getD t.die, grafted := true })
    | _, _ => .fault .notEnabled

/-! ## RESUME (R382) -/

/-- A stopped rake restarts at its resume index. -/
def resumeRake (skip : Bool) (r : Rake) : Rake :=
  if !r.stopped then r
  else
    { r with
      stopped := false
      redo := r.redo.map fun x => (x.1, false)
      skips := (r.skips.filter fun i => !(r.redo.contains (i, true))) ++ (if skip then (r.redo.filter (·.2)).map (·.1) else []) }

/-- RESUME. -/
def execResume (p : PktRef) (b : ResumeBody) (s : State) : Host.Outcome State Fault Refusal :=
  onPacket (.resume p b) p s fun q r =>
    let named (w : Sweep) : Bool := !q.admin && w.ref.cid == q.q.cid && w.ref.tag == b.tag.toNat && !w.finished
    if !p.rz || 1 < b.skip.toNat then refusePkt s r 6
    else if !(s.sweeps.any named) then refusePkt s r 0x0C
    else
      let s1 := startPkt s q r 0 false
      let go (w : Sweep) : Sweep := if named w then { w with rakes := w.rakes.map (resumeRake (b.skip == 1)) } else w
      completePkt { s1 with sweeps := s1.sweeps.map go } p

end Sys2Proof.Machine
end

