-- ==== Sys2Proof/Machine/Admin.lean ====
section
/-!
DEFINITION. The admin queue's packets (R394, R395): contexts, the mapping of queues (R403), budgets (R404), the debugger's packets, live
firmware updates (R411, R412, R420), and the registers that start the packet cores (R410, R417).
-/

namespace Sys2Proof.Machine

/-- An admin packet takes effect and completes. -/
def adminDone (s : State) (q : Queue) (r : RawPkt) (go : State → State) : State := completePkt (go (startPkt s q r 0 false)) r.ref

/-- An admin packet fails: an error record, and no other effect (R394). -/
def adminFail (s : State) (q : Queue) (r : RawPkt) (sub : Nat) : State := failHead s q r 0 sub r.ref.va

/-! ## CTX_CREATE (R193, R395) -/

/-- The table of virtual dies breaks R8: a gap, a duplicate, none bound, or a fenced die. Bits 6:3 of a byte, and the die bits of an entry that is not
valid, are given no meaning and no refusal: any value passes, means nothing, and is read back by RDSYS as it was written (DESIGN CHOICE, log
entry 91). -/
def vdmapBad (s : State) (vs : List Nat) : Bool :=
  let bound := vs.filter fun b => decide (128 ≤ b)
  let ds := bound.map (· % 8)
  bound.isEmpty || (vs.take bound.length != bound) || ds.dedup.length != ds.length || ds.any fun d => s.dieFence.getLsbD d

/-- A context from its record's 192 bytes; its die-pad windows are still to be placed. -/
def contextOf (bs : List Byte) : Context :=
  let n (i k : Nat) : Nat := fieldAt bs i k
  { cid := n 0 2, asid := n 2 2, vdmap := (upto 8).map fun k => n (8 + k) 1, root := bitsOf (n 16 8) 39 0, rootSlot := bitsOf (n 16 8) 42 40
    stripe := n 24 1, bken := bitsOf (n 25 1) 0 0 == 1, nslot := n 28 4, stackBase := n 32 8, save := n 40 8, saveSize := n 48 8
    fring := n 56 8, fcount := n 64 4, jcount := n 68 4, jtab := n 72 8, padlen := n 80 4, pads := [], fvec := n 84 2, fport := n 86 1
    nextSeq := 0, faults := [], jars := [], mailbox := [], nextTag := 1, collRounds := [], dead := false, stage2 := Config.secondStageRoot (n 0 2) }

/-- Every granule of the jar table lies in one local stack (R199, R395). -/
def jtabBad (s : State) (c : Context) : Bool :=
  let last := c.jtab + (48 * c.jcount - 1) / 49152
  !pgnPresent s c.jtab || (pgnSocket c.jtab).isNone || !pgnPresent s last || pgnSocket last != pgnSocket c.jtab || decide (2 ^ 40 ≤ c.jtab)

/-- A context record breaks R8 or R395. -/
def contextBad (s : State) (bs : List Byte) : Bool :=
  let c := contextOf bs
  c.cid = 0 || decide (4096 ≤ c.cid) || (ctxOf s c.cid).isSome || vdmapBad s c.vdmap || fieldAt bs 16 8 / 2 ^ 43 ≠ 0 || decide (6 ≤ c.rootSlot)
    || decide (20 < c.stripe) || decide (1 < fieldAt bs 25 1) || decide (c.nslot < 1) || decide (2 ^ 20 < c.nslot) || c.stackBase % 49152 ≠ 0
    || c.save % 192 ≠ 0 || c.fring % 48 ≠ 0 || decide (c.fcount < 1) || decide (2 ^ 20 < c.fcount) || decide (c.jcount < 1)
    || decide (2 ^ 24 < c.jcount) || jtabBad s c || c.padlen % 192 ≠ 0 || decide (67108864 < c.padlen) || decide (2047 < c.fvec)
    || decide (1 < c.fport) || fieldAt bs 4 4 ≠ 0 || fieldAt bs 26 2 ≠ 0 || fieldAt bs 87 105 ≠ 0

/-- The windows in use on a physical die, as offset and length. -/
def padsUsed (s : State) (d : Nat) : List (Nat × Nat) :=
  (s.contexts.filter fun c => (c.vdmap.any fun b => decide (128 ≤ b) && b % 8 == d) && decide (0 < c.padlen)).map fun c => (c.pads.getD d 0, c.padlen)

/-- The lowest 192-byte-aligned offset of a die's pad where `n` bytes are free (R193). -/
def placePad (used : List (Nat × Nat)) (n : Nat) : Option Nat :=
  ((0 :: used.map fun u => (u.1 + u.2 + 191) / 192 * 192).filter fun p =>
    decide (p + n ≤ 67108864) && used.all fun u => decide (p + n ≤ u.1) || decide (u.1 + u.2 ≤ p)).min?

/-- The window offsets on every physical die, those that are not bound at 0; none if some bound die has no room. -/
def placePads (s : State) (c : Context) : Option (List Nat) :=
  (upto 8).foldr (fun d acc =>
    match acc, (c.vdmap.any fun b => decide (128 ≤ b) && b % 8 == d) && decide (0 < c.padlen) with
    | none, _ => none
    | some l, false => some (0 :: l)
    | some l, true => (placePad (padsUsed s d) c.padlen).map (· :: l)) (some [])

/-- A context is created: its windows and its jar table are zeroed. -/
def addContext (s : State) (c : Context) (pads : List Nat) : State :=
  let pad := c.vdmap.foldl (fun m b => if 128 ≤ b then Sparse.clear m (67108864 * (b % 8) + pads.getD (b % 8) 0) c.padlen else m) s.diePad
  { s with
    diePad := pad
    scratchPoison := c.vdmap.foldl (fun l b =>
      if 128 ≤ b then clearPoison l (150994944 + 67108864 * (b % 8) + pads.getD (b % 8) 0) c.padlen else l) s.scratchPoison
    mem := Sparse.clear s.mem (49152 * c.jtab) (48 * c.jcount)
    poison := clearPoison s.poison (49152 * c.jtab) (48 * c.jcount)
    contexts := s.contexts ++ [{ c with pads := pads }] }

/-- CTX_CREATE. -/
def execCtxCreate (p : PktRef) (b : AddrBody) (s : State) : Host.Outcome State Fault Refusal :=
  onPacket (.ctxCreate p b) p s fun q r =>
    if !p.rz then adminFail s q r 6
    else
      onSpan s q r b.addr.toNat 192 .load 0 <|
        let bs := getSpan s q b.addr.toNat 192
        if contextBad s bs then adminFail s q r 9
        else
          match placePads s (contextOf bs) with
          | none => adminFail s q r 9
          | some pads => adminDone s q r fun s => addContext s (contextOf bs) pads

/-! ## CTX_DESTROY (R394) -/

/-- ABORT is asked of a team (R183); one that is not placed has nothing to stop, and ends at once (R190). -/
def abortTeam (s : State) (t : Team) : State :=
  match t.status with
  | .ended => s
  | .placed =>
    let pdl := match sweepOf s t with | some w => w.pdl | none => 0
    let s1 := updTeam s t.tid fun t => { t with preempt := some ⟨true, s.now⟩ }
    { s1 with waves := s1.waves.map fun w =>
        if w.tid == t.tid && w.status ≠ .ended && !w.preq then { w with preq := true, deadline := some pdl, allowance := 8192 } else w }
  | _ => endTeam s t.tid 8 0x70 0 0xFF 0 0 none

/-- Every FILLING jar of a context that ends is abandoned (R306). -/
def abandonJars (s : State) (cid : Nat) : State :=
  match ctxOf s cid with
  | none => s
  | some c => (c.jars.filter fun e => e.2.state = 1).foldl (fun s e => setJar s cid e.1 { e.2 with state := 3 }) s

/-- A context accepts no further packets, its walks stop, and its teams are pre-empted with ABORT (R9, R394). -/
def closeContext (s : State) (cid : Nat) : State :=
  let s1 := updCtx (abandonJars s cid) cid fun c => { c with dead := true }
  let s2 : State :=
    { s1 with
      sweeps := s1.sweeps.map fun w =>
        if w.ref.cid = cid then { w with rakes := w.rakes.map fun r => { r with stopped := true, claims := [], redo := [] } } else w
      queues := s1.queues.map fun q => if q.q.cid = cid && !q.admin then { q with mapped := false } else q }
  (s2.teams.filter fun t => t.sweep.cid == cid).foldl abortTeam s2

/-- A context and everything that names it leave the machine: the copies tagged with its CID too, since none may match a later context of that CID
(R200), and its alias records, which R207 names for the driver's unmap only (DESIGN CHOICE, log entry 102). -/
def removeContext (s : State) (cid : Nat) : State :=
  let tids := (s.teams.filter fun t => t.sweep.cid == cid).map (·.tid)
  { s with
    contexts := s.contexts.filter fun c => c.cid != cid
    queues := s.queues.filter fun q => q.admin || q.q.cid != cid
    sweeps := s.sweeps.filter fun w => w.ref.cid != cid
    teams := s.teams.filter fun t => t.sweep.cid != cid
    waves := s.waves.filter fun w => !(tids.contains w.tid)
    ops := s.ops.filter fun o => !(tids.contains o.tid)
    holds := s.holds.filter fun h => h.cid != cid
    aliases := s.aliases.filter fun a => a.cid != cid
    copies := s.copies.filter fun y => y.cid != cid
    homeLines := s.homeLines.filter fun y => y.cid != cid
    tlb := s.tlb.filter fun e => e.cid != cid
    codeCopies := s.codeCopies.filter fun y => y.cid != cid
    graphs := s.graphs.filter fun g => g.pkt.q.cid != cid
    postings := s.postings.filter fun x => x.pkt.q.cid != cid }

/-- Nothing of a context runs any more. -/
def contextQuiet (s : State) (cid : Nat) : Bool :=
  let tids := (s.teams.filter fun t => t.sweep.cid == cid).map (·.tid)
  s.teams.all (fun t => t.sweep.cid != cid || t.status = .ended)
    && s.ops.all fun o => !(tids.contains o.tid) || !(o.kind.stores || o.kind.isAtomic || o.kind = .lnwb)

/-- CTX_DESTROY: the packet completes when the context has gone. -/
def execCtxDestroy (p : PktRef) (b : CidBody) (s : State) : Host.Outcome State Fault Refusal :=
  onPacket (.ctxDestroy p b) p s fun q r =>
    let cid := b.cid.toNat
    if !p.rz then adminFail s q r 6
    else if (ctxOf s cid).isNone || q.started.any fun e => e.kind == 0x21 && e.va == cid then adminFail s q r 0x0A
    else closeContext (updStarted (startPkt s q r 0 false) p fun e => { e with va := cid }) cid

/-- Destructions whose contexts are quiet complete. -/
def settleDestroys (s : State) : State :=
  s.queues.foldl (fun s q => (q.started.filter fun e => e.kind == 0x21).foldl (fun s e =>
    if contextQuiet s e.va then completePkt (removeContext s e.va) e.ref else s) s) s

/-! ## Q_MAP and Q_UNMAP (R403) -/

/-- A queue that nothing has been read of. -/
def freshQueue (ref : QRef) (shadow : Nat) (admin : Bool) : Queue :=
  { q := ref, asid := 0, shadow := shadow, kinds := 0, guest := 0, prio := 0, pmax := 0, devsub := false, missed := false, mapped := true
    halt := false, admin := admin, rowsmax := 0, pdl := 0, uva := 0, woken := false, waker := 0x800, visible := 0, rptr := 0, nextSeq := 0
    pending := [], started := [], readers := [], ring := [], done := 0, ehead := 0, told := 0, errq := [], capture := none, replay := none }

/-- The held WAITs and FENCEs of a queue load their words again. -/
def retestQueue (s : State) (ref : QRef) : State :=
  match findQueue s ref with
  | none => s
  | some q =>
    (q.started.filter fun e => e.kind == 4 || e.kind == 6).foldl (fun s e =>
      match execWaitWordReload e.ref s with | .next s1 => s1 | _ => s) s

/-- A queue is mapped (R403). One mapped for the first time takes its shadow half; one mapped again has its record loaded and checked
(R398). A wake that was missed is served, with the held words tested again. -/
def mapQueue (s : State) (ref : QRef) (shadow : Nat) (admin : Bool) : State :=
  match findQueue s ref with
  | none =>
    let missed := bitsOf (memNat s.mem (shadow + 10) 1) 1 1 == 1
    { s with queues := s.queues ++ [{ loadShadow s (freshQueue ref shadow admin) with woken := missed }] }
  | some _ =>
    let s1 := updQueue s ref fun q => { q with shadow := shadow, mapped := true, halt := false }
    match findQueue s1 ref with
    | none => s1
    | some q =>
      let s2 := withRecord s1 q fun q1 _ => updQueue s1 ref fun _ => q1
      if q.missed then retestQueue (updQueue s2 ref fun q => { q with missed := false, woken := true }) ref else s2

/-- Q_MAP. -/
def execQMap (p : PktRef) (b : AddrBody) (s : State) : Host.Outcome State Fault Refusal :=
  onPacket (.qMap p b) p s fun q r =>
    if !p.rz then adminFail s q r 6
    else
      onSpan s q r b.addr.toNat 96 .load 0 <|
        let cid := memNat s.mem b.addr.toNat 2
        let ref : QRef := ⟨cid, memNat s.mem (b.addr.toNat + 16) 4⟩
        if bitsOf (memNat s.mem (b.addr.toNat + 10) 1) 4 4 = 1 && (ctxOf s cid).isNone then adminFail s q r 8
        else if (ctxOf s cid).isNone || (!((findQueue s ref).any (·.mapped)) && decide (4096 ≤ (s.queues.filter (·.mapped)).length)) then adminFail s q r 0x0A
        else adminDone s q r fun s => mapQueue s ref b.addr.toNat false

/-- Q_UNMAP: every wake that came before it is served, or latched while the queue waits for a page. -/
def execQUnmap (p : PktRef) (b : CidBody) (s : State) : Host.Outcome State Fault Refusal :=
  onPacket (.qUnmap p b) p s fun q r =>
    if !p.rz then adminFail s q r 6
    else
      match (if b.cid = 0 then none else findQueue s ⟨b.cid.toNat, b.num.toNat⟩) with
      | none => adminFail s q r 0x0A
      | some x =>
        if !x.mapped then adminFail s q r 0x0A
        else
          adminDone s q r fun s =>
            let s1 := if x.woken && !isWaiting s (.queue x.q) then serveWake s x else s
            updQueue s1 x.q fun y => { y with mapped := false, missed := y.missed || y.woken, woken := false }

/-! ## BUDGET, BKEN, RELEASE -/

/-- The state with a guest's record changed; it begins with the values of a guest that no BUDGET has set (R404). -/
def updGuest (s : State) (k : Nat) (g : Guest → Guest) : State :=
  if s.guests.any fun x => x.guest == k then { s with guests := s.guests.map fun x => if x.guest == k then g x else x }
  else { s with guests := s.guests ++ [g (guestOf s k)] }

/-- BUDGET: it takes effect with the next window. -/
def execBudget (p : PktRef) (b : BudgetBody) (s : State) : Host.Outcome State Fault Refusal :=
  onPacket (.budget p b) p s fun q r =>
    if !p.rz || 63 < b.guest.toNat || 940000 < b.budget.toNat || b.cores.toNat < 1 || 288 < b.cores.toNat then adminFail s q r 6
    else adminDone s q r fun s => updGuest s b.guest.toNat fun g => { g with next := some (b.budget.toNat, b.cores.toNat) }

/-- BKEN. -/
def execBken (p : PktRef) (b : CidBody) (s : State) : Host.Outcome State Fault Refusal :=
  onPacket (.bken p b) p s fun q r =>
    if !p.rz || 1 < b.val.toNat then adminFail s q r 6
    else if (ctxOf s b.cid.toNat).isNone then adminFail s q r 0x0A
    else adminDone s q r fun s => updCtx s b.cid.toNat fun c => { c with bken := b.val == 1 }

/-- A halted wave goes on where it stands; one of a saved team waits for its restore. -/
def releaseHalted (s : State) (tids : List Nat) (w : Wave) : Wave :=
  if tids.contains w.tid && w.status = .halted then
    { w with status := match findTeam s w.tid with | some t => if t.status = .placed then .running else .saved | none => .running }
  else w

/-- RELEASE: the sweep's halt ends, and every halted wave of it goes on (R165, R172). -/
def execRelease (p : PktRef) (b : CidBody) (s : State) : Host.Outcome State Fault Refusal :=
  onPacket (.release p b) p s fun q r =>
    let named (x : SweepRef) : Bool := x.cid == b.cid.toNat && x.tag == b.num.toNat
    if !p.rz then adminFail s q r 6
    else if !(s.sweeps.any fun w => named w.ref && !w.closed) then adminFail s q r 0x0A
    else
      adminDone s q r fun s =>
        let tids := (s.teams.filter fun t => named t.sweep).map (·.tid)
        { s with
          sweeps := s.sweeps.map fun w => if named w.ref then { w with halted := false } else w
          waves := s.waves.map (releaseHalted s tids) }

/-! ## Bring-up's state (R417, R425) -/

/-- The mode of a host port, 0 if it is down (R417). -/
def portMode (s : State) (port : Nat) : Nat := bitsOf s.portstat.toNat (8 * port + 3) (8 * port)

/-- A failed step of bring-up stops BOOT there and raises vector 0 on every trained port (R425). -/
def bootFails (s : State) (k : Nat) : State :=
  { s with boot := k, bootFailed := true, irqs := s.irqs ++ (((upto 2).filter fun p => portMode s p ≠ 0).map fun p => (p, 0)) }

/-- The firmware runs: bring-up has gone through step 3 (R425). -/
def firmwareRuns (s : State) : Bool := decide (3 ≤ s.boot) && !(s.bootFailed && decide (s.boot = 3))

/-! ## Live firmware updates (R411, R412, R420) -/

/-- The record of an update that failed or was rolled back (R422). -/
def updateRecord (s : State) (p : PktRef) : ErrorRecord := ⟨p.q, 0x0A, 0, 0, 0, p.ptag, s.now, 0, 0, 0, 0, 0, 0xFF, 0xFF, 0⟩

/-- FWUPDATE: the image is checked and measured (step 2), must go to the other slot (step 3), and the new image starts; the packet
completes when the update ends. -/
def execFwupdate (p : PktRef) (b : FwBody) (s : State) : Host.Outcome State Fault Refusal :=
  onPacket (.fwupdate p b) p s fun q r =>
    let n := b.len.toNat
    if !p.rz || 1 < b.slot.toNat then adminFail s q r 6
    else
      onSpan s q r b.addr.toNat n .load 0 <|
        let image := getSpan s q b.addr.toNat n
        let s1 := startPkt s q r 0 false
        if !Config.imageSigned image || decide ((Config.imageVersion image).toNat < s.verCtr.toNat) then completePkt (postError s1 (updateRecord s p)) p
        else
          let s2 := { s1 with fwMeasured := s1.fwMeasured ++ [Config.sha3 image] }
          if b.slot.toNat = s.fwSlot then completePkt (postError s2 (updateRecord s p)) p
          else
            { s2 with
              fwVersions := s2.fwVersions.set b.slot.toNat (Config.imageVersion image)
              fwHashes := s2.fwHashes.set b.slot.toNat (Config.sha3 image)
              fwSigned := s2.fwSigned.set b.slot.toNat true
              update := some ⟨b.slot.toNat, Config.imageVersion image, s.now, Config.rejectsHandover image, p⟩ }

/-- Queues resume: wakes latched meanwhile are served as at a remap (R411 step 6). -/
def resumeQueues (s : State) : State :=
  s.queues.foldl (fun s q =>
    if q.mapped && q.missed then retestQueue (updQueue s q.q fun q => { q with missed := false, woken := true }) q.q else s) s

/-- The ticks within which a new image's first heartbeat must come: 50 ms (R411). -/
def heartbeatLimit : Nat := 47000000

/-- VERCTR raised to an image's version: it never decreases (R420). -/
def raiseVersion (ctr version : W32) : W32 := if ctr.toNat ≤ version.toNat then version else ctr

/-- FIRMWARE_HEARTBEAT: the running image's first heartbeat raises VERCTR (R420); a new image's ends its update, and the feature word may be
negotiated again (R410). -/
def execFirmwareHeartbeat (s : State) : Host.Outcome State Fault Refusal :=
  match s.update with
  | none => if !firmwareRuns s then .fault .notEnabled else .next { s with verCtr := raiseVersion s.verCtr (s.fwVersions.getD s.fwSlot 0) }
  | some u =>
    if u.rejected || u.started + heartbeatLimit < s.now then .fault .notEnabled
    else
      let s1 := { s with update := none, fwSlot := u.slot, verCtr := raiseVersion s.verCtr u.version, featLocked := false }
      .next (resumeQueues (completePkt s1 u.pkt))

/-- HEARTBEAT_TIMEOUT: no heartbeat came in time, or the new image rejects the handover: the old slot starts again from the same structure. -/
def execHeartbeatTimeout (s : State) : Host.Outcome State Fault Refusal :=
  match s.update with
  | none => .fault .notEnabled
  | some u =>
    if u.rejected || u.started + heartbeatLimit < s.now then
      .next (resumeQueues (completePkt (postError { s with update := none } (updateRecord s u.pkt)) u.pkt))
    else .fault .notEnabled

/-! ## Windows (R404) -/

/-- The cores on which a guest holds teams, halted and parked ones too. -/
def coresHeld (s : State) (g : Nat) : Nat := (guestCores s g).length

/-- BUDGET_WINDOW: a window has begun; charges start again from its first tick, and new budgets take effect. -/
def execBudgetWindow (s : State) : Host.Outcome State Fault Refusal :=
  let w := s.now / 940000 * 940000
  if w ≤ s.window then .fault .notEnabled
  else
    .next { s with
      window := w
      guests := s.guests.map fun g =>
        let g1 := match g.next with | some (b, c) => { g with budget := b, cores := c, next := none } | none => g
        { g1 with charge := coresHeld s g.guest * (s.now - w), out := false } }

/-- GUEST_OUT_OF_BUDGET: the charge of the window has reached B. -/
def execGuestOutOfBudget (guest : Nat) (s : State) : Host.Outcome State Fault Refusal :=
  let g := guestOf s guest
  if !g.out && decide (288 * g.budget ≤ g.charge) then .next (updGuest s guest fun g => { g with out := true }) else .fault .notEnabled

/-- Guests are charged for the cores they hold, tick by tick. -/
def chargeGuests (s : State) (dt : Nat) : State :=
  let gs := ((s.teams.filter fun t => t.status = .placed).map (guestOfTeam s)).dedup
  gs.foldl (fun s k => updGuest s k fun g => { g with charge := g.charge + dt * coresHeld s k }) s

/-! ## FEATGO and ADMINGO (R410, R417) -/

/-- The feature word is one that may be accepted: bit 0 is set, and no bit is not offered. -/
def featGood (x : BitVec 128) : Bool := x.getLsbD 0 && (x &&& ~~~Config.featOff) = 0

/-- FEATGO: a write of 1 once the firmware runs; after OK the word holds. -/
def execFeatgo (value : W32) (s : State) : Host.Outcome State Fault Refusal :=
  if value ≠ 1 || !firmwareRuns s then .next s
  else if s.featLocked then .next { s with featStat := 3 }
  else if featGood s.featReg then .next { s with featAcc := s.featReg, featStat := 1, featLocked := true }
  else .next { s with featStat := 2 }

/-- ADMINGO: a write of 1 at BOOT 3 maps the admin queue, and BOOT reads 4; it is ignored where ADMINQ is no multiple of 96 (log entry 94). Where ADMINQ
names no memory the queue cannot be mapped, and step 4 fails (log entry 36). -/
def execAdmingo (value : W32) (s : State) : Host.Outcome State Fault Refusal :=
  if value ≠ 1 || s.boot ≠ 3 || !firmwareRuns s || (s.queues.any fun q => q.admin) || s.adminq.toNat % 96 ≠ 0 then .next s
  else if !pgnPresent s (s.adminq.toNat / 49152) then .next (bootFails s 4)
  else .next (mapQueue { s with boot := 4 } ⟨0, 0⟩ s.adminq.toNat true)

end Sys2Proof.Machine
end

