-- ==== Sys2Proof/Machine/Flags.lean ====
section
/-!
DEFINITION. The modes and flags of the vector engine (R70 to R72, R271): flushing, rounding of results, and the end of an
instruction that raises flags.
-/

namespace Sys2Proof.Machine

/-- `%fpm.RM` (R70). -/
def rmOf (e : Env) : Nat := bitsOf e.w.fpm.toNat 1 0
/-- `%fpm.FTZ` (R70). -/
def ftzOf (e : Env) : Bool := e.w.fpm.getLsbD 2
/-- The enabled traps, in the places of R71. -/
def trapsOf (w : Wave) : Nat := bitsOf w.fpm.toNat 8 4

/-- The formats that FTZ flushes (R70). -/
def flushable : Fmt → Bool
  | .fp32 | .bf16 | .fp16 => true
  | _ => false

/-- A pattern with a zero exponent field. -/
def zeroExp (f : Fmt) (x : Nat) : Bool := x / 2 ^ fmtP f % 2 ^ fmtE f == 0

/-- An input: a subnormal of a flushed format is read as zero of its sign (R271). -/
def readIn (ftz : Bool) (f : Fmt) (x : Nat) : FVal :=
  match readF f x with
  | .num s m e => if ftz && flushable f && zeroExp f x then .num s 0 e else .num s m e
  | v => v

/-- A result: rounded, and flushed with UF and NX when it is subnormal (R70, R271). -/
def roundOut (ftz : Bool) (f : Fmt) (rm : Nat) (v : FVal) : Nat × Nat :=
  let r := roundF f rm v
  if ftz && flushable f && zeroExp f r.1 && r.1 % 2 ^ fmtP f != 0 then
    (r.1 / 2 ^ (fmtBits f - 1) * 2 ^ (fmtBits f - 1), Nat.lor r.2 (fUF + fNX))
  else r

/-- NV for a signalling NaN (R271). -/
def sigFlag (v : FVal) : Nat := if isSig v then fNV else 0

/-- The flags of the active lanes go into `%fpf`, or FPE is raised with all of them as SUB and nothing is written (R71, R72). -/
def finishFlags (e : Env) (s : State) (flags : Nat) (write : State → State) : Verdict :=
  if Nat.land flags (trapsOf e.w) ≠ 0 then .trap ⟨.fpe, flags, 0⟩
  else .ok (updCur (write s) e.who fun w => { w with fpf := w.fpf ||| BitVec.ofNat 64 flags })

/-- One result and its flags for each active lane. -/
def laneResults (e : Env) (g : Nat → Nat × Nat) : List (Nat × Nat × Nat) := (lanesOf e.act).map fun l => (l, g l)

/-- The flags of all results. -/
def allFlags (rs : List (Nat × Nat × Nat)) : Nat := rs.foldl (fun m r => Nat.lor m r.2.2) 0

/-- The results written to lane register `r`, `sh` bits down. -/
def writeResults (e : Env) (r sh : Nat) (rs : List (Nat × Nat × Nat)) (s : State) : State :=
  updCur s e.who fun w => rs.foldl (fun w x => w.setV r x.1 (BitVec.ofNat 32 (x.2.1 / 2 ^ sh))) w

/-- A floating-point instruction (R270, R271): in each active lane, or once for the wave in the uniform form. `wide` says that the
result is FP64. -/
def fpInstr (e : Env) (s : State) (wide : Bool) (g : Nat → Nat × Nat) : Verdict :=
  if uniformD e then
    if e.act = 0 then .ok s
    else
      let r := g (lowestLane e.act)
      finishFlags e s r.2 fun s => setScalar s e.who e.f.d.toNat (BitVec.ofNat 64 r.1)
  else
    let rs := laneResults e g
    finishFlags e s (allFlags rs) fun s =>
      let s1 := writeResults e e.f.d.toNat 0 rs s
      if wide then writeResults e (e.f.d.toNat + 1) 32 rs s1 else s1

/-- A floating-point comparison: a truth and flags for each active lane, into a predicate. -/
def fpCompare (e : Env) (s : State) (g : Nat → Bool × Nat) : Verdict :=
  let rs := (lanesOf e.act).map fun l => (l, g l)
  finishFlags e s (rs.foldl (fun m r => Nat.lor m r.2.2) 0) fun s =>
    writePred e s e.f.d.toNat fun l => rs.any fun r => r.1 == l && r.2.1

/-! ## Operands (R37, R38, R270) -/

/-- An imm8 converted exactly to a format (R37). -/
def imm8Pattern (f : Fmt) (x : BitVec 8) : Nat :=
  (roundFinite f 0 (decide (x.toInt < 0)) x.toInt.natAbs 0).1

/-- The pattern of an FP32 operand. -/
def fp32Src (e : Env) (x : Src) (l : Nat) : Nat :=
  if x.sp = 2 then (if isImm16 e.f then imm16u e.f * 65536 else imm8Pattern .fp32 e.f.b)
  else (signMod (0x80000000 : W32) x.md (raw32 e x l)).toNat

/-- The pattern of an FP64 operand. -/
def fp64Src (e : Env) (x : Src) (l : Nat) : Nat :=
  if x.sp = 2 then (if isImm16 e.f then imm16u e.f * 2 ^ 48 else imm8Pattern .fp64 e.f.b)
  else (signMod (0x8000000000000000 : Word) x.md (rawPair e x l)).toNat

/-- The two 16-bit elements of a packed operand. -/
def pkSrc (e : Env) (f : Fmt) (x : Src) (l : Nat) : W32 :=
  if x.sp = 2 then (if isImm16 e.f then BitVec.ofNat 32 (imm16u e.f * 65537) else BitVec.ofNat 32 (imm8Pattern f e.f.b * 65537))
  else modWord 0x80008000 x.md (raw32 e x l)

/-- The pattern of an operand of a float type read from the low bits, with the sign modifier on its own sign bit (R277, R283). -/
def typedSrc (e : Env) (f : Fmt) (x : Src) (l : Nat) : Nat :=
  match f with
  | .fp64 => fp64Src e x l
  | .fp32 => fp32Src e x l
  | .bf16 | .fp16 => ((signMod (0x8000 : W32) x.md (raw32 e x l)).toNat) % 65536
  | _ => (raw32 e x l).toNat % 2 ^ fmtBits f

end Sys2Proof.Machine
end

