-- ==== Sys2Proof/Machine/VecInt.lean ====
section
/-!
DEFINITION. The VEC instructions on integers, bits, predicates, lanes and special registers (R245 to R269).
-/

namespace Sys2Proof.Machine

/-! ## Element operations (R250 to R257) -/

/-- The smallest signed value of width `w`. -/
def smin (w : Nat) : Int := -(2 : Int) ^ (w - 1)
/-- The largest signed value of width `w`. -/
def smax (w : Nat) : Int := (2 : Int) ^ (w - 1) - 1
/-- The largest unsigned value of width `w`. -/
def umax (w : Nat) : Int := (2 : Int) ^ w - 1
/-- A number held to a range. -/
def clampInt (lo hi x : Int) : Int := min (max x lo) hi

/-- wrap_w(a + b). -/
def elAdd (w a b : Nat) : Nat := (a + b) % 2 ^ w
/-- wrap_w(a − b). -/
def elSub (w a b : Nat) : Nat := wrapInt w ((a : Int) - b)
/-- wrap_w(a · b). -/
def elMul (w a b : Nat) : Nat := (a * b) % 2 ^ w
/-- The smaller reading; code 0 signed, 1 unsigned. -/
def elMin (code w a b : Nat) : Nat :=
  if code = 0 then (if sextInt a w ≤ sextInt b w then a else b) else min a b
/-- The larger reading. -/
def elMax (code w a b : Nat) : Nat :=
  if code = 0 then (if sextInt a w ≤ sextInt b w then b else a) else max a b
/-- wrap_w(|a|). -/
def elAbs (w a : Nat) : Nat := wrapInt w (Int.natAbs (sextInt a w))
/-- The saturating sum. -/
def elAddS (code w a b : Nat) : Nat :=
  if code = 0 then wrapInt w (clampInt (smin w) (smax w) (sextInt a w + sextInt b w)) else min (a + b) (2 ^ w - 1)
/-- The saturating difference. -/
def elSubS (code w a b : Nat) : Nat :=
  if code = 0 then wrapInt w (clampInt (smin w) (smax w) (sextInt a w - sextInt b w)) else a - b

/-- SHL (R254). -/
def elShl (w a n : Nat) : Nat := if n < w then (a * 2 ^ n) % 2 ^ w else 0
/-- SHR (R254). -/
def elShr (w a n : Nat) : Nat := if n < w then a / 2 ^ n else 0
/-- SAR (R254): floor division; an amount of w or more acts as w − 1. -/
def elSar (w a n : Nat) : Nat := wrapInt w (Int.fdiv (sextInt a w) ((2 : Int) ^ (if n < w then n else w - 1)))
/-- ROL (R254). -/
def elRol (w a n : Nat) : Nat := let k := n % w; ((a * 2 ^ k) % 2 ^ w) + a / 2 ^ (w - k)

/-- High half of the product of two `w`-bit values (R251). -/
def mulHigh (code w a b : Nat) : Nat :=
  if code = 0 then wrapInt w (Int.fdiv (sextInt a w * sextInt b w) ((2 : Int) ^ w)) else (a * b) / 2 ^ w

/-- BFX under field control `ctl` (R255). -/
def bitExtract (v a ctl : Nat) : Nat :=
  let pos := ctl % 128
  let len := min (bitsOf ctl 14 8) v
  let fld := (a / 2 ^ pos) % 2 ^ len
  if bitsOf ctl 7 7 = 1 && len > 0 then wrapInt v (sextInt fld len) else fld

/-- BFI under field control `ctl` (R255): bits of `a` into `c`. -/
def bitInsert (v a c ctl : Nat) : Nat :=
  let pos := ctl % 128
  let len := min (bitsOf ctl 14 8) v
  (upto v).foldl (fun x i =>
    let bit := if pos ≤ i && i < pos + len then bitsOf a (i - pos) (i - pos) else bitsOf c i i
    x + bit * 2 ^ i) 0

/-- Bits set among the low `v` (R256). -/
def popCount (v a : Nat) : Nat := (upto v).foldl (fun n i => n + bitsOf a i i) 0
/-- Zero bits above the highest set bit among the low `v` (R256). -/
def leadZeros (v a : Nat) : Nat := if a % 2 ^ v = 0 then v else v - 1 - Nat.log2 (a % 2 ^ v)
/-- The low `v` bits in reverse order (R256). -/
def bitReverse (v a : Nat) : Nat := (upto v).foldl (fun x i => x + bitsOf a i i * 2 ^ (v - 1 - i)) 0

/-- PERMB for one lane (R257). -/
def permBytes (a b c : W32) : W32 :=
  BitVec.ofNat 32 (joinElems 8 ((upto 4).map fun k =>
    let sel := bitsOf c.toNat (8 * k + 7) (8 * k)
    if sel ≥ 128 then 0
    else
      let j := sel % 8
      if j < 4 then bitsOf a.toNat (8 * j + 7) (8 * j) else bitsOf b.toNat (8 * (j - 4) + 7) (8 * (j - 4))))

/-- A comparison of `w`-bit values (R258). -/
def intCond (code w a b : Nat) : Bool :=
  match code with
  | 0 => a == b
  | 1 => a != b
  | 2 => decide (sextInt a w < sextInt b w)
  | 3 => decide (sextInt a w ≤ sextInt b w)
  | 4 => decide (sextInt b w < sextInt a w)
  | 5 => decide (sextInt b w ≤ sextInt a w)
  | 6 => decide (a < b)
  | 7 => decide (a ≤ b)
  | 8 => decide (b < a)
  | _ => decide (b ≤ a)

/-! ## Shapes of instructions -/

/-- An element operation on A and B in the lane form, or on 64 bits in the all-scalar form (R247). -/
def intBinary (e : Env) (s : State) (g : Nat → Nat → Nat → Nat) : Verdict :=
  laneOrScalar e s
    (BitVec.ofNat 64 (g 64 (raw64 e (srcA e.f)).toNat (raw64 e (srcB e.f)).toNat))
    fun l => packed2 (elemWidth e.f) (g (elemWidth e.f)) (op32 e (srcA e.f) l) (op32 e (srcB e.f) l)

/-- An element operation on A alone. -/
def intUnary (e : Env) (s : State) (g : Nat → Nat → Nat) : Verdict :=
  laneOrScalar e s
    (BitVec.ofNat 64 (g 64 (raw64 e (srcA e.f)).toNat))
    fun l => packed1 (elemWidth e.f) (g (elemWidth e.f)) (op32 e (srcA e.f) l)

/-- An operation on A, B and C over 32 bits, or 64 in the all-scalar form. -/
def intTernary (e : Env) (s : State) (g : Nat → Nat → Nat → Nat → Nat) : Verdict :=
  laneOrScalar e s
    (BitVec.ofNat 64 (g 64 (raw64 e (srcA e.f)).toNat (raw64 e (srcB e.f)).toNat (raw64 e (srcC e.f)).toNat))
    fun l => BitVec.ofNat 32 (g 32 (op32 e (srcA e.f) l).toNat (op32 e (srcB e.f) l).toNat (op32 e (srcC e.f) l).toNat)

/-- A shift (R254): an amount per element from a lane register, one amount from a scalar or immediate. -/
def intShift (e : Env) (s : State) (g : Nat → Nat → Nat → Nat) : Verdict :=
  let w := elemWidth e.f
  laneOrScalar e s
    (BitVec.ofNat 64 (g 64 (raw64 e (srcA e.f)).toNat (raw64 e (srcB e.f)).toNat))
    fun l =>
      if e.f.bsp = 0 then packed2 w (g w) (op32 e (srcA e.f) l) (op32 e (srcB e.f) l)
      else packed1 w (fun a => g w a (op32 e (srcB e.f) l).toNat) (op32 e (srcA e.f) l)

/-- The code field K in C. -/
def kcode (e : Env) : Nat := e.f.c.toNat

/-! ## Moves (R248, R249) -/

/-- NOP. -/
def execNop (f : Fields) (s : State) : Host.Outcome State Fault Refusal := issue (.nop f) s fun _ s => .ok s

/-- MOV. -/
def execMov (f : Fields) (s : State) : Host.Outcome State Fault Refusal :=
  issue (.mov f) s fun e s => laneOrScalar e s (raw64 e (srcA f)) fun l => op32 e (srcA f) l

/-- MOVI. -/
def execMovi (f : Fields) (s : State) : Host.Outcome State Fault Refusal :=
  issue (.movi f) s fun e s =>
    laneOrScalar e s
      (match f.w.toNat with
       | 0 => (imm32 f).zeroExtend 64
       | 1 => (imm32 f).signExtend 64
       | _ => imm32 f ++ (e.p.s f.d.toNat).extractLsb' 0 32)
      fun _ => imm32 f

/-- SEL. -/
def execSel (f : Fields) (s : State) : Host.Outcome State Fault Refusal :=
  issue (.sel f) s fun e s =>
    .ok (writeLanes e s fun l => if (e.w.p f.c.toNat).getLsbD l then op32 e (srcA f) l else op32 e (srcB f) l)

/-! ## Integer arithmetic (R250 to R252) -/

/-- IADD. -/
def execIadd (f : Fields) (s : State) : Host.Outcome State Fault Refusal := issue (.iadd f) s fun e s => intBinary e s elAdd
/-- ISUB. -/
def execIsub (f : Fields) (s : State) : Host.Outcome State Fault Refusal := issue (.isub f) s fun e s => intBinary e s elSub
/-- IMUL. -/
def execImul (f : Fields) (s : State) : Host.Outcome State Fault Refusal := issue (.imul f) s fun e s => intBinary e s elMul
/-- IMULH. -/
def execImulh (f : Fields) (s : State) : Host.Outcome State Fault Refusal :=
  issue (.imulh f) s fun e s => intBinary e s (mulHigh (kcode e))
/-- IMAD. -/
def execImad (f : Fields) (s : State) : Host.Outcome State Fault Refusal :=
  issue (.imad f) s fun e s => intTernary e s fun w a b c => (a * b + c) % 2 ^ w
/-- IMADW. -/
def execImadw (f : Fields) (s : State) : Host.Outcome State Fault Refusal :=
  issue (.imadw f) s fun e s =>
    .ok (writePair e s fun l =>
      let a := (op32 e (srcA f) l).toNat
      let b := (op32 e (srcB f) l).toNat
      let p : Int := if f.w = 0 then (a : Int) * b else sextInt a 32 * sextInt b 32
      BitVec.ofNat 64 (wrapInt 64 (p + (rawPair e (srcC f) l).toNat)))
/-- IMIN. -/
def execImin (f : Fields) (s : State) : Host.Outcome State Fault Refusal :=
  issue (.imin f) s fun e s => intBinary e s (elMin (kcode e))
/-- IMAX. -/
def execImax (f : Fields) (s : State) : Host.Outcome State Fault Refusal :=
  issue (.imax f) s fun e s => intBinary e s (elMax (kcode e))
/-- IABS. -/
def execIabs (f : Fields) (s : State) : Host.Outcome State Fault Refusal := issue (.iabs f) s fun e s => intUnary e s elAbs

/-- IADDC (R252): the carry is read from and written to predicate C. -/
def execIaddc (f : Fields) (s : State) : Host.Outcome State Fault Refusal :=
  issue (.iaddc f) s fun e s =>
    let pc := f.c.toNat
    let cin (l : Nat) : Nat := if (e.w.p pc).getLsbD l then 1 else 0
    if uniformD e then
      let t := (raw64 e (srcA f)).toNat + (raw64 e (srcB f)).toNat + cin (lowestLane e.act)
      .ok (writePred e (writeScalar e s (BitVec.ofNat 64 t)) pc fun _ => decide (2 ^ 64 ≤ t))
    else
      let t (l : Nat) : Nat := (op32 e (srcA f) l).toNat + (op32 e (srcB f) l).toNat + cin l
      .ok (writePred e (writeLanes e s fun l => BitVec.ofNat 32 (t l)) pc fun l => decide (2 ^ 32 ≤ t l))

/-- IADDS. -/
def execIadds (f : Fields) (s : State) : Host.Outcome State Fault Refusal :=
  issue (.iadds f) s fun e s => intBinary e s (elAddS (kcode e))
/-- ISUBS. -/
def execIsubs (f : Fields) (s : State) : Host.Outcome State Fault Refusal :=
  issue (.isubs f) s fun e s => intBinary e s (elSubS (kcode e))

/-! ## Logic, shifts and bit fields (R253 to R257) -/

/-- AND. -/
def execAnd (f : Fields) (s : State) : Host.Outcome State Fault Refusal :=
  issue (.and f) s fun e s => intBinary e s fun _ a b => Nat.land a b
/-- OR. -/
def execOr (f : Fields) (s : State) : Host.Outcome State Fault Refusal :=
  issue (.or f) s fun e s => intBinary e s fun _ a b => Nat.lor a b
/-- XOR. -/
def execXor (f : Fields) (s : State) : Host.Outcome State Fault Refusal :=
  issue (.xor f) s fun e s => intBinary e s fun _ a b => Nat.xor a b
/-- NOT. -/
def execNot (f : Fields) (s : State) : Host.Outcome State Fault Refusal :=
  issue (.not f) s fun e s => intUnary e s fun w a => 2 ^ w - 1 - a
/-- SHL. -/
def execShl (f : Fields) (s : State) : Host.Outcome State Fault Refusal := issue (.shl f) s fun e s => intShift e s elShl
/-- SHR. -/
def execShr (f : Fields) (s : State) : Host.Outcome State Fault Refusal := issue (.shr f) s fun e s => intShift e s elShr
/-- SAR. -/
def execSar (f : Fields) (s : State) : Host.Outcome State Fault Refusal := issue (.sar f) s fun e s => intShift e s elSar
/-- ROL. -/
def execRol (f : Fields) (s : State) : Host.Outcome State Fault Refusal := issue (.rol f) s fun e s => intShift e s elRol
/-- BFX. -/
def execBfx (f : Fields) (s : State) : Host.Outcome State Fault Refusal := issue (.bfx f) s fun e s => intBinary e s bitExtract
/-- BFI. -/
def execBfi (f : Fields) (s : State) : Host.Outcome State Fault Refusal :=
  issue (.bfi f) s fun e s => intTernary e s fun v a b c => bitInsert v a c b
/-- POPC. -/
def execPopc (f : Fields) (s : State) : Host.Outcome State Fault Refusal := issue (.popc f) s fun e s => intUnary e s popCount
/-- CLZ. -/
def execClz (f : Fields) (s : State) : Host.Outcome State Fault Refusal := issue (.clz f) s fun e s => intUnary e s leadZeros
/-- BREV. -/
def execBrev (f : Fields) (s : State) : Host.Outcome State Fault Refusal := issue (.brev f) s fun e s => intUnary e s bitReverse
/-- PERMB. -/
def execPermb (f : Fields) (s : State) : Host.Outcome State Fault Refusal :=
  issue (.permb f) s fun e s =>
    .ok (writeLanes e s fun l => permBytes (op32 e (srcA f) l) (op32 e (srcB f) l) (op32 e (srcC f) l))

/-! ## Predicates (R258 to R260) -/

/-- ICMP: 64 bits when A is a scalar and B a scalar or immediate, else 32 bits lane by lane. -/
def execIcmp (f : Fields) (s : State) : Host.Outcome State Fault Refusal :=
  issue (.icmp f) s fun e s =>
    .ok (writePred e s f.d.toNat fun l =>
      if wideCompare f then intCond (kcode e) 64 (raw64 e (srcA f)).toNat (raw64 e (srcB f)).toNat
      else intCond (kcode e) 32 (op32 e (srcA f) l).toNat (op32 e (srcB f) l).toNat)

/-- PLOP: a two-input table. -/
def execPlop (f : Fields) (s : State) : Host.Outcome State Fault Refusal :=
  issue (.plop f) s fun e s =>
    .ok (writePred e s f.d.toNat fun l =>
      let a := if (e.w.p f.a.toNat).getLsbD l then 2 else 0
      let b := if (e.w.p f.b.toNat).getLsbD l then 1 else 0
      f.c.getLsbD (a + b))

/-- VOTE: over the active lanes; nothing is written if there is none. -/
def execVote (f : Fields) (s : State) : Host.Outcome State Fault Refusal :=
  issue (.vote f) s fun e s =>
    let yes := e.w.p f.a.toNat &&& e.act
    match kcode e with
    | 0 => .ok (writePred e s f.d.toNat fun _ => yes == e.act)
    | 1 => .ok (writePred e s f.d.toNat fun _ => yes != 0)
    | 2 => .ok (writePred e s f.d.toNat fun _ => yes == e.act || yes == 0)
    | _ => laneOrScalar e s (yes.zeroExtend 64) fun _ => yes

/-! ## Conversion and packing (R261 to R263) -/

/-- The width and signedness of an integer type (R261). -/
def intType (t : Nat) : Nat × Bool :=
  match t % 8 with
  | 0 => (32, true)
  | 1 => (32, false)
  | 2 => (16, true)
  | 3 => (16, false)
  | 4 => (8, true)
  | 5 => (8, false)
  | 6 => (4, true)
  | _ => (4, false)

/-- The low bits of a value read by an integer type. -/
def readInt (t x : Nat) : Int :=
  let (w, sg) := intType t
  if sg then sextInt x w else ((x % 2 ^ w : Nat) : Int)

/-- The range limits of an integer type. -/
def intLimits (t : Nat) : Int × Int :=
  let (w, sg) := intType t
  if sg then (smin w, smax w) else (0, umax w)

/-- CVTI's value (R261). -/
def convertInt (code x : Nat) : Int :=
  let v := readInt (code / 16) x
  let lim := intLimits code
  if code / 8 % 2 = 1 then clampInt lim.1 lim.2 v
  else readInt code (wrapInt (intType code).1 v)

/-- CVTI. -/
def execCvti (f : Fields) (s : State) : Host.Outcome State Fault Refusal :=
  issue (.cvti f) s fun e s =>
    laneOrScalar e s (BitVec.ofNat 64 (wrapInt 64 (convertInt (kcode e) (raw64 e (srcA f)).toNat)))
      fun l => BitVec.ofNat 32 (wrapInt 32 (convertInt (kcode e) (op32 e (srcA f) l).toNat))

/-- One element of PACK (R262). -/
def packElem (code w x : Nat) : Nat :=
  match code with
  | 0 => x % 2 ^ w
  | 1 => min x (2 ^ w - 1)
  | _ => wrapInt w (clampInt (smin w) (smax w) (sextInt x (2 * w)))

/-- PACK: a clamp to [0, 2^w − 1] reads the source element unsigned. -/
def execPack (f : Fields) (s : State) : Host.Outcome State Fault Refusal :=
  issue (.pack f) s fun e s =>
    let w := elemWidth f
    .ok (writeLanes e s fun l =>
      BitVec.ofNat 32 (joinElems w ((elems (2 * w) (op32 e (srcA f) l) ++ elems (2 * w) (op32 e (srcB f) l)).map (packElem (kcode e) w))))

/-- UNPK. -/
def execUnpk (f : Fields) (s : State) : Host.Outcome State Fault Refusal :=
  issue (.unpk f) s fun e s =>
    let w := elemWidth f
    let n := 16 / w
    .ok (writeLanes e s fun l =>
      let src := ((elems w (op32 e (srcA f) l)).drop (if kcode e % 2 = 1 then n else 0)).take n
      BitVec.ofNat 32 (joinElems (2 * w) (src.map fun x => if kcode e ≥ 2 then wrapInt (2 * w) (sextInt x w) else x)))

/-! ## Lanes (R264, R265) -/

/-- SHFL. -/
def execShfl (f : Fields) (s : State) : Host.Outcome State Fault Refusal :=
  issue (.shfl f) s fun e s =>
    .ok (writeLanes e s fun l =>
      let b := (op32 e (srcB f) l).toNat
      let src : Int := match kcode e with
        | 0 => b
        | 1 => (l : Int) - b
        | 2 => (l : Int) + b
        | _ => (Nat.xor l b : Nat)
      if 0 ≤ src && src < 32 && e.act.getLsbD src.toNat then op32 e (srcA f) src.toNat else op32 e (srcA f) l)

/-- One level of the combining tree of R265. -/
def treeLevel {α : Type} (g : α → α → α) : List (Option α) → List (Option α)
  | x :: y :: r =>
    (match x, y with
      | some a, some b => some (g a b)
      | some a, none => some a
      | none, y => y) :: treeLevel g r
  | l => l

/-- The fixed tree over the active lanes (R265). -/
def treeReduce {α : Type} (g : α → α → α) (act : W32) (x : Nat → α) : Option α :=
  let leaves := (upto 32).map fun l => if act.getLsbD l then some (x l) else none
  match treeLevel g (treeLevel g (treeLevel g (treeLevel g (treeLevel g leaves)))) with
  | r :: _ => r
  | [] => none

/-- The element operations of REDW other than `.fadd` and `.first` (R265). -/
def redCombine (code w : Nat) : Nat → Nat → Nat :=
  match code with
  | 0 => elAdd w
  | 1 => elMin 0 w
  | 2 => elMax 0 w
  | 3 => elMin 1 w
  | 4 => elMax 1 w
  | 5 => Nat.land
  | 6 => Nat.lor
  | _ => Nat.xor

/-! ## Special registers, the mask and addresses (R266 to R268) -/

/-- The value of a special register for a lane, or for a scalar read (R132, R266). -/
def specialValue (e : Env) (n : Nat) (lane : Option Nat) : Word :=
  let nat (x : Nat) : Word := BitVec.ofNat 64 x
  match n with
  | 0x00 => nat (lane.getD 0)
  | 0x01 => nat e.w.ix
  | 0x02 => nat e.t.teamix
  | 0x03 => nat ((e.t.coords[0]?).getD 0 % 65536)
  | 0x04 => nat ((e.t.coords[1]?).getD 0 % 65536)
  | 0x05 => nat ((e.t.coords[2]?).getD 0 % 65536)
  | 0x06 => nat ((e.t.coords[3]?).getD 0 % 65536)
  | 0x07 => nat ((e.t.coords[4]?).getD 0 % 65536)
  | 0x08 => nat e.t.vdie
  | 0x09 => nat e.t.core
  | 0x0A => nat (match e.w.role with | .copy => 0 | .matrix => 1 | .vector => 2)
  | 0x0C => e.p.em.zeroExtend 64
  | 0x10 => e.w.gr
  | 0x11 => nat (match e.w.stack with | d :: _ => d.joinCount | [] => 0)
  | 0x18 => nat e.w.horizon
  | 0x20 => e.w.xpc
  | 0x21 => e.w.xcause
  | 0x22 => e.w.xaddr
  | 0x23 => e.w.xskid
  | 0x24 => e.w.xmask
  | 0x25 => e.w.xtask
  | 0x28 => e.w.tba
  | 0x29 => nat e.sw.pdl
  | 0x2A => if e.w.preq then 1 else 0
  | 0x30 => e.w.fpm
  | 0x31 => e.w.fpf
  | _ => nat e.w.attempt

/-- RDS. -/
def execRds (f : Fields) (s : State) : Host.Outcome State Fault Refusal :=
  issue (.rds f) s fun e s =>
    laneOrScalar e s (specialValue e f.a.toNat none) fun l => (specialValue e f.a.toNat (some l)).truncate 32

/-- The bits that must be zero in a value written to a special register (R46, R70, R71, R156, R266). -/
def reservedBits (n : Nat) : Word :=
  match n with
  | 0x21 => 0xFFFFFFFFFFFE0000
  | 0x24 => 0xFFFFFFFF00000000
  | 0x25 => 0x7FFE00F800000000
  | 0x28 => 0x7
  | 0x30 => 0xFFFFFFFFFFFFFE08
  | 0x31 => 0xFFFFFFFFFFFFFFE0
  | _ => 0

/-- The wave with a special register written. BKSKIP takes effect at once in a handler, outside one only through an RTT or a trap entry (R266). -/
def setSpecial (n : Nat) (x : Word) (w : Wave) : Wave :=
  match n with
  | 0x20 => { w with xpc := x }
  | 0x21 => { w with xcause := x, skip := if w.frame.isSome then x.getLsbD 16 else w.skip }
  | 0x22 => { w with xaddr := x }
  | 0x23 => { w with xskid := x }
  | 0x24 => { w with xmask := x }
  | 0x25 => { w with xtask := x }
  | 0x28 => { w with tba := x }
  | 0x30 => { w with fpm := x }
  | 0x31 => { w with fpf := x }
  | _ => w

/-- WRS: once for the wave; a scalar's value with a reserved bit set raises FIELD and writes nothing. -/
def execWrs (f : Fields) (s : State) : Host.Outcome State Fault Refusal :=
  issueWith (.wrs f) (fun e _ => if f.dsp = 3 && scalarAt f.asp f.a && e.act ≠ 0 && raw64 e (srcA f) &&& reservedBits f.d.toNat ≠ 0 then [subField] else []) s fun e s =>
    .ok (if e.act = 0 then s else updCur s e.who (setSpecial f.d.toNat (raw64 e (srcA f))))

/-- The mask that MOVEM leaves (R267). -/
def movemMask (e : Env) : W32 := (raw64 e (srcA e.f)).truncate 32 &&& e.p.mask

/-- MOVEM (R267). With no active lane it writes no scalar (R42), and still sets `em`, which is no lane, scalar or predicate state (DEDUCED: log
entry 27). -/
def execMovem (f : Fields) (s : State) : Host.Outcome State Fault Refusal :=
  issueWith (.movem f) (fun e _ => if scalarAt f.asp f.a && movemMask e = 0 then [subField] else []) s fun e s =>
    .ok (updPath s e.who fun p => { (if e.act = 0 then p else p.setS f.d.toNat (p.em.zeroExtend 64)) with em := movemMask e })

/-- The cluster address of a byte of the team's allocation (R268). -/
def clusterAddr (e : Env) (code : Nat) (lane : Nat) (o : Int) : W32 :=
  let lim := if code = 0 then e.t.k.scratch else e.t.k.laneslice
  if o < 0 || (lim : Int) ≤ o then 0xFFFFFFFF
  else
    let q := e.t.p0 + (if code = 0 then 0 else e.t.k.scratch + (32 * e.w.ix + lane) * e.t.k.laneslice) + o.toNat
    BitVec.ofNat 32 (768 * (q / 192) + 192 * (e.t.core % 4) + q % 192)

/-- LEA: the offset is read as signed, from 32 bits in the lane form and from 64 in the scalar form. -/
def execLea (f : Fields) (s : State) : Host.Outcome State Fault Refusal :=
  issue (.lea f) s fun e s =>
    laneOrScalar e s ((clusterAddr e (kcode e) 0 (raw64 e (srcA f)).toInt).zeroExtend 64)
      fun l => clusterAddr e (kcode e) l (op32 e (srcA f) l).toInt

end Sys2Proof.Machine
end

