-- ==== Sys2Proof/Machine/VecFloat.lean ====
section
/-!
DEFINITION. The floating-point and dot-product VEC instructions and REDW (R265, R274 to R280).
-/

namespace Sys2Proof.Machine

/-- An operation on FP32 A and B with one rounding (R274). -/
def fp32Binary (e : Env) (s : State) (g : FVal → FVal → FVal × Nat) : Verdict :=
  fpInstr e s false fun l =>
    let v := g (readIn (ftzOf e) .fp32 (fp32Src e (srcA e.f) l)) (readIn (ftzOf e) .fp32 (fp32Src e (srcB e.f) l))
    let r := roundOut (ftzOf e) .fp32 (rmOf e) v.1
    (r.1, Nat.lor v.2 r.2)

/-- FADD. -/
def execFadd (f : Fields) (s : State) : Host.Outcome State Fault Refusal :=
  issue (.fadd f) s fun e s => fp32Binary e s (addF (rmOf e))
/-- FSUB. -/
def execFsub (f : Fields) (s : State) : Host.Outcome State Fault Refusal :=
  issue (.fsub f) s fun e s => fp32Binary e s fun a b => addF (rmOf e) a (negF b)
/-- FMUL. -/
def execFmul (f : Fields) (s : State) : Host.Outcome State Fault Refusal :=
  issue (.fmul f) s fun e s => fp32Binary e s mulF
/-- FFMA. -/
def execFfma (f : Fields) (s : State) : Host.Outcome State Fault Refusal :=
  issue (.ffma f) s fun e s =>
    fpInstr e s false fun l =>
      let v := fmaF (rmOf e) (readIn (ftzOf e) .fp32 (fp32Src e (srcA f) l)) (readIn (ftzOf e) .fp32 (fp32Src e (srcB f) l))
        (readIn (ftzOf e) .fp32 (fp32Src e (srcC f) l))
      let r := roundOut (ftzOf e) .fp32 (rmOf e) v.1
      (r.1, Nat.lor v.2 r.2)

/-- minimumNumber (or maximumNumber, `hi`) of two values; −0 counts as smaller than +0 (R275). -/
def minMaxF (hi : Bool) (a b : FVal) : FVal :=
  if isNan a then (if isNan b then .nan false false else b)
  else if isNan b then a
  else
    let neg (v : FVal) : Bool := match v with | .num s _ _ => s | .inf s => s | .nan s _ => s
    let c := cmpF a b
    let aLess := decide (c < 0) || (decide (c = 0) && neg a && !neg b)
    let bLess := decide (0 < c) || (decide (c = 0) && neg b && !neg a)
    if hi then (if aLess then b else a) else (if bLess then b else a)

/-- FMIN and FMAX (R275): NV for a signalling NaN and no other flag. -/
def fpMinMax (e : Env) (s : State) (hi : Bool) : Verdict :=
  fpInstr e s false fun l =>
    let a := readIn (ftzOf e) .fp32 (fp32Src e (srcA e.f) l)
    let b := readIn (ftzOf e) .fp32 (fp32Src e (srcB e.f) l)
    ((roundF .fp32 0 (minMaxF hi a b)).1, Nat.lor (sigFlag a) (sigFlag b))

/-- FMIN. -/
def execFmin (f : Fields) (s : State) : Host.Outcome State Fault Refusal := issue (.fmin f) s fun e s => fpMinMax e s false
/-- FMAX. -/
def execFmax (f : Fields) (s : State) : Host.Outcome State Fault Refusal := issue (.fmax f) s fun e s => fpMinMax e s true

/-- The truth of a condition and its NV (R276). -/
def fpCond (code : Nat) (a b : FVal) : Bool × Nat :=
  let un := isNan a || isNan b
  let c := cmpF a b
  let quiet := Nat.lor (sigFlag a) (sigFlag b)
  let any := if un then fNV else 0
  match code with
  | 0 => (!un && c == 0, quiet)
  | 1 => (un || c != 0, quiet)
  | 2 => (!un && decide (c < 0), any)
  | 3 => (!un && decide (c ≤ 0), any)
  | 4 => (!un && decide (0 < c), any)
  | 5 => (!un && decide (0 ≤ c), any)
  | 6 => (un, quiet)
  | _ => (!un, quiet)

/-- FCMP. -/
def execFcmp (f : Fields) (s : State) : Host.Outcome State Fault Refusal :=
  issue (.fcmp f) s fun e s =>
    fpCompare e s fun l =>
      fpCond (kcode e) (readIn (ftzOf e) .fp32 (fp32Src e (srcA f) l)) (readIn (ftzOf e) .fp32 (fp32Src e (srcB f) l))
/-- DCMP: FP64 is never flushed. -/
def execDcmp (f : Fields) (s : State) : Host.Outcome State Fault Refusal :=
  issue (.dcmp f) s fun e s =>
    fpCompare e s fun l => fpCond (kcode e) (readF .fp64 (fp64Src e (srcA f) l)) (readF .fp64 (fp64Src e (srcB f) l))

/-- The class bit of a pattern (R277). -/
def classBit (f : Fmt) (x : Nat) : Nat :=
  match readF f x with
  | .nan _ sg => if sg then 8 else 9
  | .inf s => if s then 0 else 7
  | .num s m _ =>
    if m = 0 then (if s then 3 else 4)
    else if zeroExp f x then (if s then 2 else 5)
    else (if s then 1 else 6)

/-- FCLASS: no flag, no flushing. -/
def execFclass (f : Fields) (s : State) : Host.Outcome State Fault Refusal :=
  issue (.fclass f) s fun e s =>
    let fm : Fmt := match kcode e with | 0 => .fp32 | 1 => .fp64 | 2 => .bf16 | _ => .fp16
    fpInstr e s false fun l => (2 ^ classBit fm (typedSrc e fm (srcA f) l), 0)

/-- An operation on FP64 values with one rounding (R278). -/
def fp64Result (e : Env) (v : FVal × Nat) : Nat × Nat :=
  let r := roundF .fp64 (rmOf e) v.1
  (r.1, Nat.lor v.2 r.2)

/-- DADD. -/
def execDadd (f : Fields) (s : State) : Host.Outcome State Fault Refusal :=
  issue (.dadd f) s fun e s =>
    fpInstr e s true fun l =>
      fp64Result e (addF (rmOf e) (readF .fp64 (fp64Src e (srcA f) l)) (readF .fp64 (fp64Src e (srcB f) l)))
/-- DMUL. -/
def execDmul (f : Fields) (s : State) : Host.Outcome State Fault Refusal :=
  issue (.dmul f) s fun e s =>
    fpInstr e s true fun l => fp64Result e (mulF (readF .fp64 (fp64Src e (srcA f) l)) (readF .fp64 (fp64Src e (srcB f) l)))
/-- DFMA. -/
def execDfma (f : Fields) (s : State) : Host.Outcome State Fault Refusal :=
  issue (.dfma f) s fun e s =>
    fpInstr e s true fun l =>
      fp64Result e (fmaF (rmOf e) (readF .fp64 (fp64Src e (srcA f) l)) (readF .fp64 (fp64Src e (srcB f) l))
        (readF .fp64 (fp64Src e (srcC f) l)))

/-- A packed 16-bit operation (R279): each element rounded once, the flags of both ORed. -/
def packedFloat (e : Env) (s : State) (g : FVal → FVal → FVal → FVal × Nat) : Verdict :=
  let fm : Fmt := if kcode e = 6 then .bf16 else .fp16
  let el (x : W32) (k : Nat) : FVal := readIn (ftzOf e) fm (bitsOf x.toNat (16 * k + 15) (16 * k))
  fpInstr e s false fun l =>
    let a := pkSrc e fm (srcA e.f) l
    let b := pkSrc e fm (srcB e.f) l
    let d := raw32 e ⟨e.f.dsp, e.f.d.toNat, 0⟩ l
    let one (k : Nat) : Nat × Nat :=
      let v := g (el a k) (el b k) (el d k)
      let r := roundOut (ftzOf e) fm (rmOf e) v.1
      (r.1, Nat.lor v.2 r.2)
    ((one 0).1 + 65536 * (one 1).1, Nat.lor (one 0).2 (one 1).2)

/-- PKADD. -/
def execPkadd (f : Fields) (s : State) : Host.Outcome State Fault Refusal :=
  issue (.pkadd f) s fun e s => packedFloat e s fun a b _ => addF (rmOf e) a b
/-- PKMUL. -/
def execPkmul (f : Fields) (s : State) : Host.Outcome State Fault Refusal :=
  issue (.pkmul f) s fun e s => packedFloat e s fun a b _ => mulF a b
/-- PKFMA. -/
def execPkfma (f : Fields) (s : State) : Host.Outcome State Fault Refusal :=
  issue (.pkfma f) s fun e s => packedFloat e s (fmaF (rmOf e))

/-- The exact sum of `d` and the products of a float pairing, with the invalid flag (R280): infinities of both signs raise NV
whatever else the sum holds, and so in any order. A sum that is exactly zero takes the sign that IEEE 754 addition gives its terms in turn
(DESIGN CHOICE: R280 gives none; log entry 105). -/
def dotSum (rm : Nat) (d : FVal) (products : List (FVal × Nat)) : FVal × Nat :=
  let terms := d :: products.map Prod.fst
  let clash := terms.contains (.inf false) && terms.contains (.inf true)
  ((products.foldl (fun t p => (addF rm t p.1).1) d),
    products.foldl (fun t p => Nat.lor t p.2) (if clash then fNV else 0))

/-- A dot product of `n` elements (R280): exact, then one rounding to FP32, or wrapped to 32 bits. -/
def dotProduct (e : Env) (s : State) (n : Nat) : Verdict :=
  let w := 32 / n
  let fa := (fmtOfCode (kcode e % 16)).getD .int8
  let fb := (fmtOfCode (kcode e / 16)).getD .int8
  let src (x : Src) (l : Nat) : Nat := if n = 2 then (pkSrc e fa x l).toNat else (raw32 e x l).toNat
  fpInstr e s false fun l =>
    let a := src (srcA e.f) l
    let b := src (srcB e.f) l
    let d := (raw32 e ⟨e.f.dsp, e.f.d.toNat, 0⟩ l).toNat
    let ea (k : Nat) : Nat := bitsOf a (w * k + w - 1) (w * k)
    let eb (k : Nat) : Nat := bitsOf b (w * k + w - 1) (w * k)
    if kcode e = 0x44 || kcode e = 0x55 then
      (wrapInt 32 ((upto n).foldl (fun t k => t + sextInt (ea k) w * sextInt (eb k) w) (sextInt d 32)), 0)
    else
      let t := dotSum (rmOf e) (readIn (ftzOf e) .fp32 d)
        ((upto n).map fun k => mulF (readIn (ftzOf e) fa (ea k)) (readIn (ftzOf e) fb (eb k)))
      let r := roundOut (ftzOf e) .fp32 (rmOf e) t.1
      (r.1, Nat.lor (Nat.lor t.2 r.2) (sigFlag (readIn (ftzOf e) .fp32 d)))

/-- DOT4. -/
def execDot4 (f : Fields) (s : State) : Host.Outcome State Fault Refusal := issue (.dot4 f) s fun e s => dotProduct e s 4
/-- DOT8. -/
def execDot8 (f : Fields) (s : State) : Host.Outcome State Fault Refusal := issue (.dot8 f) s fun e s => dotProduct e s 8
/-- DOT2. -/
def execDot2 (f : Fields) (s : State) : Host.Outcome State Fault Refusal := issue (.dot2 f) s fun e s => dotProduct e s 2

/-- A leaf of the `.fadd` tree: the flushed input, a NaN made canonical (R265). -/
def faddLeaf (e : Env) (x : Nat) : Nat × Nat :=
  let v := readIn (ftzOf e) .fp32 x
  ((roundF .fp32 (rmOf e) v).1, sigFlag v)

/-- A node of the `.fadd` tree (R265). -/
def faddNode (e : Env) (x y : Nat × Nat) : Nat × Nat :=
  let v := addF (rmOf e) (readIn (ftzOf e) .fp32 x.1) (readIn (ftzOf e) .fp32 y.1)
  let r := roundOut (ftzOf e) .fp32 (rmOf e) v.1
  (r.1, Nat.lor (Nat.lor x.2 y.2) (Nat.lor v.2 r.2))

/-- REDW's result for every destination, with its flags (R265). -/
def redResult (e : Env) : Nat × Nat :=
  let w := elemWidth e.f
  match kcode e with
  | 8 => (treeReduce (faddNode e) e.act fun l => faddLeaf e (fp32Src e (srcA e.f) l)).getD (0, 0)
  | 9 => ((op32 e (srcA e.f) (lowestLane e.act)).toNat, 0)
  | k => (((treeReduce (packed2 w (redCombine k w)) e.act fun l => op32 e (srcA e.f) l).getD 0).toNat, 0)

/-- REDW: nothing is written when no lane is active (R42). -/
def execRedw (f : Fields) (s : State) : Host.Outcome State Fault Refusal :=
  issue (.redw f) s fun e s =>
    if e.act = 0 then .ok s
    else
      let r := redResult e
      finishFlags e s r.2 fun s =>
        if uniformD e then setScalar s e.who f.d.toNat (BitVec.ofNat 64 r.1)
        else writeLanes e s fun _ => BitVec.ofNat 32 r.1

end Sys2Proof.Machine
end

