-- ==== Sys2Proof/Machine/Bounds.lean ====
section
/-!
DEFINITION. EB32 bounds (R61, R62), half units in the last place (R63), and the sieve (R67, R300).
-/

namespace Sys2Proof.Machine

/-- A non-negative magnitude m · 2^e. -/
abbrev Mag := Nat × Int

/-- A magnitude in units of 2^e0. -/
def magUnits (x : Mag) (e0 : Int) : Nat := x.1 * 2 ^ (x.2 - e0).toNat

/-- x < y. -/
def magLt (x y : Mag) : Bool := let e0 := min x.2 y.2; decide (magUnits x e0 < magUnits y e0)

/-- The sum of two magnitudes. -/
def magAdd (x y : Mag) : Mag := let e0 := min x.2 y.2; (magUnits x e0 + magUnits y e0, e0)

/-- The product of two magnitudes. -/
def magMul (x y : Mag) : Mag := (x.1 * y.1, x.2 + y.2)

/-- The larger of two magnitudes. -/
def magMax (x y : Mag) : Mag := if magLt x y then y else x

/-- floor(log2 x) of a magnitude that is not zero. -/
def magLog (x : Mag) : Int := x.2 + Nat.log2 x.1

/-! ## EB32 (R61, R62) -/

/-- The unbounded value. -/
abbrev ebUnbounded : W32 := 0xFF000000

/-- `eb_up` of an exact magnitude. -/
def ebUp (x : Mag) : W32 :=
  if x.1 = 0 then 0
  else
    let q := magLog x - 24
    let sg := (roundAt 2 false x.1 x.2 q).1
    let (sg, q) := if sg = 2 ^ 25 then (2 ^ 24, q + 1) else (sg, q)
    let e := q + 24 + 127
    if e < 1 then 0x01000000
    else if e > 254 then ebUnbounded
    else BitVec.ofNat 32 (e.toNat * 2 ^ 24 + (sg - 2 ^ 24))

/-- The magnitude of an EB32 value; none when it is unbounded. -/
def ebVal (x : W32) : Option Mag :=
  let e := bitsOf x.toNat 31 24
  if e = 0 then some (0, 0) else if e = 255 then none else some (2 ^ 24 + bitsOf x.toNat 23 0, (e : Int) - 127 - 24)

/-- `eb_add_up`. -/
def ebAdd (x y : W32) : W32 :=
  match ebVal x, ebVal y with
  | some a, some b => ebUp (magAdd a b)
  | _, _ => ebUnbounded

/-- `eb_mul_up`. -/
def ebMul (x y : W32) : W32 :=
  match ebVal x, ebVal y with
  | some a, some b => ebUp (magMul a b)
  | _, _ => ebUnbounded

/-- The larger of two canonical values. -/
def ebMax (x y : W32) : W32 := if x < y then y else x

/-- `hulp(fmt, m)` (R63). -/
def hulp (f : Fmt) (m : Mag) : Mag :=
  match f with
  | .int8 | .int4 => (1, -1)
  | _ =>
    let e := if m.1 = 0 then fmtEmin f else max (magLog m) (fmtEmin f)
    (1, e - fmtP f - 1)

/-- The magnitude of a finite pattern. -/
def patMag (f : Fmt) (x : Nat) : Mag :=
  match readF f x with
  | .num _ m e => (m, e)
  | _ => (0, 0)

/-- A scale that R64 refuses: its sign bit is set, or it is an infinity or a NaN. -/
def badScale (x : Nat) : Bool := decide (x ≥ 0x7F80)

/-- An amax field that R64 refuses. -/
def badAmax (x : Nat) : Bool := decide (x ≥ 0x7F800000)

/-! ## The sieve (R67) -/

/-- `max(m, a) > min(m, a) · 2^ρ` of two FP32 magnitudes given by their patterns. -/
def spreads (rho m a : Nat) : Bool :=
  let hi := patMag .fp32 (max m a)
  let lo := patMag .fp32 (min m a)
  magLt (lo.1, lo.2 + rho) hi

/-- The boundary bits of a vector of magnitudes: `m` and `len` are the open block's amax and length, `first` marks element 0. -/
def sieveBits (rho : Nat) : List Nat → Nat → Nat → Bool → List Bool
  | [], _, _, _ => []
  | a :: r, m, len, first =>
    let start := first || decide (len = 128) || (decide (0 < m) && decide (0 < a) && spreads rho m a)
    if start then true :: sieveBits rho r a 1 false else false :: sieveBits rho r (max m a) (len + 1) false

/-- A vector cut into blocks in front of each marked element. -/
def cutBlocks {α : Type} : List (Bool × α) → List (List α)
  | [] => []
  | (_, x) :: r =>
    match r.head?, cutBlocks r with
    | some (false, _), g :: gs => (x :: g) :: gs
    | _, gs => [x] :: gs

/-- The largest finite magnitude of a format, Mfmt. -/
def fmtTop (f : Fmt) : Mag := fmtMax f

/-- The scale of a block from its amax: round(m / Mfmt, BF16, RU). -/
def sieveScale (f : Fmt) (amax : Nat) : Nat :=
  let m := patMag .fp32 amax
  if m.1 = 0 then 0
  else let d := divMag m.1 m.2 (fmtTop f).1 (fmtTop f).2; (roundFinite .bf16 2 false d.1 d.2).1

/-- A quantised element: round(x / scale, fmt, RNE), 0 when the scale is 0. -/
def sieveElem (f : Fmt) (scale x : Nat) : Nat :=
  let k := patMag .bf16 scale
  if k.1 = 0 then 0
  else
    match readF .fp32 x with
    | .num s m e => let d := divMag m e k.1 k.2; (roundF f 0 (.num s d.1 d.2)).1
    | _ => 0

/-- What the sieve makes of one vector of FP32 patterns: the boundary bits, the scales and the elements in order. -/
structure Sieved where
  bits : List Bool
  scales : List Nat
  elems : List Nat

/-- The sieve on one vector. -/
def sieve (f : Fmt) (rho : Nat) (xs : List Nat) : Sieved :=
  let bits := sieveBits rho (xs.map (· % 2 ^ 31)) 0 0 true
  let blocks := cutBlocks (bits.zip xs)
  let scales := blocks.map fun b => sieveScale f (b.foldl (fun m x => max m (x % 2 ^ 31)) 0)
  ⟨bits, scales, (blocks.zip scales).flatMap fun q => q.1.map (sieveElem f q.2)⟩

/-- Bits gathered into bytes, the first at the lowest place (R66). -/
def packBits (bs : List Bool) : List Byte :=
  (upto ((bs.length + 7) / 8)).map fun i => BitVec.ofNat 8 (joinElems 1 (((bs.drop (8 * i)).take 8).map fun b => if b then 1 else 0))

/-- Elements of a format as bytes (R57). -/
def packElems (f : Fmt) (xs : List Nat) : List Byte :=
  leBytes ((xs.length * fmtBits f + 7) / 8) (joinElems (fmtBits f) xs)

/-- The bound that a scale brings: scale · hulp(fmt, Mfmt) (R300). -/
def scaleBound (f : Fmt) (scale : Nat) : Mag := magMul (patMag .bf16 scale) (hulp f (fmtTop f))

end Sys2Proof.Machine
end

