-- ==== Sys2Proof/Machine/Copy.lean ====
section
/-!
DEFINITION. The copy engine: its operations (R290 to R295, R316, R317), copies and gathers (R318 to R320), the sieve's operation (R321),
stage rings (R296 to R299, R322), and the events that start and complete operations.
-/

namespace Sys2Proof.Machine

/-! ## Sides (R315) -/

/-- The level that a side code names. -/
def levelOfCode (k : Nat) : Level := match k with | 0 => .g | 1 => .lane | 2 => .core | 3 => .clu | _ => .die

/-- The level in C bits 2:0. -/
def lowLevel (f : Fields) : Level := levelOfCode (bitsOf f.c.toNat 2 0)

/-- The level in C bits 5:3. -/
def highLevel (f : Fields) : Level := levelOfCode (bitsOf f.c.toNat 5 3)

/-- Bytes of a scratchpad level that a team may reach, ownership apart (R191 to R193). -/
def levelSize (t : Team) (c : Context) (lev : Level) : Nat :=
  match lev with
  | .g => Config.vaTop | .lane => t.k.laneslice | .core => t.k.scratch | .clu => 2097152 | .die => c.padlen

/-- What a side's whole range breaks (R291, R319). -/
def sideRange (_s : State) (t : Team) (c : Context) (lev : Level) (a : Int) (n : Nat) : Option FaultInfo :=
  if n = 0 then none
  else if lev = .g then (rangeFault a n).map fun q => ⟨q.1, q.2, faultAddr a 0 n q.1 q.2 noPoison⟩
  else if a < 0 then some ⟨.range, 3, BitVec.ofInt 64 a⟩
  else if (levelSize t c lev : Int) < a + n then some ⟨.range, 3, BitVec.ofInt 64 (max a (levelSize t c lev))⟩
  else none

/-- Of several faults, the first of the lowest subcode. -/
def lowestFault (l : List FaultInfo) : Option FaultInfo :=
  l.foldl (fun m x => match m with | none => some x | some y => if x.sub < y.sub then some x else some y) none

/-- A byte of a cluster-shared side that belongs to nobody of this context (R192). -/
def ownershipFault (s : State) (t : Team) (lane wave : Nat) (lev : Level) (a : Int) (n : Nat) : Option FaultInfo :=
  if lev ≠ .clu then none
  else
    match levelBytes s t wave lane lev a n with
    | .error (code, sub, o) => some ⟨code, sub, BitVec.ofInt 64 o⟩
    | .ok _ => none

/-- One part of a copy: destination, source and bytes. -/
structure Part where
  dst : Int
  src : Int
  n : Nat

/-- The range checks of a copy at issue, then the ownership of cluster-shared bytes (R316). -/
def partsFault (s : State) (e : Env) (dl sl : Level) (ps : List Part) : Option FaultInfo :=
  match lowestFault (ps.flatMap fun p => (sideRange s e.t e.c dl p.dst p.n).toList ++ (sideRange s e.t e.c sl p.src p.n).toList) with
  | some x => some x
  | none =>
    (ps.flatMap fun p => (ownershipFault s e.t (lowestLane e.act) e.w.ix dl p.dst p.n).toList
      ++ (ownershipFault s e.t (lowestLane e.act) e.w.ix sl p.src p.n).toList).head?

/-! ## Issue (R290, R317) -/

/-- The operations that a core's copy engine holds: those of a team that is saved are not in it (R299). -/
def engineOps (s : State) (t : Team) : List Op :=
  s.ops.filter fun o => o.kind.isCopy && o.cn.isSome && o.phase != .complete
    && (match findTeam s o.tid with | some u => u.die == t.die && u.core == t.core && (u.status == .placed || u.status == .ended) | none => false)

/-- An instruction of the copy engine must wait: its counter or the engine is full (R208, R290). -/
def copyFull (s : State) (e : Env) : Bool := counterFull s e (some (counterName e.f)) || decide (64 ≤ (engineOps s e.t).length)

/-- The one pseudo access of an operation of the copy engine: it is done when the bytes have moved; its data names the lane whose
slice `.lane` means (R315). -/
def engineAcc (lane : Nat) : Access := accOf 0 .g 0 0 lane 0

/-- The operation's addresses stand in registers that it may read as late as its start (R30). -/
def OpKind.readsLate : OpKind → Bool
  | .copy _ _ _ _ _ _ _ _ | .gather _ _ _ _ _ _ _ _ | .stgPut _ _ _ _ | .stgGet _ _ _ _ | .coll _ _ _ _ => true
  | _ => false

/-- An operation enters the copy engine. One that reads or writes memory in a DET sweep waits for the
commit and ends the quantum (R317). -/
def issueCopy (s : State) (e : Env) (kind : OpKind) (regWork memory : Bool) (accs : List Access) : Verdict :=
  if copyFull s e then tryAgain s e
  else
    let det := isDet s e.t && memory
    let late := s.inputs.late && kind.readsLate
    let op := mkOp s e.who e.w kind (some (counterName e.f)) e.va (e.k.words.getD e.k.idx 0) (pathFlags e.p)
      (engineAcc (lowestLane e.act) :: accs) (regWork || late) (if det then .issued else .queued)
    let s1 := pushOp s { op with unread := if late then 1 else 0 }
    .ok (if det then updCur s1 e.who fun w => { w with status := .quantumEnd } else s1)

/-- An operation that does nothing: its counter is raised and lowered in order (R42, R292). -/
def issueIdle (s : State) (e : Env) : Verdict :=
  if copyFull s e then tryAgain s e
  else
    .ok (lower (pushOp s (mkOp s e.who e.w .none (some (counterName e.f)) e.va (e.k.words.getD e.k.idx 0) (pathFlags e.p) [] false .complete)))

/-- The size or ring operand in B: a scalar or an imm8 read as unsigned (R314). -/
def scalarOrImm (e : Env) : Nat := if e.f.bsp = 1 then (e.p.s e.f.b.toNat).toNat else imm8u e.f

/-- The address of a side: a scalar read as unsigned (R315). -/
def sideAddr (e : Env) (k : BitVec 8) : Nat := (e.p.s k.toNat).toNat

/-- The operation of a word whose registers are read again at its start (R30): the addresses of its sides, and CPY's size. What was checked at
issue and is no address stays as it was read there (log entry 7). -/
def rereadKind (e : Env) (k : OpKind) : OpKind :=
  let d := sideAddr e e.f.d
  let a := sideAddr e e.f.a
  match e.i, k with
  | .cpy _, .copy dl sl _ _ r n ds ss =>
    let m := scalarOrImm e
    .copy dl sl d a r (if m = 0 ∨ 2 ^ 32 ≤ m then n else m) ds ss
  | .cpyt _, .copy dl sl _ _ r n ds ss => .copy dl sl d a r n ds ss
  | .gath _, .gather sc dl sl _ _ n list m => .gather sc dl sl d a n list m
  | .scat _, .gather sc dl sl _ _ n list m => .gather sc dl sl d a n list m
  | .stgput _, .stgPut ring n sl _ => .stgPut ring n sl a
  | .stgget _, .stgGet ring n dl _ => .stgGet ring n dl d
  | .coll _, .coll _ _ rec_ r => .coll d a rec_ r
  | _, k => k

/-- An operation that has not read its registers reads them. -/
def readLate (s : State) (o : Op) : Op :=
  if o.unread = 0 then o
  else
    match envAgain s o 1 with
    | some e => { o with kind := rereadKind e o.kind, unread := 0, regWork := false }
    | none => { o with unread := 0, regWork := false }

/-- CPY (R318). -/
def execCpy (f : Fields) (s : State) : Host.Outcome State Fault Refusal :=
  issue (.cpy f) s fun e s =>
    let n := scalarOrImm e
    if e.act = 0 then issueIdle s e
    else if n ≥ 2 ^ 32 then illegal subField
    else if n = 0 then issueIdle s e
    else
      let p : Part := ⟨sideAddr e f.d, sideAddr e f.a, n⟩
      match partsFault s e (lowLevel f) (highLevel f) [p] with
      | some fi => .trap fi
      | none => issueCopy s e (.copy (lowLevel f) (highLevel f) p.dst p.src 1 n 0 0) false true []

/-- The rows of a tile copy (R295). -/
def tileRows (dst src : Int) (rows n : Nat) (ds ss : Int) : List Part := (upto rows).map fun (i : Nat) => ⟨dst + i * ds, src + i * ss, n⟩

/-- CPYT (R319). -/
def execCpyt (f : Fields) (s : State) : Host.Outcome State Fault Refusal :=
  issue (.cpyt f) s fun e s =>
    let x := (e.p.s f.b.toNat).toNat
    let y := (e.p.s (f.b.toNat + 1)).toNat
    let m := bitsOf x 15 0
    let n := bitsOf x 31 16
    if e.act = 0 then issueIdle s e
    else if 49152 < n || bitsOf x 63 32 ≠ 0 then illegal subField
    else if m = 0 || n = 0 then issueIdle s e
    else
      let ss := sextInt (bitsOf y 31 0) 32
      let ds := sextInt (bitsOf y 63 32) 32
      match partsFault s e (lowLevel f) (highLevel f) (tileRows (sideAddr e f.d) (sideAddr e f.a) m n ds ss) with
      | some fi => .trap fi
      | none => issueCopy s e (.copy (lowLevel f) (highLevel f) (sideAddr e f.d) (sideAddr e f.a) m n ds ss) false true []

/-- Bytes of an element of GATH or SCAT (R320). -/
def elemBytes (k : Nat) : Nat := 2 ^ k

/-- GATH and SCAT at issue (R320): the list's alignment, its count, and its place in the core area. -/
def issueGather (s : State) (e : Env) (scatter : Bool) : Verdict :=
  let x := (e.p.s e.f.b.toNat).toNat
  let list := bitsOf x 31 0
  let k := bitsOf x 63 32
  if e.act = 0 then issueIdle s e
  else if 65536 < k then illegal subField
  else if list % 4 ≠ 0 then faulting .align 3 (BitVec.ofNat 64 list)
  else
    match sideRange s e.t e.c .core list (4 * k) with
    | some fi => .trap fi
    | none =>
      if k = 0 then issueIdle s e
      else issueCopy s e (.gather scatter (lowLevel e.f) (highLevel e.f) (sideAddr e e.f.d) (sideAddr e e.f.a) (elemBytes e.f.bmod.toNat) list k)
        false true []

/-- GATH. -/
def execGath (f : Fields) (s : State) : Host.Outcome State Fault Refusal := issue (.gath f) s fun e s => issueGather s e false
/-- SCAT. -/
def execScat (f : Fields) (s : State) : Host.Outcome State Fault Refusal := issue (.scat f) s fun e s => issueGather s e true

/-! ## Moving bytes -/

/-- The bytes of a global side cut at the ends of sectors: each piece's VA and length (R291). -/
def sectorPieces : Nat → Nat → Nat → List (Nat × Nat)
  | 0, _, _ => []
  | fuel + 1, va, n =>
    if n = 0 then []
    else
      let k := min n (48 - va % 48)
      (va, k) :: sectorPieces fuel (va + k) (n - k)

/-- The pieces of `n` bytes from `va`. -/
def piecesOf (va n : Nat) : List (Nat × Nat) := sectorPieces (n / 48 + 2) va n

/-- The first byte range of a side that cannot be accessed, with what it meets. -/
def sideBad (s : State) (t : Team) (c : Context) (wave lane : Nat) (lev : Level) (a : Int) (n : Nat) (k : AccKind) : Option (Int × Nat × AccRes) :=
  if n = 0 then none
  else if lev = .g then
    match rangeFault a n with
    | some (code, sub) => some (a, n, .fault code sub)
    | none =>
      (piecesOf a.toNat n).findSome? fun (p : Nat × Nat) =>
        match accessFrom s c (seatOf t) p.1 p.2 0 p.2 k with
        | .ok _ _ => none
        | r => some (p.1, p.2, r)
  else
    match levelBytes s t wave lane lev a n with
    | .error (code, sub, o) => some (o, 1, .fault code sub)
    | .ok ps => if k = .load && scrPoisoned s ps then some (a + scrFirstPoison s ps, 1, .fault .poison 2) else none

/-- The fault of a side is set down for the operation: with KIND 3 or 4 in a fault record (R294). -/
def failSide (s : State) (o : Op) (t : Team) (c : Context) (kind : Nat) (lev : Level) (bad : Int × Nat × AccRes) : State :=
  if lev = .g then failAccess s o t c kind (accOf 0 .g bad.1 bad.2.1 0 0) bad.1 bad.2.2
  else
    match bad.2.2 with
    | .fault code sub => markFault s o 0 ⟨code, sub, BitVec.ofInt 64 bad.1⟩
    | _ => s

/-- The bytes of a side. -/
def sideBytes (s : State) (o : Op) (w : Wave) (t : Team) (c : Context) (lane : Nat) (lev : Level) (a : Int) (n : Nat) : List Byte :=
  if lev = .g then
    (piecesOf a.toNat n).flatMap fun (p : Nat × Nat) =>
      match accessFrom s c (seatOf t) p.1 p.2 0 p.2 .load with
      | .ok pa pte => (upto p.2).map fun i => loadByte s o w t (accOf lane .g p.1 p.2 0 0) (p.1 + i) (pa + i) (isNormal pte (pa / 49152))
      | _ => List.replicate p.2 0
  else
    match levelBytes s t o.wave lane lev a n with
    | .ok ps => ps.map (scrGet s)
    | .error _ => List.replicate n 0

/-- The loads of a global side take their copies and note their translations (R79, R207). -/
def sideTouched (s : State) (t : Team) (c : Context) (lev : Level) (a : Int) (n : Nat) : State :=
  if lev ≠ .g then s
  else
    (piecesOf a.toNat n).foldl (fun (s : State) (p : Nat × Nat) =>
      match accessFrom s c (seatOf t) p.1 p.2 0 p.2 .load with
      | .ok pa pte => grantCopies (noteAccess s c (seatOf t) p.1 pa pte .load) c t.die t.core p.1 pa pte
      | _ => s) s

/-- One piece of a global side written: into the version inside a task, at its home otherwise, and into the snapshot of a DET sweep
(R89, R90, R316). -/
def putPiece (s : State) (o : Op) (t : Team) (c : Context) (pa pte va : Nat) (bs : List Byte) : State :=
  if o.inTask then enterVersion s o.tid o.wave pa (homeDie c (va / 49152)) bs
  else
    let (s1, tt) := storeHome (noteLine s c va pa pte true) o.id none (isNormal pte (pa / 49152)) pa bs
    let s2 := updOp s1 o.id fun o => { o with last := max o.last tt }
    if isDet s t then updSweep s2 t.sweep fun w => { w with snap := putBytes w.snap pa bs } else s2

/-- The bytes of a side written, piece by piece; a piece that would overflow the task's version stops the operation (R181). -/
def putSide (s : State) (o : Op) (t : Team) (c : Context) (lane : Nat) (lev : Level) (a : Int) (bs : List Byte) : State × Bool :=
  if lev = .g then
    ((piecesOf a.toNat bs.length).foldl (fun (acc : (State × Bool) × List Byte) (p : Nat × Nat) =>
      let s : State := acc.1.1
      if acc.1.2 then acc
      else
        match accessFrom s c (seatOf t) p.1 p.2 0 p.2 .store with
        | .ok pa pte =>
          let s0 := noteAccess s c (seatOf t) p.1 pa pte .store
          let task := if o.inTask then (findWave s0 o.tid o.wave).bind (·.task) else none
          match task.bind fun k => overflowSub s0 k pa p.2 (homeDie c (p.1 / 49152)) with
          | some sub => ((markFault s0 o 0 (overflowFault c p.1 sub), true), acc.2)
          | none => ((putPiece s0 o t c pa pte p.1 (acc.2.take p.2), false), acc.2.drop p.2)
        | _ => ((s, false), acc.2.drop p.2)) ((s, false), bs)).1
  else
    match levelBytes s t o.wave lane lev a bs.length with
    | .ok ps => (updOp (scrPuts s ps bs) o.id fun o => { o with last := max o.last s.now }, false)
    | .error _ => (s, false)

/-- The operation has moved its bytes; one that wrote nothing to global memory owes nothing to its task. -/
def noteMoved (s : State) (id : Nat) (glob : Bool) : State :=
  updOp s id fun o =>
    { o with phase := .started, inTask := o.inTask && glob, accs := o.accs.map fun x => { x with done := true, fault := none } }

/-- The lane whose slice an operation means. -/
def sliceLane (o : Op) : Nat := match o.accs with | x :: _ => x.data | [] => 0

/-- How far a side goes on within one sector. -/
def sectorRoom (lev : Level) (a : Int) (n : Nat) : Nat := if lev = .g then 48 - a.toNat % 48 else n

/-- A part cut where a global side of it crosses a sector: each piece lies in one sector on each side (R86, R291). -/
def cutPart (dl sl : Level) : Nat → Part → List Part
  | 0, _ => []
  | fuel + 1, p =>
    if p.n = 0 then []
    else
      let k := min p.n (min (sectorRoom dl p.dst p.n) (sectorRoom sl p.src p.n))
      ⟨p.dst, p.src, k⟩ :: cutPart dl sl fuel ⟨p.dst + k, p.src + k, p.n - k⟩

/-- The pieces of an operation, numbered. -/
def pieces (dl sl : Level) (ps : List Part) : List (Part × Nat) :=
  (ps.flatMap fun p => cutPart dl sl (2 * (p.n / 48 + 2)) p).zipIdx

/-- What stands in the operation for piece `i` once it has moved. -/
def movedAcc (i : Nat) : Access := { accOf (32 + i) .g 0 0 0 0 with done := true }

/-- A piece has moved already: it is not moved again (R294). -/
def hasMoved (o : Op) (i : Nat) : Bool := o.accs.any fun x => x.lane == 32 + i

/-- Some piece of the operation has moved: it runs to completion under a save (R299). -/
def hasBegun (o : Op) : Bool := o.accs.any fun x => decide (32 ≤ x.lane)

/-- What keeps a piece from moving: KIND 3 for its source or 4 for its destination (R294), and the access that fails. -/
def pieceBad (s : State) (o : Op) (t : Team) (c : Context) (lane : Nat) (dl sl : Level) (p : Part) :
    Option (Nat × Level × Int × Nat × AccRes) :=
  match sideBad s t c o.wave lane sl p.src p.n .load with
  | some b => some (3, sl, b)
  | none => (sideBad s t c o.wave lane dl p.dst p.n .store).map fun b => (4, dl, b)

/-- Bytes with the addresses they go to, joined where one destination follows on another. -/
def joinRuns : List (Int × List Byte) → List (Int × List Byte)
  | [] => []
  | (a, bs) :: r =>
    match joinRuns r with
    | [] => [(a, bs)]
    | (b, cs) :: q => if a + bs.length = b then (a, bs ++ cs) :: q else (a, bs) :: (b, cs) :: q

/-- The pieces of a scatter that may move now: none overtakes an earlier element on a byte they share, since the later in the list wins
(R295). -/
def inListOrder : List (Part × Nat) → List ((Part × Nat) × Bool) → List (Part × Nat)
  | _, [] => []
  | held, (q, bad) :: r =>
    if bad || held.any fun h => decide (h.1.dst < q.1.dst + q.1.n) && decide (q.1.dst < h.1.dst + h.1.n) then inListOrder (held ++ [q]) r
    else q :: inListOrder held r

/-- The pieces that move in this step: those that nothing keeps, as many as the step has, which may be none (R330, log entry 11). -/
def movable (s : State) (ordered : Bool) (left : List ((Part × Nat) × Option (Nat × Level × Int × Nat × AccRes))) : List (Part × Nat) :=
  let free := if ordered then inListOrder [] (left.map fun q => (q.1, q.2.isSome)) else (left.filter fun q => q.2.isNone).map (·.1)
  match s.inputs.pieces with
  | none => free
  | some n => free.take n

/-- Pieces that can move do so, all sources of a step read before any destination is written (R293, log entry 11); the first that
cannot gives the operation its fault, and the rest stay for a replay or a later step (R294). -/
def moveParts (s : State) (o : Op) (ordered : Bool) (dl sl : Level) (ps : List Part) : State :=
  match opEnv s o with
  | none => s
  | some (w, t, c) =>
    let lane := sliceLane o
    let left := ((pieces dl sl ps).filter fun q => !hasMoved o q.2).map fun q => (q, pieceBad s o t c lane dl sl q.1)
    let go := movable s ordered left
    let data := joinRuns (go.map fun q => (q.1.dst, sideBytes s o w t c lane sl q.1.src q.1.n))
    let s1 := go.foldl (fun (s : State) q => sideTouched s t c sl q.1.src q.1.n) s
    let r := data.foldl (fun (acc : State × Bool) q => if acc.2 then acc else putSide acc.1 o t c lane dl q.1 q.2) (s1, false)
    let moved := updOp r.1 o.id fun o => { o with accs := o.accs ++ go.map fun q => movedAcc q.2 }
    if r.2 then r.1
    else if go.length = left.length then noteMoved r.1 o.id (dl == .g)
    else
      match left.findSome? (·.2) with
      | none => moved
      | some (kind, lev, bad) => failSide moved o t c kind lev bad

/-- The indices in a list of the core area (R320). -/
def listIndices (s : State) (t : Team) (wave list k : Nat) : List Nat :=
  (upto k).map fun j =>
    match levelBytes s t wave 0 .core (list + 4 * j : Nat) 4 with
    | .ok ps => leNat (ps.map (scrGet s))
    | .error _ => 0

/-- The list of a gather or scatter is not read yet, and an earlier STS of its wave to it has not been performed (R84, R320). -/
def listWaits (s : State) (o : Op) : Bool :=
  match o.kind, findTeam s o.tid with
  | .gather _ _ _ _ _ _ list k, some t =>
    o.kept.isEmpty && (waveOps s o.tid o.wave).any fun p =>
      p.kind == .scratchStore && comesBefore p o && p.phase != .complete && p.accs.any fun y =>
        !y.done && !passedOver s o p y && !detHolds t p y.lane && meets s t o.wave false (accOf 0 .core list (4 * k) 0 0) y
  | _, _ => false

/-- The parts of a gather or a scatter. -/
def gatherParts (scatter : Bool) (dst src : Int) (e : Nat) (xs : List Nat) : List Part :=
  xs.zipIdx.map fun q =>
    if scatter then ⟨dst + q.1 * e, src + q.2 * e, e⟩ else ⟨dst + q.2 * e, src + q.1 * e, e⟩

/-- A gather or scatter: its list is read once, at the start, and the ranges of all elements are checked before any byte moves (R320). -/
def moveGather (s : State) (o : Op) (scatter : Bool) (dl sl : Level) (dst src : Int) (e list k : Nat) : State :=
  match opEnv s o with
  | none => s
  | some (_, t, c) =>
    let xs := if o.kept.isEmpty then listIndices s t o.wave list k else o.kept
    let ps := gatherParts scatter dst src e xs
    let s1 := updOp s o.id fun o => { o with kept := xs }
    match lowestFault (ps.flatMap fun p => (sideRange s t c dl p.dst p.n).toList ++ (sideRange s t c sl p.src p.n).toList) with
    | some fi => markFault s1 o 0 fi
    | none => moveParts s1 o scatter dl sl ps

/-! ## The sieve's operation (R300, R321) -/

/-- A sieve descriptor. -/
structure SieveDesc where
  inp : Nat
  bm : Nat
  sc : Nat
  el : Nat
  n : Nat
  r : Nat
  rho : Nat
  fmt : Nat
  rest : Nat

/-- The bytes of the core area, if they lie in it. -/
def coreBytes (s : State) (t : Team) (wave a n : Nat) : Option (List Byte) :=
  match levelBytes s t wave 0 .core a n with
  | .ok ps => some (ps.map (scrGet s))
  | .error _ => none

/-- A number in bytes `i` to `i + n - 1`. -/
def descField (bs : List Byte) (i n : Nat) : Nat := leNat ((bs.drop i).take n)

/-- The descriptor in 32 bytes. -/
def sieveDesc (bs : List Byte) : SieveDesc :=
  ⟨descField bs 0 4, descField bs 4 4, descField bs 8 4, descField bs 12 4, descField bs 16 2, descField bs 18 1, descField bs 19 1,
    descField bs 20 1, descField bs 21 11⟩

/-- A number rounded up to a multiple of 16. -/
def up16 (n : Nat) : Nat := 16 * ((n + 15) / 16)

/-- Strides of the three outputs (R300). -/
def bitmapStride (n : Nat) : Nat := 16 * ((n + 127) / 128)
/-- Scales. -/
def scaleStride (n : Nat) : Nat := up16 (2 * n)
/-- Elements. -/
def elemStride (f : Fmt) (n : Nat) : Nat := up16 ((n * fmtBits f + 7) / 8)

/-- The format that a sieve may make. -/
def sieveFmt (k : Nat) : Option Fmt := if 1 ≤ k ∧ k ≤ 5 then fmtOfCode k else none

/-- The three output areas and the input lie in the core area. -/
def sieveAreas (s : State) (e : Env) (d : SieveDesc) (f : Fmt) : Option FaultInfo :=
  lowestFault ([(d.inp, 4 * d.n * d.r), (d.bm, bitmapStride d.n * d.r), (d.sc, scaleStride d.n * d.r), (d.el, elemStride f d.n * d.r)].flatMap
    fun q => (sideRange s e.t e.c .core q.1 q.2).toList)

/-- The FP32 patterns of vector `v`. -/
def sieveVector (s : State) (e : Env) (d : SieveDesc) (v : Nat) : List Nat :=
  (upto d.n).map fun i => leNat ((coreBytes s e.t e.w.ix (d.inp + 4 * d.n * v + 4 * i) 4).getD [])

/-- One output as an access of the core area. -/
def outAcc (a : Nat) (bs : List Byte) : Access := accOf 0 .core a bs.length (leNat bs) 0

/-- The outputs of vector `v`. -/
def sieveOutputs (d : SieveDesc) (f : Fmt) (v : Nat) (r : Sieved) : List Access :=
  let scales := r.scales.flatMap (leBytes 2)
  [outAcc (d.bm + bitmapStride d.n * v) (packBits r.bits),
   outAcc (d.sc + scaleStride d.n * v) (scales ++ List.replicate (scaleStride d.n - scales.length) 0),
   outAcc (d.el + elemStride f d.n * v) (packElems f r.elems)]

/-- The subcode of FORMAT of a descriptor's FMT that the sieve does not make (R321): CODE for a code that names no format (R347). For a format
that the sieve refuses, 0x06 to 0x08, no rule gives a subcode; the model reports 0 (DESIGN CHOICE, log entry 88). -/
def sieveFmtSub (k : Nat) : Nat := if (fmtOfCode k).isNone then 1 else 0

/-- QBLK once its descriptor is read: the checks, the scan, and an operation that holds the outputs. -/
def issueSieve (s : State) (e : Env) (d : SieveDesc) : Verdict :=
  if d.rest ≠ 0 || d.n < 1 || 4096 < d.n || d.r < 1 || 64 < d.r || 31 < d.rho then illegal subField
  else if d.inp % 4 ≠ 0 then faulting .align 3 (BitVec.ofNat 64 d.inp)
  else if d.bm % 16 ≠ 0 then faulting .align 3 (BitVec.ofNat 64 d.bm)
  else if d.sc % 16 ≠ 0 then faulting .align 3 (BitVec.ofNat 64 d.sc)
  else if d.el % 16 ≠ 0 then faulting .align 3 (BitVec.ofNat 64 d.el)
  else
    match sieveFmt d.fmt with
    | none => faulting .format (sieveFmtSub d.fmt) 0
    | some fm =>
      match sieveAreas s e d fm with
      | some fi => .trap fi
      | none =>
        let xs := (upto d.r).map (sieveVector s e d)
        if xs.any fun v => v.any fun x => decide (x % 2 ^ 31 ≥ 0x7F800000) then faulting .format 9 0
        else
          let rs := xs.map (sieve fm d.rho)
          let amax := xs.foldl (fun m v => v.foldl (fun m x => max m (x % 2 ^ 31)) m) 0
          let eps := ebUp (rs.foldl (fun m r => r.scales.foldl (fun m k => magMax m (scaleBound fm k)) m) (0, 0))
          issueCopy s e (.qblk e.f.d.toNat e.p.pid (BitVec.ofNat 32 amax) eps) true true
            ((rs.zipIdx).flatMap fun q => sieveOutputs d fm q.2 q.1)

/-- QBLK (R321). In a DET sweep it ends the quantum, and issues in the commit (R317). -/
def execQblk (f : Fields) (s : State) : Host.Outcome State Fault Refusal :=
  issue (.qblk f) s fun e s =>
    let a := sideAddr e f.a
    if e.act = 0 then issueIdle s e
    else if isDet s e.t && !e.w.qpass then .stall (updCur s e.who fun w => { w with status := .quantum })
    else if a % 16 ≠ 0 then faulting .align 3 (BitVec.ofNat 64 a)
    else
      match sideRange s e.t e.c .core a 32, coreBytes s e.t e.w.ix a 32 with
      | some fi, _ => .trap fi
      | none, some bs => if copyFull s e then tryAgain s e else issueSieve s e (sieveDesc bs)
      | none, none => .trap ⟨.range, 3, BitVec.ofNat 64 a⟩

/-- QBLK's outputs and scalars are written (R300, R321). -/
def writeSieve (s : State) (o : Op) (dst pid : Nat) (amax eps : W32) : State :=
  match opEnv s o with
  | none => s
  | some (_, t, _) =>
    let s1 := o.accs.foldl (fun s x => match levelBytes s t o.wave 0 x.level x.addr x.n with
      | .ok ps => if x.level = .core then scrPuts s ps (leBytes x.n x.data) else s
      | .error _ => s) s
    let s2 := updWave s1 o.tid o.wave fun w =>
      if w.status = .ended || 64 ≤ dst then w
      else setPathScalar (setPathScalar w pid dst (amax.zeroExtend 64)) pid (dst + 1) (eps.zeroExtend 64)
    noteMoved (updOp s2 o.id fun o => { o with last := s.now, regWork := false }) o.id false

/-! ## Stage rings (R296 to R299, R322) -/

/-- A ring record. -/
structure Ring where
  base : Nat
  slot : Nat
  nslot : Nat
  fills : Nat
  takes : Nat
  frees : Nat
  phase : Nat

/-- The record of ring `k` of a team. -/
def readRing (s : State) (t : Team) (k : Nat) : Option Ring :=
  (coreBytes s t 0 (32 * k) 32).map fun bs =>
    ⟨descField bs 0 4, descField bs 4 2, descField bs 6 1, descField bs 8 4, descField bs 12 4, descField bs 16 4, descField bs 20 2⟩

/-- Bytes of the core area written. -/
def putCore (s : State) (t : Team) (a : Nat) (bs : List Byte) : State :=
  match levelBytes s t 0 0 .core a bs.length with
  | .ok ps => scrPuts s ps bs
  | .error _ => s

/-- The `.core` offset of slot `n mod N`. -/
def slotAddr (r : Ring) (n : Nat) : Nat := r.base + n % r.nslot * r.slot

/-- A ring record that R297 refuses. -/
def ringBad (t : Team) (r : Ring) : Bool :=
  r.nslot = 0 || decide (16 < r.nslot) || r.slot % 16 ≠ 0 || decide (r.slot < 16) || decide (32768 < r.slot) || r.base % 16 ≠ 0
    || decide (r.base < 256) || decide (t.k.scratch < r.base + r.nslot * r.slot)

/-- The ring that an instruction names, checked (R296, R297, R322). -/
def withRing (s : State) (e : Env) (go : Nat → Ring → Verdict) : Verdict :=
  let k := scalarOrImm e
  if 7 < k then illegal subField
  else if e.t.k.scratch < 32 * (k + 1) then faulting .range 3 (BitVec.ofNat 64 (max (32 * k) e.t.k.scratch))
  else
    match readRing s e.t k with
    | none => faulting .range 3 (BitVec.ofNat 64 (32 * k))
    | some r => if ringBad e.t r then illegal subField else go k r

/-- STGPUT (R298): the fill number is taken at issue. -/
def execStgput (f : Fields) (s : State) : Host.Outcome State Fault Refusal :=
  issue (.stgput f) s fun e s =>
    if e.act = 0 then issueIdle s e
    else withRing s e fun k r =>
      match partsFault s e .core (lowLevel f) [⟨r.base, sideAddr e f.a, r.slot⟩] with
      | some fi => .trap fi
      | none =>
        if copyFull s e then tryAgain s e
        else issueCopy (putCore s e.t (32 * k + 8) (leBytes 4 (r.fills + 1))) e (.stgPut k r.fills (lowLevel f) (sideAddr e f.a)) false true []

/-- STGGET (R298): the take number is taken at issue. -/
def execStgget (f : Fields) (s : State) : Host.Outcome State Fault Refusal :=
  issue (.stgget f) s fun e s =>
    if e.act = 0 then issueIdle s e
    else withRing s e fun k r =>
      match partsFault s e (lowLevel f) .core [⟨sideAddr e f.d, r.base, r.slot⟩] with
      | some fi => .trap fi
      | none =>
        if copyFull s e then tryAgain s e
        else issueCopy (putCore s e.t (32 * k + 12) (leBytes 4 (r.takes + 1))) e (.stgGet k r.takes (lowLevel f) (sideAddr e f.d)) false true []

/-- STGREL. -/
def execStgrel (f : Fields) (s : State) : Host.Outcome State Fault Refusal :=
  issue (.stgrel f) s fun e s =>
    if e.act = 0 then issueIdle s e
    else withRing s e fun k _ => issueCopy s e (.stgRel k) false true []

/-- Slot `n mod N` may be filled: wrap32(n − FREES) < N. -/
def slotFree (r : Ring) (n : Nat) : Bool := decide (wrapInt 32 ((n : Int) - r.frees) < r.nslot)

/-- PHASE shows fill `n`. -/
def phaseShows (r : Ring) (n : Nat) : Bool := bitsOf r.phase (n % r.nslot) (n % r.nslot) == (n / r.nslot + 1) % 2

/-- A ring operation's record, while it waits. -/
def waitingRing (s : State) (o : Op) (k : Nat) : Option Ring :=
  if o.phase = .started && !o.over then (findTeam s o.tid).bind fun t => if t.status = .placed then readRing s t k else none
  else none

/-- STAGE_SLOT_FREE: a waiting STGPUT's slot is free, and its bytes are copied. -/
def execStageSlotFree (op : Nat) (s : State) : Host.Outcome State Fault Refusal :=
  match findOp s op with
  | none => .fault .notEnabled
  | some o =>
    match o.kind with
    | .stgPut k n sl src =>
      match waitingRing s o k with
      | some r => if slotFree r n then .next (moveParts s o false .core sl [⟨slotAddr r n, src, r.slot⟩]) else .fault .notEnabled
      | none => .fault .notEnabled
    | _ => .fault .notEnabled

/-- STAGE_PHASE_READY: the phase that a waiting STGGET waits for has come, and the slot is copied. -/
def execStagePhaseReady (op : Nat) (s : State) : Host.Outcome State Fault Refusal :=
  match findOp s op with
  | none => .fault .notEnabled
  | some o =>
    match o.kind with
    | .stgGet k m dl dst =>
      match waitingRing s o k with
      | some r => if phaseShows r m then .next (moveParts s o false dl .core [⟨dst, slotAddr r m, r.slot⟩]) else .fault .notEnabled
      | none => .fault .notEnabled
    | _ => .fault .notEnabled

/-- PHASE bit of a fill's slot inverted (R298 step 4). -/
def invertPhase (s : State) (t : Team) (k n : Nat) : State :=
  match readRing s t k with
  | none => s
  | some r => putCore s t (32 * k + 20) (leBytes 2 (Nat.xor r.phase (2 ^ (n % r.nslot))))

/-- FREES advanced by a STGREL. -/
def addFree (s : State) (t : Team) (k : Nat) : State :=
  match readRing s t k with
  | none => s
  | some r => putCore s t (32 * k + 16) (leBytes 4 (r.frees + 1))

/-- Every earlier STGGET of the wave on the ring has read its slot (R298). -/
def takesRead (s : State) (o : Op) (k : Nat) : Bool :=
  (waveOps s o.tid o.wave).all fun p =>
    match p.kind with
    | .stgGet j _ _ _ => decide (o.id ≤ p.id) || j != k || p.over
    | _ => true

end Sys2Proof.Machine
end

