-- ==== Sys2Proof/Machine/Jars.lean ====
section
/-!
DEFINITION. Jars and handles (R301 to R310, R323 to R328), collectives (R311 to R313, R329), and the start and completion of every
operation of the copy engine (R85, R290).
-/

namespace Sys2Proof.Machine

/-! ## TALLOC (R303, R324) -/

/-- The first index that a jar table does not list. -/
def firstGap : Sparse JarRec → Nat → Nat
  | [], k => k
  | (j, _) :: r, k => if k < j then k else firstGap r (k + 1)

/-- The FREE record that has been free longest, the lowest index first (R303). -/
def pickJar (c : Context) : Option Nat :=
  let gap := firstGap c.jars 0
  let free : List (Nat × Nat) := (if gap < c.jcount then [(0, gap)] else [])
    ++ c.jars.filterMap fun q => if q.2.state = 0 && decide (q.1 < c.jcount) then some (q.2.freeAt, q.1) else none
  (free.foldl (fun (m : Option (Nat × Nat)) x =>
    match m with
    | none => some x
    | some y => if x.1 < y.1 || (x.1 == y.1 && decide (x.2 < y.2)) then some x else some y) none).map (·.2)

/-- A handle (R302). -/
def mkHandle (kind rights jar gen dev : Nat) : Word :=
  BitVec.ofNat 64 (kind * 2 ^ 60 + rights % 16 * 2 ^ 56 + jar % 2 ^ 24 * 2 ^ 32 + gen % 2 ^ 24 * 2 ^ 8 + dev % 256)

/-- TALLOC's control word breaks a limit (R324). -/
def controlBad (x : Nat) : Bool :=
  decide (bitsOf x 5 0 < 1) || decide (48 < bitsOf x 5 0) || bitsOf x 7 6 ≠ 0 || bitsOf x 11 11 ≠ 0 || bitsOf x 15 13 ≠ 0
    || bitsOf x 17 17 ≠ 0 || bitsOf x 63 20 ≠ 0

/-- An instruction that a task or a DET sweep refuses. -/
def refusedIn (task det : Bool) : Extra := fun e s =>
  if e.act ≠ 0 && ((task && e.w.task.isSome) || (det && isDet s e.t)) then [subField] else []

/-- TALLOC. -/
def execTalloc (f : Fields) (s : State) : Host.Outcome State Fault Refusal :=
  issueWith (.talloc f) (refusedIn true false) s fun e s =>
    if e.act = 0 then issueIdle s e
    else if isFill (e.w.h f.d.toNat) || isFill (e.w.h f.c.toNat) || controlBad (sideAddr e f.b) then illegal subField
    else if sideAddr e f.a % 49152 ≠ 0 then faulting .align 3 (e.p.s f.a.toNat)
    else issueCopy s e (.talloc f.d.toNat f.c.toNat (e.p.s f.a.toNat) (e.p.s f.b.toNat)) true true []

/-- A handle register of an operation's wave written, unless the wave has ended. -/
def putHandle (s : State) (tid wave k : Nat) (h : Word) : State :=
  updWave s tid wave fun w => if w.status = .ended then w else w.setH k h

/-- TALLOC in the engine: a record is taken, or both handles become null. -/
def startTalloc (s : State) (o : Op) (hd hc : Nat) (base control : Word) : State :=
  match opEnv s o with
  | none => s
  | some (_, _, c) =>
    let x := control.toNat
    let finish (s : State) : State := noteMoved (updOp s o.id fun o => { o with last := s.now, regWork := false }) o.id false
    match pickJar c with
    | none => finish (putHandle (putHandle s o.tid o.wave hd 0) o.tid o.wave hc 0)
    | some j =>
      let g := (jarOf c j).gen
      let s1 := setJar s c.cid j ⟨base.toNat, bitsOf x 5 0, 1, bitsOf x 10 8, bitsOf x 12 12 == 1, false, g, 0, ownDev s, (jarOf c j).freeAt⟩
      finish (putHandle (putHandle s1 o.tid o.wave hd (mkHandle 1 6 j g (ownDev s))) o.tid o.wave hc
        (mkHandle 2 (bitsOf x 19 16) j g (ownDev s)))

/-! ## TDROP (R305, R307, R325) -/

/-- The wave stalls at the quantum boundary that follows a TDROP in a DET sweep (R90). -/
def dropBoundary (e : Env) (s : State) : State :=
  if isDet s e.t then updCur s e.who fun w => { w with status := .quantumEnd } else s

/-- A verdict's next state changed. -/
def Verdict.andThen (v : Verdict) (g : State → State) : Verdict := match v with | .ok s => .ok (g s) | v => v

/-- A handle register of the issuing wave becomes null. -/
def nullHandle (e : Env) (k : Nat) (s : State) : State := updCur s e.who fun w => w.setH k 0

/-- Plain TDROP. Of a handle that is no fill handle only KIND is checked. -/
def dropHandle (s : State) (e : Env) (k : Nat) (h : Word) : Verdict :=
  if h = 0 then (issueIdle s e).andThen (dropBoundary e)
  else if isSee h then (issueIdle s e).andThen fun s => dropBoundary e (nullHandle e k s)
  else if !isFill h then handleFault .staleHandle 3 h
  else
    match staleSub s e.c h with
    | some sub => handleFault .staleHandle sub h
    | none =>
      (issueCopy s e (.tdrop k h false) false true []).andThen fun s =>
        updCur s e.who fun w => { w.setH k 0 with task := w.task.map fun x => { x with drops := x.drops ++ [(k, h)] } }

/-- `TDROP.retire`. -/
def retireHandle (s : State) (e : Env) (k : Nat) (h : Word) : Verdict :=
  match staleSub s e.c h with
  | some sub => handleFault .staleHandle sub h
  | none =>
    if isFill h || !hasRight h rightRetire then handleFault .jarRights 4 h
    else if (jarFor s e.c h).state = 1 then handleFault .jarRights 7 h
    else (issueCopy s e (.tdrop k h true) false true []).andThen (nullHandle e k)

/-- TDROP. -/
def execTdrop (f : Fields) (s : State) : Host.Outcome State Fault Refusal :=
  issueWith (.tdrop f) (refusedIn (f.bmod == 1) false) s fun e s =>
    let h := e.w.h f.a.toNat
    if e.act = 0 then issueIdle s e
    else if copyFull s e || ((isFill h || f.bmod = 1) && !recordSeen s e.c h) then tryAgain s e
    else if f.bmod = 1 then retireHandle s e f.a.toNat h else dropHandle s e f.a.toNat h

/-- A retired jar is FREE under the next generation: only a PUBLISHED or ABANDONED jar of the handle's generation returns (R305). The record of
another Y3 is that Y3's to change (log entry 78). -/
def retireJar (s : State) (o : Op) (h : Word) : State :=
  match opEnv s o with
  | none => s
  | some (_, _, c) =>
    let r := jarOf c (handleJar h)
    let s1 := if !isRemote s h && 2 ≤ r.state && r.gen = handleGen h then
        setJar s c.cid (handleJar h) { r with state := 0, gen := (r.gen + 1) % 2 ^ 24, freeAt := s.now }
      else s
    noteMoved (updOp s1 o.id fun o => { o with last := s.now }) o.id false

/-- A store of a narrow-scope publication is covered: written, accepted by the L1, or completed (R88); one whose registers are still to be read is
not accepted (R30). -/
def narrowCovered (s : State) (c : Context) (p : Op) : Bool :=
  if p.kind.isAtomic then p.over && decide (p.last ≤ s.now)
  else
    (p.accs.all fun x => x.done || (decide (x.level = .g) && cacheable s c x.addr && !p.unreads x.lane))
      && ((p.accs.all fun x => decide (x.level ≠ .g) || cacheable s c x.addr) || decide (p.last ≤ s.now))

/-- The scope of a jar's release: that of its record; the widest where the record of another Y3 is not at hand. -/
def dropScope (s : State) (c : Context) (h : Word) : Nat := if recordSeen s c h then (jarFor s c h).scope else 7

/-- A publication may happen now (R88): every STF through the handle has completed, and the filler's earlier stores and atomics are
covered by the jar's scope; none of them waits in a DET buffer for its T. -/
def dropReady (s : State) (o : Op) (h : Word) : Bool :=
  match opEnv s o with
  | none => true
  | some (w, t, c) =>
    let mine := (waveOps s o.tid o.wave).filter fun p =>
      decide (p.id < o.id) && p.phase != .complete && p.kind.isLsu && (p.kind.stores || p.kind.isAtomic)
    let stfs := s.ops.filter fun p =>
      decide (p.id < o.id) && p.kind == .store (some (handleJar h))
        && (match findTeam s p.tid with | some u => u.sweep.cid == t.sweep.cid | none => false)
    !o.inTask && decide (o.last ≤ s.now) && (stfs.all fun p => p.over && !detWaits s p && decide (p.last ≤ s.now))
      && (mine.all fun p => !detWaits s p)
      && (if 3 ≤ dropScope s c h then mine.all (·.over) && decide (w.horizon ≤ s.now) else mine.all (narrowCovered s c))

/-- An operation of the copy engine is complete. -/
def finishCopy (s : State) (id : Nat) : State := lower (updOp s id fun o => { o with phase := .complete, regWork := false })

/-- The P of a publication: the tick of the commit that let it come about in a DET sweep (R310), else the present one. -/
def publishTick (s : State) (o : Op) : Nat := (o.kept.head?).getD s.now

/-- A jar is published at P, which enters the filler's `%horizon` (R88, R305). -/
def publishJar (s : State) (o : Op) (h : Word) : State :=
  match opEnv s o with
  | none => finishCopy s o.id
  | some (_, _, c) =>
    let r := jarOf c (handleJar h)
    let s1 := if !isRemote s h && r.state = 1 && r.gen = handleGen h then setJar s c.cid (handleJar h) { r with state := 2, ptime := publishTick s o } else s
    finishCopy (raiseHorizon s1 o.tid o.wave (publishTick s o)) o.id

/-! ## TCOPY (R326) -/

/-- The wave whose register TCOPY writes; none if it may not. -/
def copyTarget (s : State) (e : Env) : Option Wave :=
  if e.f.c.getLsbD 4 then
    match findWave s e.who.tid (e.f.c.toNat % 16) with
    | some w => if e.f.dsp = 3 && w.status ≠ .ended then some w else none
    | none => none
  else some e.w

/-- The rights request breaks R326. -/
def requestBad (r : Nat) : Bool := r ≠ 0 && (decide (r < 128) || bitsOf r 6 4 ≠ 0)

/-- TCOPY's destination is its source register. -/
def sameRegister (e : Env) (w : Wave) : Bool := w.ix == e.w.ix && e.f.dsp == e.f.asp && e.f.d == e.f.a

/-- TCOPY's destination written. -/
def putCopy (s : State) (e : Env) (w : Wave) (h : Word) : State :=
  if e.f.dsp = 3 then updWave s w.tid w.ix fun w => w.setH e.f.d.toNat h else setScalar s e.who e.f.d.toNat h

/-- TCOPY's source checked, and copied or moved. -/
def copyHandle (s : State) (e : Env) (w : Wave) (h : Word) : Verdict :=
  let r := imm8u e.f
  if h = 0 then .ok (putCopy s e w 0)
  else if e.f.asp = 1 && isFill h then handleFault .fillCopy 3 h
  else if !recordSeen s e.c h then tryAgain s e
  else
    match staleSub s e.c h with
    | some sub => handleFault .staleHandle sub h
    | none =>
      if isFill h then
        if e.f.dsp = 1 then handleFault .fillCopy 2 h
        else if r ≠ 0 then illegal subField
        else
          let s1 := putCopy s e w h
          .ok (if sameRegister e w then s1 else nullHandle e e.f.a.toNat s1)
      else if !hasRight h rightShare then handleFault .jarRights 3 h
      else if 128 ≤ r && Nat.land (r % 16) (15 - handleRights h) ≠ 0 then handleFault .jarRights 6 h
      else .ok (putCopy s e w (mkHandle 2 (if 128 ≤ r then r % 16 else handleRights h) (handleJar h) (handleGen h) (handleDev h)))

/-- TCOPY. -/
def execTcopy (f : Fields) (s : State) : Host.Outcome State Fault Refusal :=
  issue (.tcopy f) s fun e s =>
    if e.act = 0 then .ok s
    else
      match copyTarget s e with
      | none => illegal subField
      | some w =>
        if requestBad (imm8u f) || (f.dsp = 3 && isFill (w.h f.d.toNat) && !sameRegister e w) then illegal subField
        else copyHandle s e w (if f.asp = 3 then e.w.h f.a.toNat else e.p.s f.a.toNat)

/-! ## TSTAT (R328) -/

/-- The value names a record of this Y3 or of another, with its generation. -/
def namesRecord (s : State) (c : Context) (h : Word) : Bool :=
  (handleKind h == 1 || handleKind h == 2) && (isRemote s h || handleDev h == ownDev s) && inTable s c h
    && (jarFor s c h).gen == handleGen h

/-- The summary of a record. -/
def jarSummary (r : JarRec) : Nat :=
  2 ^ 63 + r.state % 4 * 2 ^ 61 + r.scope % 8 * 2 ^ 58 + (if r.exit then 2 ^ 57 else 0) + (if r.away then 2 ^ 56 else 0)
    + r.fdev % 256 * 2 ^ 48 + r.len % 64 * 2 ^ 42 + r.gen % 2 ^ 24

/-- TSTAT. -/
def execTstat (f : Fields) (s : State) : Host.Outcome State Fault Refusal :=
  issue (.tstat f) s fun e s =>
    let h := if f.asp = 3 then e.w.h f.a.toNat else e.p.s f.a.toNat
    if e.act = 0 then .ok s
    else if f.asp = 3 && isFill h then handleFault .fillCopy 1 h
    else if (handleKind h == 1 || handleKind h == 2) && !recordSeen s e.c h then tryAgain s e
    else
      let r := jarFor s e.c h
      .ok (setScalar s e.who f.d.toNat
        (if namesRecord s e.c h then BitVec.ofNat 64 (match f.bmod.toNat with | 0 => jarSummary r | 1 => r.ptime | _ => r.base) else 0))

/-! ## TSEND and TRECV (R309, R327) -/

/-- TSEND. -/
def execTsend (f : Fields) (s : State) : Host.Outcome State Fault Refusal :=
  issueWith (.tsend f) (refusedIn true true) s fun e s =>
    let h := e.w.h f.a.toNat
    if e.act = 0 then issueIdle s e
    else if 255 < scalarOrImm e then illegal subField
    else if !recordSeen s e.c h then tryAgain s e
    else
      match staleSub s e.c h with
      | some sub => handleFault .staleHandle sub h
      | none =>
        if !hasRight h rightShare then handleFault .jarRights 3 h
        else if copyFull s e then tryAgain s e
        else
          (issueCopy s e (.tsend h (scalarOrImm e)) false false []).andThen fun s =>
            if isFill h then nullHandle e f.a.toNat s else s

/-- TRECV. -/
def execTrecv (f : Fields) (s : State) : Host.Outcome State Fault Refusal :=
  issueWith (.trecv f) (refusedIn true true) s fun e s =>
    if e.act = 0 then issueIdle s e
    else if isFill (e.w.h f.d.toNat) then illegal subField
    else issueCopy s e (.trecv f.d.toNat) true false []

/-- TRECV in the engine: the oldest entry of the mailbox, or null. A fill handle that arrives at its home is no longer away; the record of one that
arrives elsewhere is its home's to change (log entry 78). -/
def startTrecv (s : State) (o : Op) (hd : Nat) : State :=
  match opEnv s o with
  | none => s
  | some (_, _, c) =>
    let h := (c.mailbox.head?).getD 0
    let s1 := updCtx s c.cid fun c => { c with mailbox := c.mailbox.drop 1 }
    let r := jarOf c (handleJar h)
    let s2 :=
      if isFill h && handleDev h = ownDev s && r.gen = handleGen h then setJar s1 c.cid (handleJar h) { r with away := false, fdev := ownDev s }
      else s1
    noteMoved (updOp (putHandle s2 o.tid o.wave hd h) o.id fun o => { o with last := s.now, regWork := false }) o.id false

/-- An error record for a sweep's queue about an operation (R309, R313); the sweep's status is no longer ok (R388). -/
def opRecord (s : State) (o : Op) (type : Nat) (xaddr : Word) : State :=
  match findTeam s o.tid with
  | none => s
  | some t =>
    match sweepOf s t with
    | none => s
    | some sw =>
      postError (updSweep s t.sweep fun w => { w with errored := true }) (teamRecord s t sw type 0 0 0 o.wave (BitVec.ofNat 64 o.xpc) xaddr)

/-- A sent fill handle is away from its home, whose record says so. -/
def sentAway (s : State) (c : Context) (h : Word) (dev : Nat) : State :=
  if isFill h && handleDev h = ownDev s then setJar s c.cid (handleJar h) { jarOf c (handleJar h) with away := true, fdev := dev } else s

/-- The handle of a TSEND leaves, once every STF through it has completed, and is on its way until it is deposited or cannot be (R327); `Op.kept`
says that it has left. -/
def leaveJar (s : State) (o : Op) (c : Context) (h : Word) (dev : Nat) : State :=
  if o.kept.isEmpty then updOp (sentAway s c h dev) o.id fun o => { o with kept := [1] } else s

/-- A handle that cannot be delivered: a fill handle's jar is abandoned, and the queue is told (R309). -/
def failSend (s : State) (o : Op) (c : Context) (h : Word) (dev : Nat) : State :=
  let s0 := leaveJar s o c h dev
  let r := match ctxOf s0 c.cid with | some c => jarOf c (handleJar h) | none => jarFree
  let s1 := if isFill h && handleDev h = ownDev s && r.gen = handleGen h && r.state = 1 then setJar s0 c.cid (handleJar h) { r with state := 3 } else s0
  finishCopy (opRecord s1 o 5 (BitVec.ofNat 64 dev)) o.id

/-- The handle has left, and what it waits for is still to come. -/
def stillAway (s : State) (o : Op) (c : Context) (h : Word) (dev : Nat) : Host.Outcome State Fault Refusal :=
  if o.kept.isEmpty then .next (leaveJar s o c h dev) else .fault .notEnabled

/-- The handle enters the mailbox of this Y3. -/
def deposit (s : State) (o : Op) (c : Context) (h : Word) (dev : Nat) : State :=
  finishCopy (updCtx (leaveJar s o c h dev) c.cid fun c => { c with mailbox := c.mailbox ++ [h] }) o.id

/-- What has become of a send to another Y3: taken, or refused; a device that names no Y3 of the domain refuses it (R309, log entry 78). -/
def sendAnswer (s : State) (o : Op) (dev : Nat) : Option Bool :=
  if !inDomain s dev || s.lostDevs.contains dev then some false else (s.inputs.sent.find? fun x => x.1 == o.id).map (·.2)

/-- MAILBOX_DEPOSIT: a sent handle leaves once every STF through a fill handle has completed, and is deposited once the mailbox of its device has room; one
that cannot be delivered fails (R309, R327). -/
def execMailboxDeposit (op : Nat) (s : State) : Host.Outcome State Fault Refusal :=
  match findOp s op with
  | none => .fault .notEnabled
  | some o =>
    match o.kind, opEnv s o with
    | .tsend h dev, some (_, t, c) =>
      let stfs := s.ops.filter fun p =>
        decide (p.id < o.id) && p.kind == .store (some (handleJar h))
          && (match findTeam s p.tid with | some u => u.sweep.cid == t.sweep.cid | none => false)
      if o.phase ≠ .started || (isFill h && stfs.any fun p => !p.over || decide (s.now < p.last)) then .fault .notEnabled
      else if dev ≠ ownDev s then
        match sendAnswer s o dev with
        | some true => .next (finishCopy (leaveJar s o c h dev) o.id)
        | some false => .next (failSend s o c h dev)
        | none => stillAway s o c h dev
      else if 256 ≤ c.mailbox.length then stillAway s o c h dev
      else .next (deposit s o c h dev)
    | _, _ => .fault .notEnabled

/-- What another Y3 does with a handle of a jar that has its home here changes the record (R305, R306, R309, R327): the holder of a fill handle
that is away publishes or abandons the jar, or receives the handle; the holder of a see handle retires the jar. -/
def takeAway (s : State) (x : Nat × Word × AwayAct) : State :=
  let h := x.2.1
  let j := handleJar h
  match ctxOf s x.1 with
  | none => s
  | some c =>
    let r := jarOf c j
    let filling := isFill h && r.away && decide (r.state = 1)
    if handleDev h ≠ ownDev s ∨ r.gen ≠ handleGen h ∨ c.jcount ≤ j then s
    else
      match x.2.2 with
      | .publish => if filling then setJar s c.cid j { r with state := 2, ptime := s.now } else s
      | .abandon => if filling then setJar s c.cid j { r with state := 3 } else s
      | .retire =>
        if isSee h && hasRight h rightRetire && decide (2 ≤ r.state) then
          setJar s c.cid j { r with state := 0, gen := (r.gen + 1) % 2 ^ 24, freeAt := s.now }
        else s
      | .arrive dev => if filling then setJar s c.cid j { r with fdev := dev } else s

/-! ## Collectives (R311 to R313, R329) -/

/-- A group record. -/
structure GroupRec where
  gid : Nat
  n : Nat
  kind : Nat
  op : Nat
  fmt : Nat
  zero : Nat
  list : Nat
  count : Nat

/-- The group record in 48 bytes. -/
def groupRec (bs : List Byte) : GroupRec :=
  ⟨descField bs 0 2, descField bs 2 2, descField bs 4 1, descField bs 5 1, descField bs 6 1, descField bs 7 1 + descField bs 24 24,
    descField bs 8 8, descField bs 16 8⟩

/-- A record that R313 calls malformed. -/
def groupBad (g : GroupRec) : Bool :=
  decide (g.n < 2) || decide (256 < g.n) || decide (2 < g.kind) || decide (2 < g.op) || (g.kind ≠ 0 && g.op ≠ 0)
    || decide (g.fmt < 6) || decide (8 < g.fmt) || g.zero ≠ 0 || decide (2 ^ 32 ≤ g.count)

/-- The element format of a collective. -/
def groupFmt (g : GroupRec) : Fmt := (fmtOfCode g.fmt).getD .fp32

/-- Bytes of one contribution. -/
def contribution (g : GroupRec) : Nat := g.count * (fmtBits (groupFmt g) / 8)

/-- Bytes of a result. -/
def resultBytes (g : GroupRec) : Nat := if g.kind = 2 then g.n * contribution g else contribution g

/-- COLL. -/
def execColl (f : Fields) (s : State) : Host.Outcome State Fault Refusal :=
  issueWith (.coll f) (refusedIn true true) s fun e s =>
    if e.act = 0 then issueIdle s e
    else if sideAddr e f.b % 48 ≠ 0 then faulting .align 3 (e.p.s f.b.toNat)
    else issueCopy s e (.coll (sideAddr e f.d) (sideAddr e f.a) (sideAddr e f.b) 0) false false []

/-- Bytes of global memory as an operation loads them. -/
def loadBytes (s : State) (o : Op) (a n : Nat) : List Byte :=
  match opEnv s o with
  | none => []
  | some (w, t, c) => sideBytes s o w t c 0 .g a n

/-- A collective that fails writes nothing, lowers its counter and sends a record (R313). -/
def failColl (s : State) (o : Op) : State :=
  noteMoved (opRecord (updOp s o.id fun o => { o with last := s.now }) o 6 0) o.id true

/-- The group record that a COLL has read and goes on with. -/
def keptRec (o : Op) : GroupRec := groupRec ((o.kept.take 48).map (BitVec.ofNat 8))

/-- The device numbers of its members, in rank order, as the COLL has read them. -/
def keptMembers (o : Op) : List Nat := o.kept.drop 48

/-- The COLL has read its record and its list, and both have passed the checks: it takes part in its round. -/
def collReady (o : Op) : Bool := decide (48 < o.kept.length)

/-- The COLL keeps bytes that it has read. -/
def keepBytes (s : State) (id : Nat) (bs : List Byte) : State := updOp s id fun o => { o with kept := o.kept ++ bs.map (·.toNat) }

/-- A COLL reads its group record, and takes the next round of its group (R311, R329). -/
def readGroup (s : State) (o : Op) (t : Team) (c : Context) (dst src rec_ : Nat) : State :=
  match sideBad s t c o.wave 0 .g rec_ 48 .load with
  | some bad => failSide s o t c 3 .g bad
  | none =>
    let bs := loadBytes s o rec_ 48
    let g := (groupRec bs).gid
    let k := Sparse.get 0 c.collRounds g
    let s1 := updCtx (sideTouched s t c .g rec_ 48) c.cid fun c => { c with collRounds := Sparse.set 0 c.collRounds g (k + 1) }
    updOp (keepBytes s1 o.id bs) o.id fun o => { o with kind := .coll dst src rec_ (k + 1) }

/-- A COLL whose record is read checks it, reads its list, and checks its sides (R313, R329). -/
def readMembers (s : State) (o : Op) (t : Team) (c : Context) (dst src : Nat) : State :=
  let g := keptRec o
  if groupBad g then failColl s o
  else
    match sideBad s t c o.wave 0 .g g.list g.n .load with
    | some bad => failSide s o t c 3 .g bad
    | none =>
      let bs := loadBytes s o g.list g.n
      let ms := bs.map (·.toNat)
      let s1 := sideTouched s t c .g g.list g.n
      if !(ms.contains (ownDev s)) || ms.dedup.length ≠ ms.length || ms.any (s.lostDevs.contains ·) then failColl s1 o
      else
        match lowestFault ((sideRange s1 t c .g dst (resultBytes g)).toList ++ (sideRange s1 t c .g src (contribution g)).toList) with
        | some fi => markFault s1 o 0 fi
        | none => keepBytes s1 o.id bs

/-- The COLL is in its round, and its group names a device to which no route is left (R313, R418). -/
def collLost (s : State) (o : Op) : Bool := collReady o && !o.over && (keptMembers o).any (s.lostDevs.contains ·)

/-- A COLL enters its round: what it has not read yet it reads, and it goes on with what it has, unless a device of its group has been lost. -/
def startColl (s : State) (o : Op) (dst src rec_ : Nat) : State :=
  match opEnv s o with
  | none => s
  | some (_, t, c) =>
    if collLost s o then failColl s o
    else
    let s1 := if o.kept.isEmpty then readGroup s o t c dst src rec_ else s
    match findOp s1 o.id with
    | some o1 => if o1.kept.length = 48 && o1.phase = .started then readMembers s1 o1 t c dst src else s1
    | none => s1

/-- Element `i` of a contribution. -/
def elemAt (f : Fmt) (bs : List Byte) (i : Nat) : Nat := descField bs (i * (fmtBits f / 8)) (fmtBits f / 8)

/-- One element of an ALLREDUCE, rank by rank (R312). -/
def reduceElem (g : GroupRec) (cs : List (List Byte)) (i : Nat) : Nat :=
  let f := groupFmt g
  match cs.map fun bs => elemAt f bs i with
  | [] => 0
  | x :: xs =>
    xs.foldl (fun acc y =>
      match g.op with
      | 0 => (roundF f 0 (addF 0 (readF f acc) (readF f y)).1).1
      | 1 => (roundF f 0 (minMaxF true (readF f acc) (readF f y))).1
      | _ => (roundF f 0 (minMaxF false (readF f acc) (readF f y))).1) x

/-- The result of a round, from the contributions in rank order (R312). -/
def collResult (g : GroupRec) (cs : List (List Byte)) : List Byte :=
  match g.kind with
  | 0 => (upto g.count).flatMap fun i => leBytes (fmtBits (groupFmt g) / 8) (reduceElem g cs i)
  | 1 => (cs.head?).getD []
  | _ => cs.flatten

/-- The peers of a round are the other ranks, each once, with contributions of the right length. -/
def peersFit (g : GroupRec) (rank : Nat) (peers : List CollPeer) : Bool :=
  peers.length + 1 == g.n && (upto g.n).all fun k => k == rank || peers.any fun p => p.rank == k && (!p.agrees || p.data.length == contribution g)

/-- The contributions in rank order. -/
def inRankOrder (g : GroupRec) (rank : Nat) (own : List Byte) (peers : List CollPeer) : List (List Byte) :=
  (upto g.n).map fun k => if k = rank then own else ((peers.find? fun p => p.rank == k).map (·.data)).getD []

/-- A round is carried out on this Y3: the contribution is loaded and the result stored. -/
def runRound (s : State) (o : Op) (w : Wave) (t : Team) (c : Context) (dst src : Nat) (g : GroupRec) (peers : List CollPeer) (rank : Nat) : State :=
  match sideBad s t c o.wave 0 .g src (contribution g) .load with
  | some bad => failSide s o t c 3 .g bad
  | none =>
    match sideBad s t c o.wave 0 .g dst (resultBytes g) .store with
    | some bad => failSide s o t c 4 .g bad
    | none =>
      let own := sideBytes s o w t c 0 .g src (contribution g)
      let s1 := sideTouched s t c .g src (contribution g)
      noteMoved (putSide s1 o t c 0 .g dst (collResult g (inRankOrder g rank own peers))).1 o.id true

/-- COLL_ROUND: the other members have arrived with their contributions (R311 to R313). -/
def execCollRound (op : Nat) (peers : List CollPeer) (s : State) : Host.Outcome State Fault Refusal :=
  match findOp s op with
  | none => .fault .notEnabled
  | some o =>
    match o.kind, opEnv s o with
    | .coll dst src _ _, some (w, t, c) =>
      let g := keptRec o
      match (keptMembers o).findIdx? (· == ownDev s) with
      | none => .fault .notEnabled
      | some rank =>
        if o.phase ≠ .started || o.over || !collReady o || t.status = .saved || !peersFit g rank peers then .fault .notEnabled
        else if collLost s o || peers.any fun p => !p.agrees then .next (failColl s o)
        else .next (runRound s o w t c dst src g peers rank)
    | _, _ => .fault .notEnabled

/-! ## Start and completion (R85, R290) -/

/-- What an operation does when it starts, or goes on. -/
def startOp (s : State) (op : Op) : State :=
  let o := readLate s op
  let s1 := updOp s o.id fun _ => { o with phase := .started }
  match o.kind with
  | .copy dl sl dst src rows n ds ss => moveParts s1 o false dl sl (tileRows dst src rows n ds ss)
  | .gather sc dl sl dst src e list k => moveGather s1 o sc dl sl dst src e list k
  | .qblk dst pid amax eps => writeSieve s1 o dst pid amax eps
  | .stgRel _ => noteMoved s1 o.id false
  | .talloc hd hc base control => startTalloc s1 o hd hc base control
  | .tdrop _ h true => retireJar s1 o h
  | .tdrop _ _ false => noteMoved s1 o.id true
  | .trecv hd => startTrecv s1 o hd
  | .coll dst src rec_ _ => startColl s1 { o with phase := .started } dst src rec_
  | _ => s1

/-- Lexicographic order of keys. -/
def keyBefore : List Nat → List Nat → Bool
  | x :: xs, y :: ys => if x = y then keyBefore xs ys else decide (x < y)
  | _, _ => false

/-- The place of an operation in a commit (R317): by its team's sweep index, its wave, and the order of issue. -/
def commitKey (s : State) (tid wave id : Nat) : List Nat := [match findTeam s tid with | some t => t.teamix | none => 0, wave, id]

/-- Operation `a` comes before operation `b` in a commit (R317). -/
def opBefore (s : State) (a b : Op) : Bool := keyBefore (commitKey s a.tid a.wave a.id) (commitKey s b.tid b.wave b.id)

/-- The operations of a DET sweep that a commit has let start and that are not complete (R317). What waits for its task's commit is none of them. -/
def commitOps (s : State) (ref : SweepRef) : List Op :=
  s.ops.filter fun o => o.kind.isCopy && (o.phase == .queued || o.phase == .started || o.phase == .faulted || o.phase == .parked)
    && !(o.inTask && o.over) && (match findTeam s o.tid with | some t => isDet s t && decide (t.sweep = ref) | none => false)

/-- A wave of a sweep stands at a QBLK, which issues in the commit (R317). -/
def standsAtSieve (w : Wave) : Bool :=
  match w.status, w.path.clause with
  | .quantum, some c => ((c.words[c.idx]?).map fun x => (opOfWord x).toNat) == some 0x84
  | _, _ => false

/-- The waves of a sweep that stand at a QBLK. -/
def sieveWaves (s : State) (ref : SweepRef) : List Wave :=
  s.waves.filter fun w => standsAtSieve w && (match findTeam s w.tid with | some t => decide (t.sweep = ref) && decide (t.status = .placed) | none => false)

/-- The quanta of a sweep that are over. -/
def commitsOf (s : State) (ref : SweepRef) : Nat := match s.sweeps.find? fun w => w.ref = ref with | some w => w.commits | none => 0

/-- It is an operation's turn in its commit: every earlier one that starts at the same commit is complete, and so is every earlier QBLK that issues in
it (R317). -/
def commitTurn (s : State) (ref : SweepRef) (o : Op) : Bool :=
  (commitOps s ref).all (fun p => decide (p.batch ≠ o.batch) || !opBefore s p o)
    && (decide (o.batch ≤ commitsOf s ref)
      || (sieveWaves s ref).all fun w => !keyBefore (commitKey s w.tid w.ix 0) (commitKey s o.tid o.wave o.id))

/-- An operation that has started goes on in a further step: its fault was answered, or it has not moved everything. -/
def goesOn (o : Op) : Bool :=
  !o.over && match o.kind with
    | .copy _ _ _ _ _ _ _ _ | .gather _ _ _ _ _ _ _ _ => true
    | .coll _ _ _ _ => !collReady o
    | _ => false

/-- An operation may start: every earlier one of its core has (R290), and its list is written (R320), or, in a DET sweep, every earlier one of its commit is complete (R317). A TSEND
runs though its team is saved (R327). -/
def mayStart (s : State) (o : Op) : Bool :=
  match findTeam s o.tid with
  | none => false
  | some t =>
    let sends := match o.kind with | .tsend _ _ => true | _ => false
    match o.phase with
    | .queued =>
      if t.status = .saved then sends
      else if t.status = .waiting then false
      else if listWaits s o then false
      else if isDet s t then commitTurn s t.sweep o
      else (engineOps s t).all fun p => decide (o.id ≤ p.id) || p.phase != .queued
    | .started => decide (t.status ≠ .saved) && decide (t.status ≠ .waiting) && (goesOn o || collLost s o)
    | _ => false

/-- COPY_OPERATION_START. -/
def execCopyOperationStart (op : Nat) (s : State) : Host.Outcome State Fault Refusal :=
  match findOp s op with
  | none => .fault .notEnabled
  | some o => if o.kind.isCopy && mayStart s o then .next (startOp s o) else .fault .notEnabled

/-- An operation completes now; none if it must wait. The publications of a commit come in its order (R310). -/
def completeCopy (s : State) (o : Op) : Option State :=
  let ready := o.phase = .started && o.over && !o.inTask && decide (o.last ≤ s.now)
  let turn := match findTeam s o.tid with | some t => !isDet s t || commitTurn s t.sweep o | none => true
  match o.kind, findTeam s o.tid with
  | .tsend _ _, _ => none
  | .tdrop _ h false, _ =>
    if o.phase = .started && o.over && turn && decide (publishTick s o ≤ s.now) && dropReady s o h then some (publishJar s o h) else none
  | .stgPut k n _ _, some t => if ready then some (finishCopy (invertPhase s t k n) o.id) else none
  | .stgRel k, some t => if ready && takesRead s o k then some (finishCopy (addFree s t k) o.id) else none
  | _, _ => if ready then some (finishCopy s o.id) else none

/-- COPY_OPERATION_COMPLETE. -/
def execCopyOperationComplete (op : Nat) (s : State) : Host.Outcome State Fault Refusal :=
  match findOp s op with
  | none => .fault .notEnabled
  | some o => if o.kind.isCopy then orNotEnabled (completeCopy s o) else .fault .notEnabled

end Sys2Proof.Machine
end

