-- ==== Sys2Proof/Machine/Matrix.lean ====
section
/-!
DEFINITION. The matrix engine (R334 to R368): tiles and bound registers, gangs and their rendezvous latch, the sums of R68 and R69 with the
bound of R349, ragged groups, and the twelve MAT instructions.
-/

namespace Sys2Proof.Machine

/-! ## Tiles and bounds (R334 to R336) -/

/-- BOUND of a bound register. -/
def Wave.bound (w : Wave) (k : Nat) : W32 := (w.bnd k).extractLsb' 0 32
/-- THRESH. -/
def Wave.thresh (w : Wave) (k : Nat) : W32 := (w.bnd k).extractLsb' 32 32
/-- BOUND written. -/
def Wave.setBound (w : Wave) (k : Nat) (x : W32) : Wave := w.setBnd k (w.thresh k ++ x)
/-- The tile is in EXACT mode. -/
def Wave.isExact (w : Wave) (k : Nat) : Bool := w.exact.getLsbD k

/-- An earlier MAT instruction has not finished with a tile: an ACCLD that loads it, or a word whose turn on it is still to come (R357). -/
def Op.namesTile (o : Op) (k : Nat) : Bool :=
  o.phase != .complete && (match o.kind with | .accLoad j _ => j == k | .matWord j _ => j == k | _ => false)

/-- A tile is in use. -/
def tileBusy (s : State) (e : Env) (k : Nat) : Bool := (waveOps s e.who.tid e.who.wave).any (·.namesTile k)

/-- A MAT word of the wave has its turn still to come. -/
def matPending (s : State) (e : Env) : Bool := (waveOps s e.who.tid e.who.wave).any fun o => o.kind.isMatWord && o.phase != .complete

/-- A MAT instruction whose word holds the wave, since its fault is precise or it arrives at a latch, waits for its tiles. -/
def whenTile (s : State) (e : Env) (ks : List Nat) (v : Unit → Verdict) : Verdict :=
  if ks.any (tileBusy s e) || matPending s e then tryAgain s e else v ()

/-- A MAT word whose turn is still to come goes out, and the wave goes on behind it (R357). `lanes` are those it writes one by one. -/
def pushMat (s : State) (e : Env) (cn : Option Nat) (k : Nat) (store : Bool) (lanes : W32) (kept : List Nat) (accs : List Access) : State :=
  pushOp s { mkOp s e.who e.w (.matWord k store) cn e.va (e.k.words.getD e.k.idx 0) (pathFlags e.p) accs true .issued with unread := lanes, kept := kept }

/-- A MAT instruction of one tile: it has its effect at once, or waits behind an earlier one of its tile; one that reads or writes registers may
do so late (R30), and keeps its order with others that do. -/
def matEffect (s : State) (e : Env) (k : Nat) (regs : Bool) (lanes : W32) (kept : List Nat) (now : Wave → Wave) : Verdict :=
  if tileBusy s e k || (regs && (s.inputs.late || matPending s e)) then .ok (pushMat s e none k false lanes kept [])
  else .ok (updCur s e.who now)

/-- The value of an AC96 pattern. -/
def acVal (x : BitVec 96) : FVal := readF .ac96 x.toNat

/-- Rounding into AC96, RNE: the element and its part of the bound: 0 if exact, a half unit if rounded, unbounded for a NaN or an
infinity (R349, R365). -/
def acRound (v : FVal) : BitVec 96 × Option Mag :=
  let r := roundF .ac96 0 v
  match readF .ac96 r.1 with
  | .num _ m e => (BitVec.ofNat 96 r.1, some (if Nat.land r.2 (fNX + fOF) = 0 then (0, 0) else hulp .ac96 (m, e)))
  | _ => (BitVec.ofNat 96 r.1, none)

/-- `eb_add_up` of an EB32 and an exact magnitude. -/
def ebAddMag (x : W32) (m : Mag) : W32 := match ebVal x with | some a => ebUp (magAdd a m) | none => ebUnbounded

/-- The largest of the parts of a bound; unbounded where one is. -/
def maxPart (l : List (Option Mag)) : Option Mag :=
  l.foldl (fun m x => match m, x with | some a, some b => some (magMax a b) | _, _ => none) (some (0, 0))

/-- `eb_add_up` of an EB32 and an exact part of a bound, rounded once (R62). -/
def ebAddPart (x : W32) (m : Option Mag) : W32 := match m with | some m => ebAddMag x m | none => ebUnbounded

/-- `eb_mul_up` of an exact magnitude and an EB32. -/
def ebMulMag (m : Mag) (x : W32) : W32 := match ebVal x with | some a => ebUp (magMul m a) | none => ebUnbounded

/-- A tile cleared (R361). -/
def Wave.clearTile (w : Wave) (k : Nat) : Wave := { w with acc := Sparse.clear w.acc (4096 * k) 4096 }.setBound k 0

/-- ACCZ (R361). -/
def execAccz (f : Fields) (s : State) : Host.Outcome State Fault Refusal :=
  issue (.accz f) s fun e s => matEffect s e f.d.toNat false 0 [] fun w => w.clearTile f.d.toNat

/-- A tile's mode set (R361). -/
def Wave.setExact (w : Wave) (k : Nat) (exact : Bool) : Wave :=
  let bit : Word := BitVec.ofNat 64 (2 ^ k)
  { w with exact := if exact then w.exact ||| bit else w.exact &&& ~~~bit }

/-- ACCMODE (R361). -/
def execAccmode (f : Fields) (s : State) : Host.Outcome State Fault Refusal :=
  issue (.accmode f) s fun e s => matEffect s e f.d.toNat false 0 [] fun w => w.setExact f.d.toNat (f.bmod ≠ 0)

/-- What BNDSET writes of a scalar: both fields, BOUND or THRESH (R366). -/
def Wave.bndset (w : Wave) (k mode : Nat) (x : Word) : Wave :=
  let lo := canonEb (x.extractLsb' 0 32)
  match mode with
  | 0 => w.setBnd k (canonEb (x.extractLsb' 32 32) ++ lo)
  | 1 => w.setBound k lo
  | _ => w.setBnd k (lo ++ w.bound k)

/-- BNDSET (R366). -/
def execBndset (f : Fields) (s : State) : Host.Outcome State Fault Refusal :=
  issue (.bndset f) s fun e s =>
    let x := e.p.s f.a.toNat
    if f.bmod ≠ 0 && x.extractLsb' 32 32 ≠ 0 then illegal subField
    else matEffect s e f.d.toNat true 0 [] fun w => w.bndset f.d.toNat f.bmod.toNat x

/-- BNDRD (R366); with no active lane it writes no scalar (R42). -/
def execBndrd (f : Fields) (s : State) : Host.Outcome State Fault Refusal :=
  issue (.bndrd f) s fun e s =>
    if e.act = 0 then .ok s else matEffect s e f.a.toNat true 0 [] fun w => { w with path := w.path.setS f.d.toNat (w.bnd f.a.toNat) }

/-! ## ACCRD and ACCOP (R364, R365) -/

/-- The registers that ACCRD writes from one element. -/
def readOut (code : Nat) (x : BitVec 96) : List W32 :=
  match code with
  | 0 => [BitVec.ofNat 32 (roundF .fp32 0 (acVal x)).1]
  | 1 => let v := (roundF .fp64 0 (acVal x)).1; [BitVec.ofNat 32 v, BitVec.ofNat 32 (v / 2 ^ 32)]
  | _ => [x.extractLsb' 0 32, x.extractLsb' 32 32, x.extractLsb' 64 32]

/-- Row `r` of a tile in some lanes of the registers from `d`. -/
def Wave.readRow (w : Wave) (d k code r : Nat) (lanes : W32) : Wave :=
  (upto 32).foldl (fun x l =>
    if lanes.getLsbD l then setRegs x d l (readOut code (w.el k r l) ++ readOut code (w.el k r (l + 32))) else x) w

/-- ACCRD: every lane is written, whatever `em` holds. -/
def execAccrd (f : Fields) (s : State) : Host.Outcome State Fault Refusal :=
  issue (.accrd f) s fun e s =>
    let r := if f.bsp = 1 then (e.p.s f.b.toNat).toNat else imm8u f
    if 63 < r then illegal subField
    else matEffect s e f.a.toNat true 0xFFFFFFFF [r] fun w => w.readRow f.d.toNat f.a.toNat f.c.toNat r 0xFFFFFFFF

/-- One element of ACCOP. -/
def accElem (code : Nat) (sc : FVal) (d a : BitVec 96) : BitVec 96 × Option Mag :=
  match code with
  | 0 => acRound (addF 0 (acVal d) (acVal a)).1
  | 1 => acRound (addF 0 (acVal d) (negF (acVal a))).1
  | 2 => acRound (mulF (acVal d) sc).1
  | _ => (a, some (0, 0))

/-- The scale of ACCOP as a bound: `eb_up(|s|)`. -/
def scaleEb (v : FVal) : W32 := match v with | .num _ m e => ebUp (m, e) | _ => ebUnbounded

/-- The new bound of ACCOP (R365). -/
def accBound (code : Nat) (sc : FVal) (bd ba : W32) (own : Option Mag) : W32 :=
  match code with
  | 0 | 1 => ebAddPart (ebAdd bd ba) own
  | 2 => ebAddPart (ebMul bd (scaleEb sc)) own
  | _ => ba

/-- The tile with a list of elements written. -/
def Wave.setEls (w : Wave) (k : Nat) (l : List ((Nat × Nat) × BitVec 96)) : Wave :=
  l.foldl (fun w q => w.setEl k q.1.1 q.1.2 q.2) w

/-- The places of a tile in row order. -/
def places : List (Nat × Nat) := (upto 64).flatMap fun i => (upto 64).map fun j => (i, j)

/-- ACCOP. -/
def execAccop (f : Fields) (s : State) : Host.Outcome State Fault Refusal :=
  issue (.accop f) s fun e s => whenTile s e [f.d.toNat, f.a.toNat] fun _ =>
    let sc := readF .fp32 ((e.p.s f.b.toNat).toNat % 2 ^ 32)
    let new := places.map fun p => (p, accElem f.c.toNat sc (e.w.el f.d.toNat p.1 p.2) (e.w.el f.a.toNat p.1 p.2))
    let own := maxPart (new.map (·.2.2))
    let b := accBound f.c.toNat sc (e.w.bound f.d.toNat) (e.w.bound f.a.toNat) own
    if e.w.thresh f.d.toNat < b then faulting .bound 1 (b.zeroExtend 64)
    else .ok (updCur s e.who fun w => (w.setEls f.d.toNat (new.map fun q => (q.1, q.2.1))).setBound f.d.toNat b)

/-! ## ACCLD and ACCST (R362, R363) -/

/-- The rows of a tile in memory: address of each. -/
def tileRowAddr (e : Env) (i : Nat) : Int := (sideAddr e e.f.a : Int) + i * sextInt (bitsOf (e.p.s e.f.b.toNat).toNat 31 0) 32

/-- Of several faults at issue, the first of the lowest code, and within it of the lowest subcode (R33). -/
def lowestCode (l : List FaultInfo) : Option FaultInfo :=
  match (l.map (·.code.num)).min? with
  | some k => lowestFault (l.filter fun x => x.code.num == k)
  | none => none

/-- What ACCLD and ACCST check of their rows, in no order of its own: alignment of base and stride, and the range of every row (R362). -/
def tileFaults (s : State) (e : Env) (lev : Level) (n : Nat) : List FaultInfo :=
  let sg := sextInt (bitsOf (e.p.s e.f.b.toNat).toNat 31 0) 32
  (if sideAddr e e.f.a % 16 ≠ 0 then [⟨.align, 3, e.p.s e.f.a.toNat⟩] else [])
    ++ (if sg % 16 ≠ 0 then [⟨.align, 3, BitVec.ofInt 64 sg⟩] else [])
    ++ ((upto 64).flatMap fun i => (sideRange s e.t e.c lev (tileRowAddr e i) n).toList)
    ++ (upto 64).flatMap fun i => (ownershipFault s e.t 0 e.w.ix lev (tileRowAddr e i) n).toList

/-- What an ACCST checks of its side record: alignment and range; 0 names none (R363). -/
def recordFaults (s : State) (e : Env) : List FaultInfo :=
  let a := sideAddr e (e.f.b + 1)
  if a = 0 then []
  else (if a % 16 ≠ 0 then [⟨.align, 3, BitVec.ofNat 64 a⟩] else []) ++ (sideRange s e.t e.c .g a 16).toList

/-- The accesses of one row, numbered from `k`: sector by sector in global memory, whole at a scratchpad level. -/
def rowAccs (lev : Level) (a : Int) (n data : Nat) : List (Int × Nat × Nat) :=
  if lev = .g then
    ((piecesOf a.toNat n).foldl (fun (acc : List (Int × Nat × Nat) × Nat) p =>
      (acc.1 ++ [((p.1 : Int), p.2, acc.2 % 256 ^ p.2)], acc.2 / 256 ^ p.2)) ([], data)).1
  else [(a, n, data)]

/-- The accesses of all rows of a tile, numbered from 64, so that no lane's own number meets them (R90). -/
def tileAccs (e : Env) (lev : Level) (n : Nat) (data : Nat → Nat) : List Access :=
  (((upto 64).flatMap fun i => rowAccs lev (tileRowAddr e i) n (data i)).zipIdx).map fun q => accOf (64 + q.2) lev q.1.1 q.1.2.1 q.1.2.2 0

/-- An operation of the matrix engine goes out, and has its turn on its tile at once or later (R357). -/
def issueTile (s : State) (e : Env) (k : Nat) (kind : OpKind) (regWork : Bool) (accs : List Access) : Verdict :=
  if counterFull s e (some (counterName e.f)) then tryAgain s e
  else if tileBusy s e k then .ok (pushMat s e (some (counterName e.f)) k (!regWork) 0 [] accs)
  else
    .ok (pushOp s (mkOp s e.who e.w kind (some (counterName e.f)) e.va (e.k.words.getD e.k.idx 0) (pathFlags e.p) accs regWork .issued))

/-- A tile's operation with no active lane accesses no memory, and leaves the tile as it is; its counter is raised and lowered in order (R42). -/
def issueNoRows (s : State) (e : Env) : Verdict :=
  if counterFull s e (some (counterName e.f)) then tryAgain s e
  else
    .ok (lower (pushOp s (mkOp s e.who e.w .none (some (counterName e.f)) e.va (e.k.words.getD e.k.idx 0) (pathFlags e.p) [] false .complete)))

/-- ACCLD. -/
def execAccld (f : Fields) (s : State) : Host.Outcome State Fault Refusal :=
  issue (.accld f) s fun e s =>
    match storageFmt f.c.toNat with
    | none => faulting .format 1 0
    | some fm =>
      if bitsOf (e.p.s f.b.toNat).toNat 63 32 ≠ 0 then illegal subField
      else if e.act = 0 then issueNoRows s e
      else
        let lev := levelOfCode f.bmod.toNat
        match lowestCode (tileFaults s e lev (rowBytes fm)) with
        | some fi => .trap fi
        | none => issueTile s e f.d.toNat (.accLoad f.d.toNat f.c.toNat) true (tileAccs e lev (rowBytes fm) fun _ => 0)

/-- One converted element: its pattern, and whether it overflowed (R363). -/
def convElem (fm : Fmt) (raw sat : Bool) (rm : Nat) (x : BitVec 96) : Nat × Bool × Bool :=
  if raw then (x.toNat, false, true)
  else
    let v := acVal x
    let r := roundF fm rm v
    match v with
    | .num sg _ _ =>
      let toInf := match readF fm r.1 with | .inf _ => true | _ => false
      (if sat && toInf then maxPattern fm sg else r.1, Nat.land r.2 fOF ≠ 0, Nat.land r.2 (fNX + fOF) = 0)
    | _ => (r.1, false, false)

/-- A value is a NaN or an infinity. -/
def nonFinite (v : FVal) : Bool := match v with | .num _ _ _ => false | _ => true

/-- The side record's amax: the largest magnitude, rounded up to FP32; a NaN counts as +∞ (R363). -/
def tileAmax (ys : List FVal) : Nat :=
  if ys.any nonFinite then 0x7F800000
  else
    let m := ys.foldl (fun (m : Mag) v => match v with | .num _ n e => magMax m (n, e) | _ => m) (0, 0)
    (roundFinite .fp32 2 false m.1 m.2).1

/-- The 16 bytes of a side record (R353). -/
def sideRecord (amax : Nat) (bout : W32) (gen flags : Nat) : Nat := amax + 2 ^ 32 * bout.toNat + 2 ^ 64 * gen + 2 ^ 96 * flags

/-- What ACCST stores: the rows as numbers, and the side record. -/
def storeTile (e : Env) (fm : Fmt) (gen : Nat) : (Nat → Nat) × Nat :=
  let k := e.f.c.toNat
  let code := e.f.d.toNat
  let raw := 128 ≤ code
  let rm := code / 16 % 4
  let el (p : Nat × Nat) : BitVec 96 := e.w.el k p.1 p.2
  let ys := places.map fun p => (el p, convElem fm raw (code / 64 % 2 == 1) rm (el p))
  let vals := ys.map fun q => if raw then acVal q.1 else readF fm q.2.1
  let amax := tileAmax vals
  let anyNon := ys.any fun q => nonFinite (acVal q.1)
  let anyOver := ys.any fun q => q.2.2.1
  let bnd := e.w.bound k
  let bout :=
    if raw then bnd
    else if anyNon || anyOver then ebUnbounded
    else if ys.all fun q => q.2.2.2 then bnd
    else ebAddMag bnd (magMul (if rm = 0 then 1 else 2, 0) (hulp fm (patMag .fp32 amax)))
  let flags := (if !raw && anyOver then 1 else 0) + (if anyNon then 2 else 0) + (if e.w.isExact k then 4 else 0) + (if e.w.attempt = 1 then 8 else 0)
  (fun i => joinElems (fmtBits fm) (((ys.drop (64 * i)).take 64).map fun q => q.2.1), sideRecord amax bout gen flags)

/-- The accesses of an ACCST: its rows, and its side record. -/
def storeAccs (e : Env) (fm : Fmt) : List Access :=
  let d := storeTile e fm (bitsOf (e.p.s e.f.b.toNat).toNat 63 32)
  let rows := tileAccs e (levelOfCode e.f.bmod.toNat) (rowBytes fm) d.1
  let rec_ := sideAddr e (e.f.b + 1)
  rows ++ if rec_ = 0 then [] else [accOf (64 + rows.length) .g rec_ 16 d.2 0]

/-- ACCST. -/
def execAccst (f : Fields) (s : State) : Host.Outcome State Fault Refusal :=
  issue (.accst f) s fun e s =>
    match storageFmt f.d.toNat with
    | none => faulting .format 1 0
    | some fm =>
      let lev := levelOfCode f.bmod.toNat
      if e.act = 0 then issueNoRows s e
      else
        match lowestCode (tileFaults s e lev (rowBytes fm) ++ recordFaults s e) with
        | some fi => .trap fi
        | none => issueTile s e f.c.toNat (.accStore f.c.toNat) false (storeAccs e fm)

/-! ## A turn on a tile (R354, R357) -/

/-- The earlier MAT instructions that a waiting word follows have finished: those of its tile, and those that wait like it. -/
def hasTurn (s : State) (o : Op) (k : Nat) : Bool :=
  (waveOps s o.tid o.wave).all fun p => decide (o.id ≤ p.id) || !(p.namesTile k || (p.kind.isMatWord && p.phase != .complete))

/-- The bytes of a tile's rows and of its side record after them, as one number. -/
def tileStream (e : Env) (fm : Fmt) : Nat :=
  let d := storeTile e fm (bitsOf (e.p.s e.f.b.toNat).toNat 63 32)
  joinElems (8 * rowBytes fm) ((upto 64).map d.1) + 256 ^ (64 * rowBytes fm) * d.2

/-- Accesses that take their data from a number, the lowest bytes first. -/
def takeData (accs : List Access) (data : Nat) : List Access :=
  (accs.foldl (fun (acc : List Access × Nat) x => (acc.1 ++ [{ x with data := acc.2 % 256 ^ x.n }], acc.2 / 256 ^ x.n)) ([], data)).1

/-- A waiting word of the matrix engine has its turn: ACCRD writes the given lanes, ACCLD and ACCST begin their accesses, with the addresses
that were checked as they issued, and the others have their whole effect. -/
def matTurn (s : State) (o : Op) (lanes : W32) : State :=
  match envAgain s o lanes with
  | none => completeOp s o
  | some e =>
    let f := e.f
    let own (g : Wave → Wave) : State := updWave s o.tid o.wave g
    match e.i with
    | .accz _ => completeOp (own fun w => w.clearTile f.d.toNat) o
    | .accmode _ => completeOp (own fun w => w.setExact f.d.toNat (f.bmod ≠ 0)) o
    | .bndset _ => completeOp (own fun w => w.bndset f.d.toNat f.bmod.toNat (e.p.s f.a.toNat)) o
    | .bndrd _ => completeOp (own fun w => setPathScalar w o.pid f.d.toNat (w.bnd f.a.toNat)) o
    | .accrd _ =>
      let s1 := own fun w => w.readRow f.d.toNat f.a.toNat f.c.toNat (o.kept.headD 0) (lanes &&& o.unread)
      let left := o.unread &&& ~~~lanes
      if left = 0 then completeOp s1 o else updOp s1 o.id fun o => { o with unread := left }
    | .accld _ => updOp s o.id fun o => { o with kind := .accLoad f.d.toNat f.c.toNat }
    | .accst _ =>
      match storageFmt f.d.toNat with
      | none => completeOp s o
      | some fm =>
        updOp s o.id fun o => { o with kind := .accStore f.c.toNat, regWork := false, accs := takeData o.accs (tileStream e fm) }
    | _ => completeOp s o

/-- LOAD_PERFORM: the selected lanes of a load are performed, or what an operation has still to read or write of its registers is. -/
def execLoadPerform (op : Nat) (lanes : W32) (s : State) : Host.Outcome State Fault Refusal :=
  match findOp s op with
  | none => .fault .notEnabled
  | some o =>
    match o.kind with
    | .matWord k _ => if o.phase = .issued && hasTurn s o k && decide (lanes ≠ 0) then .next (matTurn s o lanes) else .fault .notEnabled
    | _ => performLoads op lanes s

/-! ## Gangs (R338, R339, R367) -/

/-- BMAP's slot of quarter `q`. -/
def gangB (gr : Word) (q : Nat) : Nat := bitsOf gr.toNat (29 + 3 * q) (27 + 3 * q)

/-- AMAP's slot of half `h`. -/
def gangA (gr : Word) (h : Nat) : Nat := bitsOf gr.toNat (41 + 3 * h) (39 + 3 * h)

/-- A `%gr` value is valid for a wave that writes it (R339). -/
def gangValid (s : State) (tid ix : Nat) (gr : Word) : Bool :=
  let n := gangSize gr
  let ms := gangMembers gr
  bitsOf gr.toNat 63 45 == 0 && decide (2 ≤ n) && decide (n ≤ 6) && ms.dedup.length == ms.length && ms.contains ix
    && (ms.all fun k => s.waves.any fun w => w.tid == tid && w.ix == k && w.role = .matrix)
    && ((upto 6).all fun k => decide (k < n) || gangSlot gr k == 0)
    && ((upto 4).all fun q => decide (gangB gr q < n))
    && (if 5 ≤ n then (upto 2).all fun h => decide (gangA gr h < n) else bitsOf gr.toNat 44 39 == 0)
    && ((upto n).all fun k => (upto 4).any (fun q => gangB gr q == k) || (decide (5 ≤ n) && (upto 2).any fun h => gangA gr h == k))

/-- GANGSET. -/
def execGangset (f : Fields) (s : State) : Host.Outcome State Fault Refusal :=
  issue (.gangset f) s fun e s =>
    let gr := e.p.s f.a.toNat
    if (gangSize gr = 5 || gangSize gr = 6) && !featOn s 6 then illegal subFeature
    else if !gangValid s e.who.tid e.who.wave gr then illegal subField
    else .ok (updCur s e.who fun w => { w with gr := gr, gangEnded := false })

/-- GANGREL: the other members learn that the gang has ended (R343). -/
def execGangrel (f : Fields) (s : State) : Host.Outcome State Fault Refusal :=
  issue (.gangrel f) s fun e s =>
    if e.w.gr = 0 then .ok s
    else .ok (breakGangs (updCur s e.who fun w => { w with gr := 0, gangEnded := false }) e.who.tid e.who.wave)

/-! ## Arrival at the latch (R342, R358) -/

/-- The lower quarters that the slot of quarter `q` holds too (R340). -/
def lowerQuarters (gr : Word) (q : Nat) : Nat := ((upto q).filter fun p => gangB gr p == gangB gr q).length

/-- The slot of a wave. -/
def slotOfWave (gr : Word) (ix : Nat) : Nat := ((gangMembers gr).findIdx? (· == ix)).getD 0

/-- How many quarters a slot holds. -/
def quartersOf (gr : Word) (k : Nat) : Nat := ((upto 4).filter fun q => gangB gr q == k).length

/-- How many halves of A a slot holds. -/
def halvesOf (gr : Word) (k : Nat) : Nat := if gangSize gr < 5 then 0 else ((upto 2).filter fun h => gangA gr h == k).length

/-- A control (R358): what is wrong with it in this member. -/
def controlErrors (e : Env) : Bool :=
  let x := (e.p.s e.f.a.toNat).toNat
  let gr := e.w.gr
  let vA := bitsOf x 39 32
  if gangSize gr < 5 then bitsOf x 63 32 ≠ 0
  else bitsOf x 63 40 ≠ 0 || bitsOf x 31 0 ≠ 0 || (halvesOf gr (slotOfWave gr e.w.ix) ≠ 0 && vA % 8 ≠ 0)

/-- The member's quarters and halves lie in blocks it holds (R358). -/
def operandsHeld (e : Env) (quarters : Bool) : Bool :=
  let gr := e.w.gr
  let k := slotOfWave gr e.w.ix
  let vA := bitsOf (e.p.s e.f.a.toNat).toNat 39 32
  blocksHeld e.w ((if quarters && quartersOf gr k ≠ 0 then [(e.f.b.toNat, 4 * quartersOf gr k)] else [])
    ++ (if halvesOf gr k ≠ 0 then [(vA, 8 * halvesOf gr k)] else []))

/-- The round that an arrival belongs to: one whose gang names this wave, or one of whose arrivals this wave's gang names. -/
def findRound (t : Team) (ix : Nat) (gr : Word) : Option Round :=
  t.rounds.find? fun r => (gangMembers r.gr).contains ix || r.arrived.any fun k => (gangMembers gr).contains k

/-- GANG_BROKEN or another fault, precise in every wave of a list that has not ended, at the word it stands at. -/
def faultAll (s : State) (tid : Nat) (ks : List Nat) (fi : FaultInfo) : State :=
  ks.foldl (fun s k =>
    match findWave s tid k with
    | some w => if w.status = .ended then s else deliver (updWave s tid k fun w => { w with status := .running }) ⟨tid, k, none⟩ fi (preciseAt w.path.nextVa)
    | none => s) s

/-- The wave arrives at its gang's latch. -/
def arriveLatch (s : State) (e : Env) : Verdict :=
  let word := e.k.words.getD e.k.idx 0
  let task := e.w.task.isSome
  let ix := e.w.ix
  let wait (g : Team → Team) : Verdict := waitAs (updTeam s e.t.tid g) e .latch
  match findRound e.t ix e.w.gr with
  | none => wait fun t => { t with rounds := t.rounds ++ [⟨e.w.gr, word, task, [ix]⟩] }
  | some r =>
    if r.gr = e.w.gr && r.word = word && r.inTask = task then
      wait fun t => { t with rounds := t.rounds.map fun x => if x = r then { x with arrived := insertUp ix x.arrived } else x }
    else
      .stall (faultAll (updTeam s e.t.tid fun t => { t with rounds := t.rounds.filter (· != r) }) e.t.tid (insertUp ix r.arrived) ⟨.gangBroken, 2, 0⟩)

/-- MMA and MMAR at issue, in each member (R359). A member with no active lane passes the checks, and then neither arrives nor accesses memory
(R42; DEDUCED: log entry 27). -/
def issueMma (s : State) (e : Env) (quarters : Bool) : Verdict :=
  if e.w.gr = 0 then illegal subField
  else if controlErrors e then illegal subField
  else if !operandsHeld e quarters then illegal subBlock
  else if matPending s e || (slotOfWave e.w.gr e.w.ix = 0 && tileBusy s e e.f.d.toNat) then tryAgain s e
  else if e.w.gangEnded then
    .stall (deliver (updCur s e.who fun w => { w with gr := 0, gangEnded := false }) e.who ⟨.gangBroken, 3, 0⟩ (preciseAt e.va))
  else if e.act = 0 then .ok s
  else arriveLatch s e

/-- MMA. -/
def execMma (f : Fields) (s : State) : Host.Outcome State Fault Refusal := issue (.mma f) s fun e s => issueMma s e true
/-- MMAR. -/
def execMmar (f : Fields) (s : State) : Host.Outcome State Fault Refusal := issue (.mmar f) s fun e s => issueMma s e false

/-! ## Operands at latch exit (R340, R341, R346, R351) -/

/-- One half of a format block. -/
structure Half where
  fmt : Nat
  mode : Nat
  len : Nat
  amax : Nat
  bound : W32
  bmoff : Nat
  scoff : Nat
  rest : Nat

/-- A half of a format block in 24 bytes. -/
def readHalf (bs : List Byte) : Half :=
  ⟨descField bs 0 1, descField bs 1 1, descField bs 2 2, descField bs 4 4, BitVec.ofNat 32 (descField bs 8 4), descField bs 12 4, descField bs 16 4,
    descField bs 20 4⟩

/-- K of an input width (R337). -/
def kOf (f : Fmt) : Nat := 256 / fmtBits f

/-- One group of rows: its first row, count, and the offset of its B (R351). -/
structure Group where
  first : Nat
  n : Nat
  boff : Nat

/-- The number of groups that the first bytes of a table give; a table whose G is not 1 to 16 has none, and breaks its rule. -/
def tableGroups (bs : List Byte) : Nat := let g := descField bs 0 1; if g ≤ 16 then g else 0

/-- The groups of a group table, and whether the table breaks its rule. -/
def readGroups (bs : List Byte) : List Group × Bool :=
  let gs := (upto (tableGroups bs)).foldl (fun (acc : List Group × Nat) k =>
    let n := descField bs (8 + 8 * k) 2
    (acc.1 ++ [⟨acc.2, n, descField bs (12 + 8 * k) 4⟩], acc.2 + n)) ([], 0)
  let bad := decide (tableGroups bs = 0) || descField bs 1 7 ≠ 0 || decide (64 < gs.2)
    || (upto (tableGroups bs)).any fun k => descField bs (10 + 8 * k) 2 ≠ 0
  (gs.1, bad)

/-- What a matrix operation works on: leader, gang, tile, `.z`, and the offsets that the leader supplies. -/
structure MatOp where
  t : Team
  lead : Wave
  gr : Word
  f : Fields
  ragged : Bool
  a : Nat
  tab : Nat
  fb : Nat

/-- The operation of a round that may leave its latch. -/
def matOp (s : State) (t : Team) (r : Round) : Option MatOp :=
  match findWave s t.tid (gangSlot r.gr 0), decode r.word with
  | some w, .ok i =>
    match i, fieldsOf i with
    | .mma _, some f => some ⟨t, w, r.gr, f, false, bitsOf (w.path.s f.a.toNat).toNat 31 0, 0, (w.path.s f.c.toNat).toNat⟩
    | .mmar _, some f =>
      some ⟨t, w, r.gr, f, true, bitsOf (w.path.s f.a.toNat).toNat 31 0, (w.path.s f.b.toNat).toNat, (w.path.s f.c.toNat).toNat⟩
    | _, _ => none
  | _, _ => none

/-- Bytes of the leader's core area. -/
def matBytes (s : State) (m : MatOp) (a n : Nat) : Option (List Byte) := coreBytes s m.t m.lead.ix a n

/-- Byte `p` of a run of lane registers of a member (R340). -/
def regByte (w : Wave) (first p : Nat) : Byte := BitVec.ofNat 8 (bitsOf (w.v (first + p / 128) (p % 128 / 4)).toNat (8 * (p % 4) + 7) (8 * (p % 4)))

/-- 32 bytes of lane registers from byte `p`. -/
def regBytes (w : Wave) (first p : Nat) : List Byte := (upto 32).map fun i => regByte w first (p + i)

/-- Row `i` of A: from the core area, or from the registers of the half's holder. -/
def rowOfA (s : State) (m : MatOp) (i : Nat) : List Byte :=
  if gangSize m.gr < 5 then (matBytes s m (m.a + 32 * i) 32).getD []
  else
    let h := i / 32
    let slot := gangA m.gr h
    match findWave s m.t.tid (gangSlot m.gr slot) with
    | none => []
    | some w =>
      let vA := bitsOf (w.path.s m.f.a.toNat).toNat 39 32
      regBytes w (vA + if h = 1 && gangA m.gr 0 = slot then 8 else 0) (32 * (i % 32))

/-- Column `j` of B of an MMA: from the registers of the quarter's holder. -/
def colOfB (s : State) (m : MatOp) (j : Nat) : List Byte :=
  let q := j / 16
  match findWave s m.t.tid (gangSlot m.gr (gangB m.gr q)) with
  | none => []
  | some w => regBytes w (m.f.b.toNat + 4 * lowerQuarters m.gr q) (32 * (j % 16))

/-- The elements in 32 bytes, as values. -/
def elemsOf (f : Fmt) (bs : List Byte) : List FVal :=
  let v := leNat bs
  (upto (kOf f)).map fun k => readF f (v / 2 ^ (fmtBits f * k) % 2 ^ fmtBits f)

/-- The start marks of the blocks of row or column `i` of an operand (R65, R66). -/
def blockStarts (s : State) (m : MatOp) (h : Half) (k i : Nat) : List Bool :=
  match h.mode with
  | 1 => (upto k).map fun x => x % h.len == 0
  | 2 =>
    let v := leNat ((matBytes s m (h.bmoff + 16 * i) 16).getD [])
    (upto k).map fun x => x == 0 || bitsOf v x x == 1
  | _ => (upto k).map (· == 0)

/-- The scales of row or column `i`, one for each block. -/
def blockScales (s : State) (m : MatOp) (h : Half) (k i n : Nat) : List Nat :=
  if h.mode = 3 then [0x3F80]
  else
    let bs := (matBytes s m (h.scoff + 2 * k * i) (2 * n)).getD []
    (upto n).map fun b => descField bs (2 * b) 2

/-- One row of A or column of B: its elements with their block's scale and start mark. -/
def operandLine (s : State) (m : MatOp) (h : Half) (f : Fmt) (i : Nat) (bs : List Byte) : List (FVal × Nat × Bool) :=
  let starts := blockStarts s m h (kOf f) i
  let scales := blockScales s m h (kOf f) i (starts.filter id).length
  let ix := (starts.foldl (fun (acc : List Nat × Nat) b => let k := if b then acc.2 + 1 else acc.2; (acc.1 ++ [k - 1], k)) ([], 0)).1
  ((elemsOf f bs).zip (ix.zip starts)).map fun q => (q.1, scales.getD q.2.1 0, q.2.2)

/-! ## Sums (R68, R69) -/

/-- An exact signed number v · 2^e. -/
abbrev Dyadic := Int × Int

/-- The sum of two. -/
def dyAdd (x y : Dyadic) : Dyadic :=
  let e0 := min x.2 y.2
  (x.1 * 2 ^ (x.2 - e0).toNat + y.1 * 2 ^ (y.2 - e0).toNat, e0)

/-- The product of two. -/
def dyMul (x y : Dyadic) : Dyadic := (x.1 * y.1, x.2 + y.2)

/-- A finite value as an exact number. -/
def dyOf (v : FVal) : Dyadic := match v with | .num s m e => (if s then -(m : Int) else m, e) | _ => (0, 0)

/-- A scale as an exact number. -/
def dyScale (x : Nat) : Dyadic := let m := patMag .bf16 x; ((m.1 : Int), m.2)

/-- The scaled sums S(s) of the sub-blocks of a row and a column: the sub-blocks are cut where either operand starts a block. -/
def subSums (a b : List (FVal × Nat × Bool)) : List Dyadic :=
  (cutBlocks ((a.zip b).map fun q => (q.1.2.2 || q.2.2.2, q))).map fun g =>
    let p := g.foldl (fun acc q => dyAdd acc (dyMul (dyOf q.1.1) (dyOf q.2.1))) (0, 0)
    match g with
    | [] => p
    | q :: _ => dyMul p (dyMul (dyScale q.1.2.1) (dyScale q.2.2.1))

/-- What special values make of an element (R69): none when every product is finite. -/
def specialSum (a b : List (FVal × Nat × Bool)) : Option FVal :=
  let ps := (a.zip b).map fun q => (mulF q.1.1 q.2.1).1
  if (a.any fun q => isNan q.1) || (b.any fun q => isNan q.1) || ps.any isNan then some (.nan false false)
  else
    let infs := ps.filterMap fun p => match p with | .inf s => some s | _ => none
    match infs with
    | [] => none
    | x :: r => if r.all (· == x) then some (.inf x) else some (.nan false false)

/-- A sub-block sum truncated toward zero to a multiple of 2^q, and the magnitude lost. -/
def truncSum (q : Int) (x : Dyadic) : Dyadic × Mag :=
  if q ≤ x.2 then (x, (0, 0))
  else
    let k := (q - x.2).toNat
    let m := x.1.natAbs / 2 ^ k
    ((if x.1 < 0 then -(m : Int) else m, q), (x.1.natAbs % 2 ^ k, x.2))

/-- T and the bound of what FAST mode loses (R68, R349). -/
def combine (exact : Bool) (ss : List Dyadic) : Dyadic × W32 :=
  match (ss.filter fun x => x.1 ≠ 0).map fun x => magLog (x.1.natAbs, x.2) with
  | [] => ((0, 0), 0)
  | l :: ls =>
    if exact then (ss.foldl dyAdd (0, 0), 0)
    else
      let q := ls.foldl max l - 56
      ss.foldl (fun acc x => let r := truncSum q x; (dyAdd acc.1 r.1, ebAddMag acc.2 r.2)) ((0, 0), 0)

/-- One element of an MMA: its new value, and `own` (R349, R359). An accumulator that is a NaN keeps a NaN, also where every infinite product has
one sign: R359 rounds old + T (DEDUCED: R69's last case speaks of the sum of the products; log entry 90). -/
def mmaElem (exact : Bool) (old : BitVec 96) (a b : List (FVal × Nat × Bool)) : BitVec 96 × W32 :=
  match specialSum a b with
  | some v => ((acRound (addF 0 (acVal old) v).1).1, ebUnbounded)
  | none =>
    let c := combine exact (subSums a b)
    let t := ofUnits c.1.1 c.1.2 false
    let r := acRound (addF 0 (acVal old) t).1
    (r.1, ebAddPart c.2 r.2)

/-- `prop` of R349. -/
def mmaProp (ha hb : Half) (k : Nat) : W32 :=
  let aA := patMag .fp32 ha.amax
  let aB := patMag .fp32 hb.amax
  ebMulMag (k, 0) (ebAdd (ebAdd (ebMulMag aA hb.bound) (ebMulMag aB ha.bound)) (ebMul ha.bound hb.bound))

/-! ## Checks at latch exit (R360) -/

/-- An area of the core area: offset and bytes. -/
abbrev Area := Nat × Nat

/-- The offsets that half `h` names: its MODE alone says which are read (R346). -/
def halfOffsets (h : Half) : List Nat := (if h.mode = 2 then [h.bmoff] else []) ++ (if h.mode ≤ 2 then [h.scoff] else [])

/-- The bitmap and scale areas of a run of `n` rows or columns from `i`. A half whose FMT names no format has no K, and so no extent of scales. -/
def halfAreas (h : Half) (i n : Nat) : List Area :=
  (if h.mode = 2 then [(h.bmoff + 16 * i, 16 * n)] else [])
    ++ (match fmtOfCode h.fmt with
      | some f => if h.mode ≤ 2 then [(h.scoff + 2 * kOf f * i, 2 * kOf f * n)] else []
      | none => [])

/-- The first offset that is not a multiple of 16. -/
def offsetFault (l : List Nat) : Option FaultInfo := (l.find? fun a => a % 16 ≠ 0).map fun a => ⟨.align, 3, BitVec.ofNat 64 a⟩

/-- The first area that passes the core area. -/
def outsideArea (t : Team) (l : List Area) : Option FaultInfo :=
  (l.find? fun a => decide (0 < a.2) && decide (t.k.scratch < a.1 + a.2)).map fun a => ⟨.range, 3, BitVec.ofNat 64 (max a.1 t.k.scratch)⟩

/-- The FORMAT subcodes that a half breaks by itself (R347). -/
def halfErrors (h : Half) : List Nat :=
  (if (fmtOfCode h.fmt).isNone then [1] else []) ++ (if 3 < h.mode then [2] else [])
    ++ (if (if h.mode = 1 then h.len ≠ 16 && h.len ≠ 32 else h.len ≠ 0) then [3] else [])
    ++ (if badAmax h.amax then [5] else []) ++ (if h.rest ≠ 0 then [6] else [])

/-- A scale of the given rows or columns of an operand breaks R64. -/
def scaleErrors (s : State) (m : MatOp) (h : Half) (lines : List Nat) : List Nat :=
  match fmtOfCode h.fmt with
  | none => []
  | some f =>
    if 3 ≤ h.mode || (h.mode = 1 && h.len ≠ 16 && h.len ≠ 32) then []
    else if lines.any fun i =>
        (blockScales s m h (kOf f) i ((blockStarts s m h (kOf f) i).filter id).length).any badScale
      then [4] else []

/-- The widths of A and B differ. -/
def widthErrors (a b : Half) : List Nat :=
  match fmtOfCode a.fmt, fmtOfCode b.fmt with
  | some x, some y => if fmtBits x = fmtBits y then [] else [7]
  | _, _ => []

/-- Everything that a matrix operation reads at latch exit. -/
structure MatIn where
  ha : Half
  hb : Half
  groups : List Group
  tabBad : Bool

/-- The rows that an operation owns; a tile has no more than 64. -/
def ownedRows (gs : List Group) : Nat := min 64 (gs.foldl (fun n g => n + g.n) 0)

/-- The groups that own rows, with their numbers: only their B and their columns are read. -/
def ownedGroups (gs : List Group) : List (Group × Nat) := gs.zipIdx.filter fun g => decide (g.1.n ≠ 0)

/-- The bitmap and scale areas of the rows and columns that an operation reads (R346). -/
def lineAreas (i : MatIn) : List Area :=
  halfAreas i.ha 0 (ownedRows i.groups) ++ (ownedGroups i.groups).flatMap fun g => halfAreas i.hb (64 * g.2) 64

/-- The columns that an operation reads, numbered as R346 numbers them. -/
def readCols (i : MatIn) : List Nat := (ownedGroups i.groups).flatMap fun g => (upto 64).map (64 * g.2 + ·)

/-- Checks 1 and 2 for an operation whose format block has been read, with its group table. -/
def areaFault (m : MatOp) (own : List Area) (i : MatIn) : Option FaultInfo :=
  match offsetFault ((if m.ragged then i.groups.map (·.boff) else [])) with
  | some fi => some fi
  | none => outsideArea m.t (own ++ lineAreas i ++ if m.ragged then i.groups.map fun g => (g.boff, 2048) else [])

/-- The format block and the group table, once their own offsets and those that the block names have passed (R360 checks 1 and 2). -/
def readMatIn (s : State) (m : MatOp) : Except FaultInfo MatIn :=
  let base : List Area := (m.fb, 48) :: if gangSize m.gr < 5 then [(m.a, 2048)] else []
  let outside (n : Nat) : FaultInfo := (outsideArea m.t (base ++ if m.ragged then [(m.tab, n)] else [])).getD ⟨.range, 3, BitVec.ofNat 64 m.fb⟩
  match offsetFault (base.map (·.1) ++ if m.ragged then [m.tab] else []), matBytes s m m.fb 48 with
  | some fi, _ => .error fi
  | none, none => .error (outside 8)
  | none, some fb =>
    let ha := readHalf fb
    let hb := readHalf (fb.drop 24)
    match offsetFault (halfOffsets ha ++ halfOffsets hb) with
    | some fi => .error fi
    | none =>
      let n := if m.ragged then 8 + 8 * tableGroups ((matBytes s m m.tab 8).getD []) else 0
      match (if m.ragged then matBytes s m m.tab n else some []) with
      | none => .error (outside n)
      | some tb =>
        let gs := if m.ragged then readGroups tb else ([⟨0, 64, 0⟩], false)
        let i : MatIn := ⟨ha, hb, gs.1, gs.2⟩
        match areaFault m (base ++ if m.ragged then [(m.tab, n)] else []) i with
        | some fi => .error fi
        | none => .ok i

/-- A poisoned sector of what an operation reads of the core area (R345, R360 check 5). -/
def matPoison (s : State) (m : MatOp) (i : MatIn) : Option FaultInfo :=
  let areas : List Area := (m.fb, 48) :: (if gangSize m.gr < 5 then [(m.a, 32 * ownedRows i.groups)] else [])
    ++ (if m.ragged then (m.tab, 8 + 8 * i.groups.length) :: (ownedGroups i.groups).map fun g => (g.1.boff, 2048) else []) ++ lineAreas i
  (areas.findSome? fun a =>
    match levelBytes s m.t m.lead.ix 0 .core a.1 a.2 with
    | .ok ps => if scrPoisoned s ps then some (a.1 + scrFirstPoison s ps) else none
    | .error _ => none).map fun x => ⟨.poison, 2, BitVec.ofNat 64 x⟩

/-- Checks 3 to 5. -/
def matFormat (s : State) (m : MatOp) (i : MatIn) : Option FaultInfo :=
  let errs := halfErrors i.ha ++ halfErrors i.hb ++ scaleErrors s m i.ha (upto (ownedRows i.groups)) ++ scaleErrors s m i.hb (readCols i)
    ++ widthErrors i.ha i.hb ++ (if i.tabBad then [8] else [])
  match errs.min? with
  | some x => some ⟨.format, x, 0⟩
  | none =>
    let four (h : Half) : Bool := h.fmt == 3 || h.fmt == 5
    if (four i.ha || four i.hb) && !featOn s 9 then some ⟨.illegalOp, subFeature, 0⟩ else matPoison s m i

/-- The columns of a group's B (R351), or the gang's quarters. -/
def groupCol (s : State) (m : MatOp) (g : Group) (j : Nat) : List Byte :=
  if m.ragged then (matBytes s m (g.boff + 32 * j) 32).getD [] else colOfB s m j

/-- The new elements of one group, each with its `own`. -/
def groupElems (s : State) (m : MatOp) (i : MatIn) (fa fb : Fmt) (gi : Nat) (g : Group) : List ((Nat × Nat) × (BitVec 96 × W32)) :=
  let cols := (upto 64).map fun j => operandLine s m i.hb fb (64 * gi + j) (groupCol s m g j)
  (upto g.n).flatMap fun r =>
    let row := g.first + r
    let a := operandLine s m i.ha fa row (rowOfA s m row)
    cols.zipIdx.map fun q =>
      ((row, q.2), mmaElem (m.lead.isExact m.f.d.toNat) (if m.f.bmod = 1 then 0 else m.lead.el m.f.d.toNat row q.2) a q.1)

/-- The new elements and the new bound of an operation, or its fault (R349, R359, R360). -/
def matResult (s : State) (m : MatOp) : Except FaultInfo (List ((Nat × Nat) × BitVec 96) × W32) :=
  match readMatIn s m with
  | .error fi => .error fi
  | .ok i =>
    match matFormat s m i with
    | some fi => .error fi
    | none =>
      match fmtOfCode i.ha.fmt, fmtOfCode i.hb.fmt with
      | some fa, some fb =>
        let k := m.f.d.toNat
        let new := i.groups.zipIdx.flatMap fun g => groupElems s m i fa fb g.2 g.1
        if new.isEmpty then .ok ([], m.lead.bound k)
        else
          let own := new.foldl (fun x q => ebMax x q.2.2) 0
          let b := ebAdd (if m.f.bmod = 1 then 0 else m.lead.bound k) (ebAdd own (mmaProp i.ha i.hb (kOf fa)))
          if m.lead.thresh k < b then .error ⟨.bound, 1, b.zeroExtend 64⟩ else .ok (new.map fun q => (q.1, q.2.1), b)
      | _, _ => .error ⟨.format, 1, 0⟩

/-- A member leaves the latch: its word retires, and the wave goes on behind it. -/
def releaseMember (tid : Nat) (s : State) (k : Nat) : State :=
  let a : AgentRef := ⟨tid, k, none⟩
  let s1 := updCur s a fun w => { w.count 2 1 with holdA := none, holdB := none }
  let s2 := match (findWave s1 tid k).map (·.path.clause) with
    | some (some _) => retire s1 a
    | _ => updCur s1 a fun w => { countRetired a w with path := { w.path with pc := w.path.pc + 8, mid := true } }
  match findWave s tid k with
  | some w => if w.status = .latch then makeReady s2 tid k else s2
  | none => s2

/-- RENDEZVOUS_LATCH_EXIT: every member has arrived, and the operation of the round is carried out (R342, R359). While a pre-emption request
holds a member at the latch, the round stays open for the save (R183, R344). -/
def execRendezvousLatchExit (tid leader : Nat) (s : State) : Host.Outcome State Fault Refusal :=
  match findTeam s tid with
  | none => .fault .notEnabled
  | some t =>
    match t.rounds.find? fun r => gangSlot r.gr 0 == leader && (gangMembers r.gr).all r.arrived.contains with
    | none => .fault .notEnabled
    | some r =>
      if t.status ≠ .placed || r.arrived.any fun k => (findWave s tid k).any heldAtYield then .fault .notEnabled
      else
        match matOp s t r with
        | none => .fault .notEnabled
        | some m =>
          let s1 := updTeam s tid fun t => { t with rounds := t.rounds.filter (· != r) }
          match matResult s m with
          | .error fi => .next (faultAll s1 tid r.arrived fi)
          | .ok (new, b) =>
            let s2 := updWave s1 tid leader fun w => (w.setEls m.f.d.toNat new).setBound m.f.d.toNat b
            .next (r.arrived.foldl (releaseMember tid) s2)

/-! ## The loss of a member (R345) -/

/-- A wave that is no member stops at its next instruction boundary. -/
def stopOther (s : State) (w : Wave) : State :=
  if w.status = .ended then s else updWave s w.tid w.ix fun w => { w with status := .stopped }

/-- A member ends: a version that it holds open is discarded first, so that a handle dropped in the task takes its exit policy (R158, R345). -/
def endMember (s : State) (tid k : Nat) : State :=
  match findWave s tid k with
  | some w => endWave (discardTask s w) tid k
  | none => s

/-- A gang loses a member: it ends, the waves outside the gang stop, and each survivor takes GANG_BROKEN, LOST, at its MMA word. -/
def loseMember (s : State) (w : Wave) : State :=
  let ms := gangMembers w.gr
  let va := w.path.nextVa
  let s1 := updTeam s w.tid fun t => { t with lost := some (w.ix, va, s.now), rounds := [] }
  let s2 := endMember s1 w.tid w.ix
  let s3 := (s2.waves.filter fun x => x.tid == w.tid && !(ms.contains x.ix)).foldl stopOther s2
  ms.foldl (fun s k =>
    if k = w.ix then s
    else
      match findWave s w.tid k with
      | none => s
      | some x =>
        if x.status = .ended then s
        else if x.trapMask || x.tba = 0 then endMember s w.tid k
        else
          deliver (updWave s w.tid k fun x => { x with gr := 0, gangEnded := false, status := .running }) ⟨w.tid, k, none⟩ ⟨.gangBroken, 1, 0⟩
            (preciseAt x.path.nextVa)) s3

/-- The round whose operation leaves its latch: every member of it has arrived (R342). -/
def fullRound (t : Team) (ix : Nat) : Option Round :=
  t.rounds.find? fun r => (gangMembers r.gr).contains ix && (gangMembers r.gr).all r.arrived.contains

/-- The operation of a round reads registers of a member: its quarters of B, which an MMAR takes from the core area, or its halves of A
(R340, R351). -/
def readsRegs (r : Round) (ix : Nat) : Bool :=
  let k := slotOfWave r.gr ix
  decide (halvesOf r.gr k ≠ 0) || (match decode r.word with | .ok (.mma _) => decide (quartersOf r.gr k ≠ 0) | _ => false)

/-- The wave that an uncorrectable error in what a round reads loses: the member itself from its registers, the leader from its tile (R345). -/
def lostMember (s : State) (tid ix : Nat) (tile : Bool) : Option Wave :=
  match (findTeam s tid).bind fun t => if t.status = .placed then fullRound t ix else none with
  | none => none
  | some r => if tile then findWave s tid (gangSlot r.gr 0) else if readsRegs r ix then findWave s tid ix else none

/-- GANG_LOST_HANDLER_LIMIT: the survivors have ended, or their 8,192 ticks are used up, and the team ends with its record. -/
def execGangLostHandlerLimit (tid : Nat) (s : State) : Host.Outcome State Fault Refusal :=
  match (findTeam s tid).bind (·.lost) with
  | none => .fault .notEnabled
  | some (ix, va, t0) =>
    if (s.waves.all fun w => w.tid != tid || w.status = .ended || w.status = .stopped) || decide (t0 + 8192 ≤ s.now) then
      .next (endTeam (updTeam s tid fun t => { t with lost := none }) tid 1 0x22 1 ix (BitVec.ofNat 64 va) (BitVec.ofNat 64 ix) none)
    else .fault .notEnabled

end Sys2Proof.Machine
end

