-- ==== Sys2Proof/Machine/Traps.lean ====
section
/-!
DEFINITION. Imprecise faults (R175 to R177): parking, delivery, and the replay of a replay set; pre-emption requests and their
deadlines (R183 to R186).
-/

namespace Sys2Proof.Machine

/-! ## Running operations again (R171, R176) -/

/-- An operation after its accesses have changed: faulted, over, or going on. -/
def rephase (s : State) (id : Nat) : State :=
  let s1 := updOp s id fun o =>
    if o.accs.any fun x => x.fault.isSome then { o with phase := .faulted }
    else
      { o with
        accs := o.accs.map fun x => { x with held := false }
        phase := if nothingOwed s o then .complete else restartPhase o.kind }
  lower s1

/-- An operation's faults cleared. -/
def reopen (s : State) (id : Nat) : State :=
  rephase (updOp s id fun o => { o with accs := o.accs.map fun x => { x with fault := none } }) id

/-- A lane mask admits an access; the accesses of a tile's operation stand under bit 0 (R294). -/
def admits (o : Op) (m : W32) (x : Access) : Bool := m.getLsbD (if o.kind.isTile then 0 else x.lane)

/-- What the token or the handle of a replayed word no longer passes: a replayed word is checked as one that issues (R171, R236, R239). Its fault
is delivered with the replay set that it stands in (log entry 85). -/
def replayFault (s : State) (e : Env) : Option FaultInfo :=
  match e.i with
  | .rowld _ | .rowst _ => if (tokenEntry e.t (e.p.s e.f.a.toNat)).isNone then some ⟨.illegalOp, subField, 0⟩ else none
  | .ldt _ => ldtFault s e
  | .stf _ => stfFault s e
  | _ => none

/-- A replayed LDT finds its jar unpublished (R240). -/
def replayParks (s : State) (e : Env) : Bool :=
  match e.i with
  | .ldt _ => decide ((jarFor s e.c (e.w.h e.f.a.toNat)).state = 1)
  | _ => false

/-- The accesses of a word that runs again, as its registers and its checks have them now: with the fault that it raises, or held while the jar of an
LDT is not published. -/
def accessesAgain (s : State) (e : Env) (xs : List Access) : List Access :=
  match replayFault s e with
  | some fi => xs.map fun x => { x with fault := some fi }
  | none => if replayParks s e then xs.map fun x => { x with held := true } else xs

/-- An operation's accesses, all of which are to be made, with the phase that follows from them; what is held stays so. -/
def setAccesses (s : State) (id : Nat) (k : OpKind) (kept : List Nat) (xs : List Access) : State :=
  lower (updOp s id fun o =>
    { o with kind := k, accs := xs, kept := kept
             phase := if xs.any fun x => x.fault.isSome then .faulted
               else if nothingOwed s { o with accs := xs } then .complete else restartPhase k })

/-- What an operation keeps when its word runs again for the lanes of a mask: a row access the entry of its token as it is now (R237); an atomic the
lanes whose destinations are written, or keep their old values (R171, R176). -/
def keptAgain (o : Op) (e : Env) (mask : W32) : List Nat :=
  if o.kind.isAtomic then (o.kept ++ (o.accs.filter fun x => !x.done).map (·.lane)).filter fun l => !mask.getLsbD l
  else match e.i with | .rowld _ | .rowst _ => keptAt e | _ => o.kept

/-- The reported operation of a replay set runs again for the lanes of `%xmask` only; lanes outside it never do (R171, R176). -/
def replayReported (s : State) (id : Nat) (mask : W32) : State :=
  match findOp s id with
  | none => s
  | some o =>
    let stop (x : Access) : Access := { x with done := true, fault := none }
    match (if mask = 0 then none else (envAgain s o mask).bind fun e => (memPlan s e.i e).map fun p => (e, p)) with
    | some (e, k, xs) =>
      let out := (o.accs.filter fun x => !admits o mask x).map stop
      setAccesses s id k (keptAgain o e mask) (out ++ accessesAgain s e (xs.filter fun x => mask.getLsbD x.lane))
    | none =>
      let old := if o.kind.isAtomic then (o.accs.filter fun x => !x.done && !admits o mask x).map (·.lane) else []
      rephase (updOp s id fun o =>
        { o with accs := o.accs.map fun x => if admits o mask x then { x with fault := none } else stop x, kept := o.kept ++ old }) id

/-- An operation whose LDT was replayed and waits for its jar. -/
def waitingLdt (s : State) (tid wave : Nat) : Option Op :=
  (waveOps s tid wave).find? fun o => (opOfWord o.word).toNat == 0x60 && decide (o.phase = .issued) && o.accs.any (·.held)

/-- A wave whose LDT was replayed while its jar is unpublished parks there (R240). -/
def awaitJar (s : State) (tid wave : Nat) : State :=
  match waitingLdt s tid wave with
  | none => s
  | some o =>
    match envAgain s o 0 with
    | none => s
    | some e => updWave s tid wave fun w =>
        w.park (.ldt (handleJar (e.w.h e.f.a.toNat)) (handleDev (e.w.h e.f.a.toNat))) (o.accs.foldl (fun m x => if x.held then m ||| laneBit (x.lane % 32) else m) 0)

/-- The state of the jar that a wave waits for: its own record's, or that of another Y3 where it has been read (log entry 78). -/
def jarState (s : State) (c : Context) (dev j : Nat) : Option Nat :=
  if dev = ownDev s then some (jarOf c j).state else (s.inputs.jars.find? fun x => x.1 = (dev, c.cid, j)).map fun x => (x.2.getD jarFree).state

/-- A replayed LDT whose jar is no longer FILLING is checked again and made, for the lanes that waited. -/
def releaseReplayed (s : State) (o : Op) : State :=
  let lanes := o.accs.foldl (fun m x => if x.held then m ||| laneBit (x.lane % 32) else m) (0 : W32)
  match (envAgain s o lanes).bind fun e => (memPlan s e.i e).map fun p => (e, p) with
  | some (e, k, xs) => setAccesses s o.id k o.kept ((o.accs.filter fun x => !x.held) ++ accessesAgain s e xs)
  | none => rephase s o.id

/-- LDT_RELEASE: a wave parked at an LDT goes on once its jar is no longer FILLING, and its LDT is checked again (R240, R305, R306); one that a
pre-emption holds there does not (R183). -/
def execLdtRelease (tid wave : Nat) (s : State) : Host.Outcome State Fault Refusal :=
  match findWave s tid wave, findTeam s tid with
  | some w, some t =>
    match w.status, teamCtx s t with
    | .ldt j dev, some c =>
      match jarState s c dev j with
      | none => .fault .notEnabled
      | some st =>
        if st = 1 || heldAtYield w then .fault .notEnabled
        else
          let s1 := match waitingLdt s tid wave with | some o => releaseReplayed s o | none => s
          .next (makeReady s1 tid wave)
    | _, _ => .fault .notEnabled
  | _, _ => .fault .notEnabled

/-- A wave whose ROWOPEN goes on waits for it (R235). -/
def awaitRow (s : State) (tid wave : Nat) : State :=
  match (waveOps s tid wave).find? fun o => o.lane.isNone && (match o.kind with | .rowOpen _ _ _ _ => true | _ => false) && o.phase = .issued with
  | some o => updWave s tid wave fun w => { w with status := .rowOpen o.id }
  | none => s

/-- The replay set of a frame is taken up again in issue order. -/
def replaySet (a : AgentRef) (s : State) (ids : List Nat) (mask : W32) : State :=
  let faulty (id : Nat) : Bool := match findOp s id with | some o => o.accs.any fun x => x.fault.isSome | none => false
  let first := ids.find? faulty
  let s1 := ids.foldl (fun s id => if some id == first then replayReported s id mask else reopen s id) s
  awaitJar (awaitRow s1 a.tid a.wave) a.tid a.wave

/-- A wave all of whose page faults are resolved, with no other fault, takes its replay set up again and continues (R177). A saved wave
or stopped at this yield point for a pre-emption does so after its restore (R186). The operations of paths that wait for their turn keep none of
this back, and run again for themselves (R126). -/
def resumeParked (s : State) (tid wave : Nat) : State :=
  match findWave s tid wave with
  | none => s
  | some w =>
    let all := (waveOps s tid wave).filter fun o => o.phase = .faulted && !o.kind.parksAlone
    let unresolved (o : Op) : Bool := opPending s o.id || o.accs.any fun x => x.fault.isSome
    let fs := all.filter fun o => !waitsItsTurn w o
    if w.status = .saved || heldAtYield w then s
    else
      let s1 := (all.filter fun o => waitsItsTurn w o && !unresolved o).foldl (fun s o => rephase s o.id) s
      if fs.isEmpty || fs.any unresolved then s1
      else
        let s2 := fs.foldl (fun s o => rephase s o.id) s1
        if w.status = .parked then awaitRow (makeReady s2 tid wave) tid wave else s2

/-! ## Delivery (R170, R175 to R177) -/

/-- An operation has completed or faulted, or everything it does is held in a version or a DET buffer (R170 step 2); a ROWOPEN is held in none. -/
def opSettled (s : State) (o : Op) : Bool :=
  o.phase = .complete || o.phase = .faulted || o.phase = .parked
    || ((match o.kind with | .rowOpen _ _ _ _ => false | _ => true) && o.accs.all (fun x => x.done || (s.teams.any fun t => t.tid == o.tid && detHolds t o x.lane))
        && (o.inTask || s.teams.any fun t => t.tid == o.tid && t.det.any fun e => e.op == o.id))

/-- A wave that stops in front of a header keeps no clause. -/
def unstart (w : Wave) : Wave :=
  match w.status, w.path.clause with
  | .flagWait, some k => { w with path := { w.path with pc := k.hdrVa, mid := false, clause := none } }
  | _, _ => w

/-- The wave is in a state in which it may be parked: it has reached its first instruction that cannot retire (R175, R177). -/
def mayPark (w : Wave) : Bool :=
  match w.status with | .retry | .flagWait | .quantum | .quantumEnd | .rowOpen _ => true | _ => false

/-- The wave can take a fault now: its skid has ended (R175). -/
def mayTrap (w : Wave) : Bool :=
  match w.status with | .running | .ended | .saved | .halted | .stopped => false | _ => true

/-- A continuation of the wave can be recalled now. -/
def mayRecall (w : Wave) : Bool :=
  match w.status with | .ended | .saved | .halted | .stopped => false | _ => true

/-- The lanes that an operation leaves unfinished: 0x1 for one that runs once for its wave (R294). -/
def unfinished (o : Op) : W32 :=
  if o.kind.isTile then 1 else o.accs.foldl (fun m x => if x.done then m else m ||| laneBit (x.lane % 32)) 0

/-- A wave's imprecise fault is delivered: the oldest faulted operation that no answer will resolve is reported, and every faulted
operation goes into the replay set. -/
def deliverFaults (s : State) (w : Wave) (fs : List Op) : Option State :=
  match (fs.filterMap fun o => ((o.accs.find? fun x => x.fault.isSome).bind (·.fault)).map fun fi => (o, fi)).head? with
  | none => none
  | some (o, fi) =>
    let ids := fs.map (·.id)
    let s1 := leaveRounds s w.tid w.ix
    let s2 := deliver s1 ⟨w.tid, w.ix, none⟩ fi ⟨o.xpc, w.retired - o.retiredAt, unfinished o, w.resumeVa, ids⟩
    some { s2 with ops := s2.ops.map fun p => if ids.contains p.id && p.phase = .faulted then { p with phase := .parked } else p }

/-- The continuation that issued one of some faulted operations (R126). -/
def faultedLane (w : Wave) (fs : List Op) : Option Nat :=
  (fs.findSome? fun o => (w.conts.find? fun c => c.path.pid == o.pid)).map (·.lane)

/-- A wave parks: `%xmask` records the lanes that its oldest faulted operation left unfinished (R25, R177). -/
def parkFaulted (w : Wave) (fs : List Op) : Wave :=
  (unstart w).park .parked (match fs.head? with | some o => unfinished o | none => 0)

/-- IMPRECISE_FAULT_DELIVERY: a wave with a faulted operation goes on to its first instruction that cannot retire (R175), or, where an operation of the copy
engine has faulted, to its next instruction boundary (R294). There it parks while an answer is outstanding, and otherwise takes the fault once everything it issued has completed or faulted. A continuation whose operation faulted is recalled, and the fault waits until its serial path
runs (R126, R170). -/
def execImpreciseFaultDelivery (tid wave : Nat) (s : State) : Host.Outcome State Fault Refusal :=
  match findWave s tid wave with
  | none => .fault .notEnabled
  | some w =>
    let ops := waveOps s tid wave
    let all := ops.filter fun o => o.phase = .faulted && !(o.kind.parksAlone && opPending s o.id)
    match faultedLane w all with
    | some l => if mayRecall w then .next (recallLane s ⟨tid, wave, none⟩ l) else .fault .notEnabled
    | none =>
      let fs := all.filter fun o => !waitsItsTurn w o
      if fs.isEmpty || !(mayTrap w || (decide (w.status = .running) && fs.any (·.kind.parksAlone))) then .fault .notEnabled
      else if fs.any fun o => opPending s o.id then
        if mayPark w then .next (updWave s tid wave fun w => parkFaulted w fs) else .fault .notEnabled
      else if ops.all fun o => waitsItsTurn w o || opSettled s o then
        match deliverFaults s w fs with
        | some s1 => .next s1
        | none => .fault .notEnabled
      else .fault .notEnabled

/-! ## Pre-emption (R183 to R185) -/

/-- PREEMPT_REQUEST: every wave of a placed team has `%preq` set and its deadline and allowance start (R183, R185); none is made during a
live update (R412). -/
def execPreemptRequest (tid : Nat) (abort : Bool) (s : State) : Host.Outcome State Fault Refusal :=
  match findTeam s tid with
  | none => .fault .notEnabled
  | some t =>
    match sweepOf s t with
    | none => .fault .notEnabled
    | some sw =>
      if t.status ≠ .placed || t.preempt.isSome || s.update.isSome then .fault .notEnabled
      else
        let s1 := updTeam s tid fun t => { t with preempt := some ⟨abort, s.now⟩ }
        .next { s1 with waves := s1.waves.map fun w =>
          if w.tid == tid && w.status ≠ .ended then { w with preq := true, deadline := some sw.pdl, allowance := 8192 } else w }

/-- A wave stops where it stands (R184). -/
def stopWave (s : State) (tid wave : Nat) : State := updWave s tid wave fun w => { unstart w with status := .stopped }

/-- The wave issues, or waits short of a yield point, so that a forced save can stop it (R184). -/
def mayForce (w : Wave) : Bool :=
  !atYield w && match w.status with | .halted | .stopped | .ended | .saved => false | _ => true

/-- PREEMPT_DEADLINE: a wave short of a yield point stops at an instruction boundary. -/
def execPreemptDeadline (tid wave : Nat) (s : State) : Host.Outcome State Fault Refusal :=
  match findWave s tid wave with
  | none => .fault .notEnabled
  | some w =>
    if w.preq && !inHandler w && w.deadline = some 0 && mayForce w then
      .next (stopWave s tid wave)
    else .fault .notEnabled

/-- HANDLER_ALLOWANCE: a wave that held the trap mask for 8,192 ticks of a request stops inside its handler (R185). -/
def execHandlerAllowance (tid wave : Nat) (s : State) : Host.Outcome State Fault Refusal :=
  match findWave s tid wave with
  | none => .fault .notEnabled
  | some w =>
    if w.preq && inHandler w && w.allowance = 0 && mayForce w then
      .next (stopWave s tid wave)
    else .fault .notEnabled

end Sys2Proof.Machine
end

