-- ==== Sys2Proof/Machine/Sys.lean ====
section
/-!
DEFINITION. The system instructions: traps and returns (R164, R171), the debugger (R165), time and system registers (R166, R167), counters
(R168) and the invalidation of copies (R169).
-/

namespace Sys2Proof.Machine

/-! ## Traps (R164) -/

/-- TRAP. -/
def execTrap (f : Fields) (s : State) : Host.Outcome State Fault Refusal :=
  issue (.trap f) s fun _ _ => faulting .software (imm8u f) 0

/-- The lanes that the atomics of some operations have performed write their destinations (R171, R176: only what an operation left unfinished keeps
its old value). -/
def writeFinished (s : State) (ids : List Nat) : State :=
  ids.foldl (fun s id => match findOp s id with | some o => if o.kind.isAtomic then writeAtomLanes s o fun x => x.done else s | none => s) s

/-- The record that the replayed word's handle names has been read (log entry 78). -/
def replaySeen (s : State) (ids : List Nat) : Bool :=
  ids.all fun id =>
    match (findOp s id).bind fun o => envAgain s o 0 with
    | some e => (match e.i with | .ldt f | .stf f => recordSeen s e.c (e.w.h f.a.toNat) | _ => true)
    | none => true

/-- RTT (R164, R171): outside a handler it is illegal; from the handler of a wave whose gang lost a member it ends the wave (R345); a changed `%xpc` must lead to a header or into a clause (R52). -/
def execRtt (f : Fields) (s : State) : Host.Outcome State Fault Refusal :=
  issueWith (.rtt f) (fun e _ => if e.w.frame.isNone then [subField] else []) s fun e s =>
    match e.w.frame with
    | none => illegal subField
    | some fr =>
      let x := e.w.xpc.toNat
      if e.t.lost.isSome then .moved (endWave s e.who.tid e.who.wave)
      else if e.w.xpc = fr.xpc then
        if replaySeen s fr.replay then .moved (returnFrom s e.who e.w fr (replaySet e.who)) else tryAgain s e
      else if x % 8 ≠ 0 then .trapAt ⟨.illegalClause, 6, 0⟩ x
      else
        match landing s e.c (seatOf e.t) x with
        | .lost => .trapAt ⟨.illegalClause, 7, 0⟩ x
        | _ => .moved (returnFrom (writeFinished s fr.replay) e.who e.w fr (replaySet e.who))

/-- TMASK. With no enabled lane it sets the mask as well: R42 names lane, scalar and predicate state alone (the model's choice, log entry 27). -/
def execTmask (f : Fields) (s : State) : Host.Outcome State Fault Refusal :=
  issueWith (.tmask f) (fun _ _ => if imm8u f / 2 ≠ 0 then [subField] else []) s fun e s =>
    let s1 := writeScalar e s (if e.w.trapMask then 1 else 0)
    .ok (updCur s1 e.who fun w => { w with trapMask := f.b.getLsbD 0 })

/-! ## The debugger (R165) -/

/-- BKPT. -/
def execBkpt (f : Fields) (s : State) : Host.Outcome State Fault Refusal :=
  issue (.bkpt f) s fun e s =>
    if !e.c.bken then .ok s
    else if bkskip e.w then .ok (updCur s e.who clearSkip)
    else faulting .breakpoint (imm8u f) 0

/-- STOPW: every wave of the sweep halts at its next header. -/
def execStopw (f : Fields) (s : State) : Host.Outcome State Fault Refusal :=
  issue (.stopw f) s fun e s => .ok (if e.c.bken then updSweep s e.sw.ref fun w => { w with halted := true } else s)

/-! ## Time (R166) -/

/-- A replay found no logged value for a TSTAMP: one record of TYPE 0x09 for the sweep (R409). -/
def noteDiverged (s : State) (e : Env) : State :=
  if s.errors.any fun r => r.type == 9 && r.cid == e.sw.ref.cid && r.tag == e.sw.ref.tag then s
  else postError s (teamRecord s e.t e.sw 9 0 0 0 e.who.wave 0 0)

/-- The value of TSTAMP, and its entry in a log. -/
def stampOf (s : State) (e : Env) : Nat × State :=
  let count := e.w.pf 1
  match findQueue s e.sw.pkt.q, e.sw.logTag with
  | some q, some tag =>
    match loggedStamp s q tag e.t.teamix e.who.wave count with
    | some v => (v, s)
    | none => (s.now, noteDiverged s e)
  | some q, none =>
    (s.now, logAppend s q [LogEntry.bytes ⟨.stamp, 0, e.sw.ref.tag, e.t.teamix, e.who.wave, count, s.now⟩])
  | none, _ => (s.now, s)

/-- The sector of an active capture that a TSTAMP's entry goes to meets a fault: the access waits for a page with its queue, and the TSTAMP with it
(R426). Any other fault ends the capture with an error record, and the TSTAMP goes on (log entry 101). The state, and whether the TSTAMP waits. -/
def stampLog (s : State) (e : Env) : State × Bool :=
  match findQueue s e.sw.pkt.q, e.sw.logTag with
  | some q, none =>
    match logMeets s q 1 with
    | none => (s, false)
    | some (va, .page a b c d) => (if isWaiting s (.queue q.q) then s else pageWait s q va 1 (.page a b c d) (.queue q.q), true)
    | some (va, .fault code sub) =>
      (postError (updQueue s q.q fun y => { y with capture := none }) (packetRecord s e.sw.pkt code.num sub va), false)
    | some (_, .ok _ _) => (s, false)
  | _, _ => (s, false)

/-- TSTAMP; with no active lane it reads no time and makes no entry (R42). -/
def execTstamp (f : Fields) (s : State) : Host.Outcome State Fault Refusal :=
  issue (.tstamp f) s fun e s =>
    if e.act = 0 then .ok s
    else
      let x := stampLog s e
      if x.2 then tryAgain x.1 e else let r := stampOf x.1 e; .ok (writeScalar e r.2 (BitVec.ofNat 64 r.1))

/-! ## System registers (R167) -/

/-- The FLAGS byte of a sweep's packet (R372). -/
def sweepFlags (sw : Sweep) : Nat :=
  (if sw.det then 1 else 0) + (if sw.rw then 2 else 0) + (if sw.graft then 8 else 0) + 16 * sw.ejt

/-- The refresh debt of a pseudo-channel (R214). -/
def refreshDebt (s : State) (socket channel : Nat) : Int := (refreshOf s socket channel).debt

/-- A system register by number. -/
def sysReg (s : State) (e : Env) (num : Nat) : Option Word :=
  match num with
  | 0x0000 => some (BitVec.ofNat 64 s.now)
  | 0x0001 => some (BitVec.ofNat 64 (e.c.cid % 4096 + 4096 * (e.c.asid % 65536)))
  | 0x0002 => some (BitVec.ofNat 64 (leNat (e.c.vdmap.map fun b => BitVec.ofNat 8 b)))
  | 0x0003 => some (s.featAcc.extractLsb' 0 64)
  | 0x0004 => some (s.featAcc.extractLsb' 64 64)
  | 0x0008 => some (BitVec.ofNat 64 (sweepFlags e.sw))
  | 0x0011 => some (if e.c.bken then 1 else 0)
  | 0x0018 => some (BitVec.ofNat 64 e.w.wejt)
  | n =>
    if 0x1000 ≤ n ∧ n ≤ 0x17FF then
      some (BitVec.ofNat 64 (wrapInt 8 (refreshDebt s (10 + (n - 0x1000) / 64) ((n - 0x1000) % 64))))
    else none

/-- RDSYS. -/
def execRdsys (f : Fields) (s : State) : Host.Outcome State Fault Refusal :=
  issueWith (.rdsys f) (fun e s => if (sysReg s e (imm16u f)).isNone then [subIndex] else []) s fun e s =>
    match sysReg s e (imm16u f) with
    | some x => .ok (writeScalar e s x)
    | none => illegal subIndex

/-- WRSYS's own checks: the number, whether it may be written, and WEJT's range. -/
def wrsysErrors (e : Env) (s : State) : List Nat :=
  let v := (e.p.s e.f.a.toNat).toNat
  if imm16u e.f = 0x0018 then (if !scalarAt e.f.asp e.f.a || v ≤ 8 || v = 15 then [] else [subField])
  else if (sysReg s e (imm16u e.f)).isNone then [subIndex] else [subField]

/-- WRSYS: WEJT is the one register it can write. With no enabled lane it writes it as well: R42 names lane, scalar and predicate state alone (the
model's choice, log entry 27). -/
def execWrsys (f : Fields) (s : State) : Host.Outcome State Fault Refusal :=
  issueWith (.wrsys f) wrsysErrors s fun e s =>
    .ok (updCur s e.who fun w => { w with wejt := (e.p.s f.a.toNat).toNat })

/-! ## Counters (R168) -/

/-- PERF. -/
def execPerf (f : Fields) (s : State) : Host.Outcome State Fault Refusal :=
  issueWith (.perf f) (fun _ _ => if 7 < imm8u f then [subField] else []) s fun e s =>
    .ok (writeScalar e s (BitVec.ofNat 64 (e.w.pf (imm8u f))))

/-! ## VCINV (R169) -/

/-- An accepted store of the context to the lines of a range has not reached its home, where its dirty bytes then are. -/
def dirtyIn (s : State) (cid : Nat) (va n : Nat) : Bool :=
  s.ops.any fun o => o.kind.stores && !o.inTask
    && (o.accs.any fun x => x.open && decide (x.level = .g) && decide ((va / 192 * 192 : Nat) < x.addr + x.n)
        && decide (x.addr < ((va + n + 191) / 192 * 192 : Nat)))
    && (match findTeam s o.tid with | some t => t.sweep.cid == cid && !isDet s t | none => false)

/-- A line meets a range of the context's. -/
def lineMeets (cid va n ycid vline : Nat) : Bool := ycid == cid && decide (va / 192 ≤ vline) && decide (vline ≤ (va + n - 1) / 192)

/-- Every copy of the lines of a range that the context holds is discarded, what the home slices hold written back with it (R200, R202); the lease that
the home granted runs on (R79). -/
def discardCopies (s : State) (cid : Nat) (va n : Nat) : State :=
  evictHome { s with copies := s.copies.map fun y => if lineMeets cid va n y.cid y.vline then { y with kept := false } else y }
    fun y => lineMeets cid va n y.cid y.vline

/-- Every copy of code in the lines of a range is discarded, on every core (R169). -/
def discardCode (s : State) (cid : Nat) (va n : Nat) : State :=
  { s with codeCopies := s.codeCopies.filter fun y => !(lineMeets cid va n y.cid (y.va / 192)) }

/-- VCINV; with no active lane it reaches no line (R42). -/
def execVcinv (f : Fields) (s : State) : Host.Outcome State Fault Refusal :=
  issue (.vcinv f) s fun e s =>
    let va := (e.p.s f.a.toNat).toNat
    let n := (e.p.s f.b.toNat).toNat
    if e.act = 0 || n = 0 then .ok s
    else
      match rangeFault va n with
      | some (code, sub) => faulting code sub (faultAddr va 0 n code sub noPoison)
      | none =>
        if f.d = 0 then .ok (discardCode s e.c.cid va n)
        else if dirtyIn s e.c.cid va n then tryAgain s e
        else .ok (discardCopies s e.c.cid va n)

end Sys2Proof.Machine
end

