-- ==== Sys2Proof/Machine/Team.lean ====
section
/-!
DEFINITION. Whole teams: save and restore (R183 to R189), PREEMPT_ABORT (R190), and the commit of a DET quantum (R90, R92, R317).
-/

namespace Sys2Proof.Machine

/-! ## Stopping (R183, R184) -/

/-- A wave has stopped for a pre-emption: it stands at a yield point, was stopped, or has ended (R154, R177, R183). -/
def hasStopped (w : Wave) : Bool := atYield w || match w.status with | .ended | .stopped | .halted => true | _ => false

/-- Every wave of a team has stopped. -/
def allStopped (s : State) (tid : Nat) : Bool := s.waves.all fun w => w.tid != tid || hasStopped w

/-- An operation still works on scratchpad storage: neither over nor faulted, nor waiting for a stage ring with no byte moved (R299). -/
def worksOnScratch (o : Op) : Bool :=
  let ring := match o.kind with | .stgPut _ _ _ _ | .stgGet _ _ _ _ => true | _ => false
  o.phase != .complete && o.phase != .faulted && o.phase != .parked
    && (if o.kind.isCopy then
          (match o.kind with | .tsend _ _ | .trecv _ | .coll _ _ _ _ | .talloc _ _ _ _ | .tdrop _ _ _ => false | _ => true)
            && !(o.phase == .issued) && !(ring && !o.over && !hasBegun o)
        else o.accs.any fun x => x.open && decide (x.level ≠ .g))

/-! ## The save arena (R187, R190) -/

/-- Bytes that a team's save takes (R187), each part at the size that the table gives (log entry 34). -/
def saveBytes (s : State) (t : Team) : Nat :=
  (s.waves.filter fun w => w.tid == t.tid && decide (w.status ≠ .ended)).foldl (fun n w =>
    n + 64 + 8192 * (1 + w.blocks) + 600 + 136 + 24576 + (if w.role = .matrix then t.k.acc * (49152 + 8) else 0))
    (footprint t.k (isDet s t) + 64 + 16 * t.triads.length)

/-- The parts of a context's arena in which saves stand: VA and length. -/
def arenaTaken (s : State) (c : Context) : List (Nat × Nat) :=
  (s.teams.filter fun u => u.sweep.cid == c.cid && u.status = .saved).filterMap fun u => u.saveAt.map fun a => (a, saveBytes s u)

/-- Where a team's save goes: the lowest place in the arena with room behind or before those that stand there (log entry 34). -/
def arenaPlace (s : State) (c : Context) (t : Team) : Option Nat :=
  let n := saveBytes s t
  let taken := arenaTaken s c
  let free (a : Nat) : Bool := decide (a + n ≤ c.save + c.saveSize) && taken.all fun r => decide (a + n ≤ r.1) || decide (r.1 + r.2 ≤ a)
  ((c.save :: taken.map fun r => r.1 + r.2).filter free).foldl (fun m a => some (match m with | some b => min a b | none => a)) none

/-- A range of VAs cut at the ends of granules. -/
def granulePieces (a n : Nat) : List (Nat × Nat) :=
  ((upto (n / 49152 + 2)).map fun k =>
    let lo := max a (49152 * (a / 49152 + k))
    (lo, min (a + n) (49152 * (a / 49152 + k + 1)) - lo)).filter fun p => decide (0 < p.2)

/-- What the first granule of an arena range that cannot be accessed meets, with its VA; poison in the range is met too (R190). -/
def arenaBad (s : State) (c : Context) (a n : Nat) (k : AccKind) : Option (Nat × AccRes) :=
  (granulePieces a n).findSome? fun (p : Nat × Nat) =>
    match plainAccess s c p.1 1 k with
    | .ok pa _ => if poisonedRange s.sramPoison pa p.2 then some (p.1, .fault .poison 2) else if poisonedRange s.poison pa p.2 then some (p.1, .fault .poison 1) else none
    | r => some (p.1, r)

/-- A granule written with bytes that the spec does not give: the form of a save is not told (R187, log entry 34). -/
def writeOpen (c : Context) (s : State) (p : Nat × Nat) : State :=
  match plainAccess s c p.1 1 .store with
  | .ok pa pte =>
    let s1 := noteAlias s c pte (pa / 49152) (p.1 / 49152)
    { writeNow s1 pa ((upto p.2).map fun i => (Config.freeWord (s.freeIx + i)).truncate 8) with freeIx := s.freeIx + p.2 }
  | _ => s

/-- The save's bytes enter the arena. -/
def writeArena (s : State) (c : Context) (a n : Nat) : State := (granulePieces a n).foldl (writeOpen c) s

/-- The save cannot be written: it finds no room in the arena, or a page of it is poisoned or faults with no answer to come (R190). -/
def arenaRefuses (s : State) (c : Context) (t : Team) : Bool :=
  match arenaPlace s c t with
  | none => true
  | some a => match arenaBad s c a (saveBytes s t) .store with | some (_, .fault _ _) => true | _ => false

/-- The save that a team has in the arena reads back poisoned (R190). -/
def savePoisoned (s : State) (c : Context) (t : Team) : Bool :=
  match t.saveAt with
  | none => false
  | some a => match arenaBad s c a (saveBytes s t) .load with | some (_, .fault .poison _) => true | _ => false

/-- Poison in a team's allocation, which its save would read. -/
def allocationPoisoned (s : State) (t : Team) : Bool :=
  poisonedRange s.scratchPoison (scratchKey t.die t.core t.p0) (footprint t.k (isDet s t))

/-! ## TEAM_SAVE (R184, R187, R188) -/

/-- A path as a save leaves it: at its next word, with no clause. -/
def standPath (p : Path) : Path := { p with pc := p.nextVa, mid := p.mid || p.clause.isSome, clause := none }

/-- The flags of a wave's running clauses, which a save keeps (R189); a path that goes on inside its clause raises that clause's own again. -/
def runningFlags (w : Wave) : BitVec 12 :=
  w.conts.foldl (fun m c => m ||| pathFlags c.path) ((if w.status = .flagWait then 0 else pathFlags w.path) ||| w.flagsHeld)

/-- A wave outside a task as it is saved. -/
def saveOutside (w : Wave) : Wave :=
  let flags := runningFlags w
  let p := match w.status, w.path.clause with
    | .flagWait, some k => { w.path with pc := k.hdrVa, mid := false, clause := none }
    | _, _ => standPath w.path
  { w with path := p, conts := w.conts.map (fun c => { c with path := standPath c.path }), flagsHeld := flags }

/-- A wave inside a task as it is saved: it will resume at the task's start (R158, R184). `em` and the divergence stack stay as they stand: the
spec does not say what becomes of them (log entry 80). -/
def saveInside (w : Wave) (k : Task) (code : Nat) : Wave :=
  { w with
    task := some { k with version := [], writes := [], lines := [], drops := [] }
    path := { w.path with pc := code + k.start, mid := false, grp := false, clause := none } }

/-- A wave is saved. One that sleeps keeps its wake tick, one in a latch its arrival outside tasks, a halted one stays halted (R154,
R165, R344). -/
def saveWave (code : Nat) (s : State) (w : Wave) : State :=
  let inside := match w.task with | some k => k.commit.isNone | none => false
  let s1 := if inside then discardTask s w else s
  updWave s1 w.tid w.ix fun w =>
    let w1 := match w.task with
      | some k => if inside then saveInside w k code else saveOutside w
      | none => saveOutside w
    { w1 with
      holdA := none, holdB := none, preq := false, deadline := none, allowance := 0, qpass := false
      status := match w.status with
        | .sleep t => if inside then .saved else .sleep t
        | .latch => if inside then .saved else .latch
        | .halted => .halted
        | _ => .saved }

/-- The allocation of a team, by its own offsets. -/
def takeBytes (s : State) (t : Team) : Sparse Byte :=
  let key := scratchKey t.die t.core t.p0
  let n := footprint t.k (isDet s t)
  (s.scratch.filter fun e => decide (key ≤ e.1) && decide (e.1 < key + n)).map fun e => (e.1 - key, e.2)

/-- A ring operation that has moved no byte, or a COLL that has its round: what a save withdraws while it waits (R299, R313). -/
def withdrawn (tid : Nat) (o : Op) : Bool :=
  o.tid == tid && !o.over && !hasBegun o && match o.kind with | .stgPut _ _ _ _ | .stgGet _ _ _ _ => true | .coll _ _ _ r => r != 0 | _ => false

/-- A waiting operation of a saved team leaves its engine, with its number and its counter kept (R299). -/
def withdrawRing (tid : Nat) (o : Op) : Op :=
  if withdrawn tid o && o.phase == .started then { o with phase := .queued } else o

/-- A withdrawn operation is offered to the engine again before its team issues (R299). -/
def offerRing (tid : Nat) (o : Op) : Op :=
  if withdrawn tid o && o.phase == .queued then { o with phase := .started } else o

/-- The held triads of a team close and their slots are returned; each entry that held one takes its lost bit, as R213 has it at every close (log entry
89). -/
def closeForSave (s : State) (t : Team) : State :=
  let s1 := t.triads.foldl (fun s e => if e.used then returnSlot s t.sweep.cid e t.tid else s) s
  updTeam s1 t.tid fun t => { t with triads := t.triads.map fun e => { e with slot := none, lost := e.lost || (e.used && e.slot.isSome) } }

/-- A team may be saved: SAVE is asked for, its waves have stopped, and its storage is still. -/
def maySave (s : State) (t : Team) : Bool :=
  t.status = .placed && t.lost.isNone && allStopped s t.tid && !(s.ops.any fun o => o.tid == t.tid && worksOnScratch o)

/-- The save of a team has been made: its waves, operations and triads as a save leaves them, its storage taken, its bytes in the arena at `a`. -/
def saveTeam (s : State) (t : Team) (sw : Sweep) (c : Context) (a : Nat) : State :=
  let s1 := (s.waves.filter fun w => w.tid == t.tid && decide (w.status ≠ .ended)).foldl (saveWave sw.code) s
  let s2 := closeForSave { s1 with ops := s1.ops.map (withdrawRing t.tid) } t
  updTeam (writeArena s2 c a (saveBytes s t)) t.tid fun u =>
    { u with status := .saved, saved := takeBytes s t, saveAt := some a, preempt := none, rounds := u.rounds.filter fun r => !r.inTask }

/-- TEAM_SAVE: the save is made, or its write of the arena meets a page fault, whose answer it waits for (R190). -/
def execTeamSave (tid : Nat) (s : State) : Host.Outcome State Fault Refusal :=
  match findTeam s tid with
  | none => .fault .notEnabled
  | some t =>
    match t.preempt, sweepOf s t, teamCtx s t with
    | some ⟨false, _⟩, some sw, some c =>
      if !maySave s t || allocationPoisoned s t || isWaiting s (.save tid) then .fault .notEnabled
      else
        match arenaPlace s c t with
        | none => .fault .notEnabled
        | some a =>
          match arenaBad s c a (saveBytes s t) .store with
          | none => .next (saveTeam s t sw c a)
          | some (va, .page sub second ucode usub) => .next (noteFault s c va 1 0xFF 0xFFFF sub second ucode usub (.save tid))
          | some _ => .fault .notEnabled
    | _, _, _ => .fault .notEnabled

/-! ## TEAM_RESTORE (R187 to R189) -/

/-- The saved bytes stand at the team's new place. -/
def reloadBytes (s : State) (t : Team) (die core p0 n : Nat) : State :=
  let s1 := zeroAllocation s die core p0 n
  let key := scratchKey die core p0
  { s1 with scratch := t.saved.foldl (fun m e => putByte m (key + e.1) e.2) s1.scratch }

/-- The leases on the lines of every triad that a restore reopens have ended (R188, R211). -/
def leasesOver (s : State) (c : Context) (t : Team) : Bool :=
  t.triads.all fun e => !e.used || !e.hold || match plainAccess s c (3072 * e.triad) 1 .load with
    | .ok pa _ => decide (triadLeases s pa ≤ s.now)
    | _ => true

/-- The stack and stack triad of an entry that a restore reopens. -/
def reopenPlace (s : State) (c : Context) (e : TriadEntry) : Option (Nat × Nat) :=
  if !e.used || !e.hold then none
  else match plainAccess s c (3072 * e.triad) 1 .load with
    | .ok pa _ => (pgnSocket (pa / 49152)).map fun so => (so, stackTriadOf pa)
    | _ => none

/-- Banks of a triad that a restore reopens are busy: the restore waits, as any request to them would (R188, R213). -/
def reopenWaits (s : State) (c : Context) (t : Team) : Bool :=
  t.triads.any fun e => match reopenPlace s c e with | some (so, tr) => rowsBusy s so tr | none => false

/-- A triad under KEEP reopens, or its entry takes the lost bit (R188). Of two of one team that share a bank, the later one opens as the first access to
it goes out. -/
def reopenEntry (c : Context) (acc : State × List TriadEntry) (e : TriadEntry) : State × List TriadEntry :=
  if !e.used || !e.hold then (acc.1, acc.2 ++ [e])
  else
    let lose : State × List TriadEntry := (acc.1, acc.2 ++ [{ e with lost := true }])
    match plainAccess acc.1 c (3072 * e.triad) 1 .load with
    | .ok pa _ =>
      match pgnSocket (pa / 49152), takeSlot acc.1 c.cid e.triad pa false with
      | some so, some (n, s1) =>
        (if rowsBusy s1 so (stackTriadOf pa) then s1 else openRows s1 so (stackTriadOf pa), acc.2 ++ [{ e with slot := some n, socket := so }])
      | _, _ => lose
    | _ => lose

/-- The held triads of a restored team. -/
def reopenTriads (s : State) (c : Context) (tid : Nat) : State :=
  match findTeam s tid with
  | none => s
  | some t =>
    let r := t.triads.foldl (reopenEntry c) (s, [])
    updTeam r.1 tid fun t => { t with triads := r.2 }

/-- A wave of a restored team: parked again while an answer is outstanding, else it goes on (R186, R189). -/
def resumeSaved (s : State) (w : Wave) : State :=
  if w.status ≠ .saved then s
  else
    let s1 := updWave s w.tid w.ix fun w => { w with status := .parked }
    if (waveOps s w.tid w.ix).any (fun o => o.phase = .faulted && !o.kind.parksAlone && opPending s o.id) || isWaiting s (.wave w.tid w.ix) then s1
    else
      let s2 := resumeParked s1 w.tid w.ix
      match findWave s2 w.tid w.ix with
      | some x => awaitJar (if x.status = .parked then makeReady s2 w.tid w.ix else s2) w.tid w.ix
      | none => s2

/-- Where a saved team can be placed again: by the rule of R112, and not past the teams that wait in front of it (R117, R119, R187). -/
def restorePlace (s : State) (t : Team) : Option (Nat × Nat) :=
  let kept := keptBefore s t
  if kept.2 then none else findCore s t kept.1

/-- A restored team's storage stands in the snapshot of its DET sweep too (R90). -/
def noteReload (s : State) (t : Team) : State :=
  if isDet s t then updSweep s t.sweep fun w => { w with snapScr := s.scratch } else s

/-- TEAM_RESTORE: a saved team is placed again on its die, and its state reloaded before any of its waves issues; it waits until the banks of the triads
that it reopens are free. -/
def execTeamRestore (tid : Nat) (s : State) : Host.Outcome State Fault Refusal :=
  match findTeam s tid with
  | none => .fault .notEnabled
  | some t =>
    match sweepOf s t, teamCtx s t, restorePlace s t with
    | some sw, some c, some (core, p0) =>
      if t.status ≠ .saved || savePoisoned s c t || (!sw.drop && !leasesOver s c t) then .fault .notEnabled
      else if !sw.drop && reopenWaits s c t then
        if t.reopenAt.isSome then .fault .notEnabled else .next (updTeam s tid fun t => { t with reopenAt := some s.now })
      else
        let s1 := reloadBytes s t t.die core p0 (footprint t.k sw.det)
        let s2 := updTeam { s1 with ops := s1.ops.map (offerRing tid) } tid fun t =>
          { t with core := core, p0 := p0, status := .placed, saved := [], saveAt := none, placedAt := nextPlace s, reopenAt := none }
        let s3 := noteReload (if sw.drop then s2 else reopenTriads s2 c tid) t
        .next ((s3.waves.filter fun w => w.tid == tid).foldl resumeSaved s3)
    | _, _, _ => .fault .notEnabled

/-- PREEMPT_ABORT: an ABORT request completes, or a save cannot be written or read back (R190). -/
def execPreemptAbort (tid : Nat) (s : State) : Host.Outcome State Fault Refusal :=
  match findTeam s tid with
  | none => .fault .notEnabled
  | some t =>
    match t.preempt, teamCtx s t with
    | some r, some c =>
      if t.status = .placed && allStopped s tid && (r.abort || (maySave s t && (arenaRefuses s c t || allocationPoisoned s t))) then
        .next (endTeam s tid 8 0x70 0 0xFF 0 0 none)
      else .fault .notEnabled
    | none, some c =>
      if t.status = .saved && (restorePlace s t).isSome && savePoisoned s c t then .next (endTeam s tid 8 0x70 0 0xFF 0 0 none)
      else .fault .notEnabled
    | _, none => .fault .notEnabled

/-! ## QUANTUM_COMMIT (R90, R92) -/

/-- A wave of a DET sweep counts as stalled at a quantum boundary (R90, R344). -/
def atQuantum (w : Wave) : Bool :=
  match w.status with
  | .quantum | .quantumEnd | .barrier _ | .ldt _ _ | .waits _ _ _ _ | .sleep _ | .latch => true
  | .retry => atYield w
  | _ => false

/-- The teams of a sweep that have not ended. -/
def sweepTeams (s : State) (ref : SweepRef) : List Team := s.teams.filter fun t => t.sweep = ref && decide (t.status ≠ .ended)

/-- The waves of a team that have not ended. -/
def liveWaves (s : State) (tid : Nat) : List Wave := s.waves.filter fun w => w.tid == tid && decide (w.status ≠ .ended)

/-- Everything that a team's operations do is performed or buffered, and none has a fault to be answered. -/
def quantumQuiet (s : State) (t : Team) : Bool :=
  s.ops.all fun o => o.tid != t.tid || o.phase == .complete || o.phase == .parked
    || (o.phase != .faulted && (o.kind.isCopy || o.accs.all fun x => x.done || detHolds t o x.lane))

/-- The order of buffered accesses within a team (R90): lane, what ends the quantum last, program order. -/
def entryKey (e : DetEntry) : List Nat := [32 * e.wave + (if 64 ≤ e.acc.lane then 0 else e.acc.lane), if e.last then 1 else 0, e.op]

/-- An entry inserted behind those that do not come after it. -/
def insertEntry (e : DetEntry) : List DetEntry → List DetEntry
  | [] => [e]
  | x :: r => if keyBefore (entryKey e) (entryKey x) then e :: x :: r else x :: insertEntry e r

/-- The entries of a team in the order of the commit. -/
def orderedEntries (t : Team) : List DetEntry := t.det.foldl (fun l e => insertEntry e l) []

/-- The snapshot takes bytes of the commit. -/
def snapPut (s : State) (ref : SweepRef) (pa : Nat) (bs : List Byte) : State :=
  updSweep s ref fun w => { w with snap := putBytes w.snap pa bs }

/-- A buffered atomic has found `old`. -/
def atomicDone (s : State) (o : Op) (x : Access) (old t : Nat) : State :=
  let s1 := updOp s o.id fun o => { o with last := max o.last t }
  settleOp (updAcc s1 o.id x.lane fun x => { x with done := true, data := old, data2 := t }) o.id

/-- The new bytes of a buffered access that finds `old`, and none where a comparison fails. -/
def entryBytes (o : Op) (x : Access) (old : Nat) : Option (List Byte) :=
  match o.kind with
  | .atomic f _ => (atomNew f x.n old x.data x.data2).map (leBytes x.n)
  | _ => some (leBytes x.n x.data)

/-- A buffered access to a scratchpad level is applied, and its T enters the wave's `%horizon` (R82). -/
def commitScratch (s : State) (t : Team) (o : Op) (e : DetEntry) : State :=
  match levelBytes s t e.wave e.acc.lane e.acc.level e.acc.addr e.acc.n with
  | .error _ => s
  | .ok ps =>
    let old := leNat (ps.map (scrGet s))
    let s0 := match entryBytes o e.acc old with | some bs => scrPuts s ps bs | none => s
    let s1 := if o.kind.isLsu then raiseHorizon s0 o.tid o.wave s.now else s0
    if o.kind.isAtomic then atomicDone s1 o e.acc old s.now else updOp s1 o.id fun o => { o with last := max o.last s.now }

/-- A buffered access made in an open task enters its version (R92), or overflows it (R181). -/
def commitInTask (s : State) (w : Wave) (k : Task) (c : Context) (o : Op) (e : DetEntry) : State :=
  let die := homeDie c (e.acc.addr.toNat / 49152)
  match overflowSub s k e.pa e.acc.n die with
  | some sub =>
    markFault (updAcc s o.id e.acc.lane fun x => { x with done := false }) o e.acc.lane (overflowFault c e.acc.addr sub)
  | none =>
    match o.kind with
    | .atomic f _ => settleOp (updAcc (enterAtomic s w o f e.acc e.pa die) o.id e.acc.lane fun x => { x with done := true }) o.id
    | _ => enterVersion s w.tid w.ix e.pa die (leBytes e.acc.n e.acc.data)

/-- What the home of a line, or the place of an atomic, takes from a buffered access (R202, R206). -/
def commitLine (s : State) (c : Context) (o : Op) (e : DetEntry) : State :=
  match translate s c (e.acc.addr.toNat / 49152) with
  | .leaf pte _ _ => if o.kind.isAtomic then leaveHome s c e.acc.addr.toNat e.pa pte else noteLine s c e.acc.addr.toNat e.pa pte true
  | _ => s

/-- A buffered access to memory outside a task reaches its home (R78); a failed comparison writes nothing (R231). What the matrix engine writes
stays out of `%horizon` (R82). -/
def commitGlobal (s : State) (t : Team) (c : Context) (o : Op) (e : DetEntry) : State :=
  let old := leNat ((upto e.acc.n).map fun i => homeByte s (e.pa + i))
  let new := entryBytes o e.acc old
  let leased := match translate s c (e.acc.addr.toNat / 49152) with | .leaf pte _ _ => isNormal pte (e.pa / 49152) | _ => true
  let (s1, tt) := atomicHome (commitLine s c o e) o.id leased e.pa e.acc.n (new.map leNat)
  let s2 := if o.kind.isLsu then raiseHorizon s1 o.tid o.wave tt else s1
  let s2 := match new with | some bs => snapPut s2 t.sweep e.pa bs | none => s2
  if o.kind.isAtomic then atomicDone s2 o e.acc old tt else updOp s2 o.id fun o => { o with last := max o.last tt }

/-- One buffered access is applied. Of a team that has ended, what it buffered for storage that outlives its own is applied too (R90, R153). -/
def commitEntry (t : Team) (s : State) (e : DetEntry) : State :=
  match findOp s e.op, findWave s t.tid e.wave, teamCtx s t with
  | some o, some w, some c =>
    if e.acc.level ≠ .g then (if t.status = .placed || e.acc.level = .clu || e.acc.level = .die then commitScratch s t o e else s)
    else
      match e.inTask, w.task with
      | true, some k => commitInTask s w k c o e
      | _, _ => commitGlobal s t c o e
  | _, _, _ => s

/-- The buffered accesses of a team are applied, its buffers are empty, and its operations go on. -/
def commitTeam (s : State) (t : Team) : State :=
  let s1 := (orderedEntries t).foldl (commitEntry t) (updTeam s t.tid fun t => { t with det := [] })
  (s1.ops.filter fun o => o.tid == t.tid && o.kind == .scratchStore).foldl (fun s o => settleOp s o.id) s1

/-- The operation belongs to a DET sweep. -/
def detOp (s : State) (ref : SweepRef) (o : Op) : Bool :=
  match findTeam s o.tid with | some t => isDet s t && decide (t.sweep = ref) | none => false

/-- The tick of a sweep's commit: no access that the sweep has committed takes a later one (R88, R310). -/
def sweepTick (s : State) (ref : SweepRef) : Nat :=
  let tids := (s.teams.filter fun t => decide (t.sweep = ref)).map (·.tid)
  let m := (s.ops.filter fun o => tids.contains o.tid).foldl (fun m o => max m o.last) s.now
  (s.waves.filter fun w => tids.contains w.tid).foldl (fun m w => max m w.horizon) m

/-- A publication that its commit, or its task's, lets come about takes the commit's tick as its P (R310). -/
def takesTick (o : Op) : Bool := (match o.kind with | .tdrop _ _ false => true | _ => false) && o.phase != .complete && !o.inTask && o.kept.isEmpty

/-- The operations of the copy engine that wait for this commit, number `n`, may start, one after another (R317); publications take its tick. -/
def armCopies (s : State) (ref : SweepRef) (n : Nat) : State :=
  { s with ops := s.ops.map fun o =>
      if !(o.kind.isCopy && detOp s ref o) then o
      else
        let o1 := if o.phase == .issued then { o with phase := .queued, batch := n } else o
        if takesTick o1 then { o1 with kept := [sweepTick s ref], batch := n } else o1 }

/-- What a ring operation waits for has come (R298). -/
def ringReady (s : State) (o : Op) : Bool :=
  match o.kind with
  | .stgPut k n _ _ => match waitingRing s o k with | some r => slotFree r n | none => false
  | .stgGet k m _ _ => match waitingRing s o k with | some r => phaseShows r m | none => false
  | _ => false

/-- A publication waits for accesses that stand in DET buffers. -/
def dropBuffered (s : State) (o : Op) : Bool :=
  match o.kind with
  | .tdrop _ _ false => (waveOps s o.tid o.wave).any (detWaits s)
  | _ => false

/-- An operation of a commit is still at work, or can go on: the commit is not over. One that waits for a ring slot or for a later commit does not
keep the sweep. -/
def commitRuns (s : State) (ref : SweepRef) : Bool :=
  (commitOps s ref).any fun o => commitTurn s ref o &&
    match o.phase with
    | .queued | .faulted => true
    | .started => if o.over then !dropBuffered s o else goesOn o || ringReady s o
    | _ => false

/-- The wave that stands at a QBLK and whose turn it is (R317). -/
def nextSieve (s : State) (ref : SweepRef) : Option Wave :=
  let ws := sieveWaves s ref
  ws.find? fun w =>
    (ws.all fun v => !keyBefore (commitKey s v.tid v.ix 0) (commitKey s w.tid w.ix 0))
      && (commitOps s ref).all fun o => decide (o.batch ≤ commitsOf s ref) || !keyBefore (commitKey s o.tid o.wave o.id) (commitKey s w.tid w.ix 0)

/-- A QBLK issues in the commit: it scans, and its operation is one of the commit's; its wave stays until the commit is over (R300, R317). -/
def runSieve (s : State) (w : Wave) : State :=
  match (w.path.clause.bind fun c => c.words[c.idx]?).map decode with
  | some (.ok (.qblk f)) =>
    let s1 := updWave s w.tid w.ix fun w => { w with status := .running, qpass := true }
    match execQblk f { s1 with cur := some ⟨w.tid, w.ix, none⟩ } with
    | .next s2 =>
      { updWave s2 w.tid w.ix fun w => { w with status := if w.status = .running || w.status = .retry then .quantumEnd else w.status } with cur := s.cur }
    | _ => s
  | _ => s

/-- Memory as the next quantum finds it: with the stores that the sweep has committed and that are not in force yet (R90). -/
def quantumMemory (s : State) (ref : SweepRef) : List Host.Cell :=
  let mine (h : HomeStore) : Bool :=
    match (findOp s h.op).bind fun o => findTeam s o.tid with | some t => decide (t.sweep = ref) | none => false
  (s.homeStores.filter mine).foldl (fun m h => putBytes m h.pa h.bytes) s.mem

/-- The wave stands at a TEND with a version to commit. -/
def standsAtTend (w : Wave) : Option Task :=
  match w.status, w.path.clause, w.task with
  | .quantum, some c, some k =>
    match c.words[c.idx]? with
    | some x => if (opOfWord x).toNat = 0x9E && k.commit.isNone then some k else none
    | none => none
  | _, _, _ => none

/-- The versions whose TEND ends the quantum commit, in the order of the commit (R92). -/
def commitVersions (s : State) (t : Team) : State :=
  (liveWaves s t.tid).foldl (fun s w =>
    match (findWave s w.tid w.ix).bind standsAtTend with
    | some k =>
      let s1 := (resolveVersion s k).1.foldl (fun s b => snapPut s t.sweep b.1 [b.2]) s
      commitTask s1 w.tid w.ix k (commitTick s1 k)
    | none => s) s

/-- The waves of a team go on behind the boundary. -/
def passBoundary (s : State) (t : Team) : State :=
  { s with waves := s.waves.map fun w =>
      if w.tid != t.tid then w
      else
        match w.status with
        | .quantum => { w with status := .running, qpass := true }
        | .quantumEnd => { w with status := .running }
        | .waits _ _ 64 _ => { w with qpass := true }
        | _ => w }

/-- Teams in ascending sweep index. -/
def byIndex (l : List Team) : List Team :=
  let rec put (t : Team) : List Team → List Team
    | [] => [t]
    | u :: r => if t.teamix < u.teamix then t :: u :: r else u :: put t r
  l.foldl (fun m t => put t m) []

/-- Every live wave of a sweep is stalled at a boundary, and what it issued is performed or buffered. -/
def quantumReady (s : State) (ref : SweepRef) : Bool :=
  (sweepTeams s ref).all fun t =>
    t.status = .waiting || (t.status = .placed && (liveWaves s t.tid).all atQuantum && quantumQuiet s t)

/-- The dibbers start new teams of the sweep at its commits, in index order (R90). -/
def placeAtCommit (s : State) (ref : SweepRef) : State :=
  (upto 8).foldl (fun s d => placePass (fun t => decide (t.sweep = ref)) (dibberOrder s d) [] [] s) s

/-- The teams whose accesses a commit applies: the placed ones, and those that have ended with accesses buffered (R90, R173). -/
def commitTeams (s : State) (ref : SweepRef) : List Team :=
  byIndex (s.teams.filter fun t => decide (t.sweep = ref) && (t.status = .placed || !t.det.isEmpty))

/-- A commit's accesses and versions are applied, over the memory that the quantum found. -/
def applyCommit (s : State) (ref : SweepRef) : State :=
  let ts := commitTeams s ref
  ts.foldl commitVersions (ts.foldl commitTeam (updSweep s ref fun w => { w with snap := quantumMemory s ref }))

/-- The quantum is over: the scratchpads stand as the next one finds them. -/
def closeQuantum (s : State) (ref : SweepRef) : State :=
  updSweep s ref fun w => { w with snapScr := s.scratch, snapPad := s.diePad, commits := w.commits + 1 }

/-- Operations of teams of a sweep wait for its commit (R317). -/
def copiesWait (s : State) (ref : SweepRef) : Bool := s.ops.any fun o => o.kind.isCopy && o.phase == .issued && detOp s ref o

/-- QUANTUM_COMMIT: the buffered accesses are applied and versions commit; then the operations that waited run one after another (R317), as
events of their own, and the commit comes about again when they have; then the waves go on and the dibbers start new teams. -/
def execQuantumCommit (ref : SweepRef) (s : State) : Host.Outcome State Fault Refusal :=
  match findSweep s ref with
  | none => .fault .notEnabled
  | some sw =>
    if !sw.det || ((sweepTeams s ref).isEmpty && (commitTeams s ref).isEmpty && !copiesWait s ref) || !quantumReady s ref || commitRuns s ref then .fault .notEnabled
    else
      let s1 := armCopies (applyCommit s ref) ref (sw.commits + 1)
      match nextSieve s1 ref with
      | some w => .next (runSieve s1 w)
      | none =>
        if commitRuns s1 ref then .next s1
        else .next (closeQuantum (placeAtCommit ((commitTeams s1 ref).foldl passBoundary s1) ref) ref)

end Sys2Proof.Machine
end

