-- ==== Sys2Proof/Machine/FaultEvents.lean ====
section
/-!
DEFINITION. The answers to translation faults (R179, R180, R216, R217, R381, R426) and the fault ring's slots.
-/

namespace Sys2Proof.Machine

/-- FAULT_RING_SLOT_FREE: a waiting record's slot is free, and it is written (R179). -/
def execFaultRingSlotFree (cid : Nat) (s : State) : Host.Outcome State Fault Refusal :=
  match ctxOf s cid with
  | none => .fault .notEnabled
  | some c =>
    let frees := match faultSlot s c c.nextSeq with | some a => homeNat s (a + 40) 8 == 3 | none => false
    if frees && c.faults.any fun r => !r.second && r.seq.isNone then .next (writeRecords s cid) else .fault .notEnabled

/-- The fault that an unresolvable answer delivers: a record of a first touch or a migration gives its own PAGE (R215, R216). -/
def answeredFault (r : FaultRecord) (code : Code) (sub : Nat) : Code × Nat :=
  if r.kind = 5 then (.page, 5) else if r.sub = 4 then (.page, 4) else (code, sub)

/-- An access waits for the answer on a granule. -/
def waitsOn (g : Nat) (x : Access) : Bool :=
  match x.fault with
  | some fi => fi.addr.toNat / 49152 == g && (fi.code = .page || (fi.code = .prot && fi.sub = 4))
  | none => false

/-- An operation takes an answer: its accesses on the granule are to be made again with its replay set, or take their fault. Its wave goes on when it waits for
nothing else (R177); an operation that parks alone, or whose wave has ended, goes on alone (R153, R294). -/
def answerOp (s : State) (r : FaultRecord) (ok : Bool) (id : Nat) : State :=
  match findOp s id with
  | none => s
  | some o =>
    let take (x : Access) : Access :=
      if !waitsOn r.granule x then x
      else { x with held := ok, fault := if ok then none else x.fault.map fun fi => { fi with code := (answeredFault r fi.code fi.sub).1, sub := (answeredFault r fi.code fi.sub).2 } }
    let s1 := updOp s id fun o => { o with accs := o.accs.map take }
    if o.phase ≠ .faulted then s1
    else if (findWave s o.tid o.wave).any (·.status = .ended) then
      if ok then rephase s1 id else lower { s1 with ops := s1.ops.map fun p => if p.id = id then closeOp s1 (opPending s1 id) p else p }
    else if o.kind.parksAlone then (if ok then rephase s1 id else s1)
    else resumeParked s1 o.tid o.wave

/-- A save that met a page fault in its arena goes on, or is given up for an abort: its team can no longer be saved (R187, R190). -/
def answerSave (s : State) (ok : Bool) (tid : Nat) : State :=
  if ok then s else updTeam s tid fun t => { t with preempt := t.preempt.map fun p => { p with abort := true } }

/-- A wave that waits in its own instruction takes an answer: it tries again, or takes the fault. A saved wave stays saved, and one that a
pre-emption holds stays where it is until it is saved or the request is over (R183). -/
def answerWave (s : State) (r : FaultRecord) (ok : Bool) (tid wave va : Nat) : State :=
  match findWave s tid wave with
  | none => s
  | some w =>
    if w.status ≠ .parked && w.status ≠ .saved then s
    else if ok then (if w.status = .parked && !heldAtYield w then makeReady s tid wave else s)
    else
      let f := answeredFault r r.ucode r.usub
      let pc := w.path.nextVa
      let s1 := deliver s ⟨tid, wave, none⟩ ⟨f.1, f.2, BitVec.ofNat 64 va⟩ ⟨pc, 0, 1, pc, []⟩
      if w.status = .saved then updWave s1 tid wave fun w => { w with status := if w.status = .running then .saved else w.status } else s1

/-- A parked rake claims the record at `va` again, or stops at it with cause PAGE (R380, R381). -/
def answerRake (s : State) (ok : Bool) (ref : SweepRef) (vdie va : Nat) : State :=
  let s1 := updRake s ref vdie fun k => { k with parked := false }
  match findSweep s1 ref with
  | none => s1
  | some w => if ok then s1 else stopRake s1 w vdie ((va - w.plot) / 48) 3 0 s.now

/-- A node of a graph takes an answer (R426). -/
def answerNode (s : State) (f : Code × Nat) (ok : Bool) (p : PktRef) (g : Graph) (k va : Nat) (n : GraphNode) : State :=
  match n.phase, n.raw with
  | .entry, _ => if ok then (if n.isCond then s else readBody s g k n) else refuseNode s g k f.1.num f.2 va
  | .ready, some raw =>
    match ok, findQueue s p.q with
    | true, _ => s
    | false, some q => if raw.kind = 1 then refuseWith s raw f.1.num f.2 va else failHead s q raw f.1.num f.2 va
    | false, none => s
  | _, _ => if ok then s else failPkt (dropPosting s p) p f.1.num f.2 va

/-- A packet at the head of its queue takes an unresolvable answer: a SWEEP is refused, a GRAPH goes on with the node unread, another
completes with an error record (R373, R426). -/
def failWaiting (s : State) (q : Queue) (raw : RawPkt) (f : Code × Nat) (va : Nat) : State :=
  if raw.kind = 1 then refuseWith s raw f.1.num f.2 va
  else if raw.kind = 8 then updGraph s q.q raw.ref.seq fun g => { g with nodes := g.nodes ++ [nodeUnread f.1 f.2] }
  else failHead s q raw f.1.num f.2 va

/-- A started packet takes an unresolvable answer: a GRAPH's STAT is left as it stands, another completes with an error record (R426). -/
def failStarted (s : State) (p : PktRef) (kind : Nat) (f : Code × Nat) (va : Nat) : State :=
  if kind = 8 then completePkt { s with graphs := s.graphs.filter fun x => x.pkt ≠ p } p
  else failPkt (dropPosting s p) p f.1.num f.2 va

/-- A packet takes an answer. What it waited for is tried again when its step, or its queue's, comes. -/
def answerPacket (s : State) (r : FaultRecord) (ok : Bool) (p : PktRef) (va : Nat) : State :=
  let f := answeredFault r r.ucode r.usub
  match p.node.bind fun k => (findGraph s p.q p.seq).bind fun g => (g.nodes[k]?).map fun n => (k, g, n), findQueue s p.q with
  | some (k, g, n), _ => answerNode s f ok p g k va n
  | none, none => s
  | none, some q =>
    if ok then s
    else
      match q.pending.find? fun x => x.ref = p with
      | some raw => failWaiting s q raw f va
      | none => match q.started.find? fun e => e.ref = p with | some e => failStarted s p e.kind f va | none => s

/-- A queue takes an answer: it goes on, or halts, and records that waited for its ring go to the admin queue's (R426); its capture ends with it (log
entry 101). -/
def answerQueue (s : State) (r : FaultRecord) (ok : Bool) (ref : QRef) (va : Nat) : State :=
  match ok, findQueue s ref with
  | false, some q =>
    let f := answeredFault r r.ucode r.usub
    let s1 := q.errq.foldl postAdmin (updQueue s ref fun q => { q with errq := [], capture := none })
    haltQueue s1 q f.1.num f.2 va
  | _, _ => s

/-- A granule has moved: the copies of its lines, and the home's order of stores to them, follow it to where the entry puts it now (R93). -/
def followMove (s : State) (p : PktRef) (g : Nat) : State :=
  match (findQueue s p.q).bind (queueCtx s) with
  | none => s
  | some c => match translate s c g with | .leaf _ pgn _ => rebaseGranule s c g pgn | _ => s

/-- A migration request takes an answer: the request that wrote the record wins with REPLAY, any other loses (R216, R217). -/
def answerMigrate (s : State) (r : FaultRecord) (ok : Bool) (p : PktRef) (va : Nat) : State :=
  let wins := r.kind = 5 && (r.waiters.head?.map (·.1)) = some (.migrate p)
  if wins && ok then completePkt (followMove s p r.granule) p else failPkt s p Code.page.num 5 va

/-- One waiter takes an answer. -/
def answerWaiter (r : FaultRecord) (ok : Bool) (s : State) (w : Waiter × Nat) : State :=
  match w.1 with
  | .op id => answerOp s r ok id
  | .wave tid wave => answerWave s r ok tid wave w.2
  | .rake ref vdie => answerRake s ok ref vdie w.2
  | .packet p => answerPacket s r ok p w.2
  | .queue q => answerQueue s r ok q w.2
  | .migrate p => answerMigrate s r ok p w.2
  | .save tid => answerSave s ok tid

/-- An unresolvable answer to a migration returns FT to 0 and leaves the rest of the entry (R217). -/
def clearFt (s : State) (c : Context) (r : FaultRecord) : State :=
  match translate s { c with asid := r.asid } r.granule with
  | .leaf _ _ entry => writeFt s entry 0
  | _ => s

/-- A waiter has not taken its answer yet: its operation's replay has not started, or its fault is not delivered. -/
def owesAnswer (s : State) (r : FaultRecord) (ok : Bool) (w : Waiter) : Bool :=
  match w with
  | .op id =>
    match findOp s id with
    | none => false
    | some o =>
      if ok then (o.phase = .faulted || o.phase = .parked) && o.accs.any (·.held)
      else o.phase = .faulted && o.accs.any fun x => (x.fault.map fun fi => fi.addr.toNat / 49152) == some r.granule
  | _ => false

/-- A record whose answer everything has taken is dropped: its slot is freed with a store of 3, and records that wait for it are tried
(R179). -/
def finishRecord (cid : Nat) (s : State) (r : FaultRecord) : State :=
  match r.answer, ctxOf s cid with
  | some ok, some c =>
    if r.waiters.any fun w => owesAnswer s r ok w.1 then s
    else
      let s1 := updCtx s cid fun c => { c with faults := c.faults.filter fun x => x ≠ r }
      match r.seq.bind (faultSlot s c) with
      | some a => writeRecords (storeAfter s1 (a + 40) (leBytes 8 3) s.now).1 cid
      | none => s1
  | _, _ => s

/-- The answered records of every context that nothing waits for any more (R179). -/
def finishAnswers (s : State) : State := s.contexts.foldl (fun s c => c.faults.foldl (finishRecord c.cid) s) s

/-- A record is answered: what waits for it takes the answer. A stack guard granule is always unresolvable (R177). -/
def answerRecord (s : State) (c : Context) (r : FaultRecord) (resolved : Bool) : State :=
  let ok := resolved && r.sub ≠ 3
  let s1 := updCtx s c.cid fun c => { c with faults := c.faults.map fun x => if x = r then { x with answer := some ok } else x }
  let s2 := if r.kind = 5 && !ok then clearFt s1 c r else s1
  r.waiters.foldl (answerWaiter r ok) s2

/-- FAULT_REPLY: the guest's store to a record's REPLY has completed; 1 resolves, every other value does not (R179). -/
def execFaultReply (cid seq : Nat) (s : State) : Host.Outcome State Fault Refusal :=
  match (ctxOf s cid).bind fun c => (c.faults.find? fun r => r.seq = some seq && r.answer.isNone).bind fun r => (faultSlot s c seq).map fun a => (c, r, a) with
  | none => .fault .notEnabled
  | some (c, r, a) =>
    let reply := memNat s.mem (a + 40) 8
    if reply = 0 || decide (s.now < r.written) then .fault .notEnabled
    else .next (finishAnswers (answerRecord s c r (reply = 1)))

/-- SECOND_STAGE_RESOLUTION: the management core reports a second-stage fault (R180). -/
def execSecondStageResolution (cid granule : Nat) (resolved : Bool) (s : State) : Host.Outcome State Fault Refusal :=
  match (ctxOf s cid).bind fun c => (c.faults.find? fun r => r.second && r.granule == granule && r.answer.isNone).map fun r => (c, r) with
  | none => .fault .notEnabled
  | some (c, r) => .next (finishAnswers (answerRecord s c r resolved))

end Sys2Proof.Machine
end

