-- ==== Sys2Proof/Machine/Xfn.lean ====
section
/-!
DEFINITION. The XFN instructions: division, roots, functions and conversions (R281 to R285).
-/

namespace Sys2Proof.Machine

/-- The reciprocal of a value (R281). -/
def rcpF (x : FVal) : FVal × Nat :=
  match x with
  | .nan _ sg => (.nan false false, if sg then fNV else 0)
  | .inf s => (.num s 0 0, 0)
  | .num s m e =>
    if m = 0 then (.inf s, fDZ)
    else let q := divMag 1 0 m e; (.num s q.1 q.2, 0)

/-- The reciprocal square root (R281). -/
def rsqF (x : FVal) : FVal × Nat :=
  match x with
  | .nan _ sg => (.nan false false, if sg then fNV else 0)
  | .inf s => if s then (.nan false false, fNV) else (.num false 0 0, 0)
  | .num s m e =>
    if m = 0 then (.inf s, fDZ)
    else if s then (.nan false false, fNV)
    else let q := rsqrtMag m e; (.num false q.1 q.2, 0)

/-- The square root (R281). -/
def sqrtF (x : FVal) : FVal × Nat :=
  match x with
  | .nan _ sg => (.nan false false, if sg then fNV else 0)
  | .inf s => if s then (.nan false false, fNV) else (.inf false, 0)
  | .num s m e =>
    if m = 0 then (.num s 0 0, 0)
    else if s then (.nan false false, fNV)
    else let q := sqrtMag m e; (.num false q.1 q.2, 0)

/-- The quotient (R281). -/
def divF (x y : FVal) : FVal × Nat :=
  match x, y with
  | .nan _ a, .nan _ b => (.nan false false, if a || b then fNV else 0)
  | .nan _ a, _ => (.nan false false, if a then fNV else 0)
  | _, .nan _ b => (.nan false false, if b then fNV else 0)
  | .inf _, .inf _ => (.nan false false, fNV)
  | .inf a, .num b _ _ => (.inf (a != b), 0)
  | .num a _ _, .inf b => (.num (a != b) 0 0, 0)
  | .num a m e, .num b n k =>
    if n = 0 then (if m = 0 then (.nan false false, fNV) else (.inf (a != b), fDZ))
    else if m = 0 then (.num (a != b) 0 0, 0)
    else let q := divMag m e n k; (.num (a != b) q.1 q.2, 0)

/-- A function of FP32 A, correctly rounded (R73). -/
def fp32Unary (e : Env) (s : State) (g : FVal → FVal × Nat) : Verdict :=
  fpInstr e s false fun l =>
    let v := g (readIn (ftzOf e) .fp32 (fp32Src e (srcA e.f) l))
    let r := roundOut (ftzOf e) .fp32 (rmOf e) v.1
    (r.1, Nat.lor v.2 r.2)

/-- RCP. -/
def execRcp (f : Fields) (s : State) : Host.Outcome State Fault Refusal := issue (.rcp f) s fun e s => fp32Unary e s rcpF
/-- RSQ. -/
def execRsq (f : Fields) (s : State) : Host.Outcome State Fault Refusal := issue (.rsq f) s fun e s => fp32Unary e s rsqF
/-- SQRT. -/
def execSqrt (f : Fields) (s : State) : Host.Outcome State Fault Refusal := issue (.sqrt f) s fun e s => fp32Unary e s sqrtF
/-- DIVF. -/
def execDivf (f : Fields) (s : State) : Host.Outcome State Fault Refusal := issue (.divf f) s fun e s => fp32Binary e s divF
/-- DDIV. -/
def execDdiv (f : Fields) (s : State) : Host.Outcome State Fault Refusal :=
  issue (.ddiv f) s fun e s =>
    fpInstr e s true fun l => fp64Result e (divF (readF .fp64 (fp64Src e (srcA f) l)) (readF .fp64 (fp64Src e (srcB f) l)))

/-- The rounding of a function value (R74): truncated to 31 fraction bits, rounded; NX when the result differs from the exact value,
and then UF when it is tiny; flushed under FTZ. -/
def roundFn (ftz : Bool) (rm : Nat) (x : FnVal) : Nat × Nat :=
  let r := roundF .fp32 rm (trunc31 x)
  let fl := if x.exact then r.2 else Nat.lor r.2 (fNX + if zeroExp .fp32 r.1 then fUF else 0)
  if ftz && zeroExp .fp32 r.1 && r.1 % 2 ^ 23 != 0 then (r.1 / 2 ^ 31 * 2 ^ 31, Nat.lor fl (fUF + fNX)) else (r.1, fl)

/-- A function of FP32 A by R74: `zero` and `special` give the table's rows, `rule` the rest. -/
def fnInstr (e : Env) (s : State) (zero : Bool → FVal × Nat) (infinite : Bool → FVal × Nat)
    (rule : Bool → Nat → Int → Except Nat FnVal) : Verdict :=
  fpInstr e s false fun l =>
    let fixed (v : FVal × Nat) : Nat × Nat := ((roundF .fp32 (rmOf e) v.1).1, v.2)
    match readIn (ftzOf e) .fp32 (fp32Src e (srcA e.f) l) with
    | .nan _ sg => fixed (.nan false false, if sg then fNV else 0)
    | .inf sg => fixed (infinite sg)
    | .num sg m ex =>
      if m = 0 then fixed (zero sg)
      else match rule sg m ex with
        | .ok v => roundFn (ftzOf e) (rmOf e) v
        | .error fl => fixed (.nan false false, fl)

/-- The value 1. -/
def oneF : FVal := .num false 1 0

/-- EXP2. -/
def execExp2 (f : Fields) (s : State) : Host.Outcome State Fault Refusal :=
  issue (.exp2 f) s fun e s =>
    fnInstr e s (fun _ => (oneF, 0)) (fun sg => (if sg then .num false 0 0 else .inf false, 0)) fun sg m ex => .ok (exp2Fn sg m ex)
/-- LOG2. -/
def execLog2 (f : Fields) (s : State) : Host.Outcome State Fault Refusal :=
  issue (.log2 f) s fun e s =>
    fnInstr e s (fun _ => (.inf true, fDZ)) (fun sg => if sg then (.nan false false, fNV) else (.inf false, 0))
      fun sg m ex => if sg then .error fNV else .ok (log2Fn m ex)
/-- SIN. -/
def execSin (f : Fields) (s : State) : Host.Outcome State Fault Refusal :=
  issue (.sin f) s fun e s =>
    fnInstr e s (fun sg => (.num sg 0 0, 0)) (fun _ => (.nan false false, fNV)) fun sg m ex => .ok (sinFn sg m ex)
/-- COS. -/
def execCos (f : Fields) (s : State) : Host.Outcome State Fault Refusal :=
  issue (.cos f) s fun e s =>
    fnInstr e s (fun _ => (oneF, 0)) (fun _ => (.nan false false, fNV)) fun _ m ex => .ok (cosFn m ex)
/-- TANH. -/
def execTanh (f : Fields) (s : State) : Host.Outcome State Fault Refusal :=
  issue (.tanh f) s fun e s =>
    fnInstr e s (fun sg => (.num sg 0 0, 0)) (fun sg => (.num sg 1 0, 0)) fun sg m ex => .ok (tanhFn sg m ex)

/-- The float types of CVT (R283). -/
def cvtType (t : Nat) : Fmt :=
  match t with | 0 => .fp32 | 1 => .fp64 | 2 => .bf16 | 3 => .fp16 | 4 => .e4m3 | 5 => .e5m2 | _ => .e2m1

/-- CVT: with SAT, a finite value whose rounding is infinite becomes the largest finite one, with NX. -/
def execCvt (f : Fields) (s : State) : Host.Outcome State Fault Refusal :=
  issue (.cvt f) s fun e s =>
    let dst := cvtType (kcode e % 16)
    let src := cvtType (kcode e / 16)
    fpInstr e s (decide (dst = .fp64)) fun l =>
      let v := readIn (ftzOf e) src (typedSrc e src (srcA f) l)
      let r := roundOut (ftzOf e) dst (rmOf e) v
      match v, readF dst r.1 with
      | .num sg _ _, .inf _ => if f.bmod.toNat % 2 = 1 then (maxPattern dst sg, fNX) else r
      | _, _ => (r.1, Nat.lor r.2 (sigFlag v))

/-- CVTFI (R284). -/
def execCvtfi (f : Fields) (s : State) : Host.Outcome State Fault Refusal :=
  issue (.cvtfi f) s fun e s =>
    let src : Fmt := if kcode e / 8 % 2 = 1 then .fp64 else .fp32
    let (w, sg) := intType (kcode e)
    let lim := intLimits (kcode e)
    let rm := if kcode e / 16 = 0 then rmOf e else kcode e / 16 - 1
    let out := if uniformD e then 64 else 32
    fpInstr e s false fun l =>
      match readIn (ftzOf e) src (typedSrc e src (srcA f) l) with
      | .nan _ _ => (0, fNV)
      | .inf s => (wrapInt out (if s then lim.1 else lim.2), fNV)
      | .num s m ex => let r := roundInteger w sg rm s m ex; (wrapInt out r.1, r.2)

/-- CVTIF (R285): the source is read from bits 31:0. -/
def execCvtif (f : Fields) (s : State) : Host.Outcome State Fault Refusal :=
  issue (.cvtif f) s fun e s =>
    let dst : Fmt := if kcode e / 8 % 2 = 1 then .fp64 else .fp32
    fpInstr e s (decide (dst = .fp64)) fun l =>
      let v := readInt (kcode e) (op32 e (srcA f) l).toNat
      roundFinite dst (rmOf e) (decide (v < 0)) v.natAbs 0

end Sys2Proof.Machine
end

