-- ==== Sys2Proof/Machine/Helper.lean ====
section
/-!
DEFINITION. The helper (R126): one instruction, or one header, for up to 8 continuations of a team that stand at the same PC.
-/

namespace Sys2Proof.Machine

/-- What the helper does with a word for the current continuation: VEC, XFN, LSU and seven SEQ words run with their own meanings; at any
other the continuation is recalled. -/
def helperExec (i : Instr) (s : State) : Host.Outcome State Fault Refusal :=
  match i with
  | .nop f => Sys2Proof.Machine.execNop f s
  | .mov f => Sys2Proof.Machine.execMov f s
  | .movi f => Sys2Proof.Machine.execMovi f s
  | .sel f => Sys2Proof.Machine.execSel f s
  | .iadd f => Sys2Proof.Machine.execIadd f s
  | .isub f => Sys2Proof.Machine.execIsub f s
  | .imul f => Sys2Proof.Machine.execImul f s
  | .imulh f => Sys2Proof.Machine.execImulh f s
  | .imad f => Sys2Proof.Machine.execImad f s
  | .imadw f => Sys2Proof.Machine.execImadw f s
  | .imin f => Sys2Proof.Machine.execImin f s
  | .imax f => Sys2Proof.Machine.execImax f s
  | .iabs f => Sys2Proof.Machine.execIabs f s
  | .iaddc f => Sys2Proof.Machine.execIaddc f s
  | .iadds f => Sys2Proof.Machine.execIadds f s
  | .isubs f => Sys2Proof.Machine.execIsubs f s
  | .and f => Sys2Proof.Machine.execAnd f s
  | .or f => Sys2Proof.Machine.execOr f s
  | .xor f => Sys2Proof.Machine.execXor f s
  | .not f => Sys2Proof.Machine.execNot f s
  | .shl f => Sys2Proof.Machine.execShl f s
  | .shr f => Sys2Proof.Machine.execShr f s
  | .sar f => Sys2Proof.Machine.execSar f s
  | .rol f => Sys2Proof.Machine.execRol f s
  | .bfx f => Sys2Proof.Machine.execBfx f s
  | .bfi f => Sys2Proof.Machine.execBfi f s
  | .popc f => Sys2Proof.Machine.execPopc f s
  | .clz f => Sys2Proof.Machine.execClz f s
  | .brev f => Sys2Proof.Machine.execBrev f s
  | .permb f => Sys2Proof.Machine.execPermb f s
  | .icmp f => Sys2Proof.Machine.execIcmp f s
  | .fcmp f => Sys2Proof.Machine.execFcmp f s
  | .fadd f => Sys2Proof.Machine.execFadd f s
  | .fsub f => Sys2Proof.Machine.execFsub f s
  | .fmul f => Sys2Proof.Machine.execFmul f s
  | .ffma f => Sys2Proof.Machine.execFfma f s
  | .fmin f => Sys2Proof.Machine.execFmin f s
  | .fmax f => Sys2Proof.Machine.execFmax f s
  | .fclass f => Sys2Proof.Machine.execFclass f s
  | .dadd f => Sys2Proof.Machine.execDadd f s
  | .dmul f => Sys2Proof.Machine.execDmul f s
  | .dfma f => Sys2Proof.Machine.execDfma f s
  | .pkadd f => Sys2Proof.Machine.execPkadd f s
  | .pkmul f => Sys2Proof.Machine.execPkmul f s
  | .pkfma f => Sys2Proof.Machine.execPkfma f s
  | .dot4 f => Sys2Proof.Machine.execDot4 f s
  | .dot8 f => Sys2Proof.Machine.execDot8 f s
  | .dot2 f => Sys2Proof.Machine.execDot2 f s
  | .shfl f => Sys2Proof.Machine.execShfl f s
  | .vote f => Sys2Proof.Machine.execVote f s
  | .redw f => Sys2Proof.Machine.execRedw f s
  | .rds f => Sys2Proof.Machine.execRds f s
  | .wrs f => Sys2Proof.Machine.execWrs f s
  | .lea f => Sys2Proof.Machine.execLea f s
  | .movem f => Sys2Proof.Machine.execMovem f s
  | .plop f => Sys2Proof.Machine.execPlop f s
  | .cvti f => Sys2Proof.Machine.execCvti f s
  | .pack f => Sys2Proof.Machine.execPack f s
  | .unpk f => Sys2Proof.Machine.execUnpk f s
  | .dcmp f => Sys2Proof.Machine.execDcmp f s
  | .rcp f => Sys2Proof.Machine.execRcp f s
  | .rsq f => Sys2Proof.Machine.execRsq f s
  | .sqrt f => Sys2Proof.Machine.execSqrt f s
  | .exp2 f => Sys2Proof.Machine.execExp2 f s
  | .log2 f => Sys2Proof.Machine.execLog2 f s
  | .sin f => Sys2Proof.Machine.execSin f s
  | .cos f => Sys2Proof.Machine.execCos f s
  | .tanh f => Sys2Proof.Machine.execTanh f s
  | .cvt f => Sys2Proof.Machine.execCvt f s
  | .cvtfi f => Sys2Proof.Machine.execCvtfi f s
  | .cvtif f => Sys2Proof.Machine.execCvtif f s
  | .divf f => Sys2Proof.Machine.execDivf f s
  | .ddiv f => Sys2Proof.Machine.execDdiv f s
  | .ld f => Sys2Proof.Machine.execLd f s
  | .st f => Sys2Proof.Machine.execSt f s
  | .lds f => Sys2Proof.Machine.execLds f s
  | .sts f => Sys2Proof.Machine.execSts f s
  | .atom f => Sys2Proof.Machine.execAtom f s
  | .acas f => Sys2Proof.Machine.execAcas f s
  | .atoms f => Sys2Proof.Machine.execAtoms f s
  | .ldu f => Sys2Proof.Machine.execLdu f s
  | .fence f => Sys2Proof.Machine.execFence f s
  | .waitc f => Sys2Proof.Machine.execWaitc f s
  | .pref f => Sys2Proof.Machine.execPref f s
  | .rowopen f => Sys2Proof.Machine.execRowopen f s
  | .rowld f => Sys2Proof.Machine.execRowld f s
  | .rowst f => Sys2Proof.Machine.execRowst f s
  | .rowrel f => Sys2Proof.Machine.execRowrel f s
  | .rowq f => Sys2Proof.Machine.execRowq f s
  | .ldt f => Sys2Proof.Machine.execLdt f s
  | .stf f => Sys2Proof.Machine.execStf f s
  | .amaxu f => Sys2Proof.Machine.execAmaxu f s
  | .amaxswap f => Sys2Proof.Machine.execAmaxswap f s
  | .ldb f => Sys2Proof.Machine.execLdb f s
  | .stb f => Sys2Proof.Machine.execStb f s
  | .lnwb f => Sys2Proof.Machine.execLnwb f s
  | .bra f => Sys2Proof.Machine.execBra f s
  | .braFar f => Sys2Proof.Machine.execBraFar f s
  | .brx f => Sys2Proof.Machine.execBrx f s
  | .call f => Sys2Proof.Machine.execCall f s
  | .icall f => Sys2Proof.Machine.execIcall f s
  | .ret f => Sys2Proof.Machine.execRet f s
  | .join f => Sys2Proof.Machine.execJoin f s
  | _ =>
    match s.cur with
    | some ⟨tid, wave, some l⟩ => .next (recallLane s ⟨tid, wave, none⟩ l)
    | _ => .fault .noWave

/-- A continuation's path. -/
def contPath (s : State) (tid : Nat) (q : Nat × Nat) : Option Path := (findWave s tid q.1).bind fun w => w.pathOf (some q.2)

/-- One continuation issues: its header, its word, or a recall at a word of a reserved opcode; none of a wave whose deadline has come (R184). -/
def helperOne (tid : Nat) (s : State) (q : Nat × Nat) : Host.Outcome State Fault Refusal :=
  let a : AgentRef := ⟨tid, q.1, some q.2⟩
  let s1 := { s with cur := some a }
  match contPath s tid q with
  | none => .fault .notEnabled
  | some p =>
    if (findWave s tid q.1).any expired then .fault .notEnabled
    else
    match p.clause with
    | none => execClauseHeader s1
    | some c =>
      match c.words[c.idx]? with
      | none => .fault .notEnabled
      | some w =>
        match decode w with
        | .ok i => helperExec i s1
        | .error _ => .next (recallLane s1 ⟨tid, q.1, none⟩ q.2)

/-- The continuations of a group, one after another. -/
def helperAll (tid : Nat) : List (Nat × Nat) → State → Host.Outcome State Fault Refusal
  | [], s => .next s
  | q :: r, s =>
    match helperOne tid s q with
    | .next s1 => helperAll tid r s1
    | o => o

/-- The continuations named are distinct, at most 8, and stand at one PC. -/
def groupFits (s : State) (tid : Nat) (group : List (Nat × Nat)) : Bool :=
  !group.isEmpty && decide (group.length ≤ 8) && group.dedup.length == group.length
    && (group.map fun q => (contPath s tid q).map fun p => (p.nextVa, p.clause.isSome)).dedup.length == 1

/-- The helper finds work for a continuation: its word does not have to wait. -/
def helperGoes (s : State) (tid : Nat) (q : Nat × Nat) : Bool :=
  match helperOne tid s q with
  | .next s1 => decide ({ s1 with cur := s.cur } ≠ s)
  | _ => false

/-- Since when the longest-waiting member of a group has waited for the helper. -/
def groupSince (s : State) (tid : Nat) (group : List (Nat × Nat)) : Nat :=
  (group.filterMap fun q => (findWave s tid q.1).bind fun w => (w.conts.find? fun c => c.lane == q.2).map (·.since)).foldl min s.now

/-- A continuation outside a group goes before it: it stands on the same core, its team is the guaranteed one and the group's is not, or else it has
waited longer; and the helper finds work for it (R126). -/
def goesBefore (s : State) (t : Team) (group : List (Nat × Nat)) (u : Team) (ix : Nat) (c : Cont) : Bool :=
  !(u.tid == t.tid && group.contains (ix, c.lane)) && u.status = .placed && u.die == t.die && u.core == t.core
    && (if guaranteed s u = guaranteed s t then decide (c.since < groupSince s t.tid group) else guaranteed s u) && helperGoes s u.tid (ix, c.lane)

/-- The helper serves the group: nothing on its core goes before it. -/
def helperServes (s : State) (tid : Nat) (group : List (Nat × Nat)) : Bool :=
  match findTeam s tid with
  | none => false
  | some t => s.waves.all fun w => w.conts.all fun c => match findTeam s w.tid with | some u => !goesBefore s t group u w.ix c | none => true

/-- A group has been served: its members wait anew from now on. -/
def served (tid : Nat) (group : List (Nat × Nat)) (s : State) : State :=
  group.foldl (fun s q => updWave s tid q.1 fun w =>
    { w with conts := w.conts.map fun c => if c.lane = q.2 then { c with since := s.now } else c }) s

/-- HELPER_ISSUE: the guaranteed team first, otherwise the longest-waiting group (R126). -/
def execHelperIssue (tid : Nat) (group : List (Nat × Nat)) (s : State) : Host.Outcome State Fault Refusal :=
  if !groupFits s tid group || !helperServes s tid group then .fault .notEnabled
  else
    match helperAll tid group s with
    | .next s1 => .next { served tid group s1 with cur := s.cur }
    | o => o

end Sys2Proof.Machine
end

