-- ==== Sys2Proof/Machine/System.lean ====
section
/-!
DEFINITION. The device in its system: registers (R410, R417), power islands (R424), attestation (R420, R421), resets and bring-up (R419,
R425), the span fabric (R418), fences (R9), errors (R345, R423), and the driver's unmap (R169, R429).
-/

namespace Sys2Proof.Machine

/-! ## Registers (R410, R417, R424) -/

/-- The offset lies in a register whose writes are instructions of their own: FEATGO, ADMINGO, ISLAND. -/
def ownOffset (k : Nat) : Bool := k == 0x20 || k == 0x48 || (decide (0x200 ≤ k) && decide (k < 0x700))

/-- REGISTER_WRITE: FEATACC until it is locked, and ADMINQ, hold what is written; the others are read-only, and port 1 has none. -/
def execRegisterWrite (port offset : Nat) (value : BitVec 128) (s : State) : Host.Outcome State Fault Refusal :=
  if 1 < port || (port = 0 && ownOffset offset) then .fault .notEnabled
  else if port = 0 && offset = 0x10 then .next (if s.featLocked then s else { s with featReg := value })
  else if port = 0 && offset = 0x40 then .next { s with adminq := value.truncate 64 }
  else .next s

/-- LEVEL of an island's register. -/
def islandLevel (s : State) (island : Nat) : Nat := Sparse.get 0 s.islandLevel island

/-- ISLAND_LEVEL: LEVEL is bits 2:0; the other bits of a write are ignored. It takes effect within 9,400 ticks, until when the write is kept with
the level before it. -/
def execIslandLevel (island : Nat) (value : Word) (s : State) : Host.Outcome State Fault Refusal :=
  if 160 ≤ island then .fault .notEnabled
  else
    .next { s with
      islandWrites := (s.islandWrites.filter fun w => decide (s.now < w.2.1 + 9400)) ++ [(island, s.now, islandLevel s island)]
      islandLevel := Sparse.set 0 s.islandLevel island (value.toNat % 8) }

/-- A cluster's island that is not powered off. -/
def clusterOn (island : Nat) : Bool := decide (island < 80) && decide (island % 10 ≠ (Config.disabledCluster (island / 10)).val)

/-- OFF: the island is powered off. -/
def islandOff (island : Nat) : Bool := if island < 80 then !clusterOn island else Config.islandOff island

/-- Of writes of one LEVEL, the newest first and each with the level before it, the level that the last one in effect has set. -/
def levelAt (now island : Nat) : Nat → List (Nat × Nat × Nat) → Nat
  | new, [] => new
  | new, w :: r => if w.2.1 + (Config.levelDelay island w.2.1).val ≤ now then new else levelAt now island w.2.2 r

/-- The level that has been asked for and is in effect. -/
def levelInForce (s : State) (island : Nat) : Nat :=
  levelAt s.now island (islandLevel s island) (s.islandWrites.filter fun w => w.1 == island).reverse

/-- The levels by which the limits hold an island below its own. -/
def heldLevels (s : State) (island : Nat) : Nat :=
  Sparse.get 0 s.islandHeld island + if s.islandHot.contains island then 1 + Config.thermalLevels island else 0

/-- The level at which an island runs: the one in effect, held below it by the limits, and none below 7 (log entry 103). -/
def runLevel (s : State) (island : Nat) : Nat := min 7 (levelInForce s island + heldLevels s island)

/-- THR: a limit holds the island. -/
def islandThr (s : State) (island : Nat) : Bool := Sparse.get 0 s.islandHeld island ≠ 0 || s.islandHot.contains island

/-- NOWMHZ: the frequency of the level at which an island runs, in units of 4 MHz, rounded down; 0 where it is powered off (log entry 103). -/
def nowMhz (s : State) (island : Nat) : Nat := if islandOff island then 0 else 940 * (8 - runLevel s island) / 8 / 4

/-- What a read of an ISLAND register gives. -/
def islandRead (s : State) (island : Nat) : Nat :=
  256 * nowMhz s island + (if islandThr s island then 16 else 0) + (if islandOff island then 8 else 0) + islandLevel s island

/-- CLUMASK: bit 10d + c where cluster c of die d is enabled (R417, R419). -/
def cluMask : BitVec 128 := BitVec.ofNat 128 (((upto 80).filter clusterOn).foldl (fun n k => n + 2 ^ k) 0)

/-- What a read of a port's BAR0 register gives (R410, R417, R424); those of port 1 read as zero, and so do the write-only ones. -/
def readRegister (s : State) (port offset : Nat) : BitVec 128 :=
  if port ≠ 0 then 0
  else if 0x200 ≤ offset && offset < 0x700 && offset % 8 == 0 then BitVec.ofNat 128 (islandRead s ((offset - 0x200) / 8))
  else
    match offset with
    | 0x00 => Config.featOff
    | 0x10 => s.featReg
    | 0x24 => BitVec.ofNat 128 s.featStat
    | 0x40 => s.adminq.zeroExtend 128
    | 0x50 => BitVec.ofNat 128 s.boot
    | 0x58 => s.portstat.zeroExtend 128
    | 0x100 => cluMask
    | 0x110 => s.dieFence.zeroExtend 128
    | _ => 0

/-- POWER_LIMIT: the module limit would be passed, and the cluster island of the highest power, which is the event's (log entry 103), is lowered a
level. -/
def execPowerLimit (island : Nat) (s : State) : Host.Outcome State Fault Refusal :=
  if clusterOn island && decide (runLevel s island < 7) then
    .next { s with islandHeld := Sparse.set 0 s.islandHeld island (Sparse.get 0 s.islandHeld island + 1) }
  else .fault .notEnabled

/-- POWER_LIMIT_CLEAR: the power has fallen, and a lowered island is raised a level. -/
def execPowerLimitClear (island : Nat) (s : State) : Host.Outcome State Fault Refusal :=
  if Sparse.get 0 s.islandHeld island ≠ 0 then
    .next { s with islandHeld := Sparse.set 0 s.islandHeld island (Sparse.get 0 s.islandHeld island - 1) }
  else .fault .notEnabled

/-- THERMAL_LIMIT: an island is held, or held no longer. -/
def execThermalLimit (island : Nat) (held : Bool) (s : State) : Host.Outcome State Fault Refusal :=
  if 160 ≤ island || s.islandHot.contains island == held then .fault .notEnabled
  else .next { s with islandHot := if held then s.islandHot ++ [island] else s.islandHot.filter (· != island) }

/-! ## Attestation (R420, R421) -/

/-- A request on the DOE mailbox of a port that is up is answered. -/
def spdmAnswer (s : State) (port : Nat) (go : State → SpdmAnswer × State) : Host.Outcome State Fault Refusal :=
  if 1 < port || portMode s port = 0 then .fault .notEnabled
  else
    let r := go s
    .next { r.2 with spdm := r.2.spdm ++ [(port, r.1)] }

/-- A request that no signature answers. -/
def spdmPlain (request : SpdmRequest) (s : State) : SpdmAnswer × State := (.ok request none, s)

/-- A request that the alias key signs: 1,024 of them in a boot, and none if the alias key has no certificate (R420). -/
def spdmSigned (request : SpdmRequest) (s : State) (answer : Nat → SpdmAnswer) : SpdmAnswer × State :=
  if !s.aliasCert then (.unspecified request, s)
  else if 1024 ≤ s.aliasUsed then (.busy request, s)
  else (answer s.aliasUsed, { s with aliasUsed := s.aliasUsed + 1 })

/-- GET_VERSION. -/
def execGetVersion (port : Nat) (s : State) : Host.Outcome State Fault Refusal := spdmAnswer s port (spdmPlain .getVersion)
/-- GET_CAPABILITIES. -/
def execGetCapabilities (port : Nat) (s : State) : Host.Outcome State Fault Refusal := spdmAnswer s port (spdmPlain .getCapabilities)
/-- NEGOTIATE_ALGORITHMS: one hash and one asymmetric algorithm are offered. -/
def execNegotiateAlgorithms (port : Nat) (s : State) : Host.Outcome State Fault Refusal :=
  spdmAnswer s port fun s => (.algorithms .sha3With256Bits .xmssShake10With256Bits, s)
/-- GET_DIGESTS. -/
def execGetDigests (port : Nat) (s : State) : Host.Outcome State Fault Refusal := spdmAnswer s port (spdmPlain .getDigests)
/-- GET_CERTIFICATE. -/
def execGetCertificate (port : Nat) (s : State) : Host.Outcome State Fault Refusal := spdmAnswer s port (spdmPlain .getCertificate)

/-- CHALLENGE: its response is signed. -/
def execChallenge (port : Nat) (s : State) : Host.Outcome State Fault Refusal :=
  spdmAnswer s port fun s => spdmSigned .challenge s fun k => .ok .challenge (some k)

/-- The measurements of R421. -/
def measured (s : State) : Measurements := ⟨Config.romMeasurement, s.fwMeasured, Config.coreMeasurement, s.featAcc, cluMask, s.dieFence⟩

/-- GET_MEASUREMENTS; signed if it asks for it. -/
def execGetMeasurements (port : Nat) (signed : Bool) (s : State) : Host.Outcome State Fault Refusal :=
  spdmAnswer s port fun s =>
    if signed then spdmSigned .getMeasurements s fun k => .measurements (some k) (measured s) else (.measurements none (measured s), s)

/-! ## Reset and bring-up (R419, R425) -/

/-- The compute die that a failure fences: itself, or the one beside a stack (R5, R419). -/
def fencedDie (socket : Nat) : Nat := if socket < 8 then socket else if socket < 26 then (socket - 10) / 2 else (socket - 26) / 2

/-- The sockets that a failure fences: a die by itself; a stack with the die beside it and that die's far stacks. -/
def fencedStacks (socket : Nat) : List Nat :=
  if socket < 8 then [] else ([socket] ++ [26 + 2 * fencedDie socket, 27 + 2 * fencedDie socket]).dedup

/-- A port's mode and width as PORTSTAT can report them: down, PCIe or CXL, at x8 or x16. -/
def portGood (b : BitVec 16) (port : Nat) : Bool :=
  let mode := bitsOf b.toNat (8 * port + 3) (8 * port)
  let width := bitsOf b.toNat (8 * port + 7) (8 * port + 4)
  decide (mode ≤ 2) && (if mode = 0 then width == 0 else width == 1 || width == 2)

/-- A bring-up that the machine can go through. -/
def bringUpGood (b : BringUp) : Bool :=
  portGood b.portstat 0 && portGood b.portstat 1 && (match b.failAt with | some k => decide (1 ≤ k) && decide (k ≤ 3) | none => true)
    && b.fenced.all fun k => decide (k < 8) || (decide (10 ≤ k) && decide (k ≤ 41))

/-- The slot with the higher valid version: one whose signature verifies, and not below VERCTR (R420, R425); of two equal ones the slot that ran. -/
def bootSlot (s : State) : Option Nat :=
  let v (k : Nat) : Nat := (s.fwVersions.getD k 0).toNat
  let good (k : Nat) : Bool := s.fwSigned.getD k false && decide (s.verCtr.toNat ≤ v k)
  let other := 1 - s.fwSlot
  if good s.fwSlot && (!good other || decide (v other ≤ v s.fwSlot)) then some s.fwSlot else if good other then some other else none

/-- What a package cold reset leaves (R425): the timebase is 0 and nothing runs; the counters, the images in the slots and the bytes of
memory stand (log entry 36). -/
def resetState (s : State) : State :=
  { State.reset with
    agenda := s.agenda, freeIx := s.freeIx, mem := (s.homeStores.foldl applyStore s).mem, diePad := s.diePad, scratch := s.scratch
    idxCtr := s.idxCtr, verCtr := s.verCtr, fwSlot := s.fwSlot, fwVersions := s.fwVersions, fwHashes := s.fwHashes, fwSigned := s.fwSigned }

/-- BOOT 1: the firmware slot is chosen and its image measured (R421), and the alias key certified while the identity key has signatures left
(R420). -/
def bootFirmware (s : State) (slot : Nat) : State :=
  let s1 := { s with fwSlot := slot, fwMeasured := [s.fwHashes.getD slot 0] }
  if s.idxCtr.toNat < 2 ^ 20 then { s1 with aliasCert := true, idxCtr := s.idxCtr + 1 } else s1

/-- BOOT 2: ports, dies and stacks after training. -/
def trainLinks (s : State) (b : BringUp) : State :=
  { s with
    portstat := b.portstat
    dieFence := b.fenced.foldl (fun m k => m ||| BitVec.ofNat 8 (2 ^ fencedDie k)) 0
    stackFence := (b.fenced.flatMap fencedStacks).dedup }

/-- Bring-up as far as it gets. -/
def bringUp (s : State) (b : BringUp) : State :=
  match bootSlot s with
  | none => bootFails s 1
  | some slot =>
    if b.failAt = some 1 then bootFails s 1
    else
      let s1 := trainLinks (bootFirmware s slot) b
      match b.failAt with
      | some k => bootFails s1 k
      | none => { s1 with boot := 3 }

/-- COLD_RESET. -/
def execColdReset (b : BringUp) (s : State) : Host.Outcome State Fault Refusal :=
  if bringUpGood b then .next (bringUp (resetState s) b) else .fault .notEnabled

/-- A context is destroyed at once: its teams end (R425). -/
def destroyContext (s : State) (cid : Nat) : State :=
  let s1 := closeContext s cid
  let s2 := (s1.teams.filter fun t => t.sweep.cid == cid && t.status = .placed).foldl (fun s t => endTeam s t.tid 8 0x70 0 0xFF 0 0 none) s1
  removeContext s2 cid

/-- PORT_RESET: a reset of port 0 destroys every context, unlocks the feature word and takes BOOT back to 3, where no admin queue is mapped;
one of port 1 leaves the machine as it is. -/
def execPortReset (port : Nat) (s : State) : Host.Outcome State Fault Refusal :=
  if 1 < port then .fault .notEnabled
  else if port = 1 then .next s
  else
    let s1 := (s.contexts.map (·.cid)).foldl destroyContext s
    .next { s1 with
      queues := [], graphs := [], postings := [], featLocked := false, boot := min s.boot 3, bootFailed := s.bootFailed && decide (s.boot < 4) }

/-! ## The span fabric (R418) -/

/-- DEVICE_NUMBER_WRITE: the first write before the admin queue is mapped fixes the number. -/
def execDeviceNumberWrite (number : Byte) (s : State) : Host.Outcome State Fault Refusal :=
  .next (if s.devNum.isNone && decide (s.boot < 4) then { s with devNum := some number.toNat } else s)

/-- The record of a device to which no route is left. -/
def routeRecord (s : State) (dev : Nat) : ErrorRecord := ⟨⟨0, 0⟩, 3, 0, 0, 0, 0, s.now, 0, 0, 0, BitVec.ofNat 64 dev, 0, 0xFF, 0xFF, 0⟩

/-- A COLL in its round whose group names a lost device fails, withdrawn or faulted as it may be (R313, R418); one in a trap frame's replay set fails as it
is replayed. -/
def failLostColls (s : State) : State :=
  s.ops.foldl (fun s o =>
    match o.kind with
    | .coll _ _ _ _ => if collLost s o && o.phase != .parked then failColl s o else s
    | _ => s) s

/-- SPAN_PORT_DOWN: a port is taken down; the devices to which it was the last route are lost. -/
def execSpanPortDown (port : Nat) (unreachable : List Nat) (s : State) : Host.Outcome State Fault Refusal :=
  if 36 ≤ port || s.spanDown.contains port then .fault .notEnabled
  else
    let new := (unreachable.filter fun d => !s.lostDevs.contains d && decide (d < 256) && d != ownDev s).dedup
    let s1 := { s with spanDown := s.spanDown ++ [port], lostDevs := s.lostDevs ++ new }
    .next (failLostColls (new.foldl (fun s d => postAdmin { s with errors := s.errors ++ [routeRecord s d] } (routeRecord s d)) s1))

/-! ## Fences and errors (R9, R345, R423) -/

/-- A context binds a physical die. -/
def bindsDie (c : Context) (d : Nat) : Bool := c.vdmap.any fun b => decide (128 ≤ b) && b % 8 == d

/-- A context that binds a fenced die accepts no further packets, and the rake of that die walks no further (R9). -/
def fenceContext (d : Nat) (s : State) (c : Context) : State :=
  if !bindsDie c d then s
  else
    let s1 := updCtx s c.cid fun c => { c with dead := true }
    { s1 with sweeps := s1.sweeps.map fun w =>
        if w.ref.cid = c.cid then { w with rakes := w.rakes.map fun r => if physDie c r.vdie = some d then { r with stopped := true } else r } else w }

/-- DIE_FENCE: contexts that bind the die stop, and every team on it ends with a record. -/
def execDieFence (die : Nat) (s : State) : Host.Outcome State Fault Refusal :=
  if 8 ≤ die || s.dieFence.getLsbD die then .fault .notEnabled
  else
    let s1 := s.contexts.foldl (fenceContext die) { s with dieFence := s.dieFence ||| BitVec.ofNat 8 (2 ^ die) }
    .next ((s1.teams.filter fun t => t.die == die && decide (t.status ≠ .ended)).foldl (fun s t => endTeam s t.tid 3 0 0 0xFF 0 0 none) s1)

/-- A number put into a list without repeats. -/
def addOnce (k : Nat) (l : List Nat) : List Nat := if l.contains k then l else l ++ [k]

/-- A sector of a copy that stands in a cache is poisoned, if there is such a copy (R219, R423). -/
def spoilCopy (s : State) (p : CopyPlace) (pa : Nat) : Option State :=
  let hit (y : LineCopy) : Bool := y.place = p && y.kept && y.pline == pa / 192
  if s.copies.any hit then some { s with copies := s.copies.map fun y => if hit y then { y with bad := addOnce (pa / 48) y.bad } else y } else none

/-- UNCORRECTABLE_ERROR: a sector is poisoned; a wave's registers end its team; a gang's registers or tile lose a member as the
operation of a full round reads them (R345). -/
def execUncorrectableError (site : ErrorSite) (s : State) : Host.Outcome State Fault Refusal :=
  match site with
  | .sector pa =>
    if pgnPresent s (pa / 49152) then .next { s with poison := addOnce (pa / 48) s.poison } else .fault .notEnabled
  | .l1 core pa => orNotEnabled (spoilCopy s (.l1 core) pa)
  | .l2 die pa => orNotEnabled (spoilCopy s (.l2 die) pa)
  | .cache pa =>
    if pgnPresent s (pa / 49152) && (pgnSocket (pa / 49152)).isSome then .next { s with sramPoison := addOnce (pa / 48) s.sramPoison }
    else .fault .notEnabled
  | .scratch core off =>
    if core < 288 && off < 524288 then .next { s with scratchPoison := addOnce ((524288 * core + off) / 48) s.scratchPoison }
    else .fault .notEnabled
  | .pad die off =>
    if die < 8 && off < 67108864 then .next { s with scratchPoison := addOnce ((150994944 + 67108864 * die + off) / 48) s.scratchPoison }
    else .fault .notEnabled
  | .waveRegs tid wave =>
    match findWave s tid wave with
    | some w => if w.status = .ended then .fault .notEnabled else .next (endTeam s tid 1 Code.poison.num 2 wave 0 0 none)
    | none => .fault .notEnabled
  | .gangRegs tid wave => orNotEnabled ((lostMember s tid wave false).map (loseMember s))
  | .tile tid wave => orNotEnabled ((lostMember s tid wave true).map (loseMember s))

/-- The ticks of a soft-error period (R423). -/
def softTicks : Nat := 940000000

/-- The record of corrected errors. -/
def softRecord (s : State) : ErrorRecord := ⟨⟨0, 0⟩, 4, 0, 0, 0, 0, s.now, 0, 0, 0, 0, 0, 0xFF, 0xFF, s.corrected⟩

/-- SOFT_ERROR_SUMMARY: a period has ended; a count that is not 0 is reported. -/
def execSoftErrorSummary (s : State) : Host.Outcome State Fault Refusal :=
  if s.now / softTicks ≤ s.softPeriod then .fault .notEnabled
  else
    let s1 := if s.corrected = 0 then s else postAdmin { s with errors := s.errors ++ [softRecord s] } (softRecord s)
    .next { s1 with corrected := 0, softPeriod := s.now / softTicks }

/-- PATROL_SCRUB: a line of a stack is read and rewritten; whether an error was corrected there is left open. `line` is a physical line. -/
def execPatrolScrub (line : Nat) (s : State) : Host.Outcome State Fault Refusal :=
  if (pgnSocket (line / 256)).isSome && pgnPresent s (line / 256) then
    let (b, s1) := takeChoice s
    .next (if b then { s1 with corrected := s1.corrected + 1 } else s1)
  else .fault .notEnabled

/-! ## UNMAP (R169, R207, R429) -/

/-- The leaf entry of a granule, with the granule it gives, which under a second stage is not yet a physical one (R180). -/
def leafOf (s : State) (c : Context) (g : Nat) : Option (Nat × Nat × Nat) :=
  match walkFrom s false (secondStage s c) 3 c.root c.rootSlot g with
  | .leaf pte pgn entry => some (pte, pgn, entry)
  | _ => none

/-- No leaf reaches over an end of the range. -/
def wholeLeaves (s : State) (c : Context) (base count : Nat) : Bool :=
  let at_ (g : Nat) : Option Nat := (leafOf s c g).map (·.2.2)
  (base = 0 || (at_ base).isNone || at_ base != at_ (base - 1)) && ((at_ (base + count - 1)).isNone || at_ (base + count - 1) != at_ (base + count))

/-- The physical granule that a granule of the context is mapped to, by both stages (R197, R429). -/
def physGranule (s : State) (c : Context) (g : Nat) : Option Nat := match translate s c g with | .leaf _ pgn _ => some pgn | _ => none

/-- An open version holds a line of a granule of the context. -/
def versionHolds (s : State) (c : Context) (base count : Nat) : Bool :=
  let pgns := (upto count).filterMap fun k => physGranule s c (base + k)
  s.waves.any fun w =>
    (match w.task with | some k => k.commit.isNone && k.lines.any fun l => pgns.contains (l.1 / 256) | none => false)
      && (match findTeam s w.tid with | some t => t.sweep.cid == c.cid | none => false)

/-- An entry as an unmap leaves it. -/
def unmapEntry (perm : UnmapPerm) (pte : Nat) : Nat :=
  match perm with
  | .remove => 0
  | .reduce rd wr x =>
    pte - (if rd then 0 else bitsOf pte 62 62 * 2 ^ 62) - (if wr then 0 else bitsOf pte 61 61 * 2 ^ 61) - (if x then 0 else bitsOf pte 60 60 * 2 ^ 60)

/-- The alias records of the granules that a range is mapped to (R207). -/
def dropAliases (s : State) (c : Context) (base count : Nat) : State :=
  let pgns := (upto count).filterMap fun k => physGranule s c (base + k)
  { s with aliases := s.aliases.filter fun a => !(a.cid == c.cid && pgns.contains a.pgn) }

/-- One granule's leaf removed or reduced. -/
def unmapGranule (c : Context) (perm : UnmapPerm) (s : State) (g : Nat) : State :=
  match leafOf s c g with
  | none => s
  | some (pte, _, entry) => writeNow s entry (leBytes 8 (unmapEntry perm pte))

/-- UNMAP: a range of whole leaves is unmapped, or its permissions reduced, once no accepted store and no open version is left in it; its copies
are discarded, and held triads in it are closed. -/
def execUnmap (cid base count : Nat) (perm : UnmapPerm) (s : State) : Host.Outcome State Fault Refusal :=
  match ctxOf s cid with
  | none => .fault .notEnabled
  | some c =>
    let va := 49152 * base
    if count = 0 || Config.vaTop < va + 49152 * count || !wholeLeaves s c base count || dirtyIn s cid va (49152 * count) || versionHolds s c base count then
      .fault .notEnabled
    else
      let s0 := if perm = .remove then dropAliases s c base count else s
      let s1 := (upto count).foldl (fun s k => unmapGranule c perm s (base + k)) s0
      let s2 := discardCopies s1 cid va (49152 * count)
      .next (if perm = .remove then dropTriads s2 fun h => h.cid == cid && decide (base ≤ h.triad / 16) && decide (h.triad / 16 < base + count) else s2)

end Sys2Proof.Machine
end

