-- ==== Sys2Proof/Machine/Dispatch.lean ====
section
/-! DEFINITION. The dispatch: one arm for each constructor of Instr, each a direct call of that instruction's meaning. -/

namespace Sys2Proof.Machine

/-- The meaning of an instruction in a state. -/
def exec (i : Instr) (s : State) : Host.Outcome State Fault Refusal :=
  match i with
  | .nop f => Sys2Proof.Machine.execNop f s
  | .mov f => Sys2Proof.Machine.execMov f s
  | .movi f => Sys2Proof.Machine.execMovi f s
  | .sel f => Sys2Proof.Machine.execSel f s
  | .iadd f => Sys2Proof.Machine.execIadd f s
  | .isub f => Sys2Proof.Machine.execIsub f s
  | .imul f => Sys2Proof.Machine.execImul f s
  | .imulh f => Sys2Proof.Machine.execImulh f s
  | .imad f => Sys2Proof.Machine.execImad f s
  | .imadw f => Sys2Proof.Machine.execImadw f s
  | .imin f => Sys2Proof.Machine.execImin f s
  | .imax f => Sys2Proof.Machine.execImax f s
  | .iabs f => Sys2Proof.Machine.execIabs f s
  | .iaddc f => Sys2Proof.Machine.execIaddc f s
  | .iadds f => Sys2Proof.Machine.execIadds f s
  | .isubs f => Sys2Proof.Machine.execIsubs f s
  | .and f => Sys2Proof.Machine.execAnd f s
  | .or f => Sys2Proof.Machine.execOr f s
  | .xor f => Sys2Proof.Machine.execXor f s
  | .not f => Sys2Proof.Machine.execNot f s
  | .shl f => Sys2Proof.Machine.execShl f s
  | .shr f => Sys2Proof.Machine.execShr f s
  | .sar f => Sys2Proof.Machine.execSar f s
  | .rol f => Sys2Proof.Machine.execRol f s
  | .bfx f => Sys2Proof.Machine.execBfx f s
  | .bfi f => Sys2Proof.Machine.execBfi f s
  | .popc f => Sys2Proof.Machine.execPopc f s
  | .clz f => Sys2Proof.Machine.execClz f s
  | .brev f => Sys2Proof.Machine.execBrev f s
  | .permb f => Sys2Proof.Machine.execPermb f s
  | .icmp f => Sys2Proof.Machine.execIcmp f s
  | .fcmp f => Sys2Proof.Machine.execFcmp f s
  | .fadd f => Sys2Proof.Machine.execFadd f s
  | .fsub f => Sys2Proof.Machine.execFsub f s
  | .fmul f => Sys2Proof.Machine.execFmul f s
  | .ffma f => Sys2Proof.Machine.execFfma f s
  | .fmin f => Sys2Proof.Machine.execFmin f s
  | .fmax f => Sys2Proof.Machine.execFmax f s
  | .fclass f => Sys2Proof.Machine.execFclass f s
  | .dadd f => Sys2Proof.Machine.execDadd f s
  | .dmul f => Sys2Proof.Machine.execDmul f s
  | .dfma f => Sys2Proof.Machine.execDfma f s
  | .pkadd f => Sys2Proof.Machine.execPkadd f s
  | .pkmul f => Sys2Proof.Machine.execPkmul f s
  | .pkfma f => Sys2Proof.Machine.execPkfma f s
  | .dot4 f => Sys2Proof.Machine.execDot4 f s
  | .dot8 f => Sys2Proof.Machine.execDot8 f s
  | .dot2 f => Sys2Proof.Machine.execDot2 f s
  | .shfl f => Sys2Proof.Machine.execShfl f s
  | .vote f => Sys2Proof.Machine.execVote f s
  | .redw f => Sys2Proof.Machine.execRedw f s
  | .rds f => Sys2Proof.Machine.execRds f s
  | .wrs f => Sys2Proof.Machine.execWrs f s
  | .lea f => Sys2Proof.Machine.execLea f s
  | .movem f => Sys2Proof.Machine.execMovem f s
  | .plop f => Sys2Proof.Machine.execPlop f s
  | .cvti f => Sys2Proof.Machine.execCvti f s
  | .pack f => Sys2Proof.Machine.execPack f s
  | .unpk f => Sys2Proof.Machine.execUnpk f s
  | .dcmp f => Sys2Proof.Machine.execDcmp f s
  | .rcp f => Sys2Proof.Machine.execRcp f s
  | .rsq f => Sys2Proof.Machine.execRsq f s
  | .sqrt f => Sys2Proof.Machine.execSqrt f s
  | .exp2 f => Sys2Proof.Machine.execExp2 f s
  | .log2 f => Sys2Proof.Machine.execLog2 f s
  | .sin f => Sys2Proof.Machine.execSin f s
  | .cos f => Sys2Proof.Machine.execCos f s
  | .tanh f => Sys2Proof.Machine.execTanh f s
  | .cvt f => Sys2Proof.Machine.execCvt f s
  | .cvtfi f => Sys2Proof.Machine.execCvtfi f s
  | .cvtif f => Sys2Proof.Machine.execCvtif f s
  | .divf f => Sys2Proof.Machine.execDivf f s
  | .ddiv f => Sys2Proof.Machine.execDdiv f s
  | .ld f => Sys2Proof.Machine.execLd f s
  | .st f => Sys2Proof.Machine.execSt f s
  | .lds f => Sys2Proof.Machine.execLds f s
  | .sts f => Sys2Proof.Machine.execSts f s
  | .atom f => Sys2Proof.Machine.execAtom f s
  | .acas f => Sys2Proof.Machine.execAcas f s
  | .atoms f => Sys2Proof.Machine.execAtoms f s
  | .ldu f => Sys2Proof.Machine.execLdu f s
  | .fence f => Sys2Proof.Machine.execFence f s
  | .waitc f => Sys2Proof.Machine.execWaitc f s
  | .pref f => Sys2Proof.Machine.execPref f s
  | .rowopen f => Sys2Proof.Machine.execRowopen f s
  | .rowld f => Sys2Proof.Machine.execRowld f s
  | .rowst f => Sys2Proof.Machine.execRowst f s
  | .rowrel f => Sys2Proof.Machine.execRowrel f s
  | .rowq f => Sys2Proof.Machine.execRowq f s
  | .ldt f => Sys2Proof.Machine.execLdt f s
  | .stf f => Sys2Proof.Machine.execStf f s
  | .amaxu f => Sys2Proof.Machine.execAmaxu f s
  | .amaxswap f => Sys2Proof.Machine.execAmaxswap f s
  | .ldb f => Sys2Proof.Machine.execLdb f s
  | .stb f => Sys2Proof.Machine.execStb f s
  | .lnwb f => Sys2Proof.Machine.execLnwb f s
  | .mma f => Sys2Proof.Machine.execMma f s
  | .mmar f => Sys2Proof.Machine.execMmar f s
  | .accz f => Sys2Proof.Machine.execAccz f s
  | .accld f => Sys2Proof.Machine.execAccld f s
  | .accst f => Sys2Proof.Machine.execAccst f s
  | .accrd f => Sys2Proof.Machine.execAccrd f s
  | .accop f => Sys2Proof.Machine.execAccop f s
  | .bndset f => Sys2Proof.Machine.execBndset f s
  | .bndrd f => Sys2Proof.Machine.execBndrd f s
  | .gangset f => Sys2Proof.Machine.execGangset f s
  | .gangrel f => Sys2Proof.Machine.execGangrel f s
  | .accmode f => Sys2Proof.Machine.execAccmode f s
  | .cpy f => Sys2Proof.Machine.execCpy f s
  | .cpyt f => Sys2Proof.Machine.execCpyt f s
  | .gath f => Sys2Proof.Machine.execGath f s
  | .scat f => Sys2Proof.Machine.execScat f s
  | .qblk f => Sys2Proof.Machine.execQblk f s
  | .stgput f => Sys2Proof.Machine.execStgput f s
  | .stgget f => Sys2Proof.Machine.execStgget f s
  | .stgrel f => Sys2Proof.Machine.execStgrel f s
  | .talloc f => Sys2Proof.Machine.execTalloc f s
  | .tdrop f => Sys2Proof.Machine.execTdrop f s
  | .tcopy f => Sys2Proof.Machine.execTcopy f s
  | .tsend f => Sys2Proof.Machine.execTsend f s
  | .trecv f => Sys2Proof.Machine.execTrecv f s
  | .tstat f => Sys2Proof.Machine.execTstat f s
  | .coll f => Sys2Proof.Machine.execColl f s
  | .bra f => Sys2Proof.Machine.execBra f s
  | .braFar f => Sys2Proof.Machine.execBraFar f s
  | .brx f => Sys2Proof.Machine.execBrx f s
  | .call f => Sys2Proof.Machine.execCall f s
  | .icall f => Sys2Proof.Machine.execIcall f s
  | .ret f => Sys2Proof.Machine.execRet f s
  | .join f => Sys2Proof.Machine.execJoin f s
  | .bar f => Sys2Proof.Machine.execBar f s
  | .barc f => Sys2Proof.Machine.execBarc f s
  | .yield f => Sys2Proof.Machine.execYield f s
  | .exit f => Sys2Proof.Machine.execExit f s
  | .waitf f => Sys2Proof.Machine.execWaitf f s
  | .regget f => Sys2Proof.Machine.execRegget f s
  | .regput f => Sys2Proof.Machine.execRegput f s
  | .tbegin f => Sys2Proof.Machine.execTbegin f s
  | .tend f => Sys2Proof.Machine.execTend f s
  | .tabort f => Sys2Proof.Machine.execTabort f s
  | .loop f => Sys2Proof.Machine.execLoop f s
  | .sleep f => Sys2Proof.Machine.execSleep f s
  | .diehops f => Sys2Proof.Machine.execDiehops f s
  | .enq f => Sys2Proof.Machine.execEnq f s
  | .signal f => Sys2Proof.Machine.execSignal f s
  | .waits f => Sys2Proof.Machine.execWaits f s
  | .eject f => Sys2Proof.Machine.execEject f s
  | .trap f => Sys2Proof.Machine.execTrap f s
  | .rtt f => Sys2Proof.Machine.execRtt f s
  | .tstamp f => Sys2Proof.Machine.execTstamp f s
  | .rdsys f => Sys2Proof.Machine.execRdsys f s
  | .wrsys f => Sys2Proof.Machine.execWrsys f s
  | .vcinv f => Sys2Proof.Machine.execVcinv f s
  | .bkpt f => Sys2Proof.Machine.execBkpt f s
  | .stopw f => Sys2Proof.Machine.execStopw f s
  | .perf f => Sys2Proof.Machine.execPerf f s
  | .tmask f => Sys2Proof.Machine.execTmask f s
  | .clauseHeader => Sys2Proof.Machine.execClauseHeader s
  | .clauseWaitRelease => Sys2Proof.Machine.execClauseWaitRelease s
  | .helperIssue tid group => Sys2Proof.Machine.execHelperIssue tid group s
  | .loadPerform op lanes => Sys2Proof.Machine.execLoadPerform op lanes s
  | .storeAtHome op lanes => Sys2Proof.Machine.execStoreAtHome op lanes s
  | .storeCompletion op => Sys2Proof.Machine.execStoreCompletion op s
  | .atomicPerform op lanes => Sys2Proof.Machine.execAtomicPerform op lanes s
  | .copyOperationStart op => Sys2Proof.Machine.execCopyOperationStart op s
  | .copyOperationComplete op => Sys2Proof.Machine.execCopyOperationComplete op s
  | .stageSlotFree op => Sys2Proof.Machine.execStageSlotFree op s
  | .stagePhaseReady op => Sys2Proof.Machine.execStagePhaseReady op s
  | .mailboxDeposit op => Sys2Proof.Machine.execMailboxDeposit op s
  | .collRound op peers => Sys2Proof.Machine.execCollRound op peers s
  | .ldtRelease tid wave => Sys2Proof.Machine.execLdtRelease tid wave s
  | .barrierRelease tid id => Sys2Proof.Machine.execBarrierRelease tid id s
  | .joinRelease tid wave => Sys2Proof.Machine.execJoinRelease tid wave s
  | .reggetGrant tid wave => Sys2Proof.Machine.execReggetGrant tid wave s
  | .sleepWake tid wave => Sys2Proof.Machine.execSleepWake tid wave s
  | .waitsReload tid wave => Sys2Proof.Machine.execWaitsReload tid wave s
  | .rendezvousLatchExit tid leader => Sys2Proof.Machine.execRendezvousLatchExit tid leader s
  | .impreciseFaultDelivery tid wave => Sys2Proof.Machine.execImpreciseFaultDelivery tid wave s
  | .faultRingSlotFree cid => Sys2Proof.Machine.execFaultRingSlotFree cid s
  | .faultReply cid seq => Sys2Proof.Machine.execFaultReply cid seq s
  | .secondStageResolution cid granule resolved => Sys2Proof.Machine.execSecondStageResolution cid granule resolved s
  | .preemptRequest tid abort => Sys2Proof.Machine.execPreemptRequest tid abort s
  | .preemptDeadline tid wave => Sys2Proof.Machine.execPreemptDeadline tid wave s
  | .handlerAllowance tid wave => Sys2Proof.Machine.execHandlerAllowance tid wave s
  | .teamSave tid => Sys2Proof.Machine.execTeamSave tid s
  | .teamRestore tid => Sys2Proof.Machine.execTeamRestore tid s
  | .preemptAbort tid => Sys2Proof.Machine.execPreemptAbort tid s
  | .quantumCommit sweep => Sys2Proof.Machine.execQuantumCommit sweep s
  | .holdYield socket channel bank => Sys2Proof.Machine.execHoldYield socket channel bank s
  | .refreshDue socket channel => Sys2Proof.Machine.execRefreshDue socket channel s
  | .extentRelease port base count => Sys2Proof.Machine.execExtentRelease port base count s
  | .forcedExtentRelease port base count => Sys2Proof.Machine.execForcedExtentRelease port base count s
  | .chunkTake sweep vdie => Sys2Proof.Machine.execChunkTake sweep vdie s
  | .claim sweep vdie => Sys2Proof.Machine.execClaim sweep vdie s
  | .claimReturn sweep vdie => Sys2Proof.Machine.execClaimReturn sweep vdie s
  | .dibberPlacement die => Sys2Proof.Machine.execDibberPlacement die s
  | .teamGraft tid => Sys2Proof.Machine.execTeamGraft tid s
  | .wakeWrite q => Sys2Proof.Machine.execWakeWrite q s
  | .nopPacket p => Sys2Proof.Machine.execNopPacket p s
  | .sweep p b => Sys2Proof.Machine.execSweep p b s
  | .resume p b => Sys2Proof.Machine.execResume p b s
  | .copyPacket p b => Sys2Proof.Machine.execCopyPacket p b s
  | .waitPacket p b => Sys2Proof.Machine.execWaitPacket p b s
  | .waitWordReload p => Sys2Proof.Machine.execWaitWordReload p s
  | .signalPacket p b => Sys2Proof.Machine.execSignalPacket p b s
  | .fencePacket p b => Sys2Proof.Machine.execFencePacket p b s
  | .indirect p b => Sys2Proof.Machine.execIndirect p b s
  | .graph p b => Sys2Proof.Machine.execGraph p b s
  | .graphNodeFinish p node => Sys2Proof.Machine.execGraphNodeFinish p node s
  | .notify p b => Sys2Proof.Machine.execNotify p b s
  | .hostRingTailReload p => Sys2Proof.Machine.execHostRingTailReload p s
  | .capture p b => Sys2Proof.Machine.execCapture p b s
  | .replay p b => Sys2Proof.Machine.execReplay p b s
  | .migrate p b => Sys2Proof.Machine.execMigrate p b s
  | .ctxCreate p b => Sys2Proof.Machine.execCtxCreate p b s
  | .ctxDestroy p b => Sys2Proof.Machine.execCtxDestroy p b s
  | .qMap p b => Sys2Proof.Machine.execQMap p b s
  | .qUnmap p b => Sys2Proof.Machine.execQUnmap p b s
  | .budget p b => Sys2Proof.Machine.execBudget p b s
  | .bken p b => Sys2Proof.Machine.execBken p b s
  | .release p b => Sys2Proof.Machine.execRelease p b s
  | .fwupdate p b => Sys2Proof.Machine.execFwupdate p b s
  | .firmwareHeartbeat => Sys2Proof.Machine.execFirmwareHeartbeat s
  | .heartbeatTimeout => Sys2Proof.Machine.execHeartbeatTimeout s
  | .budgetWindow => Sys2Proof.Machine.execBudgetWindow s
  | .featgo value => Sys2Proof.Machine.execFeatgo value s
  | .admingo value => Sys2Proof.Machine.execAdmingo value s
  | .islandLevel island value => Sys2Proof.Machine.execIslandLevel island value s
  | .registerWrite port offset value => Sys2Proof.Machine.execRegisterWrite port offset value s
  | .powerLimit island => Sys2Proof.Machine.execPowerLimit island s
  | .powerLimitClear island => Sys2Proof.Machine.execPowerLimitClear island s
  | .getVersion port => Sys2Proof.Machine.execGetVersion port s
  | .getCapabilities port => Sys2Proof.Machine.execGetCapabilities port s
  | .negotiateAlgorithms port => Sys2Proof.Machine.execNegotiateAlgorithms port s
  | .getDigests port => Sys2Proof.Machine.execGetDigests port s
  | .getCertificate port => Sys2Proof.Machine.execGetCertificate port s
  | .challenge port => Sys2Proof.Machine.execChallenge port s
  | .getMeasurements port signed => Sys2Proof.Machine.execGetMeasurements port signed s
  | .coldReset bringUp => Sys2Proof.Machine.execColdReset bringUp s
  | .portReset port => Sys2Proof.Machine.execPortReset port s
  | .deviceNumberWrite number => Sys2Proof.Machine.execDeviceNumberWrite number s
  | .spanPortDown port unreachable => Sys2Proof.Machine.execSpanPortDown port unreachable s
  | .dieFence die => Sys2Proof.Machine.execDieFence die s
  | .uncorrectableError site => Sys2Proof.Machine.execUncorrectableError site s
  | .softErrorSummary => Sys2Proof.Machine.execSoftErrorSummary s
  | .patrolScrub line => Sys2Proof.Machine.execPatrolScrub line s
  | .leaseExpiry op => Sys2Proof.Machine.execLeaseExpiry op s
  | .refreshPerformed socket channel => Sys2Proof.Machine.execRefreshPerformed socket channel s
  | .thermalLimit island held => Sys2Proof.Machine.execThermalLimit island held s
  | .gangLostHandlerLimit tid => Sys2Proof.Machine.execGangLostHandlerLimit tid s
  | .guestOutOfBudget guest => Sys2Proof.Machine.execGuestOutOfBudget guest s
  | .unmap cid base count perm => Sys2Proof.Machine.execUnmap cid base count perm s

end Sys2Proof.Machine
end

