-- ==== Sys2Proof/Machine/Agenda.lean ====
section
/-!
DEFINITION. What happens next: the agenda (log entry 1), the order taken when it is empty (log entry 2), and the passing of time.
-/

namespace Sys2Proof.Machine

/-! ## Time -/

/-- A wave is stalled on its header's WAIT flags or at a WAITF. -/
def waitsOnFlags (w : Wave) : Bool :=
  w.status = .flagWait || (w.status = .retry &&
    match w.path.clause with
    | some k => (match k.words[k.idx]? with | some x => (opOfWord x).toNat == 0x9A | none => false)
    | none => false)

/-- A wave's stall on flags is counted (R168 event 3), and its deadline runs, or its allowance while it runs its handler with the mask set (R183, R185). -/
def tickWave (dt : Nat) (w : Wave) : Wave :=
  let w1 := if waitsOnFlags w then w.count 3 dt else w
  if !w1.preq then w1
  else if inHandler w1 then { w1 with allowance := w1.allowance - dt }
  else { w1 with deadline := w1.deadline.map (· - dt) }

/-- Time passes for the timebase, the guests' charges and the waves' deadlines (R15, R185, R404). -/
def passTime (s : State) (dt : Nat) : State :=
  let s1 := chargeGuests s dt
  { s1 with now := s1.now + dt, waves := s1.waves.map (tickWave dt) }

/-- What time brings: stores whose T has come are in memory, wakes and SIGNALs among them are noted, and queues, graphs, postings and destructions go on
(R78, R396, R400). -/
def arrivals (s : State) : State :=
  let due := s.homeStores.filter fun h => decide (h.t ≤ s.now)
  let signals := due.filter fun h => (findOp s h.op).any fun o => (opOfWord o.word).toNat == 0xA4
  let s1 := signals.foldl (fun s h => signalWord s h.pa) (noteWakes (settle s) due)
  settleDestroys (settlePostings (settleGraphs (settleQueues s1)))

/-- The ticks left of a wave's deadline, or of its allowance in its handler, while a request waits for it (R184, R185). -/
def deadlineTicks (w : Wave) : Option Nat :=
  let left := if !w.preq then none else if inHandler w then some w.allowance else w.deadline
  left.filter fun n => decide (0 < n)

/-- Of the ticks that a slot lets pass, those up to what happens at its own tick whatever else goes on: the next refresh to be counted (R214), the next
window (R404), the end of a period of corrected errors (R423), and a wave's deadline (R184, R185). -/
def allowedTicks (s : State) (dt : Nat) : Nat :=
  let m := s.refresh.foldl (fun m r => min m (refreshTick s r - s.now)) (min dt (min (s.window + 940000 - s.now) ((s.softPeriod + 1) * softTicks - s.now)))
  s.waves.foldl (fun m w => match deadlineTicks w with | some n => min m n | none => m) m

/-- A handle that another Y3 deposits enters its context's mailbox, if there is room (R309). -/
def receiveMail (s : State) (x : Nat × Word) : State :=
  updCtx s x.1 fun c => if 256 ≤ c.mailbox.length then c else { c with mailbox := c.mailbox ++ [x.2] }

/-- A tick comes to its end: the migration requests that reached a translation home in it are ordered (R216). -/
def endTick (s : State) (dt : Nat) : State := if dt = 0 then s else settleMigrations s

/-- Ticks pass, the stores of agents outside the Y3 reach memory, other Y3s take their leases, deposit their handles and do what they do with those of
jars at home here, and ECC corrects errors. -/
def advance (s : State) (dt : Nat) (stores : List (Nat × Nat × List Byte)) (inp : Inputs) : State :=
  let n := allowedTicks s dt
  let s1 := stores.foldl (fun s x => hostStore s x.1 x.2.1 x.2.2) (passTime { endTick s n with inputs := inp } n)
  let s2 := inp.away.foldl takeAway (inp.mail.foldl receiveMail (inp.loads.foldl grantDevice s1))
  arrivals { s2 with corrected := s2.corrected + inp.corrected }

/-! ## Who issues (R116) -/

/-- The word that the current agent takes next, if it stands inside a clause. -/
def curWord (s : State) : Option Word :=
  match s.cur with
  | none => none
  | some a =>
    match (findWave s a.tid a.wave).bind (·.pathOf a.lane) with
    | none => none
    | some p =>
      match p.clause with
      | none => none
      | some c => c.words[c.idx]?

/-- What one step does. -/
inductive Todo where
  | run (i : Instr)
  /-- a word of a reserved opcode (R33 OPCODE) -/
  | reserved
  /-- nothing but the passing of time -/
  | idle
  /-- a wave that the agenda names and that may not issue now -/
  | barred
  deriving DecidableEq, Repr

/-- The current agent stands in front of a clause whose header waits for flags. -/
def curWaitsForFlags (s : State) : Bool :=
  match s.cur with
  | some ⟨tid, wave, none⟩ => match findWave s tid wave with | some w => w.status = .flagWait | none => false
  | _ => false

/-- What the current agent does next: its header, or the instruction its word holds. -/
def agentTodo (s : State) : Todo :=
  match s.cur with
  | none => .idle
  | some _ =>
    if curWaitsForFlags s then .run .clauseWaitRelease
    else
      match curWord s with
      | none => .run .clauseHeader
      | some w =>
        match decode w with
        | .ok i => .run i
        | .error _ => .reserved

/-- A wave that waits at its word finds, if it tries the word now, that it need wait no longer. -/
def wordGoes (s : State) (w : Wave) : Bool :=
  let s1 := { s with cur := some ⟨w.tid, w.ix, none⟩ }
  match agentTodo s1 with
  | .run i => match exec i s1 with | .next t => decide (findWave t w.tid w.ix ≠ some w) | _ => false
  | .reserved => true
  | .idle | .barred => false

/-- A wave that can take a step of its own: it runs, its word need not wait any longer, or the flags that its header waits for are clear. -/
def canRun (s : State) (w : Wave) : Bool :=
  match w.status, w.path.clause with
  | .running, _ => true
  | .retry, _ => wordGoes s w
  | .flagWait, some k => flagsOf s w &&& (headerOfWord k.hdr).wait = 0
  | _, _ => false

/-- The quadrant of a placed wave: its die and core, and its index in its team modulo 4 (R11, R112). -/
def quadrantOf (s : State) (w : Wave) : Option (Nat × Nat × Nat) :=
  (findTeam s w.tid).bind fun t => if t.status = .placed then some (t.die, t.core, w.ix % 4) else none

/-- A wave is favoured: it became ready after a stall, has issued no clause since, and belongs to the guaranteed team of its sweep (R116). -/
def isFavoured (s : State) (w : Wave) : Bool := w.favoured && (findTeam s w.tid).any (guaranteed s)

/-- The wave that issues before another by R116: a favoured one with the lowest `%teamix` and `%waveix`, else the one that issued least
recently. -/
def better (s : State) (a b : Wave) : Bool :=
  let ix (w : Wave) : Nat := match findTeam s w.tid with | some t => t.teamix | none => 0
  if isFavoured s a != isFavoured s b then isFavoured s a
  else if isFavoured s a then decide (ix a < ix b) || (decide (ix a = ix b) && decide (a.ix < b.ix))
  else decide (a.lastIssue < b.lastIssue)

/-- The best of some waves, the first of equals. -/
def bestOf (s : State) (ws : List Wave) : Option Wave :=
  ws.foldl (fun m w =>
    match m with
    | none => some w
    | some b => if better s w b then some w else some b) none

/-- The word that a wave tries again may stand last in its clause only. -/
def triesLast (w : Wave) : Bool := w.path.clause.any fun c => (c.words[c.idx]?).any fun x => mustBeLast (opOfWord x).toNat

/-- A wave has issued the first word of its clause and not the last: its quadrant issues for it, also while it stalls there (R115). One that waits at a
word that ends its clause, or is parked, leaves the quadrant free. -/
def inClause (w : Wave) : Bool :=
  (match w.status with | .running | .rowOpen _ => true | .retry => !triesLast w | _ => false) && w.path.clause.any fun c => decide (0 < c.idx)

/-- A running wave's header has passed the steps of R28, and the first word of its clause waits to be chosen (R116). -/
def waitsForTurn (w : Wave) : Bool := w.status = .running && w.path.clause.any fun c => c.idx = 0

/-- The wave whose clause a quadrant issues: of several, which returns into clauses can bring about, the one that issued last. -/
def clauseHolder (s : State) (q : Nat × Nat × Nat) : Option Wave :=
  (s.waves.filter fun w => inClause w && quadrantOf s w == some q).foldl (fun m w =>
    match m with
    | none => some w
    | some b => if b.lastIssue < w.lastIssue then some w else some b) none

/-- A wave may issue its next word in its quadrant: it is in the clause that the quadrant issues, or, with none there, it is the one that R116 chooses; a
wave at a header, or one that tries a word again which left the quadrant free, need not be chosen (R115, R116). -/
def hasQuadrant (s : State) (w : Wave) : Bool :=
  match quadrantOf s w with
  | none => false
  | some q =>
    w.path.clause.isNone || decide (w.status = .flagWait) ||
      match clauseHolder s q with
      | some h => h.tid == w.tid && h.ix == w.ix
      | none =>
        !(waitsForTurn w) || (bestOf s (s.waves.filter fun x => waitsForTurn x && quadrantOf s x == some q)).any fun h => h.tid == w.tid && h.ix == w.ix

/-- The agent may take its next step now. Continuations issue through the helper alone (R126). -/
def mayTake (s : State) (a : AgentRef) : Bool := a.lane.isNone && (findWave s a.tid a.wave).any fun w => hasQuadrant s w && !expired w

/-- The wave chosen to issue. -/
def pickWave (s : State) : Option Wave := bestOf s (s.waves.filter fun w => hasQuadrant s w && !expired w && canRun s w)

/-- The agent that issues when the agenda names none: the current one while it is inside a clause, else the chosen wave. -/
def pickAgent (s : State) : Option AgentRef :=
  let stays (a : AgentRef) : Bool := mayTake s a && (findWave s a.tid a.wave).any fun w => w.status = .running && w.path.clause.isSome
  if s.cur.any stays then s.cur else (pickWave s).map fun w => ⟨w.tid, w.ix, none⟩

/-- A word of a reserved opcode raises ILLEGAL_OP, subcode OPCODE, at its turn (R33, R43). -/
def rejectWord (s : State) : State :=
  match s.cur with
  | none => s
  | some a =>
    match (findWave s a.tid a.wave).bind (·.pathOf a.lane) with
    | none => s
    | some p => deliver s a ⟨.illegalOp, subOpcode, 0⟩ (preciseAt p.nextVa)

/-! ## The default order (log entry 2) -/

/-- The stack and the stack triad that an operation on rows asks for. -/
def rowsAsked (s : State) (o : Op) : Option (Nat × Nat) :=
  match o.accs.head?, opEnv s o with
  | some x, some (_, _, c) =>
    match plainAccess s c x.addr 1 .load with
    | .ok pa _ => (pgnSocket (pa / 49152)).map fun so => (so, stackTriadOf pa)
    | _ => none
  | _, _ => none

/-- The hold yields that a restore brings about once it has waited 1,880 ticks for banks under open triads (R188, R213). -/
def restoreYields (s : State) (t : Team) : List Instr :=
  if t.status = .saved && t.reopenAt.isSome then
    (s.holds.filter fun h => h.isOpen && restoreWaits s h t).map fun h => .holdYield h.socket (h.stackTriad % 64) (triadBank h.stackTriad)
  else []

/-- The hold yields that an operation on rows brings about once it has waited 1,880 ticks for banks under open triads (R213). -/
def yieldEvents (s : State) (o : Op) : List Instr :=
  let op := (opOfWord o.word).toNat
  if (op = 0x5B ∨ op = 0x5C ∨ op = 0x5D) ∧ (o.phase = .started ∨ o.phase = .issued) ∧ max o.since o.last + 1880 ≤ s.now then
    match rowsAsked s o with
    | none => []
    | some (so, tr) =>
      (s.holds.filter fun h => h.isOpen && h.socket == so && h.stackTriad != tr && sharesBank h.stackTriad tr).filterMap fun h =>
        ((triadChannels h.stackTriad).find? fun ch => (triadChannels tr).contains ch).map fun ch => .holdYield so ch (triadBank tr)
  else []

/-- Events of one operation; an operation of the load-store engine first reads the registers that it has not read. -/
def opEvents (o : Op) : List Instr :=
  (if o.unread ≠ 0 && o.kind.isLsu then [.loadPerform o.id 0xFFFFFFFF] else []) ++
  match o.kind with
  | .load _ _ | .loadScalar _ _ _ | .loadBound _ _ | .accLoad _ _ | .matWord _ _ => [.loadPerform o.id 0xFFFFFFFF]
  | .rowOpen _ _ _ _ => [.loadPerform o.id 0xFFFFFFFF, .leaseExpiry o.id]
  | .store _ | .scratchStore | .accStore _ => [.storeAtHome o.id 0xFFFFFFFF, .storeCompletion o.id]
  | .atomic _ _ => [.atomicPerform o.id 0xFFFFFFFF, .storeCompletion o.id]
  | .lnwb => [.storeCompletion o.id]
  | .stgPut _ _ _ _ => [.copyOperationStart o.id, .stageSlotFree o.id, .copyOperationComplete o.id]
  | .stgGet _ _ _ _ => [.copyOperationStart o.id, .stagePhaseReady o.id, .copyOperationComplete o.id]
  | .tsend _ _ => [.copyOperationStart o.id, .mailboxDeposit o.id]
  | .coll _ _ _ _ => [.copyOperationStart o.id, .collRound o.id [], .copyOperationComplete o.id]
  | .none => []
  | _ => [.copyOperationStart o.id, .copyOperationComplete o.id]

/-- The group that the helper serves with a continuation: those of its team that stand at its PC, at most 8 (R126). -/
def helperGroup (s : State) (tid : Nat) (q : Nat × Nat) : List (Nat × Nat) :=
  let at_ (q : Nat × Nat) : Option (Nat × Bool) := (contPath s tid q).map fun p => (p.nextVa, p.clause.isSome)
  let all := (s.waves.filter fun w => w.tid == tid).flatMap fun w => w.conts.map fun c => (w.ix, c.lane)
  (q :: all.filter fun x => x ≠ q && at_ x == at_ q).take 8

/-- Events of one wave; the helper issues at every second tick. -/
def waveEvents (s : State) (w : Wave) : List Instr :=
  let t := w.tid
  (match w.status with
    | .join => [.joinRelease t w.ix]
    | .regget _ => [.reggetGrant t w.ix]
    | .sleep _ => [.sleepWake t w.ix]
    | .waits _ _ dst last => if dst = 64 || decide (last + 256 ≤ s.now) then [.waitsReload t w.ix] else []
    | .latch => [.rendezvousLatchExit t w.ix]
    | .ldt _ _ => [.ldtRelease t w.ix]
    | _ => [])
  ++ [.impreciseFaultDelivery t w.ix, .preemptDeadline t w.ix, .handlerAllowance t w.ix]
  ++ (if s.now % 2 = 0 then w.conts.map fun c => .helperIssue t (helperGroup s t (w.ix, c.lane)) else [])

/-- Of some teams, the one placed most recently. -/
def lastPlaced (ts : List Team) : Option Team :=
  ts.foldl (fun m t => match m with | none => some t | some u => if u.placedAt < t.placedAt then some t else some u) none

/-- A team waits for slots: its die has no room for it, and it is neither its guest's core cap nor an earlier team of its sweep that keeps it (R404). -/
def waitsForSlots (s : State) (t : Team) : Bool :=
  t.status = .waiting && !(keptBefore s t).2 && ((upto 36).any fun k => !overCap s t k)
    && (match teamCtx s t with | some c => !roomAtHome s c t | none => false)

/-- The team that the scheduler asks to be saved: the last placed of a guest out of budget, while one in budget waits for slots (R404). -/
def saveRequest (s : State) : List Instr :=
  if s.teams.any fun t => inBudget (guestOf s (guestOfTeam s t)) && waitsForSlots s t then
    match lastPlaced (s.teams.filter fun t => t.status = .placed && t.preempt.isNone && !inBudget (guestOf s (guestOfTeam s t))) with
    | some t => [.preemptRequest t.tid false]
    | none => []
  else []

/-- Events of one team. -/
def teamEvents (s : State) (t : Team) : List Instr :=
  match t.status with
  | .placed =>
    (t.barriers.map fun b => .barrierRelease t.tid b.id)
      ++ (if t.preempt.isSome then [.preemptAbort t.tid, .teamSave t.tid] else [])
      ++ (if t.lost.isSome then [.gangLostHandlerLimit t.tid] else [])
  | .saved => restoreYields s t ++ if inBudget (guestOf s (guestOfTeam s t)) || !budgetWaits s then [.teamRestore t.tid] else []
  | .waiting => [.teamGraft t.tid]
  | .ended => []

/-- Events of one sweep. -/
def sweepEvents (w : Sweep) : List Instr :=
  (w.rakes.flatMap fun r => [.claimReturn w.ref r.vdie, .claim w.ref r.vdie, .chunkTake w.ref r.vdie])
    ++ (if w.det then [.quantumCommit w.ref] else [])

/-- A held word satisfies its packet, or is due to be loaded again. -/
def wordDue (s : State) (q : Queue) (e : StartedPkt) : Bool :=
  decide (e.last + 256 ≤ s.now) || (match queueAddr s q e.va 8 .load with | .ok a _ => decide (e.v.toNat ≤ memNat s.mem a 8) | _ => false)

/-- Events of one queue: a wake, the packet at its head, its held words. -/
def queueEvents (s : State) (q : Queue) : List Instr :=
  (if q.woken && q.mapped && s.update.isNone && queuesRun s && !isWaiting s (.queue q.q) then [.wakeWrite q.q] else [])
    ++ (match q.pending.head? with | some r => (packetInstr r).toList | none => [])
    ++ (q.started.filter fun e => (e.kind == 4 || e.kind == 6) && e.due.isNone && wordDue s q e).map fun e => .waitWordReload e.ref

/-- Events of one graph: the bodies that may start, and the nodes that may finish. -/
def graphEvents (g : Graph) : List Instr :=
  g.nodes.zipIdx.flatMap fun x =>
    match x.1.phase, x.1.raw with
    | .ready, some r => (packetInstr r).toList
    | .complete, _ => [.graphNodeFinish g.pkt x.2]
    | .entry, _ => if x.1.isCond then [.graphNodeFinish g.pkt x.2] else []
    | _, _ => []

/-- Events of one context: answers that stand in its fault ring, and records that wait for a slot. -/
def contextEvents (s : State) (c : Context) : List Instr :=
  ((c.faults.filter (·.answer.isNone)).filterMap fun r => r.seq.bind fun n => (faultSlot s c n).bind fun a =>
      if memNat s.mem (a + 40) 8 ≠ 0 then some (.faultReply c.cid n) else none)
    ++ (if c.faults.any fun r => !r.second && r.seq.isNone then [.faultRingSlotFree c.cid] else [])

/-- What the system itself brings about when it is due. -/
def systemEvents (s : State) : List Instr :=
  (if s.window + 940000 ≤ s.now then [.budgetWindow] else [])
    ++ (s.guests.filter fun g => !g.out && decide (288 * g.budget ≤ g.charge)).map (fun g => .guestOutOfBudget g.guest)
    ++ (if s.update.isSome then [.heartbeatTimeout, .firmwareHeartbeat] else [])
    ++ (if s.softPeriod < s.now / softTicks then [.softErrorSummary] else [])

/-- The events that may come about, in the order in which they are taken. -/
def candidates (s : State) : List Instr :=
  systemEvents s ++ s.contexts.flatMap (contextEvents s) ++ s.ops.flatMap opEvents ++ s.ops.flatMap (yieldEvents s) ++ s.waves.flatMap (waveEvents s)
    ++ s.teams.flatMap (teamEvents s) ++ saveRequest s ++ s.sweeps.flatMap sweepEvents
    ++ (if s.teams.any fun t => t.status = .waiting then (upto 8).map .dibberPlacement else [])
    ++ s.queues.flatMap (queueEvents s) ++ s.graphs.flatMap graphEvents
    ++ (s.postings.filter fun x => x.full && decide (x.last + 256 ≤ s.now)).map (fun x => .hostRingTailReload x.pkt)
    ++ (s.refresh.flatMap fun r => [.refreshDue r.socket r.channel, .refreshPerformed r.socket r.channel])

/-- The state enables an event. -/
def enabled (s : State) (i : Instr) : Bool := match exec i s with | .next _ => true | _ => false

/-- The event that comes about when the agenda is empty: the first that is enabled. -/
def defaultEvent (s : State) : Option Instr := (candidates s).find? (enabled s)

/-- The wave takes a precise fault if it issues now. -/
def faultsNow (s : State) (tid wave : Nat) : Bool :=
  let s1 := { s with cur := some ⟨tid, wave, none⟩ }
  let enters (t : State) : Bool := match findWave s tid wave, findWave t tid wave with | some w, some x => !w.trapMask && x.trapMask | _, _ => false
  (findWave s tid wave).any (fun w => decide (w.status = .running) && hasQuadrant s w) &&
    match agentTodo s1 with
    | .run i => match exec i s1 with | .next t => enters t | _ => false
    | .reserved => enters (rejectWord s1)
    | .idle | .barred => false

/-- What a wave does by issuing: no event brings it about. -/
def isWord (i : Instr) : Bool := (fieldsOf i).isSome || i == .clauseHeader || i == .clauseWaitRelease

/-- What an event comes to: a deadline gives way to a precise fault of the same clk, whose trap entry comes first (R186). -/
def eventTodo (s : State) (i : Instr) : State × Todo :=
  match i with
  | .preemptDeadline tid wave =>
    if faultsNow s tid wave then
      let s1 := { s with cur := some ⟨tid, wave, none⟩ }
      (s1, agentTodo s1)
    else (s, .run i)
  | _ => if isWord i then (s, .barred) else (s, .run i)

/-- The next step: time passes, the issuing agent is chosen, and what it does is read (log entries 1 and 2). -/
def schedule (s : State) : State × Todo :=
  match s.agenda with
  | slot :: rest =>
    let s1 := advance { s with agenda := rest } slot.dt slot.stores slot.inp
    match slot.ev, slot.who with
    | some i, some a => eventTodo { s1 with cur := some a } i
    | some i, none => eventTodo s1 i
    | none, some a =>
      let s2 := { s1 with cur := some a }
      (s2, if mayTake s1 a then agentTodo s2 else .barred)
    | none, none =>
      let s2 := { s1 with cur := pickAgent s1 }
      (s2, agentTodo s2)
  | [] =>
    let s1 := advance s 1 [] .quiet
    match defaultEvent s1 with
    | some i => eventTodo s1 i
    | none =>
      let s2 := { s1 with cur := pickAgent s1 }
      (s2, agentTodo s2)

end Sys2Proof.Machine
end

