-- ==== Sys2Proof/Machine/Step.lean ====
section
/-!
DEFINITION. One step of the machine: what comes next (log entries 1 and 2) and the meaning of the instruction it is.
-/

namespace Sys2Proof.Machine

/-- What follows a step: records of faults whose answers everything has taken are dropped, and their slots are freed (R179). -/
def afterStep : Host.Outcome State Fault Refusal → Host.Outcome State Fault Refusal
  | .next s => .next (finishAnswers s)
  | o => o

/-- One step. -/
def step (s : State) : Host.Outcome State Fault Refusal :=
  match schedule s with
  | (s1, .run i) => afterStep (exec i s1)
  | (s1, .reserved) => afterStep (.next (rejectWord s1))
  | (s1, .idle) => afterStep (.next s1)
  | (_, .barred) => .fault .notEnabled

/-! ## How a word comes to run (log entry 5) -/

/-- The context of the placed word: all eight dies bound, no table, no jars. -/
def placedContext : Context where
  cid := 1
  asid := 0
  vdmap := [128, 129, 130, 131, 132, 133, 134, 135]
  root := 0
  rootSlot := 0
  stripe := 0
  bken := false
  nslot := 0
  stackBase := 0
  save := 0
  saveSize := 0
  fring := 0
  fcount := 0
  jcount := 0
  jtab := 0
  padlen := 0
  pads := []
  fvec := 0
  fport := 0
  nextSeq := 0
  faults := []
  jars := []
  mailbox := []
  nextTag := 0
  collRounds := []
  dead := false
  stage2 := none

/-- Its kernel: one wave of the role that may run the word's class (R14, R55). -/
def placedKernel (r : Role) : KInfo where
  entry := 0
  team := 1
  nCopy := if r = .copy then 1 else 0
  nMatrix := if r = .matrix then 1 else 0
  nVector := if r = .vector then 1 else 0
  extCopy := 0
  extMatrix := 0
  extVector := 0
  acc := if r = .matrix then 4 else 0
  scratch := 0
  laneslice := 0

/-- Its sweep, numbered by `order`: one tile, claimed by the rake of virtual die 0. -/
def placedSweep (order : Nat) (r : Role) : Sweep where
  ref := ⟨1, 0, order⟩
  pkt := ⟨⟨1, 0⟩, 0, 0, none, 0, 0, true⟩
  plot := 0
  nplot := 1
  rank := 1
  fmt := 0
  shape := [1]
  tshape := [1]
  k := placedKernel r
  code := 0
  rw := false
  det := false
  graft := false
  ejt := 0
  rows := 0
  drop := false
  gwait := 0
  seed := 0
  args := []
  pdl := 20000
  cursor := 1
  rakes := []
  cause := 0
  claimed := 1
  skipped := 0
  ended := 0
  halted := false
  errored := false
  finished := false
  closed := false
  snap := []
  snapScr := []
  snapPad := []
  commits := 0
  logTag := none

/-- Its team, on core 0 of die 0. -/
def placedTeam (tid order : Nat) (r : Role) : Team where
  tid := tid
  sweep := ⟨1, 0, order⟩
  teamix := 0
  tile := 0
  elems := 1
  coords := [0]
  vdie := 0
  die := 0
  core := 0
  p0 := 0
  k := placedKernel r
  handed := 0
  pref := 0
  grafted := false
  status := .placed
  slots := [0]
  barriers := []
  rounds := []
  triads := []
  det := []
  preempt := none
  lost := none
  saved := []
  saveAt := none
  placedAt := 1
  reopenAt := none

/-- The header of the one-word clause that holds a word of a class (R27). -/
def headerFor (g : Engine) : Word :=
  let code : BitVec 3 := match g with
    | .vec => 0 | .xfn => 1 | .lsu => 2 | .mat => 3 | .cpy => 4 | .seq => 5 | .sys => 6
  wordOfHeader ⟨code, 0, 0, 15, 15, false, false, false⟩

/-- The role whose waves may issue a class (R14). -/
def roleFor : Engine → Role
  | .mat => .matrix
  | .cpy => .copy
  | _ => .vector

/-- Its wave, at the start values of R113, inside a clause of one word that it has captured. -/
def placedWave (tid : Nat) (r : Role) (hdr w : Word) : Wave where
  tid := tid
  ix := 0
  role := r
  path := ⟨0, 0, false, false, some ⟨0, hdr, [w], 0⟩, 0xFFFFFFFF, 0xFFFFFFFF, [], 0, []⟩
  stack := []
  conts := []
  alive := 0xFFFFFFFF
  lanes := []
  preds := []
  handles := []
  blocks := 0
  gr := 0
  gangEnded := false
  horizon := 0
  xpc := 0
  xcause := 0
  skip := false
  xaddr := 0
  xskid := 0
  xmask := 0
  maskBefore := none
  xtask := 0
  tba := 0
  preq := false
  fpm := 0
  fpf := 0
  attempt := 0
  trapMask := false
  frame := none
  holdA := none
  holdB := none
  flagsHeld := 0
  task := none
  perf := []
  wejt := 15
  slot := 0
  acc := []
  exact := 0
  bounds := []
  status := .running
  lastIssue := 0
  favoured := false
  deadline := none
  allowance := 0
  qpass := false

/-- The word of `nbits` bits, bits above them zero. -/
def tableWord (nbits w : Nat) : Word := BitVec.ofNat 64 (w % 2 ^ nbits)

/-- The machine with a word in front of a wave that issues next: every feature accepted, a context, a sweep, its team and the wave
are there, and the wave stands inside a clause of that one word (log entry 5). -/
def State.withFetchWord (s : State) (nbits w : Nat) : State :=
  let x := tableWord nbits w
  let g := (classOf x).getD .vec
  let r := roleFor g
  let tid := s.fresh
  let a : AgentRef := ⟨tid, 0, none⟩
  { s with
    agenda := ⟨0, [], some a, none, .quiet⟩ :: s.agenda
    cur := some a
    fresh := tid + 1
    nextOrder := s.nextOrder + 1
    featAcc := s.featAcc ||| Config.featOff
    contexts := placedContext :: s.contexts
    sweeps := placedSweep s.nextOrder r :: s.sweeps
    teams := placedTeam tid s.nextOrder r :: s.teams
    waves := placedWave tid r (headerFor g) x :: s.waves }

end Sys2Proof.Machine
end

