-- ==== Sys2Proof/Safety.lean ====
section
/-!
DEFINITION. The terms in which claims about the machine are made: canonical storage, a word at its turn, and what is left of the
state when it retires.
-/

namespace Sys2Proof.Machine

/-- Memory, core scratchpads and die pads are in the canonical form. -/
def State.canonical (s : State) : Bool := memWf s.mem && memWf s.scratch && memWf s.diePad

/-- The current agent stands in front of the word `i` with fields `f` and sees `e`; it may issue it, no fault found earlier holds it
back (R175), no ROWOPEN of a continuation's path waits (R235), and it breaks none of the checks that every word shares (R33, R48, R118). -/
def wordAtTurn (s : State) (i : Instr) (f : Fields) (e : Env) : Prop :=
  fieldsOf i = some f ∧ envOf s i f = some e ∧ mayIssue e.w e.who.lane = true
    ∧ (e.who.lane = none ∨ helperRuns i = true) ∧ (endsSkid i = true → faultPending s e.w e.who.lane = false)
    ∧ rowWaits s e = false ∧ firstError s e i = none

/-- The state after the word has retired with its effect done: the path goes on at the next word or the next header, PERF counts it,
and the hold latches follow R39. -/
def retired (s : State) (e : Env) : State := retire (updCur s e.who (noteIssue e)) e.who

/-- The same for a word that has placed the path itself. -/
def retiredMoved (s : State) (e : Env) : State := retireMoved (updCur s e.who (noteIssue e)) e.who

/-- At its turn the word completes, leaving `g e` retired. -/
def completes (s : State) (i : Instr) (f : Fields) (g : Env → State) : Prop :=
  ∀ e, wordAtTurn s i f e → exec i s = .next (retired (g e) e)

/-- At its turn, and if `ok` holds, the word completes, leaving `g e` retired. -/
def completesIf (s : State) (i : Instr) (f : Fields) (ok : Env → Prop) (g : Env → State) : Prop :=
  ∀ e, wordAtTurn s i f e → ok e → exec i s = .next (retired (g e) e)

/-- At its turn, and if `ok` holds, the word completes and leaves the path where `g e` has put it. -/
def movesIf (s : State) (i : Instr) (f : Fields) (ok : Env → Prop) (g : Env → State) : Prop :=
  ∀ e, wordAtTurn s i f e → ok e → exec i s = .next (retiredMoved (g e) e)

/-- At its turn, and if `ok` holds, the word does not retire and leaves `g e`. -/
def waitsIf (s : State) (i : Instr) (f : Fields) (ok : Env → Prop) (g : Env → State) : Prop :=
  ∀ e, wordAtTurn s i f e → ok e → exec i s = .next (g e)

/-- At its turn, and if `ok` holds, the word is delivered the fault `fi e`, reported at its own address. -/
def trapsIf (s : State) (i : Instr) (f : Fields) (ok : Env → Prop) (fi : Env → FaultInfo) : Prop :=
  ∀ e, wordAtTurn s i f e → ok e → exec i s = .next (deliver s e.who (fi e) (preciseAt e.va))

/-- A result for the destination D: in each active lane, or once for the wave in a scalar. -/
def resultD (e : Env) (s : State) (uni : Word) (lane : Nat → W32) : State :=
  if e.f.dsp = 1 then writeScalar e s uni else writeLanes e s lane

/-! ## Integer operands -/

/-- The 64 bits of A as a number. -/
def scalA (e : Env) : Nat := (raw64 e (srcA e.f)).toNat
/-- The 64 bits of B as a number. -/
def scalB (e : Env) : Nat := (raw64 e (srcB e.f)).toNat
/-- The 64 bits of C as a number. -/
def scalC (e : Env) : Nat := (raw64 e (srcC e.f)).toNat
/-- Lane operand A after its modifier. -/
def laneA (e : Env) (l : Nat) : W32 := op32 e (srcA e.f) l
/-- Lane operand B after its modifier. -/
def laneB (e : Env) (l : Nat) : W32 := op32 e (srcB e.f) l
/-- Lane operand C. -/
def laneC (e : Env) (l : Nat) : W32 := op32 e (srcC e.f) l

/-- An element rule over A and B: on 64 bits in the all-scalar form, else element by element of the width that W names (R247). -/
def elementwise2 (e : Env) (s : State) (g : Nat → Nat → Nat → Nat) : State :=
  resultD e s (BitVec.ofNat 64 (g 64 (scalA e) (scalB e))) fun l => packed2 (elemWidth e.f) (g (elemWidth e.f)) (laneA e l) (laneB e l)

/-- An element rule over A. -/
def elementwise1 (e : Env) (s : State) (g : Nat → Nat → Nat) : State :=
  resultD e s (BitVec.ofNat 64 (g 64 (scalA e))) fun l => packed1 (elemWidth e.f) (g (elemWidth e.f)) (laneA e l)

/-- A rule over A, B and C, of 64 bits in the all-scalar form and of 32 else. -/
def whole3 (e : Env) (s : State) (g : Nat → Nat → Nat → Nat → Nat) : State :=
  resultD e s (BitVec.ofNat 64 (g 64 (scalA e) (scalB e) (scalC e)))
    fun l => BitVec.ofNat 32 (g 32 (laneA e l).toNat (laneB e l).toNat (laneC e l).toNat)

/-- A shift: an amount for each element from a lane register, one amount from a scalar or immediate (R254). -/
def shiftwise (e : Env) (s : State) (g : Nat → Nat → Nat → Nat) : State :=
  resultD e s (BitVec.ofNat 64 (g 64 (scalA e) (scalB e))) fun l =>
    if e.f.bsp = 0 then packed2 (elemWidth e.f) (g (elemWidth e.f)) (laneA e l) (laneB e l)
    else packed1 (elemWidth e.f) (fun a => g (elemWidth e.f) a (laneB e l).toNat) (laneA e l)

/-! ## Floating-point results -/

/-- The flags that a floating-point word raises, over its active lanes; `g l` is the result and flags for lane `l` (R71). -/
def fpFlags (e : Env) (g : Nat → Nat × Nat) : Nat :=
  if e.f.dsp = 1 then (if e.act = 0 then 0 else (g (lowestLane e.act)).2)
  else (lanesOf e.act).foldl (fun m l => Nat.lor m (g l).2) 0

/-- `%fpf` takes flags (R71). -/
def fpfTakes (e : Env) (s : State) (flags : Nat) : State :=
  updCur s e.who fun w => { w with fpf := w.fpf ||| BitVec.ofNat 64 flags }

/-- The results written, of 64 bits in a register pair when `wide`, and `%fpf` with the flags (R271). -/
def fpWritten (e : Env) (s : State) (wide : Bool) (g : Nat → Nat × Nat) : State :=
  if e.f.dsp = 1 then
    (if e.act = 0 then s else fpfTakes e (setScalar s e.who e.f.d.toNat (BitVec.ofNat 64 (g (lowestLane e.act)).1)) (fpFlags e g))
  else
    let s1 := writeLanes e s fun l => BitVec.ofNat 32 (g l).1
    let s2 := if wide then updCur s1 e.who fun w => w.setLanes (e.f.d.toNat + 1) e.act fun l => BitVec.ofNat 32 ((g l).1 / 2 ^ 32) else s1
    fpfTakes e s2 (fpFlags e g)

/-- A value rounded into a format in the wave's mode, with the flags `fl` of the operation and those of the rounding. -/
def rounded (e : Env) (f : Fmt) (v : FVal × Nat) : Nat × Nat :=
  let r := roundOut (ftzOf e) f (rmOf e) v.1
  (r.1, Nat.lor v.2 r.2)

/-- FP32 operand of a lane, flushed by FTZ. -/
def in32 (e : Env) (x : Src) (l : Nat) : FVal := readIn (ftzOf e) .fp32 (fp32Src e x l)
/-- FP64 operand of a lane. -/
def in64 (e : Env) (x : Src) (l : Nat) : FVal := readF .fp64 (fp64Src e x l)

/-- What a floating-point word computes for a lane, and whether its result is an FP64 register pair (R274 to R281, R283 to R285). An
exact value is rounded once, in `%fpm`'s mode. -/
def fpRule (i : Instr) (e : Env) : Option (Bool × (Nat → Nat × Nat)) :=
  let a32 := in32 e (srcA e.f)
  let b32 := in32 e (srcB e.f)
  let c32 := in32 e (srcC e.f)
  let a64 := in64 e (srcA e.f)
  let b64 := in64 e (srcB e.f)
  let c64 := in64 e (srcC e.f)
  let rm := rmOf e
  let wide (v : FVal × Nat) : Nat × Nat := let r := roundF .fp64 rm v.1; (r.1, Nat.lor v.2 r.2)
  match i with
  | .fadd _ => some (false, fun l => rounded e .fp32 (addF rm (a32 l) (b32 l)))
  | .fsub _ => some (false, fun l => rounded e .fp32 (addF rm (a32 l) (negF (b32 l))))
  | .fmul _ => some (false, fun l => rounded e .fp32 (mulF (a32 l) (b32 l)))
  | .ffma _ => some (false, fun l => rounded e .fp32 (fmaF rm (a32 l) (b32 l) (c32 l)))
  | .fmin _ => some (false, fun l => ((roundF .fp32 0 (minMaxF false (a32 l) (b32 l))).1, Nat.lor (sigFlag (a32 l)) (sigFlag (b32 l))))
  | .fmax _ => some (false, fun l => ((roundF .fp32 0 (minMaxF true (a32 l) (b32 l))).1, Nat.lor (sigFlag (a32 l)) (sigFlag (b32 l))))
  | .dadd _ => some (true, fun l => wide (addF rm (a64 l) (b64 l)))
  | .dmul _ => some (true, fun l => wide (mulF (a64 l) (b64 l)))
  | .dfma _ => some (true, fun l => wide (fmaF rm (a64 l) (b64 l) (c64 l)))
  | .ddiv _ => some (true, fun l => wide (divF (a64 l) (b64 l)))
  | .rcp _ => some (false, fun l => rounded e .fp32 (rcpF (a32 l)))
  | .rsq _ => some (false, fun l => rounded e .fp32 (rsqF (a32 l)))
  | .sqrt _ => some (false, fun l => rounded e .fp32 (sqrtF (a32 l)))
  | .divf _ => some (false, fun l => rounded e .fp32 (divF (a32 l) (b32 l)))
  | _ => none

/-- With every trap of `%fpm` disabled a word completes, leaving results `g` with their flags. -/
def floats (s : State) (i : Instr) (f : Fields) (wide : Env → Bool) (g : Env → Nat → Nat × Nat) : Prop :=
  completesIf s i f (fun e => trapsOf e.w = 0) fun e => fpWritten e s (wide e) (g e)

/-- A dot product of `n` elements added to D (R280): integers exactly and wrapped to 32 bits, floats exactly and rounded once. -/
def dotRule (e : Env) (n l : Nat) : Nat × Nat :=
  let w := 32 / n
  let fa : Fmt := (fmtOfCode (e.f.c.toNat % 16)).getD .int8
  let fb : Fmt := (fmtOfCode (e.f.c.toNat / 16)).getD .int8
  let src (x : Src) : Nat := if n = 2 then (pkSrc e fa x l).toNat else (raw32 e x l).toNat
  let el (x : Src) (k : Nat) : Nat := bitsOf (src x) (w * k + w - 1) (w * k)
  let d := (raw32 e ⟨e.f.dsp, e.f.d.toNat, 0⟩ l).toNat
  if e.f.c = 0x44 ∨ e.f.c = 0x55 then
    (wrapInt 32 ((upto n).foldl (fun t k => t + sextInt (el (srcA e.f) k) w * sextInt (el (srcB e.f) k) w) (sextInt d 32)), 0)
  else
    let d32 := readIn (ftzOf e) .fp32 d
    let t := dotSum (rmOf e) d32 ((upto n).map fun k => mulF (readIn (ftzOf e) fa (el (srcA e.f) k)) (readIn (ftzOf e) fb (el (srcB e.f) k)))
    let r := roundOut (ftzOf e) .fp32 (rmOf e) t.1
    (r.1, Nat.lor (Nat.lor t.2 r.2) (sigFlag d32))

/-! ## Operations issued -/

/-- There is room for a memory operation: its counter is below 255 (R208), fewer than 8 of the wave's operations are short of
translation (R175), and a DET buffer takes its entries (R91). -/
def memRoom (s : State) (e : Env) (cn : Option Nat) (k : OpKind) (xs : List Access) : Prop :=
  counterFull s e cn = false ∧ skidFull s e = false ∧ detFull s e k xs = false

/-- The lanes whose register sources an operation of the load-store engine reads later than at its issue (R30). -/
def lateLanes (s : State) (e : Env) (xs : List Access) : W32 :=
  if s.inputs.late && decide ((formOf e.i).eng = .lsu) then xs.foldl (fun m x => m ||| laneBit x.lane) 0 else 0

/-- The state in which a memory operation has been issued: its counter is raised by the operation that stands last in the wave's list;
one with no access is lowered in its turn (R42); an atomic of a DET sweep ends the quantum (R90). -/
def memIssued (s : State) (e : Env) (cn : Option Nat) (k : OpKind) (xs : List Access) : State :=
  let dest : Bool := match k with | .atomic _ (some _) => true | _ => false
  let un := lateLanes s e xs
  let o := mkOp s e.who e.w k cn e.va (e.k.words.getD e.k.idx 0) (pathFlags e.p) xs ((!xs.isEmpty && (k.loads || dest)) || decide (un ≠ 0))
    (if xs.isEmpty then .complete else if xs.any fun x => x.fault.isSome then .faulted else .issued)
  let s1 := lower (pushOp s { o with unread := un, kept := keptAt e })
  if isDet s e.t && k.isAtomic && !xs.isEmpty then updCur s1 e.who fun w => { w with status := .quantumEnd } else s1

/-- There is room for an operation of the copy engine: its counter is below 255 and the core's engine holds fewer than 64 (R290). -/
def copyRoom (s : State) (e : Env) : Prop := copyFull s e = false

/-- The state in which an operation has entered the copy engine; one whose addresses it may read as late as its start does so when the step's inputs
say so (R30); one that touches memory in a DET sweep waits for the commit and ends the quantum (R317). -/
def copyIssued (s : State) (e : Env) (k : OpKind) (regWork memory : Bool) (xs : List Access) : State :=
  let det := isDet s e.t && memory
  let late := s.inputs.late && k.readsLate
  let o := mkOp s e.who e.w k (some (counterName e.f)) e.va (e.k.words.getD e.k.idx 0) (pathFlags e.p)
    (engineAcc (lowestLane e.act) :: xs) (regWork || late) (if det then .issued else .queued)
  let s1 := pushOp s { o with unread := if late then 1 else 0 }
  if det then updCur s1 e.who fun w => { w with status := .quantumEnd } else s1

/-! ## Packets at their turn -/

/-- The packet `p` waits to start as the instruction `i`, may start now, and leaves the bytes zero that its table does not name; the sectors that an
active capture writes for it are in reach. `q` is its queue and `r` what was read of it. -/
def packetAtTurn (s : State) (i : Instr) (p : PktRef) (q : Queue) (r : RawPkt) : Prop :=
  headPkt s p = some (q, r) ∧ packetInstr r = some i ∧ mayStartPkt s q r = true ∧ p.rz = true ∧ logMeets s q (logSectors r) = none

/-- At its turn, and if `ok` holds, the packet leaves `g`. -/
def packetRuns (s : State) (i : Instr) (p : PktRef) (ok : Queue → RawPkt → Prop) (g : Queue → RawPkt → State) : Prop :=
  ∀ q r, packetAtTurn s i p q r → ok q r → exec i s = .next (g q r)

/-- A range that a queue's translation reaches whole. -/
def reached (s : State) (q : Queue) (va n : Nat) (k : AccKind) : Prop := span s q va n k = .ok

end Sys2Proof.Machine
end

