-- ==== Sys2Proof/Certificates/Slice0/Obligations.lean ====
section
/-!
DEFINITION. The statements for the provers. In a statement about a word, `s` is any state and `f` any fields; the word is at its turn
in `s` when `wordAtTurn` holds, and `completes`, `completesIf`, `movesIf`, `waitsIf` and `trapsIf` say which state `exec` answers.
-/

open Sys2Proof Sys2Proof.Machine

/-! ## The machine as a whole -/

/-- A step is the meaning of what the machine stands at: an event that the agenda names, else the header or the decoded word at which the agent
that issues next stands; a word that no row of R45 assigns is rejected, a wave that the agenda names and that may not issue now stops the run
(R115, R116), and so does a word that the agenda names as an event, which no wave issues, and a deadline gives way to a precise fault of the same clk (R186). `s2` is the state after what the step adds before it: the
slot's ticks pass, what other agents did arrives, and the agent is chosen; `afterStep` is what it adds after it: records of faults that are
answered are dropped (log entries 1 and 2, the model's own). -/
def Obligations.StepRunsDecodedInstruction : Prop :=
  let deadline (i : Instr) : Bool := match i with | .preemptDeadline _ _ => true | _ => false
  let runs (s s2 : State) : Prop :=
    (∀ w i, curWord s2 = some w → decode w = .ok i → step s = afterStep (exec i s2))
    ∧ (∀ w, curWord s2 = some w → (∀ i, decode w ≠ .ok i) → step s = afterStep (.next (rejectWord s2)))
    ∧ (curWord s2 = none → step s = afterStep (exec .clauseHeader s2))
  (∀ (s : State) (slot : Slot) (rest : List Slot), s.agenda = slot :: rest →
    let s1 := advance { s with agenda := rest } slot.dt slot.stores slot.inp
    let s2 := match slot.who with
      | some a => { s1 with cur := some a }
      | none => if slot.ev.isSome then s1 else { s1 with cur := pickAgent s1 }
    (∀ i, slot.ev = some i → deadline i = false → isWord i = false → step s = afterStep (exec i s2))
    ∧ (∀ i, slot.ev = some i → deadline i = false → isWord i = true → step s = .fault .notEnabled)
    ∧ (∀ tid wave, slot.ev = some (.preemptDeadline tid wave) →
        let s3 := { s2 with cur := some ⟨tid, wave, none⟩ }
        (faultsNow s2 tid wave = false → step s = afterStep (exec (.preemptDeadline tid wave) s2))
        ∧ (faultsNow s2 tid wave = true → curWaitsForFlags s3 = false → runs s s3))
    ∧ (∀ a, slot.ev = none → slot.who = some a → mayTake s1 a = false → step s = .fault .notEnabled)
    ∧ (slot.ev = none → (∀ a, slot.who = some a → mayTake s1 a = true) → s2.cur ≠ none → curWaitsForFlags s2 = false → runs s s2))
  ∧ (∀ (s : State), s.agenda = [] →
    let s1 := advance s 1 [] .quiet
    let s2 := { s1 with cur := pickAgent s1 }
    (∀ i, defaultEvent s1 = some i → deadline i = false → isWord i = false → step s = afterStep (exec i s1))
    ∧ (defaultEvent s1 = none → s2.cur ≠ none → curWaitsForFlags s2 = false → runs s s2))
  ∧ (∀ (nbits w : Nat) (i : Instr), decodeTableWord nbits w = some i →
    ∃ t, step (State.reset.withFetchWord nbits w) = afterStep (exec i t) ∧ curWord t = some (BitVec.ofNat 64 (w % 2 ^ nbits)) ∧ t.now = 0)

/-- Words that the spec writes out bit by bit read as the instructions that they stand for, one of each family: `IADD v2, v2, #64` and
`?!p1 MOVI v21, #0x0001_0000` (chapter 3), `FFMA v25, v4!, v0, v25` (chapter 6), `CVT.e4m3.fp32 v5, v4`, `LD v4, [s48 + v3], c1`,
`STF.q [h8 + v3], v8, c1`, `MMA a0, v8, s10, s12`, `CPY.core.g [s20], [s21], s22, c3`, `?p1 BRA rare, join=meet`, `TBEGIN.reissue s40`;
`TRAP #7`, written from R140; and the headers of chapter 2. -/
def Obligations.SpecWordsDecode : Prop :=
  decode 0x040802024000001C#64 = .ok (.iadd ⟨0, 0, 2, 0, 2, 2, 0x40, 0, 0, 0, false, false, false, 7, 0⟩)
  ∧ decode 0x022A150001000024#64 = .ok (.movi ⟨0, 2, 2, 2, 21, 0, 1, 0, 0, 0, false, false, true, 1, 0⟩)
  ∧ decode 0x230019040019009C#64 = .ok (.ffma ⟨0, 0, 0, 0, 0x19, 4, 0, 0x19, 0, 0, true, false, false, 7, 0⟩)
  ∧ decode 0x480005040004001C#64 = .ok (.cvt ⟨0, 0, 0, 0, 5, 4, 0, 4, 0, 0, false, false, false, 7, 0⟩)
  ∧ decode 0x501004300300141C#64 = .ok (.ld ⟨0, 1, 0, 0, 4, 0x30, 3, 0, 1, 4, false, false, false, 7, 0⟩)
  ∧ decode 0x613000080308161C#64 = .ok (.stf ⟨0, 3, 0, 0, 0, 8, 3, 8, 1, 6, false, false, false, 7, 0⟩)
  ∧ decode 0x70D1000A080C001C#64 = .ok (.mma ⟨3, 1, 0, 1, 0, 0x0A, 8, 0x0C, 0, 0, false, false, false, 7, 0⟩)
  ∧ decode 0x805414151602301C#64 = .ok (.cpy ⟨1, 1, 1, 0, 0x14, 0x15, 0x16, 2, 3, 0, false, false, false, 7, 0⟩)
  ∧ decode 0x900A000900060004#64 = .ok (.bra ⟨0, 0, 2, 2, 0, 9, 0, 6, 0, 0, false, false, false, 1, 0⟩)
  ∧ decode 0x9D1800280100001C#64 = .ok (.tbegin ⟨0, 1, 2, 0, 0, 0x28, 1, 0, 0, 0, false, false, false, 7, 0⟩)
  ∧ decode 0xB00800000700001C#64 = .ok (.trap ⟨0, 0, 2, 0, 0, 0, 7, 0, 0, 0, false, false, false, 7, 0⟩)
  ∧ headerOfWord 0xC48007F800000000#64 = ⟨0, 9, 0, 15, 15, false, false, false⟩
  ∧ headerOfWord 0xD080017C00000000#64 = ⟨2, 1, 0, 2, 15, true, false, false⟩

/-- Every well-formed word instruction is read back from its encoding, with all of its fields; every word that is read is the encoding of what is
read; a clause header is read back from its word. -/
def Obligations.EncodeAndDecodeAgree : Prop :=
  (∀ (i : Instr) (w : Word), i.wf = true → encode i = some w → decode w = .ok i)
  ∧ (∀ (i : Instr) (w : Word), decode w = .ok i → encode i = some w)
  ∧ (∀ (h : Header), headerOfWord (wordOfHeader h) = h)
  ∧ (∀ (b0 b1 b2 b3 b4 b5 b6 b7 : Byte) (rest : List Byte) (i : Instr),
      decode (wordOfBytes b0 b1 b2 b3 b4 b5 b6 b7) = .ok i → decodeBytes (b0 :: b1 :: b2 :: b3 :: b4 :: b5 :: b6 :: b7 :: rest) = .ok (i, rest))

/-- R15, R410, R411, R417, R419, R425: after a cold reset the timebase is 0, no bring-up step is reached, no feature is accepted, no admin queue is
mapped, and no wave, team, sweep, context or queue exists; storage is in its canonical form and lists nothing. That an unlisted byte reads as
0 is the model's choice (log entry 4). -/
def Obligations.ResetHoldsTheSpecsValues : Prop :=
  State.reset.now = 0 ∧ State.reset.boot = 0 ∧ State.reset.featStat = 0 ∧ State.reset.featAcc = 0 ∧ State.reset.featLocked = false
  ∧ State.reset.dieFence = 0 ∧ State.reset.waves = [] ∧ State.reset.teams = [] ∧ State.reset.sweeps = [] ∧ State.reset.contexts = []
  ∧ State.reset.queues = [] ∧ State.reset.ops = [] ∧ State.reset.update = none ∧ State.reset.aliasUsed = 0
  ∧ State.reset.canonical = true ∧ ∀ a, byteAt State.reset.mem a = 0

/-- Memory, core scratchpads and die pads keep their canonical form over every step, whatever the step is. -/
def Obligations.EveryStepKeepsStorageCanonical : Prop := ∀ (s t : State), s.canonical = true → step s = .next t → t.canonical = true

/-- R39, R40, R168: the retirement of a word changes nothing but its own wave, and of that wave only where the path stands, the PERF counters,
the hold latches and the record of issue: every register, predicate, handle, tile, mask and trap register is as the word's own effect left it. -/
def Obligations.RetirementFrame : Prop := ∀ (s : State) (e : Env) (t : State), t = retired s e ∨ t = retiredMoved s e →
  { t with waves := s.waves } = s
  ∧ (∀ tid ix, (tid, ix) ≠ (e.who.tid, e.who.wave) → findWave t tid ix = findWave s tid ix)
  ∧ (∀ w, findWave s e.who.tid e.who.wave = some w → ∃ w', findWave t e.who.tid e.who.wave = some w'
      ∧ { w' with path := w.path, conts := w.conts, perf := w.perf, holdA := w.holdA, holdB := w.holdB, status := w.status
                  lastIssue := w.lastIssue, favoured := w.favoured, qpass := w.qpass } = w
      ∧ ∀ l p, w.pathOf l = some p → ∃ p', w'.pathOf l = some p' ∧ { p' with pc := p.pc, mid := p.mid, grp := p.grp, clause := p.clause } = p)

/-- R40, R57, R118: a result changes nothing but its destination: a lane register in the active lanes and no other register or lane, one scalar of
the issuing path, or one predicate in the active lanes; with no active lane a scalar is not written. (That a register file is in its canonical form
is a premise where what is read depends on it; the clause says that the write keeps it.) -/
def Obligations.ResultsWriteOnlyTheirDestination : Prop := ∀ (s : State) (e : Env) (w : Wave),
  findWave s e.who.tid e.who.wave = some w →
  (∀ (g : Nat → W32), let t := writeLanes e s g
    { t with waves := s.waves } = s ∧ (∀ tid ix, (tid, ix) ≠ (e.who.tid, e.who.wave) → findWave t tid ix = findWave s tid ix)
    ∧ ∃ w', findWave t e.who.tid e.who.wave = some w' ∧ { w' with lanes := w.lanes } = w
      ∧ (Sparse.wf 0 w.lanes = true → Sparse.wf 0 w'.lanes = true
          ∧ ∀ r l, l < 32 → w'.v r l = if r = e.f.d.toNat ∧ e.act.getLsbD l = true then g l else w.v r l))
  ∧ (∀ (x : Word) (p : Path), w.pathOf e.who.lane = some p → let t := writeScalar e s x
    { t with waves := s.waves } = s ∧ (e.act = 0 → t = s)
    ∧ (e.act ≠ 0 → ∃ w' p', findWave t e.who.tid e.who.wave = some w' ∧ { w' with path := w.path, conts := w.conts } = w
      ∧ w'.pathOf e.who.lane = some p' ∧ { p' with scal := p.scal, wr := p.wr } = p ∧ p'.wr = p.wr ||| BitVec.ofNat 64 (2 ^ e.f.d.toNat)
      ∧ (∀ l, l ≠ e.who.lane → w'.pathOf l = w.pathOf l)
      ∧ (Sparse.wf 0 p.scal = true → Sparse.wf 0 p'.scal = true ∧ ∀ k, p'.s k = if k = e.f.d.toNat then x else p.s k)))
  ∧ (∀ (k : Nat) (g : Nat → Bool), k < 7 → let t := writePred e s k g
    { t with waves := s.waves } = s
    ∧ ∃ w', findWave t e.who.tid e.who.wave = some w' ∧ { w' with preds := w.preds } = w
      ∧ (Sparse.wf 0 w.preds = true → Sparse.wf 0 w'.preds = true
          ∧ ∀ j l, l < 32 → (w'.p j).getLsbD l = if j = k ∧ e.act.getLsbD l = true then g l else (w.p j).getLsbD l))

/-! ## Integer words -/

/-- R248, R249, R253: NOP, MOV, MOVI and SEL; the bitwise words act on the whole operand, whatever the width of its elements. -/
def Obligations.MovesAndLogic : Prop := ∀ (s : State) (f : Fields),
  completes s (.nop f) f (fun _ => s)
  ∧ completes s (.mov f) f (fun e => resultD e s (raw64 e (srcA f)) (laneA e))
  ∧ completes s (.movi f) f (fun e => resultD e s
      (if f.w = 0 then (imm32 f).zeroExtend 64 else if f.w = 1 then (imm32 f).signExtend 64
       else imm32 f ++ (e.p.s f.d.toNat).truncate 32) fun _ => imm32 f)
  ∧ completes s (.sel f) f (fun e => writeLanes e s fun l => if (e.w.p f.c.toNat).getLsbD l then laneA e l else laneB e l)
  ∧ completes s (.and f) f (fun e => resultD e s (raw64 e (srcA f) &&& raw64 e (srcB f)) fun l => laneA e l &&& laneB e l)
  ∧ completes s (.or f) f (fun e => resultD e s (raw64 e (srcA f) ||| raw64 e (srcB f)) fun l => laneA e l ||| laneB e l)
  ∧ completes s (.xor f) f (fun e => resultD e s (raw64 e (srcA f) ^^^ raw64 e (srcB f)) fun l => laneA e l ^^^ laneB e l)
  ∧ completes s (.not f) f (fun e => resultD e s (~~~(raw64 e (srcA f))) fun l => ~~~(laneA e l))

/-- R250 to R252: the sums, differences, products and carries of integers, each taken exactly and then wrapped to its width;
minima, maxima, absolute values and saturating sums compare and clamp the readings of their elements. -/
def Obligations.IntegerArithmetic : Prop := ∀ (s : State) (f : Fields),
  completes s (.iadd f) f (fun e => elementwise2 e s fun w a b => wrapInt w ((a : Int) + b))
  ∧ completes s (.isub f) f (fun e => elementwise2 e s fun w a b => wrapInt w ((a : Int) - b))
  ∧ completes s (.imul f) f (fun e => elementwise2 e s fun w a b => wrapInt w ((a : Int) * b))
  ∧ completes s (.imulh f) f (fun e => elementwise2 e s fun w a b =>
      if f.c = 0 then wrapInt w (Int.fdiv (sextInt a w * sextInt b w) (2 ^ w)) else a * b / 2 ^ w)
  ∧ completes s (.imad f) f (fun e => whole3 e s fun w a b c => wrapInt w ((a : Int) * b + c))
  ∧ completes s (.imadw f) f (fun e => writePair e s fun l => BitVec.ofInt 64
      ((if f.w = 0 then ((laneA e l).toNat : Int) * (laneB e l).toNat else (laneA e l).toInt * (laneB e l).toInt)
        + (rawPair e (srcC f) l).toNat))
  ∧ completes s (.iaddc f) f (fun e =>
      let cin (l : Nat) : Nat := if (e.w.p f.c.toNat).getLsbD l then 1 else 0
      if f.dsp = 1 then
        writePred e (writeScalar e s (BitVec.ofNat 64 (scalA e + scalB e + cin (lowestLane e.act)))) f.c.toNat
          fun _ => decide (2 ^ 64 ≤ scalA e + scalB e + cin (lowestLane e.act))
      else
        writePred e (writeLanes e s fun l => BitVec.ofNat 32 ((laneA e l).toNat + (laneB e l).toNat + cin l)) f.c.toNat
          fun l => decide (2 ^ 32 ≤ (laneA e l).toNat + (laneB e l).toNat + cin l))
  ∧ (f.c = 0 →
    completes s (.imin f) f (fun e => elementwise2 e s fun w a b => wrapInt w (min (sextInt a w) (sextInt b w)))
    ∧ completes s (.imax f) f (fun e => elementwise2 e s fun w a b => wrapInt w (max (sextInt a w) (sextInt b w)))
    ∧ completes s (.iadds f) f (fun e => elementwise2 e s fun w a b =>
        wrapInt w (min (max (sextInt a w + sextInt b w) (-(2 ^ (w - 1)))) (2 ^ (w - 1) - 1)))
    ∧ completes s (.isubs f) f (fun e => elementwise2 e s fun w a b =>
        wrapInt w (min (max (sextInt a w - sextInt b w) (-(2 ^ (w - 1)))) (2 ^ (w - 1) - 1))))
  ∧ (f.c = 1 →
    completes s (.imin f) f (fun e => elementwise2 e s fun _ a b => min a b)
    ∧ completes s (.imax f) f (fun e => elementwise2 e s fun _ a b => max a b)
    ∧ completes s (.iadds f) f (fun e => elementwise2 e s fun w a b => min (a + b) (2 ^ w - 1))
    ∧ completes s (.isubs f) f (fun e => elementwise2 e s fun _ a b => (max ((a : Int) - b) 0).toNat))
  ∧ completes s (.iabs f) f (fun e => elementwise1 e s fun w a => wrapInt w ((sextInt a w).natAbs : Int))

/-- R254: shifts past the width leave 0, or the sign; rotation counts modulo the width. -/
def Obligations.ShiftsAndRotates : Prop := ∀ (s : State) (f : Fields),
  completes s (.shl f) f (fun e => shiftwise e s fun w a n => if w ≤ n then 0 else a * 2 ^ n % 2 ^ w)
  ∧ completes s (.shr f) f (fun e => shiftwise e s fun w a n => if w ≤ n then 0 else a / 2 ^ n)
  ∧ completes s (.sar f) f (fun e => shiftwise e s fun w a n => wrapInt w (Int.fdiv (sextInt a w) (2 ^ min n (w - 1))))
  ∧ completes s (.rol f) f (fun e => shiftwise e s fun w a n => a * 2 ^ (n % w) % 2 ^ w + a / 2 ^ (w - n % w))

/-- R255 to R257: bit fields, counts, reversals and byte permutes. -/
def Obligations.BitFieldsAndCounts : Prop := ∀ (s : State) (f : Fields),
  completes s (.bfx f) f (fun e => elementwise2 e s bitExtract)
  ∧ completes s (.bfi f) f (fun e => whole3 e s fun v a b c => bitInsert v a c b)
  ∧ completes s (.popc f) f (fun e => elementwise1 e s fun v a => ((upto v).filter fun i => a.testBit i).length)
  ∧ completes s (.clz f) f (fun e => elementwise1 e s fun v a => ((upto v).takeWhile fun i => !a.testBit (v - 1 - i)).length)
  ∧ completes s (.brev f) f (fun e => elementwise1 e s bitReverse)
  ∧ completes s (.permb f) f (fun e => writeLanes e s fun l => permBytes (laneA e l) (laneB e l) (laneC e l))

/-- R255, R257, R301, R302: byte k of PERMB's result is the byte of A and B that byte k of C selects, or 0 where its bit 7 is set; a bit field inserted
at a place and read there again is the field; a handle's fields are read back from the word that holds them. -/
def Obligations.FieldsReadBackFromTheirWords : Prop :=
  (∀ (a b c : W32) (k : Nat), k < 4 →
    let sel : BitVec 8 := c.extractLsb' (8 * k) 8
    (permBytes a b c).extractLsb' (8 * k) 8
      = if sel.getLsbD 7 then 0
        else if sel.getLsbD 2 then b.extractLsb' (8 * (sel.toNat % 4)) 8 else a.extractLsb' (8 * (sel.toNat % 4)) 8)
  ∧ (∀ (v a c pos len : Nat), v = 32 ∨ v = 64 → pos + len ≤ v → 0 < len → pos < 128 →
    bitExtract v (bitInsert v a c (pos + 256 * len)) (pos + 256 * len) = a % 2 ^ len)
  ∧ (∀ (kind rights jar gen dev : Nat), kind < 16 → rights < 16 → jar < 2 ^ 24 → gen < 2 ^ 24 → dev < 256 →
    let h := mkHandle kind rights jar gen dev
    handleKind h = kind ∧ handleRights h = rights ∧ handleJar h = jar ∧ handleGen h = gen ∧ handleDev h = dev)

/-- R247, R261 to R264: conversions between integer types, packing, and SHFL, which takes A from the lane that its mode and B name, and its
own A where that lane does not exist or is not active. -/
def Obligations.ConversionPackingAndShuffle : Prop := ∀ (s : State) (f : Fields),
  completes s (.cvti f) f (fun e => resultD e s (BitVec.ofInt 64 (convertInt f.c.toNat (scalA e)))
      fun l => BitVec.ofInt 32 (convertInt f.c.toNat (laneA e l).toNat))
  ∧ completes s (.pack f) f (fun e => writeLanes e s fun l => BitVec.ofNat 32 (joinElems (elemWidth f)
      ((elems (2 * elemWidth f) (laneA e l) ++ elems (2 * elemWidth f) (laneB e l)).map (packElem f.c.toNat (elemWidth f)))))
  ∧ completes s (.unpk f) f (fun e => writeLanes e s fun l => BitVec.ofNat 32 (joinElems (2 * elemWidth f)
      ((((elems (elemWidth f) (laneA e l)).drop (if f.c.getLsbD 0 then 16 / elemWidth f else 0)).take (16 / elemWidth f)).map
        fun x => if 2 ≤ f.c.toNat then wrapInt (2 * elemWidth f) (sextInt x (elemWidth f)) else x)))
  ∧ completes s (.shfl f) f (fun e => writeLanes e s fun l =>
    let b := (laneB e l).toNat
    let src : Int := if f.c = 0 then b else if f.c = 1 then (l : Int) - b else if f.c = 2 then (l : Int) + b else (Nat.xor l b : Nat)
    if 0 ≤ src ∧ src < 32 ∧ e.act.getLsbD src.toNat then laneA e src.toNat else laneA e l)

/-- R258 to R260: comparisons, predicate logic and votes write predicates of the active lanes only. -/
def Obligations.PredicatesAreWrittenInActiveLanes : Prop := ∀ (s : State) (f : Fields),
  completes s (.icmp f) f (fun e => writePred e s f.d.toNat fun l =>
      if f.asp = 1 ∧ (f.bsp = 1 ∨ f.bsp = 2) then intCond f.c.toNat 64 (scalA e) (scalB e)
      else intCond f.c.toNat 32 (laneA e l).toNat (laneB e l).toNat)
  ∧ completes s (.plop f) f (fun e => writePred e s f.d.toNat fun l =>
      f.c.getLsbD (2 * ((e.w.p f.a.toNat).getLsbD l).toNat + ((e.w.p f.b.toNat).getLsbD l).toNat))
  ∧ completes s (.vote f) f (fun e =>
      let yes := e.w.p f.a.toNat &&& e.act
      if f.c = 0 then writePred e s f.d.toNat fun _ => decide (yes = e.act)
      else if f.c = 1 then writePred e s f.d.toNat fun _ => decide (yes ≠ 0)
      else if f.c = 2 then writePred e s f.d.toNat fun _ => decide (yes = e.act ∨ yes = 0)
      else resultD e s (yes.zeroExtend 64) fun _ => yes)

/-- R266 to R268: special registers are read as R132 lists them; WRS writes the one it names, unless the value sets a reserved bit;
MOVEM keeps `em` inside the path's mask; LEA gives cluster addresses. That a MOVEM with no enabled lane leaves its scalar and still writes `em` is the
model's choice (log entry 27). -/
def Obligations.SpecialRegistersAndMask : Prop := ∀ (s : State) (f : Fields),
  completes s (.rds f) f (fun e => resultD e s (specialValue e f.a.toNat none) fun l => (specialValue e f.a.toNat (some l)).truncate 32)
  ∧ completesIf s (.wrs f) f (fun e => e.act = 0 ∨ raw64 e (srcA f) &&& reservedBits f.d.toNat = 0)
      (fun e => if e.act = 0 then s else updCur s e.who (setSpecial f.d.toNat (raw64 e (srcA f))))
  ∧ trapsIf s (.wrs f) f (fun e => e.act ≠ 0 ∧ raw64 e (srcA f) &&& reservedBits f.d.toNat ≠ 0) (fun _ => ⟨.illegalOp, subField, 0⟩)
  ∧ completesIf s (.movem f) f (fun e => (raw64 e (srcA f)).truncate 32 &&& e.p.mask ≠ 0)
      (fun e => updPath s e.who fun p =>
        { (if e.act = 0 then p else p.setS f.d.toNat (p.em.zeroExtend 64)) with em := (raw64 e (srcA f)).truncate 32 &&& e.p.mask })
  ∧ trapsIf s (.movem f) f (fun e => (raw64 e (srcA f)).truncate 32 &&& e.p.mask = 0) (fun _ => ⟨.illegalOp, subField, 0⟩)
  ∧ completes s (.lea f) f (fun e => resultD e s ((clusterAddr e f.c.toNat 0 (raw64 e (srcA f)).toInt).zeroExtend 64)
      fun l => clusterAddr e f.c.toNat l (laneA e l).toInt)

/-! ## Floating-point words -/

/-- R71, R72, R271, R274, R275, R278, R281: with no enabled trap raised, an arithmetic word writes its rounded results in the active
lanes, and `%fpf` takes the flags; with one raised, FPE is delivered with the flags as its subcode. -/
def Obligations.FloatArithmeticRoundsOnce : Prop := ∀ (s : State) (i : Instr) (f : Fields) (e : Env) (r : Bool × (Nat → Nat × Nat)),
  wordAtTurn s i f e → fpRule i e = some r →
  (Nat.land (fpFlags e r.2) (trapsOf e.w) = 0 → exec i s = .next (retired (fpWritten e s r.1 r.2) e))
  ∧ (Nat.land (fpFlags e r.2) (trapsOf e.w) ≠ 0 → exec i s = .next (deliver s e.who ⟨.fpe, fpFlags e r.2, 0⟩ (preciseAt e.va)))

/-- R277, R279, R280, R282 to R285: the class of a value, packed and dot-product words, the functions of R74, and conversions complete
with every trap disabled; a comparison writes the predicate of each active lane, and an unordered pair fails every ordered condition. -/
def Obligations.FloatWordsComplete : Prop := ∀ (s : State) (f : Fields),
  let no : Env → Bool := fun _ => false
  floats s (.fclass f) f no (fun e l =>
      let fm : Fmt := match f.c.toNat with | 0 => .fp32 | 1 => .fp64 | 2 => .bf16 | _ => .fp16
      (2 ^ classBit fm (typedSrc e fm (srcA f) l), 0))
  ∧ (∀ (i : Instr) (g : Env → FVal → FVal → FVal → FVal × Nat),
      (i = .pkadd f ∧ g = fun e a b _ => addF (rmOf e) a b) ∨ (i = .pkmul f ∧ g = fun _ a b _ => mulF a b) ∨ (i = .pkfma f ∧ g = fun e => fmaF (rmOf e)) →
      floats s i f no fun e l =>
        let fm : Fmt := if f.c = 6 then .bf16 else .fp16
        let el (x : W32) (k : Nat) : FVal := readIn (ftzOf e) fm (bitsOf x.toNat (16 * k + 15) (16 * k))
        let one (k : Nat) := rounded e fm (g e (el (pkSrc e fm (srcA f) l) k) (el (pkSrc e fm (srcB f) l) k) (el (raw32 e ⟨f.dsp, f.d.toNat, 0⟩ l) k))
        ((one 0).1 + 65536 * (one 1).1, Nat.lor (one 0).2 (one 1).2))
  ∧ floats s (.dot2 f) f no (fun e => dotRule e 2) ∧ floats s (.dot4 f) f no (fun e => dotRule e 4)
  ∧ floats s (.dot8 f) f no (fun e => dotRule e 8)
  ∧ floats s (.exp2 f) f no (fun e l =>
      match in32 e (srcA f) l with
      | .nan _ sg => (0x7FC00000, if sg then 1 else 0)
      | .inf sg => (if sg then 0 else 0x7F800000, 0)
      | .num sg m ex => if m = 0 then (0x3F800000, 0) else roundFn (ftzOf e) (rmOf e) (exp2Fn sg m ex))
  ∧ floats s (.log2 f) f no (fun e l =>
      match in32 e (srcA f) l with
      | .nan _ sg => (0x7FC00000, if sg then 1 else 0)
      | .inf sg => if sg then (0x7FC00000, 1) else (0x7F800000, 0)
      | .num sg m ex => if m = 0 then (0xFF800000, 2) else if sg then (0x7FC00000, 1) else roundFn (ftzOf e) (rmOf e) (log2Fn m ex))
  ∧ floats s (.sin f) f no (fun e l =>
      match in32 e (srcA f) l with
      | .nan _ sg => (0x7FC00000, if sg then 1 else 0)
      | .inf _ => (0x7FC00000, 1)
      | .num sg m ex => if m = 0 then (if sg then 0x80000000 else 0, 0) else roundFn (ftzOf e) (rmOf e) (sinFn sg m ex))
  ∧ floats s (.cos f) f no (fun e l =>
      match in32 e (srcA f) l with
      | .nan _ sg => (0x7FC00000, if sg then 1 else 0)
      | .inf _ => (0x7FC00000, 1)
      | .num _ m ex => if m = 0 then (0x3F800000, 0) else roundFn (ftzOf e) (rmOf e) (cosFn m ex))
  ∧ floats s (.tanh f) f no (fun e l =>
      match in32 e (srcA f) l with
      | .nan _ sg => (0x7FC00000, if sg then 1 else 0)
      | .inf sg => (if sg then 0xBF800000 else 0x3F800000, 0)
      | .num sg m ex => if m = 0 then (if sg then 0x80000000 else 0, 0) else roundFn (ftzOf e) (rmOf e) (tanhFn sg m ex))
  ∧ floats s (.cvt f) f (fun _ => decide (cvtType (f.c.toNat % 16) = .fp64)) (fun e l =>
      let dst := cvtType (f.c.toNat % 16)
      let v := readIn (ftzOf e) (cvtType (f.c.toNat / 16)) (typedSrc e (cvtType (f.c.toNat / 16)) (srcA f) l)
      let r := roundOut (ftzOf e) dst (rmOf e) v
      match v, readF dst r.1 with
      | .num sg _ _, .inf _ => if f.bmod.getLsbD 0 then (maxPattern dst sg, fNX) else r
      | _, _ => (r.1, Nat.lor r.2 (sigFlag v)))
  ∧ floats s (.cvtfi f) f no (fun e l =>
      let t := f.c.toNat
      let src : Fmt := if f.c.getLsbD 3 then .fp64 else .fp32
      let out := if f.dsp = 1 then 64 else 32
      match readIn (ftzOf e) src (typedSrc e src (srcA f) l) with
      | .nan _ _ => (0, fNV)
      | .inf sg => (wrapInt out (if sg then (intLimits t).1 else (intLimits t).2), fNV)
      | .num sg m ex =>
        let r := roundInteger (intType t).1 (intType t).2 (if t / 16 = 0 then rmOf e else t / 16 - 1) sg m ex
        (wrapInt out r.1, r.2))
  ∧ floats s (.cvtif f) f (fun _ => f.c.getLsbD 3) (fun e l =>
      let v := readInt f.c.toNat (laneA e l).toNat
      roundFinite (if f.c.getLsbD 3 then .fp64 else .fp32) (rmOf e) (decide (v < 0)) v.natAbs 0)
  ∧ (let cmp (i : Instr) (x y : Env → Nat → FVal) : Prop :=
      completesIf s i f (fun e => trapsOf e.w = 0) fun e =>
        fpfTakes e (writePred e s f.d.toNat fun l => e.act.getLsbD l && (fpCond f.c.toNat (x e l) (y e l)).1)
          ((lanesOf e.act).foldl (fun m l => Nat.lor m (fpCond f.c.toNat (x e l) (y e l)).2) 0)
    cmp (.fcmp f) (fun e => in32 e (srcA f)) (fun e => in32 e (srcB f))
    ∧ cmp (.dcmp f) (fun e => in64 e (srcA f)) (fun e => in64 e (srcB f)))

/-- R58, R56: rounding into a format leaves every value that the format holds as it is, with no flag, in every mode. -/
def Obligations.RoundingKeepsRepresentableValues : Prop :=
  ∀ (f : Fmt) (rm x : Nat), f = .bf16 ∨ f = .fp16 ∨ f = .fp32 ∨ f = .fp64 → x < 2 ^ fmtBits f →
    (∀ sg q, readF f x ≠ .nan sg q) → roundF f rm (readF f x) = (x, 0)

/-- R265: REDW combines the active lanes in the fixed tree and gives every destination the result; with no active lane it writes
nothing; its integer sum is the sum over the active lanes, wrapped. -/
def Obligations.RedwCombinesActiveLanes : Prop :=
  (∀ (s : State) (f : Fields), completesIf s (.redw f) f (fun e => e.act = 0 ∨ Nat.land (redResult e).2 (trapsOf e.w) = 0) fun e =>
    if e.act = 0 then s
    else fpfTakes e (if f.dsp = 1 then setScalar s e.who f.d.toNat (BitVec.ofNat 64 (redResult e).1)
      else writeLanes e s fun _ => BitVec.ofNat 32 (redResult e).1) (redResult e).2)
  ∧ (∀ (e : Env), e.act ≠ 0 → e.f.c = 0 → e.f.w = 0 →
    (redResult e).1 = ((lanesOf e.act).map fun l => (laneA e l).toNat).sum % 2 ^ 32)

/-! ## Load-store words -/

/-- R221 to R225: a load or store becomes an operation of the counter it names, with one access for each active lane, at the exact
integer sum of base and index, of SZ's bytes; a store carries its data from issue. R226, R229 to R232, R242: LDU, the atomics and the bound
words issue their operations. The data of an access is what its lane's registers hold at issue; where the step's inputs have the registers read later
(R30, log entry 7, the model's choice of when), `memIssued` marks the lane as not yet read. -/
def Obligations.LoadsAndStoresIssueOneAccessPerActiveLane : Prop := ∀ (s : State) (f : Fields),
  let cn := some f.amod.toNat
  let n := szBytes f.bmod.toNat
  let n2 := szBytes (szOfSz2 f.bmod.toNat)
  let at_ (e : Env) (l : Nat) : Int := ((e.p.s f.a.toNat).toNat : Int)
    + (if f.bsp = 0 then (e.w.v f.b.toNat l).toInt else if f.bsp = 1 then (e.p.s f.b.toNat).toInt else f.b.toInt)
  let accs (e : Env) (lev : Level) (n : Nat) (d : Nat → Nat) : List Access :=
    (lanesOf e.act).map fun l => ⟨l, lev, at_ e l, n, d l, 0, false, none, false⟩
  let issues (i : Instr) (cn : Option Nat) (k : Env → OpKind) (xs : Env → List Access) : Prop :=
    completesIf s i f (fun e => memRoom s e cn (k e) (xs e)) fun e => memIssued s e cn (k e) (xs e)
  issues (.ld f) cn (fun _ => .load f.d.toNat f.bmod.toNat) (fun e => accs e .g n fun _ => 0)
  ∧ issues (.st f) cn (fun _ => .store none) (fun e => accs e .g n (dataOf e n))
  ∧ issues (.lds f) cn (fun _ => .load f.d.toNat (szOfSz2 f.bmod.toNat)) (fun e => accs e (levOf e) n2 fun _ => 0)
  ∧ issues (.sts f) none (fun _ => .scratchStore) (fun e => accs e (levOf e) n2 (dataOf e n2))
  ∧ (let issues (i : Instr) (k : Env → OpKind) (xs : Env → List Access) : Prop :=
      completesIf s i f (fun e => memRoom s e cn (k e) (xs e)) fun e => memIssued s e cn (k e) (xs e)
    let one (n : Nat) (e : Env) (d : Nat) : Access := needAlign n ⟨0, .g, addrOf e 0, n, d, 0, false, none, false⟩
    let lanes (e : Env) (lev : Level) (n : Nat) (d d2 : Nat → Nat) : List Access :=
      (lanesOf e.act).map fun l => ⟨l, lev, addrOf e l, n, d l, d2 l, false, none, false⟩
    let zero : Nat → Nat := fun _ => 0
    let nb : Nat := if f.bmod = 1 then 8 else 4
    issues (.ldu f) (fun e => .loadScalar f.d.toNat e.p.pid (if f.bmod = 5 then 8 else 4))
        (fun e => if e.act = 0 then [] else [⟨0, .g, addrOf e 0, if f.bmod = 5 then 8 else 4, 0, 0, false, none, false⟩])
    ∧ issues (.atom f) (fun _ => .atomic (atomOf f.bmod.toNat).1 (some f.d.toNat))
        (fun e => lanes e .g (atomOf f.bmod.toNat).2 (dataOf e (atomOf f.bmod.toNat).2) zero)
    ∧ issues (.acas f) (fun _ => .atomic .cas (some f.d.toNat))
        (fun e => lanes e .g (acasBytes f.bmod.toNat) (dataOf e (acasBytes f.bmod.toNat))
          fun l => regsNat e.w f.d.toNat l (acasBytes f.bmod.toNat / 4))
    ∧ issues (.atoms f) (fun _ => .atomic (atomsOf f.bmod.toNat) (some f.d.toNat)) (fun e => lanes e (levOf e) 4 (dataOf e 4) zero)
    ∧ issues (.amaxu f) (fun _ => .atomic .amaxu none) (fun e => lanes e .g 4 (dataOf e 4) zero)
    ∧ issues (.amaxswap f) (fun _ => .atomic .amaxswap (some f.d.toNat)) (fun e => lanes e .g 4 zero zero)
    ∧ issues (.ldb f) (fun _ => .loadBound f.d.toNat (f.bmod == 1)) (fun e => if e.act = 0 then [] else [one nb e 0])
    ∧ issues (.stb f) (fun _ => .store none) (fun e => if e.act = 0 then [] else [one nb e ((e.w.bnd f.c.toNat).toNat % 2 ^ (8 * nb))])
    ∧ completesIf s (.lnwb f) f
        (fun e => (rangeFault (addrOf e 0) (e.p.s f.c.toNat).toNat = none ∨ e.p.s f.c.toNat = 0 ∨ e.act = 0) ∧ memRoom s e cn .lnwb [])
        (fun e => memIssued s e cn .lnwb
          (if e.act = 0 ∨ e.p.s f.c.toNat = 0 then [] else [⟨0, .g, addrOf e 0, (e.p.s f.c.toNat).toNat, 0, 0, true, none, false⟩])))

/-- R83, R234, R227: FENCE and WAITC retire once their condition holds and change nothing else; PREF only takes copies of lines,
notes lines held at home and in the MSC and translations used, and where a line now lies (R93), and changes nothing else: every copy that stood stays,
with its lease. -/
def Obligations.FencesRetireWhenCovered : Prop := ∀ (s : State) (f : Fields),
  completesIf s (.fence f) f (fun e => atBoundary s e = false ∧ fenceDone s e f.bmod.toNat = true) (fun _ => s)
  ∧ waitsIf s (.fence f) f (fun e => atBoundary s e = false ∧ fenceDone s e f.bmod.toNat = false) (fun e => standStill s e)
  ∧ completesIf s (.waitc f) f (fun e => counterOf s e.who.tid e.who.wave f.amod.toNat ≤ waitLimit e) (fun _ => s)
  ∧ waitsIf s (.waitc f) f (fun e => waitLimit e < counterOf s e.who.tid e.who.wave f.amod.toNat) (fun e => standStill s e)
  ∧ (∀ e, wordAtTurn s (.pref f) f e → ∃ t, exec (.pref f) s = .next (retired t e)
      ∧ { t with copies := s.copies, homeLines := s.homeLines, mscLines := s.mscLines, lineT := s.lineT, tlb := s.tlb, aliases := s.aliases } = s
      ∧ (s.copies.map fun y => { y with pline := 0 }) <:+ (t.copies.map fun y => { y with pline := 0 }) ∧ s.aliases <:+ t.aliases)

/-- R235 to R238: the words on held row triads. A token that fails its check is refused by ROWLD, ROWST and ROWREL whatever lanes are active, and with
no active lane ROWOPEN and ROWQ act on nothing (R42). -/
def Obligations.RowWordsComplete : Prop := ∀ (s : State) (f : Fields),
  let cn := some f.amod.toNat
  let tok (e : Env) : Word := e.p.s f.a.toNat
  let row (e : Env) (n : Nat) (d : Nat → Nat) : List Access := (lanesOf e.act).map (rowAcc e n d)
  (∀ e k, wordAtTurn s (.rowopen f) f e → e.act ≠ 0 → counterFull s e cn = false → skidFull s e = false →
      pickEntry e.t.triads ((addrOf e 0).toNat / 3072) = some k → rangeFault (addrOf e 0) 1 = none →
      ∃ t o, exec (.rowopen f) s = .next (retired t e) ∧ t.ops = s.ops ++ [o]
        ∧ o.kind = .rowOpen f.d.toNat e.p.pid k (f.bmod == 1) ∧ o.cn = cn ∧ o.phase = .issued ∧ t.mem = s.mem
        ∧ (e.who.lane = none → ∀ w, findWave t e.who.tid e.who.wave = some w → w.status = .rowOpen o.id))
  ∧ completesIf s (.rowopen f) f (fun e => e.act = 0 ∧ memRoom s e cn .none []) (fun e => memIssued s e cn .none [])
  ∧ completesIf s (.rowld f) f
      (fun e => (tokenEntry e.t (tok e)).isSome ∧ memRoom s e cn (.load f.d.toNat f.bmod.toNat) (row e (szBytes f.bmod.toNat) fun _ => 0))
      (fun e => memIssued s e cn (.load f.d.toNat f.bmod.toNat) (row e (szBytes f.bmod.toNat) fun _ => 0))
  ∧ completesIf s (.rowst f) f
      (fun e => (tokenEntry e.t (tok e)).isSome
        ∧ memRoom s e cn (.store none) (row e (szBytes f.bmod.toNat) (dataOf e (szBytes f.bmod.toNat))))
      (fun e => memIssued s e cn (.store none) (row e (szBytes f.bmod.toNat) (dataOf e (szBytes f.bmod.toNat))))
  ∧ (∀ (i : Instr), i = .rowld f ∨ i = .rowst f ∨ i = .rowrel f →
      trapsIf s i f (fun e => tokenEntry e.t (tok e) = none) (fun _ => ⟨.illegalOp, subField, 0⟩))
  ∧ waitsIf s (.rowrel f) f (fun e => (tokenEntry e.t (tok e)).isSome ∧ rowBusy s e (tokenIdx (tok e)) = true) (fun e => standStill s e)
  ∧ (∀ e x, wordAtTurn s (.rowrel f) f e → tokenEntry e.t (tok e) = some x → rowBusy s e (tokenIdx (tok e)) = false →
      ∃ t, exec (.rowrel f) s = .next (retired t e) ∧ t.mem = s.mem
        ∧ ∀ u, findTeam t e.t.tid = some u → u.triads = e.t.triads.modify (tokenIdx (tok e)) fun y =>
            { y with used := false, slot := none, gen := (y.gen + 1) % 256 })
  ∧ completesIf s (.rowq f) f (fun e => e.act = 0) (fun _ => s)
  ∧ (∀ e, wordAtTurn s (.rowq f) f e → e.act ≠ 0 → tokenEntry e.t (tok e) = none →
      exec (.rowq f) s = .next (retired (setScalar s e.who f.d.toNat 0) e))
  ∧ (∀ e x, wordAtTurn s (.rowq f) f e → e.act ≠ 0 → tokenEntry e.t (tok e) = some x → f.bmod = 0 →
      exec (.rowq f) s = .next (retired (setScalar s e.who f.d.toNat (tokenOf (tokenIdx (tok e)) x x.slot.isSome)) e))
  ∧ (∀ e x, wordAtTurn s (.rowq f) f e → e.act ≠ 0 → tokenEntry e.t (tok e) = some x → f.bmod = 1 →
      exec (.rowq f) s = .next (retired (updTeam (setScalar s e.who f.d.toNat (tokenOf (tokenIdx (tok e)) x x.slot.isSome)) e.t.tid
        fun t => { t with triads := t.triads.modify (tokenIdx (tok e)) fun y => { y with lost := false } }) e))

/-- R239 to R241, R42: an access through a jar issues once its handle passes the checks in R239's order, also with no active lane, where it accesses
nothing; a stale handle is refused before anything else, with the handle in `%xaddr`. An LDT of a jar that is not published parks its active lanes; a
handle of a jar of another Y3 waits until the record has been read (log entry 78). -/
def Obligations.JarAccessesIssue : Prop := ∀ (s : State) (f : Fields),
  let cn := some f.amod.toNat
  let n := szBytes f.bmod.toNat
  let h (e : Env) : Word := e.w.h f.a.toNat
  let jar (e : Env) : JarRec := jarFor s e.c (h e)
  let seen (e : Env) : Prop := recordSeen s e.c (h e) = true ∧ staleSub s e.c (h e) = none
  let inside (e : Env) : Prop := ∀ l ∈ lanesOf e.act, 0 ≤ indexOf e l ∧ indexOf e l + n ≤ 49152 * (jar e).len
  let reads (e : Env) : Prop := seen e ∧ isFill (h e) = false ∧ hasRight (h e) rightRead = true ∧ inside e
  let writes (e : Env) : Prop := seen e ∧ isSee (h e) = false ∧ hasRight (h e) rightWrite = true ∧ inside e
  let accs (e : Env) (d : Nat → Nat) : List Access :=
    (lanesOf e.act).map fun l => ⟨l, .g, (jar e).base + indexOf e l, n, d l, 0, false, none, false⟩
  completesIf s (.ldt f) f
      (fun e => reads e ∧ (jar e).state ≠ 3 ∧ (e.act = 0 ∨ (jar e).state ≠ 1) ∧ memRoom s e cn (.load f.d.toNat f.bmod.toNat) (accs e fun _ => 0))
      (fun e => memIssued s e cn (.load f.d.toNat f.bmod.toNat) (accs e fun _ => 0))
  ∧ completesIf s (.stf f) f
      (fun e => writes e ∧ memRoom s e cn (.store (some (handleJar (h e)))) (accs e (dataOf e n)))
      (fun e => memIssued s e cn (.store (some (handleJar (h e)))) (accs e (dataOf e n)))
  ∧ waitsIf s (.ldt f) f (fun e => e.act ≠ 0 ∧ e.who.lane = none ∧ reads e ∧ (jar e).state = 1)
      (fun e => updCur s e.who fun w => w.park (.ldt (handleJar (h e)) (handleDev (h e))) e.act)
  ∧ (∀ (sub : Nat) (i : Instr), i = .ldt f ∨ i = .stf f →
      waitsIf s i f (fun e => recordSeen s e.c (h e) = false) (fun e => standStill s e)
      ∧ trapsIf s i f (fun e => recordSeen s e.c (h e) = true ∧ staleSub s e.c (h e) = some sub) (fun e => ⟨.staleHandle, sub, h e⟩))
  ∧ trapsIf s (.ldt f) f (fun e => reads e ∧ (jar e).state = 3) (fun e => ⟨.abandonedFill, 0, h e⟩)
  ∧ trapsIf s (.ldt f) f (fun e => seen e ∧ isFill (h e) = true) (fun e => ⟨.fillCopy, 1, h e⟩)
  ∧ trapsIf s (.stf f) f (fun e => seen e ∧ (isSee (h e) = true ∨ hasRight (h e) rightWrite = false)) (fun e => ⟨.jarRights, 2, h e⟩)
/-! ## Control words -/

/-- R138, R141 to R145: transfers whose lanes all go, and loops: where the path continues, and what a call leaves. With no active lane every
transfer but RET does nothing: that is DEDUCED for LOOP and CALL, and RET, which goes whatever its lanes, is the model's choice (log entry 27). -/
def Obligations.TransfersOfAllLanes : Prop := ∀ (s : State) (f : Fields),
  let all (e : Env) : Prop := e.act ≠ 0 ∧ e.p.em &&& ~~~e.act = 0
  let near (e : Env) : Nat := codeVa (e.k.hdrVa + 8 * (f.b ++ f.c).toInt)
  let far (e : Env) : Nat := e.sw.code + 8 * (imm32 f).toNat
  let ret (e : Env) : Nat := nextHeader e - e.sw.code
  let good (v : Word) : Prop := v.toNat < 2 ^ 32 ∧ v.toNat % 8 = 0
  movesIf s (.bra f) f all (fun e => jumpTo s e.who (near e))
  ∧ movesIf s (.braFar f) f (fun e => e.act ≠ 0) (fun e => jumpTo s e.who (far e))
  ∧ movesIf s (.brx f) f (fun e => all e ∧ good (e.p.s f.a.toNat)) (fun e => jumpTo s e.who (e.sw.code + (e.p.s f.a.toNat).toNat))
  ∧ (∀ i, i = .bra f ∨ i = .braFar f ∨ i = .brx f ∨ i = .loop f ∨ i = .call f ∨ i = .icall f ∨ i = .eject f →
      completesIf s i f (fun e => e.act = 0 ∧ (i = .eject f → nearOffset f ≠ 0)) (fun _ => s))
  ∧ movesIf s (.loop f) f (fun e => e.act ≠ 0 ∧ 2 ≤ (e.p.s f.d.toNat).toNat)
      (fun e => jumpTo (setScalar s e.who f.d.toNat (e.p.s f.d.toNat - 1)) e.who (near e))
  ∧ completesIf s (.loop f) f (fun e => e.act ≠ 0 ∧ e.p.s f.d.toNat = 1) (fun e => setScalar s e.who f.d.toNat 0)
  ∧ completesIf s (.loop f) f (fun e => e.p.s f.d.toNat = 0) (fun _ => s)
  ∧ movesIf s (.call f) f (fun e => e.act ≠ 0 ∧ ret e < 2 ^ 32)
      (fun e => jumpTo (setScalar (updCur s e.who fun w => w.setLanes 58 e.p.em fun _ => BitVec.ofNat 32 (ret e)) e.who 62
        (BitVec.ofNat 64 (ret e))) e.who (far e))
  ∧ movesIf s (.ret f) f
      (fun e => good (e.p.s 62) ∧ ∀ d r, e.w.stack = d :: r → ¬(d.kind = .call ∧ d.recon = e.sw.code + (e.p.s 62).toNat))
      (fun e => jumpTo s e.who (e.sw.code + (e.p.s 62).toNat))

/-- R125, R127, R144, R147: a word that splits its wave pushes one level that reconverges where the word says, and its running path takes
over some of the lanes. -/
def Obligations.SplitsPushOneLevel : Prop := ∀ (s : State) (f : Fields) (e : Env),
  e.who.lane = none → spillFails e.t e.w.stack.length = false →
  let pushed (i : Instr) (kind : LevelKind) (recon : Nat) : Prop :=
    ∃ t, exec i s = .next (retiredMoved t e) ∧ t.mem = s.mem
      ∧ ∀ w, findWave t e.who.tid e.who.wave = some w → ∃ d, w.stack = d :: e.w.stack ∧ d.kind = kind ∧ d.recon = recon
          ∧ d.restore = e.p.em ∧ d.lid = s.fresh
  (wordAtTurn s (.bra f) f e → e.act ≠ 0 → e.p.em &&& ~~~e.act ≠ 0 → joinOfDA f ≠ 0 →
      pushed (.bra f) .join (codeVa (e.k.hdrVa + 8 * (f.d ++ f.a).toInt)))
  ∧ (wordAtTurn s (.brx f) f e → e.act ≠ 0 → e.p.em &&& ~~~e.act ≠ 0 → nearOffset f ≠ 0 → (e.p.s f.a.toNat).toNat < 2 ^ 32 →
      (e.p.s f.a.toNat).toNat % 8 = 0 → pushed (.brx f) .join (codeVa (e.k.hdrVa + 8 * (f.b ++ f.c).toInt)))
  ∧ (wordAtTurn s (.icall f) f e → e.act ≠ 0 → nextHeader e - e.sw.code < 2 ^ 32 → pushed (.icall f) .call (nextHeader e))
  ∧ (wordAtTurn s (.eject f) f e → e.act ≠ 0 → nearOffset f ≠ 0 →
      pushed (.eject f) .join (codeVa (e.k.hdrVa + 8 * (f.b ++ f.c).toInt)))

/-- R128, R146: a JOIN at whose header no level reconverges does nothing; at its own level's reconvergence the next serial path that waits runs;
with every other path there, the level is popped and `em` is restored; while continuations are still out, the wave waits. A continuation rejoins at
its own level. At the reconvergence of a deeper level it raises FIELD. -/
def Obligations.JoinReconverges : Prop := ∀ (s : State) (f : Fields),
  completesIf s (.join f) f (fun e => e.who.lane = none ∧ ∀ d, d ∈ e.w.stack → d.recon ≠ e.k.hdrVa) (fun _ => s)
  ∧ trapsIf s (.join f) f
      (fun e => e.who.lane = none ∧ ∃ d r, e.w.stack = d :: r ∧ d.recon ≠ e.k.hdrVa ∧ ∃ x, x ∈ r ∧ x.recon = e.k.hdrVa)
      (fun _ => ⟨.illegalOp, subField, 0⟩)
  ∧ (∀ e d r p more, wordAtTurn s (.join f) f e → e.who.lane = none → e.w.stack = d :: r → d.recon = e.k.hdrVa → d.pending = p :: more →
      exec (.join f) s = .next (retiredMoved
        (updCur s e.who fun w => (arrive w e.sw.code (nextHeader e)).getD w) e)
      ∧ ∃ w, arrive e.w e.sw.code (nextHeader e) = some w ∧ w.path = p
          ∧ w.stack = { d with pending := more, done := d.done ++ [donePath e.w.path] } :: r)
  ∧ (∀ e l c d r, wordAtTurn s (.join f) f e → e.who.lane = some l → (e.w.conts.find? fun x => x.lane == l) = some c →
      levelsFrom c.lid e.w.stack = d :: r → d.recon = e.k.hdrVa →
      exec (.join f) s = .next (retiredMoved (updCur s e.who fun w =>
        { w with
          conts := w.conts.filter fun x => x.lane != l
          stack := w.stack.map fun d =>
            if d.lid = c.lid then { d with joinCount := d.joinCount - 1, done := d.done ++ [donePath c.path] } else d }) e))
  ∧ (∀ e d r, wordAtTurn s (.join f) f e → e.who.lane = none → e.w.stack = d :: r → d.recon = e.k.hdrVa → d.pending = [] → d.joinCount = 0 →
      exec (.join f) s = .next (retiredMoved
        (updCur s e.who fun w => (arrive w e.sw.code (nextHeader e)).getD w) e)
      ∧ ∃ w, arrive e.w e.sw.code (nextHeader e) = some w ∧ w.stack = r ∧ w.path.em = d.restore ∧ w.path.pc = nextHeader e)
  ∧ waitsIf s (.join f) f
      (fun e => e.who.lane = none ∧ ∃ d r, e.w.stack = d :: r ∧ d.recon = e.k.hdrVa ∧ d.pending = [] ∧ d.joinCount ≠ 0)
      (fun e => updCur s e.who fun w => { w with status := .join })

/-- R148 to R152, R155: barriers, waits and yields: the wave stands at what it waits for, or goes on. The arrival that completes a BARC's count closes
the generation, and a wave that comes after it waits for the next; that, and which flags a WAITF sees (`flagsAtWait`), is the model's reading (log
entry 28). REGPUT waits while an operation still has to write a lane register of an extended block, or still to read one. The arrival is the effect of
BAR and BARC, the request that of REGGET and the wait that of WAITS: none of the four goes on in the step of its word, and the events
`barrierRelease`, `reggetGrant` and `waitsReload` take the wave on when the condition holds (O48). -/
def Obligations.WaitingWordsStopTheirWave : Prop := ∀ (s : State) (f : Fields),
  let whole (e : Env) : Prop := e.w.stack = [] ∧ e.w.conts = []
  let arrives (e : Env) (id : Nat) (n : Option Nat) : State :=
    let b := barrierOf e.t id
    let n1 := if b.arrived.isEmpty then n else b.n
    let l := if b.arrived.contains e.who.wave then b.arrived else b.arrived ++ [e.who.wave]
    let last := match n1 with | some k => decide (k ≤ l.length) | none => false
    updCur (updTeam s e.t.tid fun t => setBarrier t { b with n := n1, arrived := l, closed := b.closed || last }) e.who
      fun w => { w with status := .barrier id }
  let next (e : Env) (id : Nat) : Prop := (barrierOf e.t id).closed = true ∧ (barrierOf e.t id).arrived.contains e.who.wave = false
  let held (e : Env) : Bool := heldAtYield e.w && e.who.lane.isNone
  let goes (e : Env) : Prop := flagsAtWait s e &&& BitVec.ofNat 12 (imm16u f) = 0 ∧ held e = false
  let covered (e : Env) : Prop := atBoundary s e = false ∧ fenceDone s e 1 = true
  let count (e : Env) : Nat := (e.p.s f.a.toNat).toNat
  waitsIf s (.bar f) f (fun e => e.who.lane = none ∧ whole e ∧ covered e ∧ ¬next e 0) (fun e => arrives e 0 none)
  ∧ waitsIf s (.barc f) f
      (fun e => e.who.lane = none ∧ whole e ∧ covered e ∧ 1 ≤ f.b.toNat ∧ f.b.toNat ≤ 7 ∧ 1 ≤ count e ∧ count e ≤ 16 ∧ ¬next e f.b.toNat
        ∧ ((barrierOf e.t f.b.toNat).arrived = [] ∨ (barrierOf e.t f.b.toNat).n = some (count e)))
      (fun e => arrives e f.b.toNat (some (count e)))
  ∧ waitsIf s (.barc f) f
      (fun e => e.who.lane = none ∧ whole e ∧ covered e ∧ 1 ≤ f.b.toNat ∧ f.b.toNat ≤ 7 ∧ 1 ≤ count e ∧ count e ≤ 16 ∧ next e f.b.toNat)
      (fun e => standStill s e)
  ∧ completesIf s (.waitf f) f (fun e => imm16u f < 4096 ∧ goes e) (fun _ => s)
  ∧ waitsIf s (.waitf f) f (fun e => imm16u f < 4096 ∧ ¬goes e) (fun e => standStill s e)
  ∧ completesIf s (.sleep f) f (fun e => wakeTick s e ≤ s.now) (fun _ => s)
  ∧ waitsIf s (.sleep f) f (fun e => e.who.lane = none ∧ s.now < wakeTick s e)
      (fun e => updCur s e.who fun w => { w with status := .sleep (wakeTick s e) })
  ∧ completesIf s (.yield f) f (fun e => e.w.preq = false) (fun _ => s)
  ∧ completesIf s (.yield f) f (fun e => e.w.preq = true) (fun e => updCur s e.who fun w => { w with status := .stopped })
  ∧ waitsIf s (.regget f) f
      (fun e => e.who.lane = none ∧ whole e ∧ 1 ≤ f.b.toNat ∧ f.b.toNat ≤ 3 ∧ e.w.blocks = 0 ∧ f.b.toNat ≤ blockBudget e.w e.t.k)
      (fun e => updCur s e.who fun w => { w with status := .regget f.b.toNat })
  ∧ completesIf s (.regput f) f (fun e => whole e ∧ e.w.blocks = 0) (fun _ => s)
  ∧ completesIf s (.regput f) f (fun e => whole e ∧ e.w.blocks ≠ 0 ∧ ∀ o, o ∈ waveOps s e.who.tid e.who.wave → usesBlock o = false)
      (fun e => updCur s e.who fun w => { w with blocks := 0, lanes := Sparse.clear w.lanes 2048 6144 })
  ∧ waitsIf s (.regput f) f
      (fun e => whole e ∧ e.w.blocks ≠ 0 ∧ ∃ o, o ∈ waveOps s e.who.tid e.who.wave
        ∧ (writesBlock o = true ∨ (o.phase ≠ .complete ∧ o.unread ≠ 0 ∧ namesBlock o = true)))
      (fun e => standStill s e)
  ∧ (∀ e, wordAtTurn s (.waits f) f e → e.who.lane = none → e.act ≠ 0 → (e.p.s f.a.toNat).toNat % 8 = 0 →
      exec (.waits f) s = .next (updCur s e.who fun w =>
        { w with status := .waits (e.p.s f.a.toNat).toNat (e.p.s f.b.toNat) f.d.toNat s.now }))

/-- R129, R153, R306: EXIT ends the active lanes. When other lanes of its path are left the path goes on without them, and nothing else of the
machine changes. With none left on its path, the next serial path of its level runs, or an empty path goes to the reconvergence. With no lane left
at all the wave ends: its blocks, its stack slot and its fill handles go, and each jar still FILLING under such a handle takes its exit policy,
ABANDONED or an operation that publishes it. With no wave left the team ends: its triads and slots are free, and its sweep counts it. -/
def Obligations.ExitDropsItsLanes : Prop := ∀ (s : State) (f : Fields),
  let free (e : Env) : Prop := e.w.gr = 0 ∧ e.w.task = none
  let ends (e : Env) : Prop := free e ∧ e.act ≠ 0 ∧ (e.t.lost = none ∨ e.w.frame = none)
  let dropped (e : Env) : State := updCur s e.who fun w =>
    { w with
      alive := w.alive &&& ~~~e.act
      path := { w.path with em := w.path.em &&& ~~~e.act, mask := w.path.mask &&& ~~~e.act }
      stack := w.stack.map fun d => { d with restore := d.restore &&& ~~~e.act, outerMask := d.outerMask &&& ~~~e.act } }
  completesIf s (.exit f) f (fun e => free e ∧ e.act = 0) (fun _ => s)
  ∧ completesIf s (.exit f) f
      (fun e => ends e ∧ e.w.alive &&& ~~~e.act ≠ 0 ∧ e.w.path.mask &&& ~~~e.act ≠ 0) dropped
  ∧ movesIf s (.exit f) f (fun e => ends e ∧ e.w.alive &&& ~~~e.act ≠ 0 ∧ e.w.path.mask &&& ~~~e.act = 0)
      (fun e => updCur { dropped e with fresh := s.fresh + 1 } e.who fun w => afterEnd w e.sw.code s.fresh w.stack)
  ∧ movesIf s (.exit f) f (fun e => ends e ∧ e.w.alive &&& ~~~e.act = 0)
      (fun e => checkTeamEnd (breakGangs (endWave (dropped e) e.who.tid e.who.wave) e.who.tid e.who.wave) e.who.tid)
  ∧ trapsIf s (.exit f) f (fun e => e.w.gr = 0 ∧ e.w.task.isSome = true) (fun _ => ⟨.taskNest, 3, 0⟩)
  ∧ (∀ (w : Wave) (code pid : Nat) (d : DivLevel) (r : List DivLevel),
      (∀ p more, d.pending = p :: more → (afterEnd w code pid (d :: r)).path = p)
      ∧ (d.pending = [] → d.kind = .join → ¬(d.outerMask = 0 ∧ d.joinCount = 0) →
          (afterEnd w code pid (d :: r)).path.pc = d.recon ∧ (afterEnd w code pid (d :: r)).path.mask = 0))
  ∧ (∀ (tid ix : Nat) (w : Wave) (t : Team), findWave s tid ix = some w → findTeam s tid = some t → w.status ≠ .ended →
      (findWave (endWave s tid ix) tid ix).map (fun w => (w.status, w.blocks, w.stack, w.handles, w.path.em)) = some (.ended, 0, [], [], 0)
      ∧ (findTeam (endWave s tid ix) tid).map (·.slots) = some (t.slots.erase w.slot))
  ∧ (∀ (a : AgentRef) (w : Wave) (c : Context) (h : Word), findWave s a.tid a.wave = some w → ctxOf s c.cid = some c →
      handleKind h = 1 → handleDev h = ownDev s → (jarOf c (handleJar h)).state = 1 → (jarOf c (handleJar h)).gen = handleGen h →
      exitHandle c.cid a s h =
        if (jarOf c (handleJar h)).exit then setJar s c.cid (handleJar h) { jarOf c (handleJar h) with state := 3 }
        else pushOp s { mkOp s a w (.tdrop 0 h false) none 0 0 0 [] false .started with last := w.horizon, inTask := false })
  ∧ (∀ (tid : Nat) (t : Team), findTeam s tid = some t → t.status ≠ .ended → t.lost = none →
      (∀ w, w ∈ s.waves → w.tid = tid → w.status = .ended) →
      (findTeam (checkTeamEnd s tid) tid).map (fun t => (t.status, t.slots, t.triads.any (·.used))) = some (.ended, [], false)
      ∧ ∀ sw, sweepOf s t = some sw → (sweepOf (checkTeamEnd s tid) t).map (·.ended) = some (sw.ended + 1))

/-- R158, R159: a task begins with an empty version; it is given up with `%xtask` set; a second one, or an end without one, is
TASK_NEST. -/
def Obligations.TasksBeginAndEnd : Prop := ∀ (s : State) (f : Fields),
  let mask (e : Env) : Nat := (e.p.s f.a.toNat).toNat
  let fits (e : Env) : Prop := e.w.stack = [] ∧ e.w.conts = [] ∧ f.b.toNat < 2 ∧ mask e < 2 ^ e.t.k.acc ∧ (mask e = 0 ∨ e.w.role = .matrix)
    ∧ (f.b.getLsbD 0 = true → featOn s 5 = true)
  completesIf s (.tbegin f) f (fun e => e.w.task = none ∧ fits e ∧ atBoundary s e = false)
      (fun e => updCur s e.who fun w =>
        { w with attempt := 0
                 task := some ⟨nextHeader e - e.sw.code, f.b.getLsbD 0, e.p.s f.a.toNat, w.exact, [], [], [], [], none⟩ })
  ∧ trapsIf s (.tbegin f) f (fun e => e.w.task.isSome = true) (fun _ => ⟨.taskNest, 1, 0⟩)
  ∧ (∀ i, i = .tend f ∨ i = .tabort f → trapsIf s i f (fun e => e.w.task = none) (fun _ => ⟨.taskNest, 2, 0⟩))
  ∧ (∀ e k c, wordAtTurn s (.tend f) f e → e.w.task = some k → k.commit = some c → c < s.now →
      exec (.tend f) s = .next (retired (updCur s e.who fun w => { restoreModes w k with task := none }) e))
  ∧ (∀ e k, wordAtTurn s (.tend f) f e → e.w.task = some k → k.commit = none → taskQuiet s e.who.tid e.who.wave = true → atBoundary s e = false →
      exec (.tend f) s = .next (standStill (commitTask s e.who.tid e.who.wave k (commitTick s k)) e))
  ∧ (∀ e k, wordAtTurn s (.tabort f) f e → e.w.task = some k → atBoundary s e = false →
      exec (.tabort f) s = .next (retired (updCur (discardTask s e.w) e.who fun w =>
        { restoreModes w k with
          task := none, xtask := BitVec.ofNat 64 (2 ^ 63 + 2 ^ 48 + f.b.toNat * 2 ^ 40 + (k.start - 8) % 2 ^ 35) }) e))

/-- R7, R160, R162: die distances follow the grid; SIGNAL issues one atomic add of 8 bytes once FENCE.device is met. -/
def Obligations.DistancesAndSignals : Prop := ∀ (s : State) (f : Fields),
  let b (e : Env) : Nat := if f.bsp = 1 then (e.p.s f.b.toNat).toNat else f.b.toNat
  completes s (.diehops f) f (fun e => writeScalar e s
      (match physDie e.c (e.p.s f.a.toNat).toNat, physDie e.c (b e) with
       | some i, some j => BitVec.ofNat 64 (((i / 4 : Int) - j / 4).natAbs + ((i % 4 : Int) - j % 4).natAbs)
       | _, _ => 0xFFFFFFFFFFFFFFFF))
  ∧ completesIf s (.signal f) f
      (fun e => e.act ≠ 0 ∧ baseOf e % 8 = 0 ∧ atBoundary s e = false ∧ fenceDone s e 5 = true
        ∧ memRoom s e none (.atomic .add none) [⟨0, .g, baseOf e, 8, b e, 0, false, none, false⟩])
      (fun e => memIssued s e none (.atomic .add none) [⟨0, .g, baseOf e, 8, b e, 0, false, none, false⟩])
  ∧ trapsIf s (.signal f) f (fun e => e.act ≠ 0 ∧ baseOf e % 8 ≠ 0) (fun e => ⟨.align, 3, e.p.s f.a.toNat⟩)

/-! ## System words, traps and returns -/

/-- R161, R164 to R169, R408, R409: the system words and ENQ. `skip` is BKSKIP as it is in force (R266). TSTAMP gives the timebase, with an entry in the
queue's log; a sweep of a replay gives the logged value, or the timebase with one DIVERGED record where the log holds none. The form of an entry and
where the entry may be written are the model's (log entries 30 and 101); that TMASK and WRSYS act with no active lane is its choice (log entry 27). -/
def Obligations.SystemWordsComplete : Prop := ∀ (s : State) (f : Fields),
  let nr : Nat := 256 * f.b.toNat + f.c.toNat
  trapsIf s (.trap f) f (fun _ => True) (fun _ => ⟨.software, f.b.toNat, 0⟩)
  ∧ completesIf s (.tmask f) f (fun _ => f.b.toNat < 2)
      (fun e => updCur (writeScalar e s (if e.w.trapMask then 1 else 0)) e.who fun w => { w with trapMask := f.b.getLsbD 0 })
  ∧ completesIf s (.bkpt f) f (fun e => e.c.bken = false) (fun _ => s)
  ∧ completesIf s (.bkpt f) f (fun e => e.c.bken = true ∧ e.w.skip = true)
      (fun e => updCur s e.who fun w => { w with skip := false, xcause := w.xcause &&& ~~~0x10000 })
  ∧ trapsIf s (.bkpt f) f (fun e => e.c.bken = true ∧ e.w.skip = false) (fun _ => ⟨.breakpoint, f.b.toNat, 0⟩)
  ∧ completesIf s (.stopw f) f (fun e => e.c.bken = true) (fun e => updSweep s e.sw.ref fun w => { w with halted := true })
  ∧ completesIf s (.stopw f) f (fun e => e.c.bken = false) (fun _ => s)
  ∧ completesIf s (.tstamp f) f (fun e => findQueue s e.sw.pkt.q = none) (fun e => writeScalar e s (BitVec.ofNat 64 s.now))
  ∧ (∀ e q, wordAtTurn s (.tstamp f) f e → e.act ≠ 0 → findQueue s e.sw.pkt.q = some q → e.sw.logTag = none → logMeets s q 1 = none →
      exec (.tstamp f) s = .next (retired (writeScalar e
        (logAppend s q [LogEntry.bytes ⟨.stamp, 0, e.sw.ref.tag, e.t.teamix, e.who.wave, e.w.pf 1, s.now⟩]) (BitVec.ofNat 64 s.now)) e))
  ∧ (∀ e q tag v, wordAtTurn s (.tstamp f) f e → findQueue s e.sw.pkt.q = some q → e.sw.logTag = some tag →
      loggedStamp s q tag e.t.teamix e.who.wave (e.w.pf 1) = some v →
      exec (.tstamp f) s = .next (retired (writeScalar e s (BitVec.ofNat 64 v)) e))
  ∧ (∀ e q tag, wordAtTurn s (.tstamp f) f e → e.act ≠ 0 → findQueue s e.sw.pkt.q = some q → e.sw.logTag = some tag →
      loggedStamp s q tag e.t.teamix e.who.wave (e.w.pf 1) = none →
      exec (.tstamp f) s = .next (retired (writeScalar e (noteDiverged s e) (BitVec.ofNat 64 s.now)) e))
  ∧ (∀ e data st t, wordAtTurn s (.enq f) f e → e.act ≠ 0 → baseOf e % 48 = 0 → atBoundary s e = false → fenceDone s e 5 = true →
      enqPacket s e (baseOf e) = .ok data → submit (enqNoted s e (baseOf e) (data.length / 48)) e (e.p.s f.b.toNat).toNat data = (some st, t) →
      exec (.enq f) s = .next (retired (writeScalar e t (BitVec.ofNat 64 st)) e))
  ∧ trapsIf s (.enq f) f (fun e => e.act ≠ 0 ∧ baseOf e % 48 ≠ 0) (fun e => ⟨.align, 3, e.p.s f.a.toNat⟩)
  ∧ (∀ e x, wordAtTurn s (.rdsys f) f e → sysReg s e nr = some x → exec (.rdsys f) s = .next (retired (writeScalar e s x) e))
  ∧ trapsIf s (.rdsys f) f (fun e => sysReg s e nr = none) (fun _ => ⟨.illegalOp, subIndex, 0⟩)
  ∧ completesIf s (.wrsys f) f (fun e => nr = 0x18 ∧ ((e.p.s f.a.toNat).toNat ≤ 8 ∨ e.p.s f.a.toNat = 15))
      (fun e => updCur s e.who fun w => { w with wejt := (e.p.s f.a.toNat).toNat })
  ∧ completesIf s (.perf f) f (fun _ => f.b.toNat < 8) (fun e => writeScalar e s (BitVec.ofNat 64 (e.w.pf f.b.toNat)))
  ∧ completesIf s (.vcinv f) f
      (fun e => e.act = 0 ∨ e.p.s f.b.toNat = 0) (fun _ => s)
  ∧ completesIf s (.vcinv f) f
      (fun e => e.act ≠ 0 ∧ e.p.s f.b.toNat ≠ 0 ∧ rangeFault (e.p.s f.a.toNat).toNat (e.p.s f.b.toNat).toNat = none ∧ f.d = 0)
      (fun e => discardCode s e.c.cid (e.p.s f.a.toNat).toNat (e.p.s f.b.toNat).toNat)
  ∧ completesIf s (.vcinv f) f
      (fun e => e.act ≠ 0 ∧ e.p.s f.b.toNat ≠ 0 ∧ rangeFault (e.p.s f.a.toNat).toNat (e.p.s f.b.toNat).toNat = none ∧ f.d ≠ 0
        ∧ dirtyIn s e.c.cid (e.p.s f.a.toNat).toNat (e.p.s f.b.toNat).toNat = false)
      (fun e => discardCopies s e.c.cid (e.p.s f.a.toNat).toNat (e.p.s f.b.toNat).toNat)

/-- R170: trap entry writes the trap registers and the frame, sets the mask, empties the hold latches and continues at `%tba`; it keeps
memory, and every register of the wave that it does not name. -/
def Obligations.TrapEntrySavesTheTrapRegisters : Prop := ∀ (s : State) (a : AgentRef) (fi : FaultInfo) (ti : TrapInfo) (w : Wave) (t : Team) (sw : Sweep),
  findWave s a.tid a.wave = some w → findTeam s a.tid = some t → sweepOf s t = some sw →
  let s' := trapEntry s a fi ti
  ∃ w', findWave s' a.tid a.wave = some w'
    ∧ w'.xpc = BitVec.ofNat 64 ti.xpc ∧ w'.xaddr = fi.addr ∧ w'.xskid = BitVec.ofNat 64 ti.xskid ∧ w'.xmask = ti.xmask.zeroExtend 64
    ∧ bitsOf w'.xcause.toNat 7 0 = fi.code.num ∧ bitsOf w'.xcause.toNat 15 8 = fi.sub % 256
    ∧ w'.xcause.getLsbD 16 = w.skip
    ∧ w'.frame = some ⟨w.path.em, clauseFlags w, ti.resume, ti.replay, BitVec.ofNat 64 ti.xpc⟩
    ∧ w'.trapMask = true ∧ w'.holdA = none ∧ w'.holdB = none
    ∧ w'.path.pc = sw.code + w.tba.toNat ∧ w'.path.clause = none ∧ w'.path.em = w.path.em
    ∧ w'.lanes = w.lanes ∧ w'.preds = w.preds ∧ w'.path.scal = w.path.scal ∧ w'.tba = w.tba ∧ w'.fpm = w.fpm ∧ w'.fpf = w.fpf
    ∧ s'.mem = s.mem

/-- R164, R171: RTT outside a handler is illegal; with `%xpc` as trap entry wrote it, the wave continues at the resume point with `em`,
flags and mask restored, and with BKSKIP as `%xcause` holds it (R266). -/
def Obligations.ReturnFromTrapRestores : Prop := ∀ (s : State) (f : Fields),
  trapsIf s (.rtt f) f (fun e => e.w.frame = none) (fun _ => ⟨.illegalOp, subField, 0⟩)
  ∧ ∀ e fr, wordAtTurn s (.rtt f) f e → e.who.lane = none → e.w.frame = some fr → e.t.lost = none → e.w.xpc = fr.xpc → fr.replay = [] →
      ∃ t, exec (.rtt f) s = .next (retiredMoved t e) ∧ t.mem = s.mem
        ∧ ∀ w, findWave t e.who.tid e.who.wave = some w →
            w.trapMask = false ∧ w.frame = none ∧ w.path.em = fr.em ∧ w.path.pc = fr.resume ∧ w.skip = e.w.xcause.getLsbD 16 ∧ w.flagsHeld = fr.flags ∧ w.path.clause = none
            ∧ w.lanes = e.w.lanes ∧ w.path.scal = e.w.path.scal

/-- R173: a fault of a wave that has no handler, or already holds the trap mask, ends its team: none of its waves goes on. -/
def Obligations.UnhandledFaultEndsTheTeam : Prop := ∀ (s : State) (a : AgentRef) (fi : FaultInfo) (ti : TrapInfo) (w : Wave) (t : Team) (sw : Sweep),
  a.lane = none → findWave s a.tid a.wave = some w → findTeam s a.tid = some t → sweepOf s t = some sw →
  fi.code ≠ .breakpoint → fi.code ≠ .bound → w.trapMask = true ∨ w.tba = 0 →
  ∀ ix x, findWave (deliver s a fi ti) a.tid ix = some x → x.status = .ended

/-- R33, R357: a word that breaks a check of its form raises ILLEGAL_OP with a subcode no larger than that of the check, and writes
nothing else: the fault is delivered to the state in which the word was met, with `%xaddr` 0, or with the depth when what it reports is a spill that
fails (R127). A storage code that names no format, in an encoding that is legal otherwise, is
FORMAT CODE, before what the machine's state refuses. -/
def Obligations.IllegalFormsRaiseIllegalOp : Prop := ∀ (s : State) (i : Instr) (f : Fields) (e : Env) (sub : Nat),
  fieldsOf i = some f → envOf s i f = some e → mayIssue e.w e.who.lane = true → e.who.lane = none ∨ helperRuns i = true →
  (endsSkid i = true → faultPending s e.w e.who.lane = false) → rowWaits s e = false → firstError s e i = some sub →
  (badStorage i f = false → ∃ k x, k ≤ sub ∧ exec i s = .next (deliver s e.who ⟨.illegalOp, k, x⟩ (preciseAt e.va))
    ∧ (x = 0 ∨ (k = subField ∧ k < sub ∧ x = BitVec.ofNat 64 (e.w.stack.length + 1) ∧ spillFails e.t e.w.stack.length = true)))
  ∧ (badStorage i f = true → exec i s = .next (deliver s e.who ⟨.format, 1, 0⟩ (preciseAt e.va)))

/-! ## Matrix words -/

/-- R335, R339, R357, R361 to R367: a word on one tile or bound register has its effect at once where no earlier MAT instruction has still to finish with
the tile; otherwise the wave goes on behind it, and it has its effect at its turn, an event. One that reads or writes registers goes out in the same
way where an earlier one has, or where the step's inputs have its register work done late (R30, log entry 7: when is the model's choice).
ACCOP holds its wave until its tiles are free. ACCLD and ACCST issue an operation whose accesses are the 64 rows of the tile, at the base and
stride that they name; an ACCST with a record address adds the side record. With no active lane no memory is accessed and no scalar is written (R42).
A word's turn has come when no earlier MAT instruction of the wave has still to finish with the tile, nor waits itself; an ACCST then takes its data from
the tile as it is. -/
def Obligations.TileWordsComplete : Prop := ∀ (s : State) (f : Fields),
  let free (e : Env) (k : BitVec 8) : Prop := tileBusy s e k.toNat = false
  let now (e : Env) (k : BitVec 8) : Prop := free e k ∧ matPending s e = false ∧ s.inputs.late = false
  let goesOut (i : Instr) (k : BitVec 8) (regs : Bool) (ok : Env → Prop) (lanes : W32) (kept : Env → List Nat) : Prop :=
    completesIf s i f (fun e => ok e ∧ (¬free e k ∨ (regs = true ∧ ¬now e k))) fun e =>
      pushOp s { mkOp s e.who e.w (.matWord k.toNat false) none e.va (e.k.words.getD e.k.idx 0) (pathFlags e.p) [] true .issued with
        unread := lanes, kept := kept e }
  let row (e : Env) : Nat := if f.bsp = 1 then (e.p.s f.b.toNat).toNat else f.b.toNat
  completesIf s (.accz f) f (fun e => free e f.d)
      (fun e => updCur s e.who fun w =>
        { w with acc := Sparse.clear w.acc (4096 * f.d.toNat) 4096 }.setBnd f.d.toNat ((w.bnd f.d.toNat).extractLsb' 32 32 ++ (0 : W32)))
  ∧ completesIf s (.accmode f) f (fun e => free e f.d)
      (fun e => updCur s e.who fun w =>
        { w with exact := if f.bmod = 0 then w.exact &&& ~~~(BitVec.ofNat 64 (2 ^ f.d.toNat)) else w.exact ||| BitVec.ofNat 64 (2 ^ f.d.toNat) })
  ∧ completesIf s (.bndset f) f (fun e => now e f.d ∧ f.bmod = 0)
      (fun e => updCur s e.who fun w => w.setBnd f.d.toNat
        (canonEb ((e.p.s f.a.toNat).extractLsb' 32 32) ++ canonEb ((e.p.s f.a.toNat).extractLsb' 0 32)))
  ∧ completesIf s (.bndset f) f (fun e => now e f.d ∧ f.bmod = 1 ∧ (e.p.s f.a.toNat).toNat < 2 ^ 32)
      (fun e => updCur s e.who fun w => w.setBnd f.d.toNat
        ((w.bnd f.d.toNat).extractLsb' 32 32 ++ canonEb ((e.p.s f.a.toNat).extractLsb' 0 32)))
  ∧ completesIf s (.bndset f) f (fun e => now e f.d ∧ f.bmod = 2 ∧ (e.p.s f.a.toNat).toNat < 2 ^ 32)
      (fun e => updCur s e.who fun w => w.setBnd f.d.toNat
        (canonEb ((e.p.s f.a.toNat).extractLsb' 0 32) ++ (w.bnd f.d.toNat).extractLsb' 0 32))
  ∧ completesIf s (.bndrd f) f (fun e => e.act = 0) (fun _ => s)
  ∧ completesIf s (.bndrd f) f (fun e => e.act ≠ 0 ∧ now e f.a) (fun e => setScalar s e.who f.d.toNat (e.w.bnd f.a.toNat))
  ∧ completesIf s (.accrd f) f (fun e => row e < 64 ∧ now e f.a)
      (fun e => updCur s e.who fun w => (upto 32).foldl (fun w l => setRegs w f.d.toNat l
        (readOut f.c.toNat (e.w.el f.a.toNat (row e) l) ++ readOut f.c.toNat (e.w.el f.a.toNat (row e) (l + 32)))) w)
  ∧ goesOut (.accz f) f.d false (fun _ => True) 0 (fun _ => []) ∧ goesOut (.accmode f) f.d false (fun _ => True) 0 (fun _ => [])
  ∧ goesOut (.bndset f) f.d true (fun e => f.bmod = 0 ∨ (e.p.s f.a.toNat).toNat < 2 ^ 32) 0 (fun _ => [])
  ∧ goesOut (.bndrd f) f.a true (fun e => e.act ≠ 0) 0 (fun _ => [])
  ∧ goesOut (.accrd f) f.a true (fun e => row e < 64) 0xFFFFFFFF (fun e => [row e])
  ∧ waitsIf s (.accop f) f (fun e => ¬free e f.d ∨ ¬free e f.a ∨ matPending s e = true) (fun e => standStill s e)
  ∧ (∀ e, wordAtTurn s (.accop f) f e → free e f.d → free e f.a → matPending s e = false →
      let sc := readF .fp32 ((e.p.s f.b.toNat).toNat % 2 ^ 32)
      let el (p : Nat × Nat) := accElem f.c.toNat sc (e.w.el f.d.toNat p.1 p.2) (e.w.el f.a.toNat p.1 p.2)
      let b := accBound f.c.toNat sc (e.w.bound f.d.toNat) (e.w.bound f.a.toNat) (maxPart (places.map fun p => (el p).2))
      (b ≤ e.w.thresh f.d.toNat → exec (.accop f) s = .next (retired
          (updCur s e.who fun w => (w.setEls f.d.toNat (places.map fun p => (p, (el p).1))).setBound f.d.toNat b) e))
      ∧ (e.w.thresh f.d.toNat < b → exec (.accop f) s = .next (deliver s e.who ⟨.bound, 1, b.zeroExtend 64⟩ (preciseAt e.va))))
  ∧ completesIf s (.gangset f) f
      (fun e => gangValid s e.who.tid e.who.wave (e.p.s f.a.toNat) = true ∧ (4 < gangSize (e.p.s f.a.toNat) → featOn s 6 = true))
      (fun e => updCur s e.who fun w => { w with gr := e.p.s f.a.toNat, gangEnded := false })
  ∧ completesIf s (.gangrel f) f (fun e => e.w.gr = 0) (fun _ => s)
  ∧ completesIf s (.gangrel f) f (fun e => e.w.gr ≠ 0)
      (fun e => breakGangs (updCur s e.who fun w => { w with gr := 0, gangEnded := false }) e.who.tid e.who.wave)
  ∧ (∀ (fm : Fmt),
    let cn := some f.amod.toNat
    let goes (e : Env) (k : OpKind) (reg : Bool) (xs : List Access) : State :=
      pushOp s (mkOp s e.who e.w k cn e.va (e.k.words.getD e.k.idx 0) (pathFlags e.p) xs reg .issued)
    let issues (i : Instr) (tile : BitVec 8) (ok : Env → Prop) (k : OpKind) (load : Bool) (xs : Env → List Access) : Prop :=
      completesIf s i f (fun e => ok e ∧ e.act ≠ 0 ∧ free e tile ∧ counterFull s e cn = false) (fun e => goes e k load (xs e))
      ∧ completesIf s i f (fun e => ok e ∧ e.act ≠ 0 ∧ ¬free e tile ∧ counterFull s e cn = false)
          (fun e => goes e (.matWord tile.toNat (!load)) true (xs e))
    let lev := levelOfCode f.bmod.toNat
    let rec_ (e : Env) : Nat := (e.p.s (f.b + 1).toNat).toNat
    issues (.accld f) f.d
        (fun e => storageFmt f.c.toNat = some fm ∧ (e.p.s f.b.toNat).toNat < 2 ^ 32 ∧ tileFaults s e lev (rowBytes fm) = [])
        (.accLoad f.d.toNat f.c.toNat) true (fun e => tileAccs e lev (rowBytes fm) fun _ => 0)
    ∧ issues (.accst f) f.c
        (fun e => storageFmt f.d.toNat = some fm ∧ rec_ e % 16 = 0
          ∧ (rec_ e = 0 ∨ sideRange s e.t e.c .g (rec_ e : Nat) 16 = none) ∧ tileFaults s e lev (rowBytes fm) = [])
        (.accStore f.c.toNat) false (fun e =>
          let d := storeTile e fm (bitsOf (e.p.s f.b.toNat).toNat 63 32)
          let rows := tileAccs e lev (rowBytes fm) d.1
          if rec_ e = 0 then rows else rows ++ [⟨64 + rows.length, .g, (rec_ e : Nat), 16, d.2, 0, false, none, false⟩])
    ∧ completesIf s (.accld f) f (fun e => storageFmt f.c.toNat = some fm ∧ (e.p.s f.b.toNat).toNat < 2 ^ 32 ∧ e.act = 0 ∧ memRoom s e cn .none [])
        (fun e => memIssued s e cn .none [])
    ∧ completesIf s (.accst f) f (fun e => storageFmt f.d.toNat = some fm ∧ e.act = 0 ∧ memRoom s e cn .none []) (fun e => memIssued s e cn .none []))
  ∧ (∀ (o : Op) (k : Nat) (st : Bool) (e : Env) (lanes : W32),
    findOp s o.id = some o → o.kind = .matWord k st → o.phase = .issued → lanes ≠ 0 →
    (∀ p ∈ waveOps s o.tid o.wave, p.id < o.id → p.phase ≠ .complete → p.kind.isMatWord = false ∧ ∀ c, p.kind ≠ .accLoad k c) →
    envAgain s o lanes = some e →
    let ends (g : Wave → Wave) : Prop := exec (.loadPerform o.id lanes) s = .next (completeOp (updWave s o.tid o.wave g) o)
    let d := e.f.d.toNat
    (∀ f, e.i = .accz f → ends fun w =>
        { w with acc := Sparse.clear w.acc (4096 * d) 4096 }.setBnd d ((w.bnd d).extractLsb' 32 32 ++ (0 : W32)))
    ∧ (∀ f, e.i = .bndset f → e.f.bmod = 0 → ends fun w => w.setBnd d
        (canonEb ((e.p.s e.f.a.toNat).extractLsb' 32 32) ++ canonEb ((e.p.s e.f.a.toNat).extractLsb' 0 32)))
    ∧ (∀ f, e.i = .bndset f → e.f.bmod = 1 → ends fun w => w.setBnd d
        ((w.bnd d).extractLsb' 32 32 ++ canonEb ((e.p.s e.f.a.toNat).extractLsb' 0 32)))
    ∧ (∀ f, e.i = .bndset f → e.f.bmod = 2 → ends fun w => w.setBnd d
        (canonEb ((e.p.s e.f.a.toNat).extractLsb' 0 32) ++ (w.bnd d).extractLsb' 0 32))
    ∧ (∀ f, e.i = .accmode f → ends fun w =>
        { w with exact := if e.f.bmod = 0 then w.exact &&& ~~~(BitVec.ofNat 64 (2 ^ d)) else w.exact ||| BitVec.ofNat 64 (2 ^ d) })
    ∧ (∀ f, e.i = .accrd f →
        let read (x : Wave) : Wave := (upto 32).foldl (fun x l =>
          if (lanes &&& o.unread).getLsbD l then
            setRegs x d l (readOut e.f.c.toNat (x.el e.f.a.toNat (o.kept.headD 0) l) ++ readOut e.f.c.toNat (x.el e.f.a.toNat (o.kept.headD 0) (l + 32)))
          else x) x
        exec (.loadPerform o.id lanes) s = .next
          (if o.unread &&& ~~~lanes = 0 then completeOp (updWave s o.tid o.wave read) o
           else updOp (updWave s o.tid o.wave read) o.id fun o => { o with unread := o.unread &&& ~~~lanes }))
    ∧ (∀ f, e.i = .bndrd f → ends fun w => setPathScalar w o.pid d (w.bnd e.f.a.toNat))
    ∧ (∀ f, e.i = .accld f → exec (.loadPerform o.id lanes) s = .next (updOp s o.id fun o => { o with kind := .accLoad d e.f.c.toNat }))
    ∧ (∀ f fm, e.i = .accst f → storageFmt e.f.d.toNat = some fm →
        exec (.loadPerform o.id lanes) s = .next (updOp s o.id fun o =>
          { o with kind := .accStore e.f.c.toNat, regWork := false, accs := takeData o.accs (tileStream e fm) })))

/-- R338, R342, R359: MMA and MMAR stand at their gang's latch; once every member of the round has arrived, the latch opens, the leader's
tile and bound take the operation's result, and the words of all members retire. It does not open while a pre-emption request holds a member
at it (R183). An MMA or MMAR with no active lane does not arrive, and only retires (R42; that R42 covers the arrival is the model's choice, log
entry 27). -/
def Obligations.GangsMeetAtTheirLatch : Prop := ∀ (s : State) (f : Fields),
  (∀ (i : Instr) (q : Bool) (e : Env), (i = .mma f ∧ q = true) ∨ (i = .mmar f ∧ q = false) → wordAtTurn s i f e → e.who.lane = none →
      e.w.gangEnded = false → matPending s e = false → e.w.gr ≠ 0 → controlErrors e = false → operandsHeld e q = true →
      (slotOfWave e.w.gr e.w.ix = 0 → tileBusy s e f.d.toNat = false) →
      (e.act = 0 → exec i s = .next (retired s e)) ∧ (e.act ≠ 0 → findRound e.t e.w.ix e.w.gr = none →
      exec i s = .next (updCur (updTeam s e.t.tid fun t =>
        { t with rounds := t.rounds ++ [⟨e.w.gr, e.k.words.getD e.k.idx 0, e.w.task.isSome, [e.w.ix]⟩] }) e.who
          fun w => { w with status := .latch })))
  ∧ (∀ (tid leader : Nat) (t : Team) (r : Round) (m : MatOp) (new : List ((Nat × Nat) × BitVec 96)) (b : W32),
      findTeam s tid = some t → t.status = .placed →
      (t.rounds.find? fun r => gangSlot r.gr 0 == leader && (gangMembers r.gr).all r.arrived.contains) = some r →
      (∀ k ∈ r.arrived, ∀ w, findWave s tid k = some w → w.preq = false) → matOp s t r = some m → matResult s m = .ok (new, b) →
      exec (.rendezvousLatchExit tid leader) s = .next (r.arrived.foldl (releaseMember tid)
        (updWave (updTeam s tid fun t => { t with rounds := t.rounds.filter (· != r) }) tid leader
          fun w => (w.setEls m.f.d.toNat new).setBound m.f.d.toNat b)))
  ∧ (∀ (tid ix va t0 : Nat) (t : Team), findTeam s tid = some t → t.lost = some (ix, va, t0) → t0 + 8192 ≤ s.now →
      exec (.gangLostHandlerLimit tid) s = .next
        (endTeam (updTeam s tid fun t => { t with lost := none }) tid 1 0x22 1 ix (BitVec.ofNat 64 va) (BitVec.ofNat 64 ix) none))

/-! ## Copy-engine words -/

/-- R42, R290, R292, R318 to R320: copies enter the copy engine with the sides, rows and strides that their operands name; with no
active lane or no byte they count and do nothing. What a start reads of its registers late (R30) `copyIssued` marks (log entry 7, the model's choice of when). -/
def Obligations.CopiesEnterTheEngine : Prop := ∀ (s : State) (f : Fields),
  let size (e : Env) : Nat := if f.bsp = 1 then (e.p.s f.b.toNat).toNat else f.b.toNat
  let dst (e : Env) : Int := ((e.p.s f.d.toNat).toNat : Int)
  let src (e : Env) : Int := ((e.p.s f.a.toNat).toNat : Int)
  let x (e : Env) : Nat := (e.p.s f.b.toNat).toNat
  let y (e : Env) : Nat := (e.p.s (f.b.toNat + 1)).toNat
  let idle (e : Env) : State := lower (pushOp s (mkOp s e.who e.w .none (some f.amod.toNat) e.va (e.k.words.getD e.k.idx 0) (pathFlags e.p) [] false .complete))
  let ss (e : Env) : Int := (BitVec.ofNat 32 (y e)).toInt
  let ds (e : Env) : Int := (BitVec.ofNat 32 (y e / 2 ^ 32)).toInt
  completesIf s (.cpy f) f
      (fun e => e.act ≠ 0 ∧ 0 < size e ∧ size e < 2 ^ 32 ∧ partsFault s e (lowLevel f) (highLevel f) [⟨dst e, src e, size e⟩] = none ∧ copyRoom s e)
      (fun e => copyIssued s e (.copy (lowLevel f) (highLevel f) (dst e) (src e) 1 (size e) 0 0) false true [])
  ∧ completesIf s (.cpyt f) f
      (fun e => e.act ≠ 0 ∧ x e < 2 ^ 32 ∧ 0 < x e % 65536 ∧ 0 < x e / 65536 ∧ x e / 65536 ≤ 49152
        ∧ partsFault s e (lowLevel f) (highLevel f) (tileRows (dst e) (src e) (x e % 65536) (x e / 65536) (ds e) (ss e)) = none ∧ copyRoom s e)
      (fun e => copyIssued s e (.copy (lowLevel f) (highLevel f) (dst e) (src e) (x e % 65536) (x e / 65536) (ds e) (ss e)) false true [])
  ∧ (∀ (i : Instr) (sc : Bool), (i = .gath f ∧ sc = false) ∨ (i = .scat f ∧ sc = true) →
      completesIf s i f
        (fun e => e.act ≠ 0 ∧ 0 < x e / 2 ^ 32 ∧ x e / 2 ^ 32 ≤ 65536 ∧ x e % 2 ^ 32 % 4 = 0
          ∧ sideRange s e.t e.c .core (x e % 2 ^ 32 : Nat) (4 * (x e / 2 ^ 32)) = none ∧ copyRoom s e)
        (fun e => copyIssued s e (.gather sc (lowLevel f) (highLevel f) (dst e) (src e) (2 ^ f.bmod.toNat) (x e % 2 ^ 32) (x e / 2 ^ 32)) false true []))
  ∧ completesIf s (.cpy f) f (fun e => e.act ≠ 0 ∧ size e = 0 ∧ copyRoom s e) idle
  ∧ completesIf s (.cpyt f) f
      (fun e => e.act ≠ 0 ∧ x e < 2 ^ 32 ∧ x e / 65536 ≤ 49152 ∧ (x e % 65536 = 0 ∨ x e / 65536 = 0) ∧ copyRoom s e) idle
  ∧ (∀ i, i = .gath f ∨ i = .scat f → completesIf s i f (fun e => e.act ≠ 0 ∧ x e < 2 ^ 32 ∧ x e % 4 = 0 ∧ copyRoom s e) idle)
  ∧ (∀ i, i = .cpy f ∨ i = .cpyt f ∨ i = .gath f ∨ i = .scat f ∨ i = .qblk f ∨ i = .stgput f ∨ i = .stgget f ∨ i = .stgrel f ∨ i = .talloc f
        ∨ i = .tdrop f ∨ i = .tsend f ∨ i = .trecv f ∨ i = .coll f →
      completesIf s i f (fun e => e.act = 0 ∧ copyRoom s e) idle)

/-- R296 to R300, R321, R322: the sieve and the stage words enter the engine; STGPUT and STGGET take their fill and take numbers at
issue. QBLK's operation carries what R300 has it write: the amax of every input, the bound, and the three outputs of each vector. -/
def Obligations.SieveAndStageWordsIssue : Prop := ∀ (s : State) (f : Fields) (r : Ring),
  let ring (e : Env) : Nat := if f.bsp = 1 then (e.p.s f.b.toNat).toNat else f.b.toNat
  let good (e : Env) : Prop := e.act ≠ 0 ∧ ring e ≤ 7 ∧ 32 * (ring e + 1) ≤ e.t.k.scratch ∧ readRing s e.t (ring e) = some r ∧ ringBad e.t r = false
    ∧ copyRoom s e
  completesIf s (.stgput f) f
      (fun e => good e ∧ partsFault s e .core (lowLevel f) [⟨r.base, ((e.p.s f.a.toNat).toNat : Int), r.slot⟩] = none)
      (fun e => copyIssued (putCore s e.t (32 * ring e + 8) (leBytes 4 (r.fills + 1))) e
        (.stgPut (ring e) r.fills (lowLevel f) ((e.p.s f.a.toNat).toNat : Int)) false true [])
  ∧ completesIf s (.stgget f) f
      (fun e => good e ∧ partsFault s e (lowLevel f) .core [⟨((e.p.s f.d.toNat).toNat : Int), r.base, r.slot⟩] = none)
      (fun e => copyIssued (putCore s e.t (32 * ring e + 12) (leBytes 4 (r.takes + 1))) e
        (.stgGet (ring e) r.takes (lowLevel f) ((e.p.s f.d.toNat).toNat : Int)) false true [])
  ∧ completesIf s (.stgrel f) f good (fun e => copyIssued s e (.stgRel (ring e)) false true [])
  ∧ (∀ e bs fm, wordAtTurn s (.qblk f) f e → e.act ≠ 0 → (isDet s e.t = true → e.w.qpass = true) → (e.p.s f.a.toNat).toNat % 16 = 0 →
      sideRange s e.t e.c .core ((e.p.s f.a.toNat).toNat : Int) 32 = none → coreBytes s e.t e.w.ix (e.p.s f.a.toNat).toNat 32 = some bs → copyRoom s e →
      let d := sieveDesc bs
      d.rest = 0 → 1 ≤ d.n → d.n ≤ 4096 → 1 ≤ d.r → d.r ≤ 64 → d.rho ≤ 31 → d.inp % 4 = 0 → d.bm % 16 = 0 → d.sc % 16 = 0 → d.el % 16 = 0 →
      sieveFmt d.fmt = some fm → sieveAreas s e d fm = none →
      (∀ v < d.r, ∀ x ∈ sieveVector s e d v, x % 2 ^ 31 < 0x7F800000) →
      let rs := (upto d.r).map fun v => sieve fm d.rho (sieveVector s e d v)
      let amax := BitVec.ofNat 32 (((upto d.r).flatMap (sieveVector s e d)).foldl (fun m x => max m (x % 2 ^ 31)) 0)
      let eps := ebUp ((rs.flatMap fun r => r.scales.map (scaleBound fm)).foldl magMax (0, 0))
      exec (.qblk f) s = .next (retired (copyIssued s e (.qblk f.d.toNat e.p.pid amax eps) true true
        ((rs.zipIdx).flatMap fun q => sieveOutputs d fm q.2 q.1)) e))

/-- R302, R303, R307, R309, R324 to R329: the words on handles and collectives, where a task or a DET sweep does not refuse them. A word that reads
the record of a jar of another Y3 waits until the record has been read (log entry 78). -/
def Obligations.HandleWordsComplete : Prop := ∀ (s : State) (f : Fields),
  let h (e : Env) : Word := e.w.h f.a.toNat
  let src (e : Env) : Word := if f.asp = 3 then h e else e.p.s f.a.toNat
  let idle (e : Env) : State := lower (pushOp s (mkOp s e.who e.w .none (some f.amod.toNat) e.va (e.k.words.getD e.k.idx 0) (pathFlags e.p) [] false .complete))
  let open_ (e : Env) : Prop := e.act ≠ 0 ∧ e.w.task = none ∧ isDet s e.t = false
  let seen (e : Env) (x : Word) : Prop := recordSeen s e.c x = true ∧ staleSub s e.c x = none
  let jar (e : Env) (x : Word) : JarRec := jarFor s e.c x
  let null (e : Env) (k : Nat) (t : State) : State := updCur t e.who fun w => w.setH k 0
  let dev (e : Env) : Nat := if f.bsp = 1 then (e.p.s f.b.toNat).toNat else f.b.toNat
  completesIf s (.talloc f) f
      (fun e => e.act ≠ 0 ∧ e.w.task = none ∧ isFill (e.w.h f.d.toNat) = false ∧ isFill (e.w.h f.c.toNat) = false ∧ controlBad (e.p.s f.b.toNat).toNat = false
        ∧ (e.p.s f.a.toNat).toNat % 49152 = 0 ∧ copyRoom s e)
      (fun e => copyIssued s e (.talloc f.d.toNat f.c.toNat (e.p.s f.a.toNat) (e.p.s f.b.toNat)) true true [])
  ∧ completesIf s (.tdrop f) f
      (fun e => e.act ≠ 0 ∧ f.bmod = 0 ∧ isFill (h e) = true ∧ seen e (h e) ∧ copyRoom s e)
      (fun e => updCur (copyIssued s e (.tdrop f.a.toNat (h e) false) false true []) e.who fun w =>
        { w.setH f.a.toNat 0 with task := w.task.map fun x => { x with drops := x.drops ++ [(f.a.toNat, h e)] } })
  ∧ completesIf s (.tdrop f) f
      (fun e => e.act ≠ 0 ∧ f.bmod = 0 ∧ (h e = 0 ∨ isSee (h e) = true) ∧ copyRoom s e)
      (fun e => let t := if h e = 0 then idle e else null e f.a.toNat (idle e)
        if isDet s e.t then updCur t e.who fun w => { w with status := .quantumEnd } else t)
  ∧ completesIf s (.tdrop f) f
      (fun e => e.act ≠ 0 ∧ e.w.task = none ∧ f.bmod = 1 ∧ seen e (h e) ∧ isFill (h e) = false ∧ hasRight (h e) rightRetire = true
        ∧ (jar e (h e)).state ≠ 1 ∧ copyRoom s e)
      (fun e => null e f.a.toNat (copyIssued s e (.tdrop f.a.toNat (h e) true) false true []))
  ∧ (∀ e w, wordAtTurn s (.tcopy f) f e → e.act ≠ 0 → copyTarget s e = some w → requestBad f.b.toNat = false →
      (f.dsp = 3 → isFill (w.h f.d.toNat) = false) →
      let r := f.b.toNat
      (src e = 0 → exec (.tcopy f) s = .next (retired (putCopy s e w 0) e))
      ∧ (src e ≠ 0 → seen e (src e) → isFill (src e) = false → hasRight (src e) rightShare = true →
          (128 ≤ r → Nat.land (r % 16) (15 - handleRights (src e)) = 0) →
          exec (.tcopy f) s = .next (retired (putCopy s e w (mkHandle 2 (if 128 ≤ r then r % 16 else handleRights (src e))
            (handleJar (src e)) (handleGen (src e)) (handleDev (src e)))) e))
      ∧ (seen e (src e) → isFill (src e) = true → f.asp = 3 → f.dsp = 3 → r = 0 → sameRegister e w = false →
          exec (.tcopy f) s = .next (retired (null e f.a.toNat (putCopy s e w (src e))) e)))
  ∧ completesIf s (.tstat f) f
      (fun e => e.act ≠ 0 ∧ (f.asp = 3 → isFill (h e) = false) ∧ (handleKind (src e) = 1 ∨ handleKind (src e) = 2 → recordSeen s e.c (src e) = true))
      (fun e => setScalar s e.who f.d.toNat (if namesRecord s e.c (src e) then BitVec.ofNat 64
        (if f.bmod = 0 then jarSummary (jar e (src e)) else if f.bmod = 1 then (jar e (src e)).ptime else (jar e (src e)).base) else 0))
  ∧ completesIf s (.tsend f) f
      (fun e => open_ e ∧ dev e ≤ 255 ∧ seen e (h e) ∧ hasRight (h e) rightShare = true ∧ copyRoom s e)
      (fun e => let t := copyIssued s e (.tsend (h e) (dev e)) false false []; if isFill (h e) then null e f.a.toNat t else t)
  ∧ completesIf s (.trecv f) f (fun e => open_ e ∧ isFill (e.w.h f.d.toNat) = false ∧ copyRoom s e)
      (fun e => copyIssued s e (.trecv f.d.toNat) true false [])
  ∧ completesIf s (.coll f) f
      (fun e => open_ e ∧ (e.p.s f.b.toNat).toNat % 48 = 0 ∧ copyRoom s e)
      (fun e => copyIssued s e (.coll (e.p.s f.d.toNat).toNat (e.p.s f.a.toNat).toNat (e.p.s f.b.toNat).toNat 0) false false [])
  ∧ waitsIf s (.tsend f) f (fun e => open_ e ∧ dev e ≤ 255 ∧ recordSeen s e.c (h e) = false) (fun e => standStill s e)
  ∧ waitsIf s (.tcopy f) f
      (fun e => e.act ≠ 0 ∧ (copyTarget s e).any (fun w => !isFill (w.h f.d.toNat)) = true ∧ requestBad f.b.toNat = false ∧ src e ≠ 0
        ∧ (f.asp = 1 → isFill (src e) = false) ∧ recordSeen s e.c (src e) = false) (fun e => standStill s e)

/-! ## Events of clauses and of the memory system -/

/-- R14, R28, R33, R49 to R51: a path that stands at a header that cannot be fetched raises FETCH there; one whose clause breaks a check of R28 is
refused with ILLEGAL_CLAUSE and the subcode of the check, one whose role may not issue the clause's class raises ROLE, and one with BK set raises
BREAKPOINT under a debugger, unless BKSKIP is in force, which it clears; when it passes every check the path takes the clause whole, or stalls on its WAIT flags; once none of those it names is
raised the stalled clause starts, and at a YP header a pre-emption request stops the wave instead. `s1` keeps the words fetched, which a later fetch
may find (R169). -/
def Obligations.ClausesAreTakenOrRefused : Prop := ∀ (s : State) (a : AgentRef) (w : Wave) (k : Clause),
  s.cur = some a → findWave s a.tid a.wave = some w →
  let stands (t : Team) (p : Path) (c : Context) : Prop := findTeam s a.tid = some t ∧ w.pathOf a.lane = some p ∧ teamCtx s t = some c
    ∧ (∃ sw, sweepOf s t = some sw ∧ sw.halted = false) ∧ p.clause = none ∧ mayIssue w a.lane = true ∧ p.pc % 8 = 0 ∧ p.mid = false
  (∀ (t : Team) (p : Path) (c : Context) (sub : Nat), stands t p c → p.grp = false → codeWord s c (seatOf t) p.pc = .error sub → sub < fetchAlias →
    exec .clauseHeader s = .next (deliver s a ⟨.fetch, sub, BitVec.ofNat 64 p.pc⟩ (preciseAt p.pc)))
  ∧ (∀ (t : Team) (p : Path) (c : Context), stands t p c → fetchClause s c (seatOf t) p.pc = .ok k →
    let s1 := keepClause s c (seatOf t) k
    let h := headerOfWord k.hdr
    let passes (eng : Engine) : Prop := clauseFault k = none ∧ headerBoundary s1 a w t h = false ∧ (h.yp && w.preq) = false
      ∧ engOfCode h.eng.toNat = some eng
    (∀ sub, p.grp = false → clauseFault k = some sub →
        exec .clauseHeader s = .next (deliver s1 a ⟨.illegalClause, sub, 0⟩ (preciseAt p.pc)))
    ∧ (∀ eng, passes eng → p.grp = false → roleMay w.role eng = false →
        exec .clauseHeader s = .next (deliver s1 a ⟨.role, 0, 0⟩ (preciseAt p.pc)))
    ∧ (∀ eng, passes eng → p.grp = false → roleMay w.role eng = true → h.bk = true → c.bken = true → w.skip = false →
        exec .clauseHeader s = .next (deliver s1 a ⟨.breakpoint, 0, 0⟩ (preciseAt p.pc)))
    ∧ (∀ eng, passes eng → roleMay w.role eng = true → ((h.bk && c.bken) = false ∨ w.skip = true) → a.lane = none →
        let s2 := if h.bk && c.bken then updCur s1 a fun w => { w with skip := false, xcause := w.xcause &&& ~~~0x10000 } else s1
        let s0 := updCur s2 a fun w => { w with flagsHeld := 0 }
        (flagsOf s0 { w with flagsHeld := 0 } &&& h.wait = 0 → exec .clauseHeader s = .next (enterClause s0 a k))
        ∧ (flagsOf s0 { w with flagsHeld := 0 } &&& h.wait ≠ 0 →
            exec .clauseHeader s = .next (updCur (enterClause s0 a k) a fun w => { w with status := .flagWait }))))
  ∧ (w.status = .flagWait → w.path.clause = some k →
    let held : Bool := w.preq && (headerOfWord k.hdr).yp
    (held = false → flagsOf s w &&& (headerOfWord k.hdr).wait = 0 → exec .clauseWaitRelease s = .next (makeReady s a.tid a.wave))
    ∧ (held = false → flagsOf s w &&& (headerOfWord k.hdr).wait ≠ 0 → exec .clauseWaitRelease s = .fault .notEnabled)
    ∧ (held = true → exec .clauseWaitRelease s = .next (updCur s a fun w =>
        { w with status := .stopped, path := { w.path with pc := k.hdrVa, mid := false, clause := none } })))

/-- R126: the helper runs for a continuation the word that its own path stands at, with the continuation as the current agent, once nothing on its
core goes before it; at a word that it does not run the continuation is recalled. It completes for every word that a continuation may issue; a NOP
retires, and nothing else of the machine changes but that the continuation waits anew. -/
def Obligations.HelperRunsTheContinuationsWord : Prop := ∀ (s : State) (tid wave lane : Nat) (p : Path) (c : Clause) (x : Word) (i : Instr) (f : Fields) (e : Env),
  let s1 := { s with cur := some ⟨tid, wave, some lane⟩ }
  let answers (t : State) : Prop := exec (.helperIssue tid [(wave, lane)]) s = .next { served tid [(wave, lane)] t with cur := s.cur }
  contPath s tid (wave, lane) = some p → p.clause = some c → c.words[c.idx]? = some x → decode x = .ok i →
  helperServes s tid [(wave, lane)] = true →
  (∀ t, helperRuns i = true → exec i s1 = .next t → answers t)
  ∧ (helperRuns i = true → fieldsOf i = some f → envOf s1 i f = some e → mayIssue e.w (some lane) = true → ∃ t, exec i s1 = .next t ∧ answers t)
  ∧ (helperRuns i = false → answers (recallLane s1 ⟨tid, wave, none⟩ lane))
  ∧ (i = .nop f → wordAtTurn s1 i f e → answers (retired s1 e))

/-- R77, R202, R222, R224: a load's access inside one sector, performed, writes its lane's destination from the bytes that R77 to R80 give, and
memory is unchanged. -/
def Obligations.LoadWritesItsLane : Prop := ∀ (s : State) (id dst sz : Nat) (lanes : W32) (o : Op) (w : Wave) (t : Team) (c : Context)
    (x : Access) (pa pte : Nat),
  findOp s id = some o → o.kind = .load dst sz → opEnv s o = some (w, t, c) → (o.accs.filter fun y => lanes.getLsbD y.lane) = [x] →
  mayPerform o x = true → mustWait s o t c x = false → x.level = .g → (opOfWord o.word).toNat ≠ 0x5C → (opOfWord o.word).toNat ≠ 0x5D →
  accessFrom s c (seatOf t) x.addr x.n 0 x.n .load = .ok pa pte → x.data = 0 → x.data2 = 0 → x.addr.toNat % 48 + x.n ≤ 48 → w.status ≠ .ended →
  let v := leNat ((upto x.n).map fun i => loadByte s o w t x (x.addr.toNat + i) (pa + i) (isNormal pte (pa / 49152)))
  ∃ s', exec (.loadPerform id lanes) s = .next s' ∧ s'.mem = s.mem
    ∧ ∀ w', findWave s' o.tid o.wave = some w' → w'.lanes = (setRegs w dst x.lane (extendLoad sz v)).lanes ∧ w'.preds = w.preds ∧ w'.path = w.path

/-- R78, R79, R81, R225, R228: a store's access inside one sector reaches its home with a completion time that is not before now, later than that of
every earlier store to the line, and, on a line that takes leases, not before the end of any live one; memory itself changes when that time comes. A
scratchpad store's access puts its bytes into the storage at once. -/
def Obligations.StoresReachTheirHome : Prop := ∀ (s : State) (id : Nat) (lanes : W32) (o : Op) (w : Wave) (t : Team) (c : Context)
    (x : Access),
  findOp s id = some o → opEnv s o = some (w, t, c) → (o.accs.filter fun y => lanes.getLsbD y.lane) = [x] → mayPerform o x = true →
  mustWait s o t c x = false → (opOfWord o.word).toNat ≠ 0x5C → (opOfWord o.word).toNat ≠ 0x5D → isDet s t = false →
  (∀ (pa pte : Nat) (jar : Option Nat), o.kind = .store jar → x.level = .g → accessFrom s c (seatOf t) x.addr x.n 0 x.n .store = .ok pa pte →
    o.inTask = false → x.data2 = 0 → 0 < x.n → x.addr.toNat % 48 + x.n ≤ 48 → (isNormal pte (pa / 49152) = true → l1Ahead s o t x = false) →
    let core : Option Nat := if isNormal pte (pa / 49152) then some (seatOf t) else none
    ∃ s' tt, exec (.storeAtHome id lanes) s = .next s' ∧ s'.mem = s.mem
      ∧ s'.homeStores = s.homeStores ++ [⟨o.id, core, none, tt, pa, leBytes x.n x.data⟩]
      ∧ s.now ≤ tt ∧ Sparse.get 0 s.lineT (pa / 192) ≤ tt
      ∧ (isNormal pte (pa / 49152) = true → isHeld s (192 * (pa / 192)) = false →
          ∀ y ∈ s.copies, y.pline = pa / 192 → s.now < y.expiry → y.expiry ≤ tt))
  ∧ (∀ (ps : List ScrPlace), o.kind = .scratchStore → x.level ≠ .g → levelBytes s t o.wave x.lane x.level x.addr x.n = .ok ps →
    ∃ s', exec (.storeAtHome id lanes) s = .next s' ∧ s'.mem = s.mem
      ∧ s'.scratch = (scrPuts s ps (leBytes x.n x.data)).scratch ∧ s'.diePad = (scrPuts s ps (leBytes x.n x.data)).diePad)

/-- R87, R229 to R231: an atomic outside a task and a DET sweep reads the bytes as every store at home leaves them and sends its new value
home in the same step; one whose comparison fails writes nothing. -/
def Obligations.AtomicsReadAndStoreInOneStep : Prop := ∀ (s : State) (id : Nat) (lanes : W32) (o : Op) (w : Wave) (t : Team) (c : Context)
    (x : Access) (pa pte : Nat) (fn : AtomFn) (dst : Option Nat),
  findOp s id = some o → o.kind = .atomic fn dst → opEnv s o = some (w, t, c) → (o.accs.filter fun y => lanes.getLsbD y.lane) = [x] →
  mayPerform o x = true → detHolds t o x.lane = false → mustWait s o t c x = false → l1Ahead s o t x = false → x.level = .g →
  accessFrom s c (seatOf t) x.addr x.n 0 x.n .atomic = .ok pa pte → (pgnHost (pa / 49152) = true → hostAtom fn x.n = true) → isDet s t = false →
  o.inTask = false → 0 < x.n → pa % 48 + x.n ≤ 48 →
  let old := leNat ((upto x.n).map fun i => homeByte s (pa + i))
  ∃ s', exec (.atomicPerform id lanes) s = .next s' ∧ s'.mem = s.mem
    ∧ (∀ v, atomNew fn x.n old x.data x.data2 = some v →
        ∃ tt, s.now ≤ tt ∧ s'.homeStores = s.homeStores ++ [⟨o.id, none, none, tt, pa, leBytes x.n v⟩])
    ∧ (atomNew fn x.n old x.data x.data2 = none → s'.homeStores = s.homeStores)

/-- R85, R211, R235, R243: an operation completes once the time has passed the largest completion time of its stores; what an LNWB has written back
is clean from then on; a ROWOPEN with hold
returns once the leases on its triad have run out. -/
def Obligations.OperationsCompleteInTime : Prop := ∀ (s : State) (id : Nat) (o : Op), findOp s id = some o →
  (o.kind.stores = true ∨ o.kind.isAtomic = true → canComplete s o = true → exec (.storeCompletion id) s = .next (completeOp s o))
  ∧ (o.kind = .lnwb → canComplete s o = true → exec (.storeCompletion id) s = .next (completeOp (cleanRange s o) o)
      ∧ ∀ x w t c, o.accs.head? = some x → opEnv s o = some (w, t, c) → ∀ y ∈ (cleanRange s o).homeLines,
          writtenBack s c x.addr.toNat x.n y.pline = true → y.dirty = false)
  ∧ (s.now < o.last → exec (.storeCompletion id) s = .fault .notEnabled)
  ∧ (∀ dst pid k x w t c y pa pte, o.kind = .rowOpen dst pid k true → o.accs.head? = some x → opEnv s o = some (w, t, c) →
      t.triads[k]? = some y → plainAccess s c x.addr 1 .load = .ok pa pte → o.phase = .started → o.last ≤ s.now → y.slot.isSome = true →
      rowsBusy s y.socket (stackTriadOf pa) = false →
      exec (.leaseExpiry id) s = .next (finishRow (openRows s y.socket (stackTriadOf pa)) o)
      ∧ (openRows s y.socket (stackTriadOf pa)).holds = s.holds.map fun h =>
          if h.socket == y.socket && h.stackTriad == stackTriadOf pa then { h with isOpen := true } else h)

/-- R88, R290, R296 to R313: what the copy engine's operations do when they start and when they complete; a jar that is
published passes from FILLING to FILLED, at the tick of the commit under DET and at the present one outside, and no other field of its record
changes; a sent handle is on its way before its mailbox has room. -/
def Obligations.CopyEngineStepsRun : Prop := ∀ (s : State) (id : Nat) (o : Op), findOp s id = some o →
  (o.kind.isCopy = true → mayStart s o = true → exec (.copyOperationStart id) s = .next (startOp s o))
  ∧ (∀ dl sl dst src rows n ds ss, o.kind = .copy dl sl dst src rows n ds ss → findTeam s o.tid ≠ none → o.phase = .started → o.over = true →
      o.inTask = false → o.last ≤ s.now → exec (.copyOperationComplete id) s = .next (finishCopy s id))
  ∧ (∀ k h, o.kind = .tdrop k h false → o.phase = .started → o.over = true → dropReady s o h = true → publishTick s o ≤ s.now →
      (∀ t, findTeam s o.tid = some t → isDet s t = true → commitTurn s t.sweep o = true) →
      exec (.copyOperationComplete id) s = .next (publishJar s o h))
  ∧ (∀ k n sl src r, o.kind = .stgPut k n sl src → waitingRing s o k = some r → slotFree r n = true →
      exec (.stageSlotFree id) s = .next (moveParts s o false .core sl [⟨r.base + n % r.nslot * r.slot, src, r.slot⟩]))
  ∧ (∀ k m dl dst r, o.kind = .stgGet k m dl dst → waitingRing s o k = some r → phaseShows r m = true →
      exec (.stagePhaseReady id) s = .next (moveParts s o false dl .core [⟨dst, r.base + m % r.nslot * r.slot, r.slot⟩]))
  ∧ (∀ h dev w t c, o.kind = .tsend h dev → opEnv s o = some (w, t, c) → o.phase = .started → isFill h = false → dev = ownDev s →
      c.mailbox.length < 256 → exec (.mailboxDeposit id) s = .next
        (finishCopy (updCtx (leaveJar s o c h dev) c.cid fun c => { c with mailbox := c.mailbox ++ [h] }) id))
  ∧ (∀ h dev w t c, o.kind = .tsend h dev → opEnv s o = some (w, t, c) → o.phase = .started → isFill h = false → o.kept = [] →
      (dev = ownDev s ∧ 256 ≤ c.mailbox.length) ∨ (dev ≠ ownDev s ∧ sendAnswer s o dev = none) →
      exec (.mailboxDeposit id) s = .next (updOp s id fun o => { o with kept := [1] }))
  ∧ (∀ h dev w t c, o.kind = .tsend h dev → opEnv s o = some (w, t, c) → o.phase = .started → isFill h = false → dev ≠ ownDev s →
      sendAnswer s o dev = some true → exec (.mailboxDeposit id) s = .next (finishCopy (leaveJar s o c h dev) id))
  ∧ (∀ dst src rec_ round w t c g rank peers, o.kind = .coll dst src rec_ round → opEnv s o = some (w, t, c) →
      g = groupRec ((o.kept.take 48).map (BitVec.ofNat 8)) → (o.kept.drop 48).findIdx? (· == ownDev s) = some rank → o.phase = .started →
      o.over = false → 48 < o.kept.length → collLost s o = false → t.status ≠ .saved → peersFit g rank peers = true → (∀ p ∈ peers, p.agrees = true) →
      exec (.collRound id peers) s = .next (runRound s o w t c dst src g peers rank))
  ∧ (∀ (h : Word) (w : Wave) (t : Team) (c c' : Context), opEnv s o = some (w, t, c) → ctxOf s c.cid ≠ none →
      isRemote s h = false → (jarOf c (handleJar h)).state = 1 → (jarOf c (handleJar h)).gen = handleGen h → ctxOf (publishJar s o h) c.cid = some c' →
      jarOf c' (handleJar h) = { jarOf c (handleJar h) with state := 2, ptime := (o.kept.head?).getD s.now })

/-! ## Events of waves, of faults and of the stacks -/

/-- R128, R148, R149, R151, R155, R163, R305: a wait ends when what it waits for has come, and not before; a pre-emption request
holds the wave at the yield point where it waits (R183). -/
def Obligations.WaitsEndWhenTheirConditionHolds : Prop := ∀ (s : State) (tid ix : Nat) (w : Wave) (t : Team),
  findWave s tid ix = some w → findTeam s tid = some t →
  (∀ tk, w.status = .sleep tk →
      (tk ≤ s.now → t.status = .placed → w.preq = false → exec (.sleepWake tid ix) s = .next (makeReady (finishWait s ⟨tid, ix, none⟩) tid ix))
      ∧ (s.now < tk ∨ w.preq = true → exec (.sleepWake tid ix) s = .fault .notEnabled))
  ∧ (∀ j d c st, w.status = .ldt j d → teamCtx s t = some c → jarState s c d j = some st →
      (st ≠ 1 → w.preq = false → waitingLdt s tid ix = none → exec (.ldtRelease tid ix) s = .next (makeReady s tid ix))
      ∧ (st = 1 ∨ w.preq = true → exec (.ldtRelease tid ix) s = .fault .notEnabled))
  ∧ (∀ j c, teamCtx s t = some c → jarState s c (ownDev s) j = some (jarOf c j).state)
  ∧ (∀ n, w.status = .regget n → w.preq = false → (∀ x ∈ s.waves, grantedFirst s t w x = false) →
      exec (.reggetGrant tid ix) s = .next (makeReady (finishWait
        (updWave s tid ix fun w => { w with blocks := n, lanes := Sparse.clear w.lanes 2048 6144 }) ⟨tid, ix, none⟩) tid ix))
  ∧ (∀ e w', w.status = .join → w.preq = false → waitEnv s tid ix = some e → arrive w e.sw.code (nextHeader e) = some w' →
      exec (.joinRelease tid ix) s = .next (updWave (retireMoved
        (updCur (updWave s tid ix fun _ => { w' with status := .running }) e.who fun w => w.count 2 1) e.who) tid ix fun w => { w with favoured := true }))
  ∧ (∀ e va v dst last pa pte, w.status = .waits va v dst last → w.preq = false → waitEnv s tid ix = some e → dst ≠ 64 →
      accessFrom s e.c (seatOf e.t) va 8 0 8 .load = .ok pa pte →
      let o := mkOp s e.who w (.load 0 5) none e.va 0 0 [] false .issued
      let x := leNat ((upto 8).map fun i => loadByte s o w e.t (accOf 0 .g va 8 0 0) (va + i) (pa + i) (isNormal pte (pa / 49152)))
      let s1 := grantCopies (noteAccess s e.c (seatOf e.t) va pa pte .load) e.c e.t.die e.t.core va pa pte
      (v.toNat ≤ x → exec (.waitsReload tid ix) s = .next (updCur (setScalar s1 e.who dst (BitVec.ofNat 64 x)) e.who
          fun w => { w with status := .waits va v 64 s.now }))
      ∧ (x < v.toNat → exec (.waitsReload tid ix) s = .next (updCur s1 e.who fun w => { w with status := .waits va v dst s.now })))
  ∧ (∀ id, barrierFull s t (barrierOf t id) = true → t.preempt = none →
      exec (.barrierRelease tid id) s = .next ((barrierOf t id).arrived.foldl (releaseWave tid id)
        (updTeam s tid fun t => setBarrier t { barrierOf t id with arrived := [], n := none, gen := (barrierOf t id).gen + 1, closed := false })))
  ∧ (∀ id, barrierFull s t (barrierOf t id) = false ∨ t.preempt.isSome = true → exec (.barrierRelease tid id) s = .fault .notEnabled)

/-- R126, R170, R175 to R177: a wave with a faulted operation parks while a driver's answer is outstanding, with the lanes that the oldest left unfinished in
`%xmask`; otherwise, once everything it issued has completed or faulted, the fault of its oldest faulted operation is delivered with the faulted
operations as the replay set. A continuation whose operation faulted is recalled first, and its fault waits until its serial path runs. -/
def Obligations.ImpreciseFaultsParkOrTrap : Prop := ∀ (s : State) (tid ix : Nat) (w : Wave) (o : Op) (fi : FaultInfo) (all fs : List Op),
  findWave s tid ix = some w → mayTrap w = true →
  ((waveOps s tid ix).filter fun o => o.phase = .faulted && !(o.kind.parksAlone && opPending s o.id)) = all →
  (∀ l, faultedLane w all = some l → exec (.impreciseFaultDelivery tid ix) s = .next (recallLane s ⟨tid, ix, none⟩ l))
  ∧ (faultedLane w all = none → (all.filter fun o => !waitsItsTurn w o) = o :: fs →
    ((∃ p ∈ o :: fs, opPending s p.id = true) → mayPark w = true →
        exec (.impreciseFaultDelivery tid ix) s = .next (updWave s tid ix fun w => (unstart w).park .parked (unfinished o)))
    ∧ ((∀ p ∈ o :: fs, opPending s p.id = false) → (∀ p ∈ waveOps s tid ix, waitsItsTurn w p = true ∨ opSettled s p = true) →
        (o.accs.find? fun x => x.fault.isSome).bind (·.fault) = some fi →
        ∃ t, exec (.impreciseFaultDelivery tid ix) s = .next t
          ∧ t.waves = (deliver (leaveRounds s w.tid w.ix) ⟨w.tid, w.ix, none⟩ fi
              ⟨o.xpc, w.retired - o.retiredAt, unfinished o, w.resumeVa, (o :: fs).map (·.id)⟩).waves))

/-- R183 to R185: a pre-emption request reaches every live wave of a placed team; a wave whose deadline has run out stops, and one that
runs its handler with the mask set, which suspends the deadline, when its allowance has. -/
def Obligations.PreemptionStopsWaves : Prop := ∀ (s : State) (tid : Nat) (t : Team) (sw : Sweep) (abort : Bool),
  findTeam s tid = some t → sweepOf s t = some sw →
  (t.status = .placed → t.preempt = none → s.update = none →
      exec (.preemptRequest tid abort) s = .next
        (let s1 := updTeam s tid fun t => { t with preempt := some ⟨abort, s.now⟩ }
         { s1 with waves := s.waves.map fun w =>
            if w.tid = tid ∧ w.status ≠ .ended then { w with preq := true, deadline := some sw.pdl, allowance := 8192 } else w }))
  ∧ (∀ ix w, findWave s tid ix = some w → w.preq = true → w.status = .running →
      (inHandler w = false → w.deadline = some 0 →
        exec (.preemptDeadline tid ix) s = .next (updWave s tid ix fun w => { unstart w with status := .stopped }))
      ∧ (inHandler w = true → w.allowance = 0 →
        exec (.handlerAllowance tid ix) s = .next (updWave s tid ix fun w => { unstart w with status := .stopped }))
      ∧ (inHandler w = true → exec (.preemptDeadline tid ix) s = .fault .notEnabled))

/-- R213, R214, R218: a held triad closes for a request that has waited, and for refresh at a debt of 8; a refresh that falls due raises the debt of a
pseudo-channel that is followed by 1, and one performed lowers it by 1; a released extent keeps no copy and no held triad. That a release waits for
the stores that have their home in the extent, and that a forced one drops them, is the model's choice (log entry 31). -/
def Obligations.StacksYieldRefreshAndRelease : Prop := ∀ (s : State) (socket channel : Nat),
  let listed (s : State) : Option RefreshState := s.refresh.find? fun r => r.socket == socket && r.channel == channel
  (∀ bank, let p (h : HoldSlot) : Bool := h.socket == socket && triadBank h.stackTriad == bank && (triadChannels h.stackTriad).contains channel
      (∃ h ∈ s.holds, h.isOpen = true ∧ p h = true ∧ ((socket, channel, bank) ∈ s.inputs.rowWait ∨ (∃ o ∈ s.ops, waitsForRow s h o = true)
        ∨ ∃ u ∈ s.teams, restoreWaits s h u = true)) →
      ∃ t, exec (.holdYield socket channel bank) s = .next t ∧ t.mem = s.mem ∧ (∀ h ∈ t.holds, p h = true → h.isOpen = false)
        ∧ t.holds.length = s.holds.length)
  ∧ (dueNow s socket channel = true →
      ∃ t, exec (.refreshDue socket channel) s = .next t ∧ t.mem = s.mem
        ∧ (∀ r, listed s = some r → (refreshOf t socket channel).debt = r.debt + 1)
        ∧ (∀ r, listed s = some r → 8 ≤ r.debt + 1 → ∀ h ∈ t.holds, h.socket = socket → channel ∈ triadChannels h.stackTriad → h.isOpen = false))
  ∧ (∀ r, listed s = some r → refreshing s socket channel = true → r.busyUntil ≤ s.now →
      exec (.refreshPerformed socket channel) s = .next (setRefresh s { r with
        debt := r.debt - 1, running := r.running - 1
        busyUntil := if 1 < r.running ∨ 1 < r.debt then s.now + 52 else r.busyUntil }))
  ∧ (∀ port base count, port < 2 → 0 < count →
      ((∀ h ∈ s.homeStores, inExtent port base count (h.pa / 49152) = false) →
        ∃ t, exec (.extentRelease port base count) s = .next t ∧ (port, base, count, false) ∈ t.extents
          ∧ (∀ y ∈ t.copies, inExtent port base count (y.pline / 256) = false) ∧ (∀ h ∈ t.holds, inExtent port base count h.pgn = false) ∧ t.mem = s.mem)
      ∧ (∃ t, exec (.forcedExtentRelease port base count) s = .next t ∧ (port, base, count, true) ∈ t.extents
          ∧ (∀ y ∈ t.copies, inExtent port base count (y.pline / 256) = false) ∧ (∀ h ∈ t.holds, inExtent port base count h.pgn = false)
          ∧ (∀ h ∈ t.homeStores, inExtent port base count (h.pa / 49152) = false) ∧ t.mem = s.mem))

/-! ## Packets -/

/-- R399 to R403, R408, R409, R216: what the packets of one sector do when they start, with no page fault on what they name: a NOP
completes; a COPY moves its bytes; WAIT and FENCE complete when their word is at least V, and else are held; a SIGNAL adds V; an INDIRECT
makes its buffer the next thing read; a MIGRATE is sent, whether its entry is malformed being decided at the home (R217); a capture starts and
stops; a replay makes its log the next thing read. The translations used are noted (R207). The bytes of a log, and with them what a capture writes
and what a replay finds, are the model's choice (log entry 30). -/
def Obligations.PacketsTakeEffect : Prop := ∀ (s : State) (p : PktRef),
  let start (q : Queue) (r : RawPkt) : State := startPkt s q r 0 false
  packetRuns s (.nopPacket p) p (fun _ _ => True) (fun q r => completePkt (start q r) p)
  ∧ (∀ b, packetRuns s (.copyPacket p b) p (fun _ _ => b.n = 0) (fun q r => completePkt (start q r) p))
  ∧ (∀ b, packetRuns s (.copyPacket p b) p
      (fun q _ => b.n ≠ 0 ∧ reached s q b.src.toNat b.n.toNat .load ∧ reached s q b.dst.toNat b.n.toNat .store)
      (fun q r => let x := putSpan (start q r) q b.dst.toNat (getSpan s q b.src.toNat b.n.toNat) s.now
        spanNoted (spanNoted (dueAt x.1 r.ref x.2) q b.dst.toNat b.n.toNat .store) q b.src.toNat b.n.toNat .load))
  ∧ (∀ i b pa pte, i = .waitPacket p b ∨ (i = .fencePacket p b ∧ b.va ≠ 0) → b.va.toNat % 8 = 0 →
      packetRuns s i p (fun q _ => queueAddr s q b.va.toNat 8 .load = .ok pa pte) (fun q r =>
        let held := updStarted (startPkt (queueNoted s q b.va.toNat 8 .load) q r 0 false) r.ref fun e => { e with va := b.va.toNat, v := b.v }
        if b.v.toNat ≤ memNat s.mem pa 8 then completePkt held r.ref else held))
  ∧ (∀ b, b.va = 0 → packetRuns s (.fencePacket p b) p (fun _ _ => True) (fun q r => completePkt (start q r) p))
  ∧ (∀ b pa pte, b.va.toNat % 8 = 0 → packetRuns s (.signalPacket p b) p
      (fun q _ => queueAddr s q b.va.toNat 8 .atomic = .ok pa pte)
      (fun q r =>
        let s1 := queueLeave (noteQueueAlias (start q r) q b.va.toNat pa pte) q b.va.toNat pa pte
        let x := storeAfter s1 pa (leBytes 8 (homeNat s1 pa 8 + b.v.toNat)) s.now
        updStarted x.1 p fun e => { e with va := b.va.toNat, v := b.v, due := some x.2 }))
  ∧ (∀ b, b.va.toNat % 192 = 0 → 1 ≤ b.nline.toNat → b.nline.toNat ≤ 4096 → packetRuns s (.indirect p b) p (fun _ _ => True)
      (fun q r => updQueue (start q r) q.q fun x => { x with readers := ⟨p.seq, b.va.toNat, b.va.toNat + 192 * b.nline.toNat, false, []⟩ :: x.readers }))
  ∧ (∀ b pte pgn entry, b.va.toNat % 49152 = 0 → packetRuns s (.migrate p b) p
      (fun q _ => ∃ c, queueCtx s q = some c ∧ targetBad c b.target = false ∧ rangeFault b.va.toNat 1 = none
        ∧ (translate s c (b.va.toNat / 49152) = .leaf pte pgn entry ∨ translate s c (b.va.toNat / 49152) = .malformed pte) ∧ bitsOf pte 54 53 = 0)
      (fun q r => updStarted (start q r) p fun e => { e with va := b.va.toNat, v := b.target.zeroExtend 64, last := r.time }))
  ∧ (∀ b pte pgn entry, b.va.toNat % 49152 = 0 → packetRuns s (.migrate p b) p
      (fun q _ => ∃ c, queueCtx s q = some c ∧ targetBad c b.target = false ∧ rangeFault b.va.toNat 1 = none
        ∧ (translate s c (b.va.toNat / 49152) = .leaf pte pgn entry ∨ translate s c (b.va.toNat / 49152) = .malformed pte) ∧ bitsOf pte 54 53 ≠ 0)
      (fun q r => failHead s q r Code.page.num 5 b.va.toNat))
  ∧ (∀ b, b.op = 0 → b.log.toNat % 192 = 0 → b.nreg.toNat ≤ 64 →
      let n := b.nreg.toNat
      packetRuns s (.capture p b) p
        (fun q _ => q.capture = none ∧ reached s q b.rtab.toNat (16 * n) .load
          ∧ regionsSpan s q (regionsOf (getSpan s q b.rtab.toNat (16 * n)) n) = .ok ∧ reached s q b.log.toNat (min b.logsz.toNat (48 * (n + 2))) .store)
        (fun q r => spanNoted (spanNoted (startCapture s q r b (regionsOf (getSpan s q b.rtab.toNat (16 * n)) n))
          q b.log.toNat (min b.logsz.toNat (48 * (n + 2))) .store) q b.rtab.toNat (16 * n) .load))
  ∧ (∀ b va size used, b.op = 1 → b.log.toNat % 192 = 0 → b.nreg.toNat ≤ 64 →
      packetRuns s (.capture p b) p (fun q _ => q.capture = some (va, size, used) ∧ reached s q (va + used) 48 .store)
        (fun q r => spanNoted (stopCapture s q r va used) q (va + used) 48 .store))
  ∧ (∀ b rs, b.log.toNat % 192 = 0 → packetRuns s (.replay p b) p
      (fun q _ => scanLog s q (b.logsz.toNat / 48) 0 0 b.log.toNat [] false = .found rs false
        ∧ regionsSpan s q (rs.map fun x => (x.1, x.2.1)) = .ok ∧ ∀ x ∈ rs, (Config.sha3 (getSpan s q x.1 x.2.1)).toNat = x.2.2)
      (fun q r => updQueue (start q r) q.q fun x =>
        { x with readers := ⟨r.ref.seq, b.log.toNat, b.log.toNat + b.logsz.toNat, true, []⟩ :: x.readers
                 replay := some (b.log.toNat, b.logsz.toNat, 0) }))

/-- R372, R373, R382, R401, R405 to R407: SWEEP admits its sweep; RESUME restarts the stopped rakes of the sweep it names; a GRAPH whose table
is good starts its entry nodes; a node that is over lowers its successors; NOTIFY posts; a ring with room is posted to again; a held word
is loaded again. -/
def Obligations.SweepsGraphsAndNotifies : Prop := ∀ (s : State) (p : PktRef),
  (∀ b ka da kp dp, packetRuns s (.sweep p b) p
      (fun q _ => ∃ c, queueCtx s q = some c ∧ sweepBad p b = false ∧ b.rows.toNat ≤ q.rowsmax ∧ (b.flags.getLsbD 0 = true → featOn s 12 = true)
        ∧ queueAddr s q b.kinfo.toNat 48 .load = .ok ka kp ∧ queueAddr s q b.desc.toNat 192 .load = .ok da dp
        ∧ kinfoBad (bytesAt s.mem ka 48) = false ∧ descBad (bytesAt s.mem da 192) = false
        ∧ (descOf (bytesAt s.mem da 192)).plot + 48 * (descOf (bytesAt s.mem da 192)).nplot ≤ Config.vaTop
        ∧ footprint (kinfoOf (bytesAt s.mem ka 48)) true ≤ 524288)
      (fun q r => match queueCtx s q with
        | some c => admitSweep (queueNoted (queueNoted s q b.kinfo.toNat 48 .load) q b.desc.toNat 192 .load) q r c b (b.flags.getLsbD 0 || r.logTag.isSome) (kinfoOf (bytesAt s.mem ka 48)) (descOf (bytesAt s.mem da 192))
        | none => s))
  ∧ (∀ b, b.skip.toNat ≤ 1 →
      let named (q : Queue) (w : Sweep) : Bool := !q.admin && w.ref.cid == q.q.cid && w.ref.tag == b.tag.toNat && !w.finished
      packetRuns s (.resume p b) p (fun q _ => s.sweeps.any (named q) = true) (fun q r =>
        let s1 := startPkt s q r 0 false
        completePkt { s1 with sweeps := s1.sweeps.map fun w => if named q w then { w with rakes := w.rakes.map (resumeRake (b.skip == 1)) } else w } p))
  ∧ (∀ b g t, graphBad p b = false → findGraph s p.q p.seq = none → packetRuns s (.graph p b) p
      (fun q r => readTable q r b.nnode.toNat (b.nnode.toNat + 1)
          { s with graphs := s.graphs ++ [⟨p, b.nodes.toNat, b.nnode.toNat, b.maxarm.toNat, b.stat.toNat, true, [], 0, false, false, false, r.logTag⟩] } = (false, t)
        ∧ findGraph t p.q p.seq = some g ∧ (∀ n ∈ g.nodes, n.kind ≠ 0xFF) ∧ tableBad g.nodes = false)
      (fun q r => beginIteration (updGraph (startPkt t q r p.seq false) p.q p.seq fun g => { g with reading := false, nodes := fillUnread g.nodes }) p.q p.seq))
  ∧ (∀ node q g n, findGraph s p.q p.seq = some g → findQueue s p.q = some q → g.nodes[node]? = some n → g.pkt = p → g.reading = false →
      (n.phase = .complete → exec (.graphNodeFinish p node) s = .next
        ((n.succ.take n.nsucc).foldl (lowerNode p.q p.seq) (updNode s p.q p.seq node fun n => { n with phase := .finished })))
      ∧ (∀ pa pte, n.isCond = true → n.phase = .entry → isWaiting s (.packet (nodeRef g node n)) = false → queueAddr s q n.body 8 .load = .ok pa pte →
          exec (.graphNodeFinish p node) s = .next (finishCond (queueNoted s q n.body 8 .load) g node n (BitVec.ofNat 64 (memNat s.mem pa 8)))))
  ∧ (∀ b, notifyBad p b = false → b.cntva = 0 → b.nfix.toNat ≤ 64 → packetRuns s (.notify p b) p
      (fun q _ => reached s q b.hring.toNat 48 .load)
      (fun q r => spanNoted (startPosting s q r b b.nfix.toNat) q b.hring.toNat 48 .load))
  ∧ (∀ b, notifyBad p b = false → b.cntva ≠ 0 → packetRuns s (.notify p b) p
      (fun q _ => reached s q b.hring.toNat 48 .load ∧ reached s q b.cntva.toNat 4 .load ∧ leNat (getSpan s q b.cntva.toNat 4) ≤ 64)
      (fun q r => spanNoted (spanNoted (startPosting s q r b (leNat (getSpan s q b.cntva.toNat 4))) q b.hring.toNat 48 .load)
        q b.cntva.toNat 4 .load))
  ∧ (∀ x, findPosting s p = some x → x.full = true → x.stage = 0 → atTurn s x = true → isWaiting s (.packet p) = false →
      exec (.hostRingTailReload p) s = .next (runPosting p (3 * x.n + 8) (updPosting s p fun x => { x with full := false })))
  ∧ (∀ q e pa pte, findQueue s p.q = some q → (q.started.find? fun e => e.ref = p && (e.kind == 4 || e.kind == 6)) = some e →
      isWaiting s (.packet p) = false → queueAddr s q e.va 8 .load = .ok pa pte →
      (e.v.toNat ≤ memNat s.mem pa 8 → exec (.waitWordReload p) s = .next (completePkt (updStarted (queueNoted s q e.va 8 .load) p fun e => { e with last := s.now }) p))
      ∧ (memNat s.mem pa 8 < e.v.toNat → exec (.waitWordReload p) s = .next (updStarted (queueNoted s q e.va 8 .load) p fun e => { e with last := s.now })))

/-- R394, R395, R403, R404, R411: an admin packet with good fields takes its effect and completes; CTX_DESTROY completes when its context has
gone, FWUPDATE when its update ends. -/
def Obligations.AdminPacketsTakeEffect : Prop := ∀ (s : State) (p : PktRef),
  let done (q : Queue) (r : RawPkt) (go : State → State) : State := completePkt (go (startPkt s q r 0 false)) r.ref
  (∀ b pads, packetRuns s (.ctxCreate p b) p
      (fun q _ => reached s q b.addr.toNat 192 .load ∧ contextBad s (getSpan s q b.addr.toNat 192) = false
        ∧ placePads s (contextOf (getSpan s q b.addr.toNat 192)) = some pads)
      (fun q r => spanNoted (done q r fun t => addContext t (contextOf (getSpan s q b.addr.toNat 192)) pads) q b.addr.toNat 192 .load))
  ∧ (∀ b, packetRuns s (.ctxDestroy p b) p
      (fun q _ => (ctxOf s b.cid.toNat).isSome = true ∧ ∀ e ∈ q.started, ¬(e.kind = 0x21 ∧ e.va = b.cid.toNat))
      (fun q r => closeContext (updStarted (startPkt s q r 0 false) p fun e => { e with va := b.cid.toNat }) b.cid.toNat))
  ∧ (∀ b, packetRuns s (.qMap p b) p
      (fun q _ => reached s q b.addr.toNat 96 .load ∧ (ctxOf s (memNat s.mem b.addr.toNat 2)).isSome = true
        ∧ ((findQueue s ⟨memNat s.mem b.addr.toNat 2, memNat s.mem (b.addr.toNat + 16) 4⟩).any (·.mapped) = true ∨ (s.queues.filter (·.mapped)).length < 4096))
      (fun q r => spanNoted (done q r fun t => mapQueue t ⟨memNat s.mem b.addr.toNat 2, memNat s.mem (b.addr.toNat + 16) 4⟩ b.addr.toNat false)
        q b.addr.toNat 96 .load))
  ∧ (∀ b x, b.cid ≠ 0 → findQueue s ⟨b.cid.toNat, b.num.toNat⟩ = some x → x.mapped = true → packetRuns s (.qUnmap p b) p (fun _ _ => True)
      (fun q r => done q r fun t =>
        updQueue (if x.woken && !isWaiting t (.queue x.q) then serveWake t x else t) x.q fun y =>
          { y with mapped := false, missed := y.missed || y.woken, woken := false }))
  ∧ (∀ b, b.guest.toNat ≤ 63 → b.budget.toNat ≤ 940000 → 1 ≤ b.cores.toNat → b.cores.toNat ≤ 288 → packetRuns s (.budget p b) p (fun _ _ => True)
      (fun q r => done q r fun t => updGuest t b.guest.toNat fun g => { g with next := some (b.budget.toNat, b.cores.toNat) }))
  ∧ (∀ b, b.val.toNat ≤ 1 → (ctxOf s b.cid.toNat).isSome = true → packetRuns s (.bken p b) p (fun _ _ => True)
      (fun q r => done q r fun t => updCtx t b.cid.toNat fun c => { c with bken := b.val == 1 }))
  ∧ (∀ b, (s.sweeps.any fun w => w.ref.cid == b.cid.toNat && w.ref.tag == b.num.toNat && !w.closed) = true → packetRuns s (.release p b) p (fun _ _ => True)
      (fun q r => done q r fun t =>
        let named (x : SweepRef) : Bool := x.cid == b.cid.toNat && x.tag == b.num.toNat
        { t with
          sweeps := t.sweeps.map fun w => if named w.ref then { w with halted := false } else w
          waves := t.waves.map (releaseHalted t ((t.teams.filter fun x => named x.sweep).map (·.tid))) }))
  ∧ (∀ b, b.slot.toNat ≤ 1 → b.slot.toNat ≠ s.fwSlot → packetRuns s (.fwupdate p b) p
      (fun q _ => reached s q b.addr.toNat b.len.toNat .load ∧ Config.imageSigned (getSpan s q b.addr.toNat b.len.toNat) = true
        ∧ s.verCtr.toNat ≤ (Config.imageVersion (getSpan s q b.addr.toNat b.len.toNat)).toNat)
      (fun q r =>
        let image := getSpan s q b.addr.toNat b.len.toNat
        let s1 := startPkt s q r 0 false
        spanNoted { s1 with
          fwMeasured := s1.fwMeasured ++ [Config.sha3 image]
          fwVersions := s1.fwVersions.set b.slot.toNat (Config.imageVersion image)
          fwHashes := s1.fwHashes.set b.slot.toNat (Config.sha3 image)
          fwSigned := s1.fwSigned.set b.slot.toNat true
          update := some ⟨b.slot.toNat, Config.imageVersion image, s.now, Config.rejectsHandover image, p⟩ } q b.addr.toNat b.len.toNat .load))

/-! ## Events of rakes, teams, faults and the system -/

/-- R376 to R378, R380, R383 to R385, R388: a rake with no chunk takes the cursor's; a claim is one atomic on its record, and writes the sweep's tag
where it succeeds; its return hands a team to its dibber, counts a record that is passed over, or stops the rake; a team claimed for a fenced
die ends with the record of R9 (log entry 61, the model's choice); a pre-empted queue's rakes stand still, as does one behind a full dibber; a
dibber places teams, and grafts the lowest team that has waited long enough. -/
def Obligations.RakesClaimAndPlaceTeams : Prop := ∀ (s : State) (ref : SweepRef) (vdie : Nat) (w : Sweep) (c : Context) (r : Rake),
  findSweep s ref = some w → sweepCtx s w = some c → findRake w vdie = some r →
  (r.chunk = none → r.stopped = false → r.parked = false → 64 * w.cursor < w.nplot → rakeHeld s w = false →
      exec (.chunkTake ref vdie) s = .next (updRake (updSweep s ref fun w => { w with cursor := w.cursor + 1 }) ref vdie fun r =>
        { r with chunk := some w.cursor, next := 64 * w.cursor }))
  ∧ (∀ i pa pte, nextRecord w r = some i → r.stopped = false → r.parked = false → r.claims.length < 8 → rakeHeld s w = false →
      handoffWaits s w c r = false → accessFrom s c 0 (w.plot + 48 * i : Nat) 48 0 48 .atomic = .ok pa pte → pgnHost (pa / 49152) = false →
      let bs := (upto 48).map fun k => homeByte s (pa + k)
      let o := claimOutcome w (boundDies c) (r.skips.contains i) bs
      ∃ t tt, exec (.claim ref vdie) s = .next t ∧ t.mem = s.mem
        ∧ ((o = 0 ∨ o = 4) → t.homeStores = s.homeStores ++ [⟨0, none, none, tt, pa + 20, leBytes 4 w.ref.tag⟩])
        ∧ (¬(o = 0 ∨ o = 4) → t.homeStores = s.homeStores)
        ∧ ∀ w', findSweep t ref = some w' → ∀ r', findRake w' vdie = some r' → ∃ k, r'.claims = r.claims ++ [⟨i, o, bs, k⟩] ∧ s.now ≤ k)
  ∧ (rakeHeld s w = true → exec (.chunkTake ref vdie) s = .fault .notEnabled ∧ exec (.claim ref vdie) s = .fault .notEnabled)
  ∧ (handoffWaits s w c r = true → exec (.claim ref vdie) s = .fault .notEnabled)
  ∧ (∀ x rest, r.claims = x :: rest → x.tick ≤ s.now →
      let s1 := updRake s ref vdie fun r => { r with claims := r.claims.drop 1 }
      let t := newTeam s w c x.index x.bytes
      let s2 := updSweep { s1 with teams := s1.teams ++ [t], fresh := s1.fresh + 1 } ref fun w => { w with claimed := w.claimed + 1 }
      (makesTeam x = true → (waitingAt s t.die).length < 4096 → s.dieFence.getLsbD t.die = false →
          exec (.claimReturn ref vdie) s = .next (closeChunk s2 ref vdie))
      ∧ (makesTeam x = true → (waitingAt s t.die).length < 4096 → s.dieFence.getLsbD t.die = true →
          exec (.claimReturn ref vdie) s = .next (closeChunk (endTeam s2 t.tid 3 0 0 0xFF 0 0 none) ref vdie))
      ∧ (makesTeam x = false → x.outcome ≠ 2 → x.outcome ≠ 3 →
          exec (.claimReturn ref vdie) s = .next (closeChunk (updSweep s1 ref fun w => { w with skipped := w.skipped + 1 }) ref vdie))
      ∧ (x.outcome = 2 ∨ x.outcome = 3 →
          exec (.claimReturn ref vdie) s = .next (stopRake s1 w vdie x.index (x.outcome - 1) (fieldAt x.bytes 16 4) x.tick)))
  ∧ (∀ die s1, placePass (fun t => !isDet s t) (dibberOrder s die) [] [] s = s1 →
      (waitingAt s1 die).length < (waitingAt s die).length → exec (.dibberPlacement die) s = .next s1)
  ∧ (∀ tid t v ct, findTeam s tid = some t → teamCtx s t = some ct → graftable s t = some v →
      (∀ u ∈ s.teams, u.sweep = t.sweep → u.teamix < t.teamix → graftable s u = none) →
      exec (.teamGraft tid) s = .next (updTeam s tid fun t => { t with vdie := v, die := (physDie ct v).getD t.die, grafted := true }))

/-- R183 to R190, R90, R92, R300, R317: a stopped team whose save finds its place in the arena is saved: its bytes are kept, and of memory only the
bytes of that place are written (with bytes that the spec does not give, log entry 34); a saved team is placed again before any
of its waves issues, on the die that it left (the model's choice, log entry 50), and waits before that for banks that its triads need; a request to abort, or a save that cannot be written or reads back poisoned, ends the team with PREEMPT_ABORT; a quantum
of a DET sweep that is over commits: the buffered accesses are applied and the versions that stand at their commit enter memory, then what waits
for the commit runs in its order, and then the waves go on. -/
def Obligations.TeamsAreSavedRestoredAndCommitted : Prop := ∀ (s : State) (tid : Nat) (t : Team) (sw : Sweep) (c : Context),
  findTeam s tid = some t → sweepOf s t = some sw → teamCtx s t = some c →
  (∀ k a, t.preempt = some ⟨false, k⟩ → maySave s t = true → allocationPoisoned s t = false → isWaiting s (.save tid) = false →
      arenaPlace s c t = some a → arenaBad s c a (saveBytes s t) .store = none →
      let pieces := granulePieces a (saveBytes s t)
      ∃ u, exec (.teamSave tid) s = .next u ∧ u.mem = (writeArena s c a (saveBytes s t)).mem
        ∧ (s.canonical = true → ∀ x, byteAt u.mem x = byteAt s.mem x ∨ ∃ k p pa pte, pieces[k]? = some p
            ∧ plainAccess ((pieces.take k).foldl (writeOpen c) s) c p.1 1 .store = .ok pa pte ∧ pa ≤ x ∧ x < pa + p.2)
        ∧ (∀ t', findTeam u tid = some t' → t'.status = .saved ∧ t'.saved = takeBytes s t ∧ t'.saveAt = some a ∧ t'.preempt = none
            ∧ ∀ e ∈ t'.triads, e.slot = none))
  ∧ (∀ core p0, t.status = .saved → restorePlace s t = some (core, p0) → savePoisoned s c t = false → (sw.drop = true ∨ (leasesOver s c t = true ∧ reopenWaits s c t = false)) →
      ∃ u, exec (.teamRestore tid) s = .next u ∧ u.mem = s.mem
        ∧ (∀ t', findTeam u tid = some t' → t'.status = .placed ∧ t'.die = t.die ∧ t'.core = core ∧ t'.p0 = p0 ∧ t'.saved = [] ∧ t'.saveAt = none))
  ∧ (∀ core p0, t.status = .saved → restorePlace s t = some (core, p0) → savePoisoned s c t = false → sw.drop = false → leasesOver s c t = true →
      reopenWaits s c t = true → exec (.teamRestore tid) s =
        if t.reopenAt.isSome then .fault .notEnabled else .next (updTeam s tid fun t => { t with reopenAt := some s.now }))
  ∧ (∀ k, t.preempt = some ⟨true, k⟩ → t.status = .placed → allStopped s tid = true →
      exec (.preemptAbort tid) s = .next (endTeam s tid 8 0x70 0 0xFF 0 0 none))
  ∧ (∀ k, t.preempt = some ⟨false, k⟩ → t.status = .placed → allStopped s tid = true → maySave s t = true →
      (arenaRefuses s c t = true ∨ allocationPoisoned s t = true) → exec (.preemptAbort tid) s = .next (endTeam s tid 8 0x70 0 0xFF 0 0 none))
  ∧ (t.preempt = none → t.status = .saved → (restorePlace s t).isSome = true → savePoisoned s c t = true →
      exec (.preemptAbort tid) s = .next (endTeam s tid 8 0x70 0 0xFF 0 0 none))
  ∧ (∀ ref w, findSweep s ref = some w → w.det = true → (sweepTeams s ref ≠ [] ∨ commitTeams s ref ≠ [] ∨ copiesWait s ref = true) → quantumReady s ref = true →
      commitRuns s ref = false →
      let s1 := armCopies ((commitTeams s ref).foldl commitVersions
        ((commitTeams s ref).foldl commitTeam (updSweep s ref fun w => { w with snap := quantumMemory s ref }))) ref (w.commits + 1)
      (∀ v, nextSieve s1 ref = some v → exec (.quantumCommit ref) s = .next (runSieve s1 v))
      ∧ (nextSieve s1 ref = none → commitRuns s1 ref = true → exec (.quantumCommit ref) s = .next s1)
      ∧ (nextSieve s1 ref = none → commitRuns s1 ref = false →
          exec (.quantumCommit ref) s = .next (closeQuantum (placeAtCommit ((commitTeams s1 ref).foldl passBoundary s1) ref) ref)))

/-- R179, R180, R403: the guest's reply, or the management core's, answers a record; once everything that waited has taken its answer the record
leaves and its slot is freed with a store of 3; a record that waits for a slot is written once one is free; a wake makes an unmapped queue MISSED, and is served by a mapped one.
R216 gives a wake write through host port p the requester number 0x800 + p; that a host's wake has 0x800 whatever its port is the model's choice (log
entry 45). -/
def Obligations.AnswersAndWakesAreServed : Prop := ∀ (s : State) (cid : Nat) (c : Context), ctxOf s cid = some c →
  (∀ g res r, (c.faults.find? fun r => r.second && r.granule == g && r.answer.isNone) = some r →
      exec (.secondStageResolution cid g res) s = .next (finishAnswers (answerRecord s c r res)))
  ∧ (∀ a, faultSlot s c c.nextSeq = some a → homeNat s (a + 40) 8 = 3 → (∃ r ∈ c.faults, r.second = false ∧ r.seq = none) →
      exec (.faultRingSlotFree cid) s = .next (writeRecords s cid))
  ∧ (∀ seq r a, (c.faults.find? fun r => r.seq = some seq && r.answer.isNone) = some r → faultSlot s c seq = some a → memNat s.mem (a + 40) 8 ≠ 0 →
      r.written ≤ s.now →
      exec (.faultReply cid seq) s = .next (finishAnswers (answerRecord s c r (decide (memNat s.mem (a + 40) 8 = 1)))))
  ∧ (∀ r ok a, r.answer = some ok → (∀ w ∈ r.waiters, owesAnswer s r ok w.1 = false) → r.seq.bind (faultSlot s c) = some a →
      finishRecord cid s r = writeRecords
        (storeAfter (updCtx s cid fun c => { c with faults := c.faults.filter fun x => x ≠ r }) (a + 40) (leBytes 8 3) s.now).1 cid)
  ∧ (∀ r ok w, r.answer = some ok → w ∈ r.waiters → owesAnswer s r ok w.1 = true → finishRecord cid s r = s)
  ∧ (∀ ref q, findQueue s ref = some q → (q.mapped = false ∨ s.update.isSome = true) →
      exec (.wakeWrite ref) s = .next (updQueue s ref fun q => { q with missed := true }))
  ∧ (∀ ref q, findQueue s ref = some q → q.mapped = true → s.update = none → queuesRun s = true → isWaiting s (.queue q.q) = false → q.woken = true →
      exec (.wakeWrite ref) s = .next (serveWake (updQueue s ref fun _ => q) q))
  ∧ (∀ ref q, findQueue s ref = some q → q.mapped = true → s.update = none → queuesRun s = true → isWaiting s (.queue q.q) = false → q.woken = false →
      let q1 := { q with waker := 0x800, woken := true }
      exec (.wakeWrite ref) s = .next (serveWake (updQueue s ref fun _ => q1) q1))

/-- R404, R410 to R412, R417, R420, R424: the registers of port 0, the firmware's heartbeat and its updates, the guests' windows, and the power
islands. That the feature word stays in force over an update, unlocked, is the model's choice (log entry 58), and so are the unit of a guest's charge,
compared as 288 · B (log entry 49), and which power events an island can take and what ends one (log entry 103). -/
def Obligations.RegistersFirmwareAndIslands : Prop := ∀ (s : State),
  (firmwareRuns s = true → s.featLocked = false → s.featReg.getLsbD 0 = true → s.featReg &&& ~~~Config.featOff = 0 →
      exec (.featgo 1) s = .next { s with featAcc := s.featReg, featStat := 1, featLocked := true })
  ∧ (firmwareRuns s = true → s.featLocked = false → (s.featReg.getLsbD 0 = false ∨ s.featReg &&& ~~~Config.featOff ≠ 0) →
      exec (.featgo 1) s = .next { s with featStat := 2 })
  ∧ (firmwareRuns s = true → s.featLocked = true → exec (.featgo 1) s = .next { s with featStat := 3 })
  ∧ (s.boot = 3 → s.bootFailed = false → (∀ q ∈ s.queues, q.admin = false) → s.adminq.toNat % 96 = 0 →
      exec (.admingo 1) s = .next (if pgnPresent s (s.adminq.toNat / 49152) then mapQueue { s with boot := 4 } ⟨0, 0⟩ s.adminq.toNat true
        else { s with boot := 4, bootFailed := true
                      irqs := s.irqs ++ (((upto 2).filter fun p => portMode s p ≠ 0).map fun p => (p, 0)) }))
  ∧ (s.boot < 3 ∨ (s.boot = 3 ∧ s.bootFailed = true) → exec (.featgo 1) s = .next s ∧ exec (.admingo 1) s = .next s)
  ∧ (∀ v, exec (.registerWrite 0 0x10 v) s = .next (if s.featLocked then s else { s with featReg := v }))
  ∧ (∀ v, exec (.registerWrite 0 0x40 v) s = .next { s with adminq := v.truncate 64 })
  ∧ (∀ port k v, port ≤ 1 → (port = 0 → ownOffset k = false ∧ k ≠ 0x10 ∧ k ≠ 0x40) → exec (.registerWrite port k v) s = .next s)
  ∧ (∀ k v, k < 160 → ∃ t, exec (.islandLevel k v) s = .next t
        ∧ { t with islandWrites := s.islandWrites } = { s with islandLevel := Sparse.set 0 s.islandLevel k (v.toNat % 8) }
        ∧ (Sparse.wf 0 s.islandLevel = true → islandRead t k % 8 = v.toNat % 8))
  ∧ (∀ k, clusterOn k = true → runLevel s k < 7 →
      exec (.powerLimit k) s = .next { s with islandHeld := Sparse.set 0 s.islandHeld k (Sparse.get 0 s.islandHeld k + 1) })
  ∧ (∀ k, Sparse.get 0 s.islandHeld k ≠ 0 →
      exec (.powerLimitClear k) s = .next { s with islandHeld := Sparse.set 0 s.islandHeld k (Sparse.get 0 s.islandHeld k - 1) })
  ∧ (∀ k, k < 160 → s.islandHot.contains k = false → exec (.thermalLimit k true) s = .next { s with islandHot := s.islandHot ++ [k] })
  ∧ (∀ k, k < 160 → s.islandHot.contains k = true → exec (.thermalLimit k false) s = .next { s with islandHot := s.islandHot.filter (· != k) })
  ∧ (s.update = none → firmwareRuns s = true →
      let v := s.fwVersions.getD s.fwSlot 0
      exec .firmwareHeartbeat s = .next { s with verCtr := if s.verCtr.toNat ≤ v.toNat then v else s.verCtr })
  ∧ (∀ u, s.update = some u → u.rejected = false → s.now ≤ u.started + 47000000 →
      exec .firmwareHeartbeat s = .next (resumeQueues (completePkt
        { s with update := none, fwSlot := u.slot, verCtr := if s.verCtr.toNat ≤ u.version.toNat then u.version else s.verCtr, featLocked := false } u.pkt))
      ∧ exec .heartbeatTimeout s = .fault .notEnabled)
  ∧ (∀ u, s.update = some u → u.started + 47000000 < s.now →
      exec .heartbeatTimeout s = .next (resumeQueues (completePkt (postError { s with update := none } (updateRecord s u.pkt)) u.pkt))
      ∧ exec .firmwareHeartbeat s = .fault .notEnabled)
  ∧ (s.window < s.now / 940000 * 940000 →
      ∃ t, exec .budgetWindow s = .next t ∧ t.window = s.now / 940000 * 940000 ∧ t.guests.length = s.guests.length
        ∧ (∀ g ∈ t.guests, g.out = false ∧ g.next = none) ∧ t.mem = s.mem)
  ∧ (∀ k, (guestOf s k).out = false → 288 * (guestOf s k).budget ≤ (guestOf s k).charge →
      exec (.guestOutOfBudget k) s = .next (updGuest s k fun g => { g with out := true }))

/-- R420, R421: a request on a port that is up is answered; CHALLENGE and signed measurements take one of the 1,024 signatures that the alias key has
in a boot, and without its certificate, or past them, are not signed. -/
def Obligations.AttestationRequestsAreAnswered : Prop := ∀ (s : State) (port : Nat), port ≤ 1 → portMode s port ≠ 0 →
  let answers (i : Instr) (x : SpdmAnswer) (used : Nat) : Prop := exec i s = .next { s with aliasUsed := used, spdm := s.spdm ++ [(port, x)] }
  let values : Measurements := ⟨Config.romMeasurement, s.fwMeasured, Config.coreMeasurement, s.featAcc, cluMask, s.dieFence⟩
  answers (.getVersion port) (.ok .getVersion none) s.aliasUsed
  ∧ answers (.getCapabilities port) (.ok .getCapabilities none) s.aliasUsed
  ∧ answers (.negotiateAlgorithms port) (.algorithms .sha3With256Bits .xmssShake10With256Bits) s.aliasUsed
  ∧ answers (.getDigests port) (.ok .getDigests none) s.aliasUsed
  ∧ answers (.getCertificate port) (.ok .getCertificate none) s.aliasUsed
  ∧ answers (.getMeasurements port false) (.measurements none values) s.aliasUsed
  ∧ (s.aliasCert = true → s.aliasUsed < 1024 →
      answers (.challenge port) (.ok .challenge (some s.aliasUsed)) (s.aliasUsed + 1)
      ∧ answers (.getMeasurements port true) (.measurements (some s.aliasUsed) values) (s.aliasUsed + 1))
  ∧ (s.aliasCert = true → 1024 ≤ s.aliasUsed → answers (.challenge port) (.busy .challenge) s.aliasUsed
      ∧ answers (.getMeasurements port true) (.busy .getMeasurements) s.aliasUsed)

/-- R9, R169, R207, R345, R418, R419, R423, R425, R429: resets and bring-up, the span fabric, fences, errors, and the driver's unmap. What a reset of
port 0 removes, and that one of port 1 changes nothing, is the model's choice (log entry 59); so is the state that a failed bring-up leaves (log
entry 36). -/
def Obligations.ResetsErrorsAndUnmap : Prop := ∀ (s : State),
  (∀ b slot, bringUpGood b = true → bootSlot (resetState s) = some slot → b.failAt = none →
      exec (.coldReset b) s = .next { trainLinks (bootFirmware (resetState s) slot) b with boot := 3 })
  ∧ (∀ b k, bringUpGood b = true → b.failAt = some k →
      ∃ t, exec (.coldReset b) s = .next t ∧ (t.boot = k ∨ t.boot = 1) ∧ t.bootFailed = true ∧ t.now = 0 ∧ t.teams = [] ∧ t.waves = [] ∧ t.contexts = [] ∧ t.queues = [])
  ∧ exec (.portReset 1) s = .next s
  ∧ (∃ t, exec (.portReset 0) s = .next t ∧ t.queues = [] ∧ t.featLocked = false ∧ t.boot = min s.boot 3)
  ∧ (∀ n, exec (.deviceNumberWrite n) s = .next (if s.devNum = none ∧ s.boot < 4 then { s with devNum := some n.toNat } else s))
  ∧ (∀ k, k < 36 → s.spanDown.contains k = false →
      exec (.spanPortDown k []) s = .next (failLostColls { s with spanDown := s.spanDown ++ [k] }))
  ∧ (∀ d, d < 8 → s.dieFence.getLsbD d = false →
      ∃ t, exec (.dieFence d) s = .next t ∧ t.dieFence = s.dieFence ||| BitVec.ofNat 8 (2 ^ d))
  ∧ (∀ pa, pgnPresent s (pa / 49152) = true →
      exec (.uncorrectableError (.sector pa)) s = .next { s with poison := if s.poison.contains (pa / 48) then s.poison else s.poison ++ [pa / 48] })
  ∧ (∀ core off, core < 288 → off < 524288 →
      exec (.uncorrectableError (.scratch core off)) s = .next { s with scratchPoison := addOnce ((524288 * core + off) / 48) s.scratchPoison })
  ∧ (∀ die off, die < 8 → off < 67108864 →
      exec (.uncorrectableError (.pad die off)) s = .next { s with scratchPoison := addOnce ((150994944 + 67108864 * die + off) / 48) s.scratchPoison })
  ∧ (∀ pa, pgnPresent s (pa / 49152) = true → (pgnSocket (pa / 49152)).isSome = true →
      exec (.uncorrectableError (.cache pa)) s = .next { s with sramPoison := addOnce (pa / 48) s.sramPoison })
  ∧ (∀ site place pa, (∃ k, site = .l1 k pa ∧ place = .l1 k) ∨ (∃ k, site = .l2 k pa ∧ place = .l2 k) →
      let hit (y : LineCopy) : Bool := y.place = place && y.kept && y.pline == pa / 192
      s.copies.any hit = true → exec (.uncorrectableError site) s = .next
        { s with copies := s.copies.map fun y => if hit y then { y with bad := addOnce (pa / 48) y.bad } else y })
  ∧ (∀ tid ix v, (lostMember s tid ix false = some v → exec (.uncorrectableError (.gangRegs tid ix)) s = .next (loseMember s v))
      ∧ (lostMember s tid ix true = some v → exec (.uncorrectableError (.tile tid ix)) s = .next (loseMember s v)))
  ∧ (∀ tid ix w, findWave s tid ix = some w → w.status ≠ .ended →
      exec (.uncorrectableError (.waveRegs tid ix)) s = .next (endTeam s tid 1 Code.poison.num 2 ix 0 0 none))
  ∧ (s.softPeriod < s.now / 940000000 → s.corrected = 0 →
      exec .softErrorSummary s = .next { s with softPeriod := s.now / 940000000 })
  ∧ (s.softPeriod < s.now / 940000000 → s.corrected ≠ 0 →
      ∃ t, exec .softErrorSummary s = .next t ∧ t.corrected = 0 ∧ t.softPeriod = s.now / 940000000 ∧ softRecord s ∈ t.errors)
  ∧ (∀ line, (pgnSocket (line / 256)).isSome = true → pgnPresent s (line / 256) = true →
      ∃ t, exec (.patrolScrub line) s = .next t ∧ t.mem = s.mem ∧ (t.corrected = s.corrected ∨ t.corrected = s.corrected + 1))
  ∧ (∀ cid c base count perm, ctxOf s cid = some c → 0 < count → 49152 * (base + count) ≤ Config.vaTop → wholeLeaves s c base count = true →
      dirtyIn s cid (49152 * base) (49152 * count) = false → versionHolds s c base count = false →
      let s2 := discardCopies ((upto count).foldl (fun s k => unmapGranule c perm s (base + k))
        (if perm = .remove then dropAliases s c base count else s)) cid (49152 * base) (49152 * count)
      exec (.unmap cid base count perm) s = .next
        (if perm = .remove then dropTriads s2 fun h => h.cid == cid && decide (base ≤ h.triad / 16) && decide (h.triad / 16 < base + count) else s2))
end

