-- ==== Sys2Proof/Laws/Encoding.lean ====
section
/-! SUPPORT. The fields of a word are read back from where the encoder puts them (R32). -/

namespace Sys2Proof

/-- A field that lies above the last part of a word. -/
theorem extract_above {v w start len n : Nat} {x : BitVec v} {y : BitVec w} {z : BitVec len} (h : w ≤ start) (hn : start - w = n)
    (hz : x.extractLsb' n len = z) : (x ++ y).extractLsb' start len = z := by
  rw [BitVec.extractLsb'_append_eq_of_le h, hn, hz]

/-- A bit that lies above the last part of a word. -/
theorem bit_above {v w i n : Nat} {x : BitVec v} {y : BitVec w} {z : Bool} (h : w ≤ i) (hn : i - w = n) (hz : x.getLsbD n = z) :
    (x ++ y).getLsbD i = z := by
  rw [BitVec.getLsbD_append, if_neg (by omega), hn, hz]

/-- The last bit of a word. -/
theorem bit_last {v : Nat} {x : BitVec v} {b : Bool} : (x ++ BitVec.ofBool b).getLsbD 0 = b := by
  rw [BitVec.getLsbD_append]
  cases b <;> rfl

/-- The opcode of a word. -/
theorem op_wordOf (op : BitVec 8) (f : Fields) : opOfWord (wordOf op f) = op := by
  unfold opOfWord wordOf
  repeat refine extract_above (by decide) rfl ?_
  exact BitVec.extractLsb'_eq_self

/-- The fields of a word. -/
theorem fields_wordOf (op : BitVec 8) (f : Fields) : fieldsOfWord (wordOf op f) = f := by
  obtain ⟨dsp, asp, bsp, csp, d, a, b, c, amod, bmod, ah, bh, pn, pr, w⟩ := f
  unfold fieldsOfWord wordOf
  simp only [Fields.mk.injEq]
  refine ⟨?_, ?_, ?_, ?_, ?_, ?_, ?_, ?_, ?_, ?_, ?_, ?_, ?_, ?_, ?_⟩
  case refine_11 | refine_12 | refine_13 =>
    repeat refine bit_above (by decide) rfl ?_
    exact bit_last
  all_goals
    repeat refine extract_above (by decide) rfl ?_
    exact BitVec.extractLsb'_append_eq_right

/-- What an instruction's word holds. -/
theorem encode_some {i : Instr} {w : Word} (h : encode i = some w) :
    opcodeOf i = some (opOfWord w) ∧ Machine.fieldsOf i = some (fieldsOfWord w) := by
  unfold encode at h
  split at h
  · rename_i op f ho hf
    cases h
    rw [ho, hf, op_wordOf, fields_wordOf]
    exact ⟨rfl, rfl⟩
  · cases h

end Sys2Proof
end

