-- ==== Sys2Proof/Laws/Issue.lean ====
section
/-! SUPPORT. What the issue of a word answers: the lemmas that every statement about a word rests on. -/

namespace Sys2Proof.Machine

/-- At its turn, and if its own checks find nothing, a word ends as its own meaning says. -/
theorem issueWith_atTurn {i : Instr} {f : Fields} {s : State} {e : Env} {extra : Extra} (body : Env → State → Verdict)
    (h : wordAtTurn s i f e) (hx : extra e s = []) : issueWith i extra s body = .next (conclude s e (body e s)) := by
  obtain ⟨hf, he, hm, hl, hk, hr, hn⟩ := h
  have hk' : (endsSkid i && faultPending s e.w e.who.lane) = false := by
    cases hi : endsSkid i <;> simp_all
  rcases hl with hl | hl
  · rw [hl] at hm hk'
    simp only [issueWith, hf, he, hl, hm, hk', hr, hn, hx]
    simp [reported]
  · simp [issueWith, hf, he, hm, hk', hr, hn, hx, hl, reported]

/-- The same for a word with no checks of its own. -/
theorem issue_atTurn {i : Instr} {f : Fields} {s : State} {e : Env} (body : Env → State → Verdict) (h : wordAtTurn s i f e) :
    issue i s body = .next (conclude s e (body e s)) :=
  issueWith_atTurn body h rfl

@[simp] theorem conclude_ok (s : State) (e : Env) (s' : State) : conclude s e (.ok s') = retired s' e := rfl
@[simp] theorem conclude_moved (s : State) (e : Env) (s' : State) : conclude s e (.moved s') = retiredMoved s' e := rfl
@[simp] theorem conclude_stall (s : State) (e : Env) (s' : State) : conclude s e (.stall s') = s' := rfl
@[simp] theorem conclude_trap (s : State) (e : Env) (fi : FaultInfo) : conclude s e (.trap fi) = deliver s e.who fi (preciseAt e.va) := rfl

/-- What a word sees of its own instruction and fields. -/
theorem envOf_fields {s : State} {i : Instr} {f : Fields} {e : Env} (h : envOf s i f = some e) : e.i = i ∧ e.f = f := by
  unfold envOf at h
  split at h
  · cases h
  · split at h
    · split at h
      · split at h
        · cases h; exact ⟨rfl, rfl⟩
        · cases h
      · cases h
    · cases h

/-- The fields that a word at its turn sees are its own. -/
theorem wordAtTurn.fields {s : State} {i : Instr} {f : Fields} {e : Env} (h : wordAtTurn s i f e) : e.f = f := (envOf_fields h.2.1).2

/-! ## Packets -/

/-- The packet found at the head of its queue, or ready in its node, is the one asked for. -/
theorem headPkt_ref {s : State} {p : PktRef} {q : Queue} {r : RawPkt} (h : headPkt s p = some (q, r)) : r.ref = p := by
  unfold headPkt at h
  split at h
  · cases h
  · split at h
    · split at h
      · split at h
        · cases h; assumption
        · cases h
      · cases h
    · split at h
      · split at h
        · obtain ⟨x, -, hx⟩ := Option.bind_eq_some_iff.1 h
          split at hx
          · cases hx; assumption
          · cases hx
        · cases h
      · cases h

/-- A packet at its turn leaves what its body says. -/
theorem onPacket_atTurn {s : State} {i : Instr} {p : PktRef} {q : Queue} {r : RawPkt} (body : Queue → RawPkt → State)
    (h : packetAtTurn s i p q r) : onPacket i p s body = .next (body q r) := by
  obtain ⟨h1, h2, h3, -, h5⟩ := h
  simp [onPacket, h1, h2, h3, h5]

/-- What a packet at its turn is. -/
theorem packetAtTurn.ref {s : State} {i : Instr} {p : PktRef} {q : Queue} {r : RawPkt} (h : packetAtTurn s i p q r) : r.ref = p :=
  headPkt_ref h.1

end Sys2Proof.Machine
end

