-- ==== Sys2Proof/Laws/PerInstr.lean ====
section
/-!
SUPPORT. A statement for every instruction: its word holds its own opcode and fields (R32, R45); an event has no word.
-/

namespace Sys2Proof.Laws.Encodes

/-- What the word of an instruction holds. -/
def Statement (i : Instr) : Prop := ∀ w, encode i = some w → opcodeOf i = some (opOfWord w) ∧ Machine.fieldsOf i = some (fieldsOfWord w)

theorem nop (f : Fields) : Statement (.nop f) := fun _ => encode_some
theorem mov (f : Fields) : Statement (.mov f) := fun _ => encode_some
theorem movi (f : Fields) : Statement (.movi f) := fun _ => encode_some
theorem sel (f : Fields) : Statement (.sel f) := fun _ => encode_some
theorem iadd (f : Fields) : Statement (.iadd f) := fun _ => encode_some
theorem isub (f : Fields) : Statement (.isub f) := fun _ => encode_some
theorem imul (f : Fields) : Statement (.imul f) := fun _ => encode_some
theorem imulh (f : Fields) : Statement (.imulh f) := fun _ => encode_some
theorem imad (f : Fields) : Statement (.imad f) := fun _ => encode_some
theorem imadw (f : Fields) : Statement (.imadw f) := fun _ => encode_some
theorem imin (f : Fields) : Statement (.imin f) := fun _ => encode_some
theorem imax (f : Fields) : Statement (.imax f) := fun _ => encode_some
theorem iabs (f : Fields) : Statement (.iabs f) := fun _ => encode_some
theorem iaddc (f : Fields) : Statement (.iaddc f) := fun _ => encode_some
theorem iadds (f : Fields) : Statement (.iadds f) := fun _ => encode_some
theorem isubs (f : Fields) : Statement (.isubs f) := fun _ => encode_some
theorem and (f : Fields) : Statement (.and f) := fun _ => encode_some
theorem or (f : Fields) : Statement (.or f) := fun _ => encode_some
theorem xor (f : Fields) : Statement (.xor f) := fun _ => encode_some
theorem not (f : Fields) : Statement (.not f) := fun _ => encode_some
theorem shl (f : Fields) : Statement (.shl f) := fun _ => encode_some
theorem shr (f : Fields) : Statement (.shr f) := fun _ => encode_some
theorem sar (f : Fields) : Statement (.sar f) := fun _ => encode_some
theorem rol (f : Fields) : Statement (.rol f) := fun _ => encode_some
theorem bfx (f : Fields) : Statement (.bfx f) := fun _ => encode_some
theorem bfi (f : Fields) : Statement (.bfi f) := fun _ => encode_some
theorem popc (f : Fields) : Statement (.popc f) := fun _ => encode_some
theorem clz (f : Fields) : Statement (.clz f) := fun _ => encode_some
theorem brev (f : Fields) : Statement (.brev f) := fun _ => encode_some
theorem permb (f : Fields) : Statement (.permb f) := fun _ => encode_some
theorem icmp (f : Fields) : Statement (.icmp f) := fun _ => encode_some
theorem fcmp (f : Fields) : Statement (.fcmp f) := fun _ => encode_some
theorem fadd (f : Fields) : Statement (.fadd f) := fun _ => encode_some
theorem fsub (f : Fields) : Statement (.fsub f) := fun _ => encode_some
theorem fmul (f : Fields) : Statement (.fmul f) := fun _ => encode_some
theorem ffma (f : Fields) : Statement (.ffma f) := fun _ => encode_some
theorem fmin (f : Fields) : Statement (.fmin f) := fun _ => encode_some
theorem fmax (f : Fields) : Statement (.fmax f) := fun _ => encode_some
theorem fclass (f : Fields) : Statement (.fclass f) := fun _ => encode_some
theorem dadd (f : Fields) : Statement (.dadd f) := fun _ => encode_some
theorem dmul (f : Fields) : Statement (.dmul f) := fun _ => encode_some
theorem dfma (f : Fields) : Statement (.dfma f) := fun _ => encode_some
theorem pkadd (f : Fields) : Statement (.pkadd f) := fun _ => encode_some
theorem pkmul (f : Fields) : Statement (.pkmul f) := fun _ => encode_some
theorem pkfma (f : Fields) : Statement (.pkfma f) := fun _ => encode_some
theorem dot4 (f : Fields) : Statement (.dot4 f) := fun _ => encode_some
theorem dot8 (f : Fields) : Statement (.dot8 f) := fun _ => encode_some
theorem dot2 (f : Fields) : Statement (.dot2 f) := fun _ => encode_some
theorem shfl (f : Fields) : Statement (.shfl f) := fun _ => encode_some
theorem vote (f : Fields) : Statement (.vote f) := fun _ => encode_some
theorem redw (f : Fields) : Statement (.redw f) := fun _ => encode_some
theorem rds (f : Fields) : Statement (.rds f) := fun _ => encode_some
theorem wrs (f : Fields) : Statement (.wrs f) := fun _ => encode_some
theorem lea (f : Fields) : Statement (.lea f) := fun _ => encode_some
theorem movem (f : Fields) : Statement (.movem f) := fun _ => encode_some
theorem plop (f : Fields) : Statement (.plop f) := fun _ => encode_some
theorem cvti (f : Fields) : Statement (.cvti f) := fun _ => encode_some
theorem pack (f : Fields) : Statement (.pack f) := fun _ => encode_some
theorem unpk (f : Fields) : Statement (.unpk f) := fun _ => encode_some
theorem dcmp (f : Fields) : Statement (.dcmp f) := fun _ => encode_some
theorem rcp (f : Fields) : Statement (.rcp f) := fun _ => encode_some
theorem rsq (f : Fields) : Statement (.rsq f) := fun _ => encode_some
theorem sqrt (f : Fields) : Statement (.sqrt f) := fun _ => encode_some
theorem exp2 (f : Fields) : Statement (.exp2 f) := fun _ => encode_some
theorem log2 (f : Fields) : Statement (.log2 f) := fun _ => encode_some
theorem sin (f : Fields) : Statement (.sin f) := fun _ => encode_some
theorem cos (f : Fields) : Statement (.cos f) := fun _ => encode_some
theorem tanh (f : Fields) : Statement (.tanh f) := fun _ => encode_some
theorem cvt (f : Fields) : Statement (.cvt f) := fun _ => encode_some
theorem cvtfi (f : Fields) : Statement (.cvtfi f) := fun _ => encode_some
theorem cvtif (f : Fields) : Statement (.cvtif f) := fun _ => encode_some
theorem divf (f : Fields) : Statement (.divf f) := fun _ => encode_some
theorem ddiv (f : Fields) : Statement (.ddiv f) := fun _ => encode_some
theorem ld (f : Fields) : Statement (.ld f) := fun _ => encode_some
theorem st (f : Fields) : Statement (.st f) := fun _ => encode_some
theorem lds (f : Fields) : Statement (.lds f) := fun _ => encode_some
theorem sts (f : Fields) : Statement (.sts f) := fun _ => encode_some
theorem atom (f : Fields) : Statement (.atom f) := fun _ => encode_some
theorem acas (f : Fields) : Statement (.acas f) := fun _ => encode_some
theorem atoms (f : Fields) : Statement (.atoms f) := fun _ => encode_some
theorem ldu (f : Fields) : Statement (.ldu f) := fun _ => encode_some
theorem fence (f : Fields) : Statement (.fence f) := fun _ => encode_some
theorem waitc (f : Fields) : Statement (.waitc f) := fun _ => encode_some
theorem pref (f : Fields) : Statement (.pref f) := fun _ => encode_some
theorem rowopen (f : Fields) : Statement (.rowopen f) := fun _ => encode_some
theorem rowld (f : Fields) : Statement (.rowld f) := fun _ => encode_some
theorem rowst (f : Fields) : Statement (.rowst f) := fun _ => encode_some
theorem rowrel (f : Fields) : Statement (.rowrel f) := fun _ => encode_some
theorem rowq (f : Fields) : Statement (.rowq f) := fun _ => encode_some
theorem ldt (f : Fields) : Statement (.ldt f) := fun _ => encode_some
theorem stf (f : Fields) : Statement (.stf f) := fun _ => encode_some
theorem amaxu (f : Fields) : Statement (.amaxu f) := fun _ => encode_some
theorem amaxswap (f : Fields) : Statement (.amaxswap f) := fun _ => encode_some
theorem ldb (f : Fields) : Statement (.ldb f) := fun _ => encode_some
theorem stb (f : Fields) : Statement (.stb f) := fun _ => encode_some
theorem lnwb (f : Fields) : Statement (.lnwb f) := fun _ => encode_some
theorem mma (f : Fields) : Statement (.mma f) := fun _ => encode_some
theorem mmar (f : Fields) : Statement (.mmar f) := fun _ => encode_some
theorem accz (f : Fields) : Statement (.accz f) := fun _ => encode_some
theorem accld (f : Fields) : Statement (.accld f) := fun _ => encode_some
theorem accst (f : Fields) : Statement (.accst f) := fun _ => encode_some
theorem accrd (f : Fields) : Statement (.accrd f) := fun _ => encode_some
theorem accop (f : Fields) : Statement (.accop f) := fun _ => encode_some
theorem bndset (f : Fields) : Statement (.bndset f) := fun _ => encode_some
theorem bndrd (f : Fields) : Statement (.bndrd f) := fun _ => encode_some
theorem gangset (f : Fields) : Statement (.gangset f) := fun _ => encode_some
theorem gangrel (f : Fields) : Statement (.gangrel f) := fun _ => encode_some
theorem accmode (f : Fields) : Statement (.accmode f) := fun _ => encode_some
theorem cpy (f : Fields) : Statement (.cpy f) := fun _ => encode_some
theorem cpyt (f : Fields) : Statement (.cpyt f) := fun _ => encode_some
theorem gath (f : Fields) : Statement (.gath f) := fun _ => encode_some
theorem scat (f : Fields) : Statement (.scat f) := fun _ => encode_some
theorem qblk (f : Fields) : Statement (.qblk f) := fun _ => encode_some
theorem stgput (f : Fields) : Statement (.stgput f) := fun _ => encode_some
theorem stgget (f : Fields) : Statement (.stgget f) := fun _ => encode_some
theorem stgrel (f : Fields) : Statement (.stgrel f) := fun _ => encode_some
theorem talloc (f : Fields) : Statement (.talloc f) := fun _ => encode_some
theorem tdrop (f : Fields) : Statement (.tdrop f) := fun _ => encode_some
theorem tcopy (f : Fields) : Statement (.tcopy f) := fun _ => encode_some
theorem tsend (f : Fields) : Statement (.tsend f) := fun _ => encode_some
theorem trecv (f : Fields) : Statement (.trecv f) := fun _ => encode_some
theorem tstat (f : Fields) : Statement (.tstat f) := fun _ => encode_some
theorem coll (f : Fields) : Statement (.coll f) := fun _ => encode_some
theorem bra (f : Fields) : Statement (.bra f) := fun _ => encode_some
theorem braFar (f : Fields) : Statement (.braFar f) := fun _ => encode_some
theorem brx (f : Fields) : Statement (.brx f) := fun _ => encode_some
theorem call (f : Fields) : Statement (.call f) := fun _ => encode_some
theorem icall (f : Fields) : Statement (.icall f) := fun _ => encode_some
theorem ret (f : Fields) : Statement (.ret f) := fun _ => encode_some
theorem join (f : Fields) : Statement (.join f) := fun _ => encode_some
theorem bar (f : Fields) : Statement (.bar f) := fun _ => encode_some
theorem barc (f : Fields) : Statement (.barc f) := fun _ => encode_some
theorem yield (f : Fields) : Statement (.yield f) := fun _ => encode_some
theorem exit (f : Fields) : Statement (.exit f) := fun _ => encode_some
theorem waitf (f : Fields) : Statement (.waitf f) := fun _ => encode_some
theorem regget (f : Fields) : Statement (.regget f) := fun _ => encode_some
theorem regput (f : Fields) : Statement (.regput f) := fun _ => encode_some
theorem tbegin (f : Fields) : Statement (.tbegin f) := fun _ => encode_some
theorem tend (f : Fields) : Statement (.tend f) := fun _ => encode_some
theorem tabort (f : Fields) : Statement (.tabort f) := fun _ => encode_some
theorem loop (f : Fields) : Statement (.loop f) := fun _ => encode_some
theorem sleep (f : Fields) : Statement (.sleep f) := fun _ => encode_some
theorem diehops (f : Fields) : Statement (.diehops f) := fun _ => encode_some
theorem enq (f : Fields) : Statement (.enq f) := fun _ => encode_some
theorem signal (f : Fields) : Statement (.signal f) := fun _ => encode_some
theorem waits (f : Fields) : Statement (.waits f) := fun _ => encode_some
theorem eject (f : Fields) : Statement (.eject f) := fun _ => encode_some
theorem trap (f : Fields) : Statement (.trap f) := fun _ => encode_some
theorem rtt (f : Fields) : Statement (.rtt f) := fun _ => encode_some
theorem tstamp (f : Fields) : Statement (.tstamp f) := fun _ => encode_some
theorem rdsys (f : Fields) : Statement (.rdsys f) := fun _ => encode_some
theorem wrsys (f : Fields) : Statement (.wrsys f) := fun _ => encode_some
theorem vcinv (f : Fields) : Statement (.vcinv f) := fun _ => encode_some
theorem bkpt (f : Fields) : Statement (.bkpt f) := fun _ => encode_some
theorem stopw (f : Fields) : Statement (.stopw f) := fun _ => encode_some
theorem perf (f : Fields) : Statement (.perf f) := fun _ => encode_some
theorem tmask (f : Fields) : Statement (.tmask f) := fun _ => encode_some
theorem clauseHeader : Statement (.clauseHeader) := fun _ => encode_some
theorem clauseWaitRelease : Statement (.clauseWaitRelease) := fun _ => encode_some
theorem helperIssue (tid : Nat) (group : List (Nat × Nat)) : Statement (.helperIssue tid group) := fun _ => encode_some
theorem loadPerform (op : Nat) (lanes : W32) : Statement (.loadPerform op lanes) := fun _ => encode_some
theorem storeAtHome (op : Nat) (lanes : W32) : Statement (.storeAtHome op lanes) := fun _ => encode_some
theorem storeCompletion (op : Nat) : Statement (.storeCompletion op) := fun _ => encode_some
theorem atomicPerform (op : Nat) (lanes : W32) : Statement (.atomicPerform op lanes) := fun _ => encode_some
theorem copyOperationStart (op : Nat) : Statement (.copyOperationStart op) := fun _ => encode_some
theorem copyOperationComplete (op : Nat) : Statement (.copyOperationComplete op) := fun _ => encode_some
theorem stageSlotFree (op : Nat) : Statement (.stageSlotFree op) := fun _ => encode_some
theorem stagePhaseReady (op : Nat) : Statement (.stagePhaseReady op) := fun _ => encode_some
theorem mailboxDeposit (op : Nat) : Statement (.mailboxDeposit op) := fun _ => encode_some
theorem collRound (op : Nat) (peers : List CollPeer) : Statement (.collRound op peers) := fun _ => encode_some
theorem ldtRelease (tid wave : Nat) : Statement (.ldtRelease tid wave) := fun _ => encode_some
theorem barrierRelease (tid id : Nat) : Statement (.barrierRelease tid id) := fun _ => encode_some
theorem joinRelease (tid wave : Nat) : Statement (.joinRelease tid wave) := fun _ => encode_some
theorem reggetGrant (tid wave : Nat) : Statement (.reggetGrant tid wave) := fun _ => encode_some
theorem sleepWake (tid wave : Nat) : Statement (.sleepWake tid wave) := fun _ => encode_some
theorem waitsReload (tid wave : Nat) : Statement (.waitsReload tid wave) := fun _ => encode_some
theorem rendezvousLatchExit (tid leader : Nat) : Statement (.rendezvousLatchExit tid leader) := fun _ => encode_some
theorem impreciseFaultDelivery (tid wave : Nat) : Statement (.impreciseFaultDelivery tid wave) := fun _ => encode_some
theorem faultRingSlotFree (cid : Nat) : Statement (.faultRingSlotFree cid) := fun _ => encode_some
theorem faultReply (cid seq : Nat) : Statement (.faultReply cid seq) := fun _ => encode_some
theorem secondStageResolution (cid granule : Nat) (resolved : Bool) : Statement (.secondStageResolution cid granule resolved) := fun _ => encode_some
theorem preemptRequest (tid : Nat) (abort : Bool) : Statement (.preemptRequest tid abort) := fun _ => encode_some
theorem preemptDeadline (tid wave : Nat) : Statement (.preemptDeadline tid wave) := fun _ => encode_some
theorem handlerAllowance (tid wave : Nat) : Statement (.handlerAllowance tid wave) := fun _ => encode_some
theorem teamSave (tid : Nat) : Statement (.teamSave tid) := fun _ => encode_some
theorem teamRestore (tid : Nat) : Statement (.teamRestore tid) := fun _ => encode_some
theorem preemptAbort (tid : Nat) : Statement (.preemptAbort tid) := fun _ => encode_some
theorem quantumCommit (sweep : SweepRef) : Statement (.quantumCommit sweep) := fun _ => encode_some
theorem holdYield (socket channel bank : Nat) : Statement (.holdYield socket channel bank) := fun _ => encode_some
theorem refreshDue (socket channel : Nat) : Statement (.refreshDue socket channel) := fun _ => encode_some
theorem extentRelease (port base count : Nat) : Statement (.extentRelease port base count) := fun _ => encode_some
theorem forcedExtentRelease (port base count : Nat) : Statement (.forcedExtentRelease port base count) := fun _ => encode_some
theorem chunkTake (sweep : SweepRef) (vdie : Nat) : Statement (.chunkTake sweep vdie) := fun _ => encode_some
theorem claim (sweep : SweepRef) (vdie : Nat) : Statement (.claim sweep vdie) := fun _ => encode_some
theorem claimReturn (sweep : SweepRef) (vdie : Nat) : Statement (.claimReturn sweep vdie) := fun _ => encode_some
theorem dibberPlacement (die : Nat) : Statement (.dibberPlacement die) := fun _ => encode_some
theorem teamGraft (tid : Nat) : Statement (.teamGraft tid) := fun _ => encode_some
theorem wakeWrite (q : QRef) : Statement (.wakeWrite q) := fun _ => encode_some
theorem nopPacket (p : PktRef) : Statement (.nopPacket p) := fun _ => encode_some
theorem sweep (p : PktRef) (b : SweepBody) : Statement (.sweep p b) := fun _ => encode_some
theorem resume (p : PktRef) (b : ResumeBody) : Statement (.resume p b) := fun _ => encode_some
theorem copyPacket (p : PktRef) (b : CopyBody) : Statement (.copyPacket p b) := fun _ => encode_some
theorem waitPacket (p : PktRef) (b : WordBody) : Statement (.waitPacket p b) := fun _ => encode_some
theorem waitWordReload (p : PktRef) : Statement (.waitWordReload p) := fun _ => encode_some
theorem signalPacket (p : PktRef) (b : WordBody) : Statement (.signalPacket p b) := fun _ => encode_some
theorem fencePacket (p : PktRef) (b : WordBody) : Statement (.fencePacket p b) := fun _ => encode_some
theorem indirect (p : PktRef) (b : IndirectBody) : Statement (.indirect p b) := fun _ => encode_some
theorem graph (p : PktRef) (b : GraphBody) : Statement (.graph p b) := fun _ => encode_some
theorem graphNodeFinish (p : PktRef) (node : Nat) : Statement (.graphNodeFinish p node) := fun _ => encode_some
theorem notify (p : PktRef) (b : NotifyBody) : Statement (.notify p b) := fun _ => encode_some
theorem hostRingTailReload (p : PktRef) : Statement (.hostRingTailReload p) := fun _ => encode_some
theorem capture (p : PktRef) (b : CaptureBody) : Statement (.capture p b) := fun _ => encode_some
theorem replay (p : PktRef) (b : ReplayBody) : Statement (.replay p b) := fun _ => encode_some
theorem migrate (p : PktRef) (b : MigrateBody) : Statement (.migrate p b) := fun _ => encode_some
theorem ctxCreate (p : PktRef) (b : AddrBody) : Statement (.ctxCreate p b) := fun _ => encode_some
theorem ctxDestroy (p : PktRef) (b : CidBody) : Statement (.ctxDestroy p b) := fun _ => encode_some
theorem qMap (p : PktRef) (b : AddrBody) : Statement (.qMap p b) := fun _ => encode_some
theorem qUnmap (p : PktRef) (b : CidBody) : Statement (.qUnmap p b) := fun _ => encode_some
theorem budget (p : PktRef) (b : BudgetBody) : Statement (.budget p b) := fun _ => encode_some
theorem bken (p : PktRef) (b : CidBody) : Statement (.bken p b) := fun _ => encode_some
theorem release (p : PktRef) (b : CidBody) : Statement (.release p b) := fun _ => encode_some
theorem fwupdate (p : PktRef) (b : FwBody) : Statement (.fwupdate p b) := fun _ => encode_some
theorem firmwareHeartbeat : Statement (.firmwareHeartbeat) := fun _ => encode_some
theorem heartbeatTimeout : Statement (.heartbeatTimeout) := fun _ => encode_some
theorem budgetWindow : Statement (.budgetWindow) := fun _ => encode_some
theorem featgo (value : W32) : Statement (.featgo value) := fun _ => encode_some
theorem admingo (value : W32) : Statement (.admingo value) := fun _ => encode_some
theorem islandLevel (island : Nat) (value : Word) : Statement (.islandLevel island value) := fun _ => encode_some
theorem registerWrite (port offset : Nat) (value : BitVec 128) : Statement (.registerWrite port offset value) := fun _ => encode_some
theorem powerLimit (island : Nat) : Statement (.powerLimit island) := fun _ => encode_some
theorem powerLimitClear (island : Nat) : Statement (.powerLimitClear island) := fun _ => encode_some
theorem leaseExpiry (op : Nat) : Statement (.leaseExpiry op) := fun _ => encode_some
theorem refreshPerformed (socket channel : Nat) : Statement (.refreshPerformed socket channel) := fun _ => encode_some
theorem thermalLimit (island : Nat) (held : Bool) : Statement (.thermalLimit island held) := fun _ => encode_some
theorem gangLostHandlerLimit (tid : Nat) : Statement (.gangLostHandlerLimit tid) := fun _ => encode_some
theorem guestOutOfBudget (guest : Nat) : Statement (.guestOutOfBudget guest) := fun _ => encode_some
theorem unmap (cid base count : Nat) (perm : UnmapPerm) : Statement (.unmap cid base count perm) := fun _ => encode_some
theorem getVersion (port : Nat) : Statement (.getVersion port) := fun _ => encode_some
theorem getCapabilities (port : Nat) : Statement (.getCapabilities port) := fun _ => encode_some
theorem negotiateAlgorithms (port : Nat) : Statement (.negotiateAlgorithms port) := fun _ => encode_some
theorem getDigests (port : Nat) : Statement (.getDigests port) := fun _ => encode_some
theorem getCertificate (port : Nat) : Statement (.getCertificate port) := fun _ => encode_some
theorem challenge (port : Nat) : Statement (.challenge port) := fun _ => encode_some
theorem getMeasurements (port : Nat) (signed : Bool) : Statement (.getMeasurements port signed) := fun _ => encode_some
theorem coldReset (bringUp : BringUp) : Statement (.coldReset bringUp) := fun _ => encode_some
theorem portReset (port : Nat) : Statement (.portReset port) := fun _ => encode_some
theorem deviceNumberWrite (number : Byte) : Statement (.deviceNumberWrite number) := fun _ => encode_some
theorem spanPortDown (port : Nat) (unreachable : List Nat) : Statement (.spanPortDown port unreachable) := fun _ => encode_some
theorem dieFence (die : Nat) : Statement (.dieFence die) := fun _ => encode_some
theorem uncorrectableError (site : ErrorSite) : Statement (.uncorrectableError site) := fun _ => encode_some
theorem softErrorSummary : Statement (.softErrorSummary) := fun _ => encode_some
theorem patrolScrub (line : Nat) : Statement (.patrolScrub line) := fun _ => encode_some

end Sys2Proof.Laws.Encodes
end

