-- ==== Sys2Proof/Laws/Store.lean ====
section
/-!
SUPPORT. Sparse files and bytes: what reads see after a write, that every operation keeps the canonical form, and that files in
canonical form which read alike are equal.
-/

namespace Sys2Proof.Machine

/-! ## Sparse files -/

section Files
variable {α : Type} [DecidableEq α] {d v : α} {m r : Sparse α} {k j : Nat}

/-- The canonical form of a file, entry by entry. -/
theorem Sparse.wf_cons : Sparse.wf d ((k, v) :: r) = true ↔ v ≠ d ∧ (∀ e ∈ r, k < e.1) ∧ Sparse.wf d r = true := by
  induction r generalizing k v with
  | nil => simp [Sparse.wf]
  | cons e r ih =>
    obtain ⟨k', v'⟩ := e
    rw [Sparse.wf, Bool.and_eq_true, Bool.and_eq_true, decide_eq_true_eq, decide_eq_true_eq]
    constructor
    · rintro ⟨⟨hv, hk⟩, hw⟩
      refine ⟨hv, fun e he => ?_, hw⟩
      rcases List.mem_cons.1 he with rfl | he
      · exact hk
      · exact Nat.lt_trans hk ((ih.1 hw).2.1 e he)
    · rintro ⟨hv, hk, hw⟩
      exact ⟨⟨hv, hk (k', v') (by simp)⟩, hw⟩

omit [DecidableEq α] in
/-- A key below every listed one reads the default. -/
theorem Sparse.get_below (h : ∀ e ∈ m, k < e.1) : Sparse.get d m k = d := by
  cases m with
  | nil => rfl
  | cons e r =>
    have := h e (by simp)
    simp [Sparse.get, this, Nat.ne_of_gt this]

/-- The keys of a file after a write. -/
theorem Sparse.mem_set {e : Nat × α} (h : e ∈ Sparse.set d m k v) : e = (k, v) ∨ e ∈ m := by
  induction m with
  | nil =>
    simp only [Sparse.set] at h
    split at h <;> simp_all
  | cons e' r ih =>
    obtain ⟨k', v'⟩ := e'
    simp only [Sparse.set] at h
    split at h
    · split at h
      · exact .inr h
      · rcases List.mem_cons.1 h with h | h
        · exact .inl h
        · exact .inr h
    · split at h
      · split at h
        · exact .inr (List.mem_cons_of_mem _ h)
        · rcases List.mem_cons.1 h with h | h
          · exact .inl h
          · exact .inr (List.mem_cons_of_mem _ h)
      · rcases List.mem_cons.1 h with h | h
        · exact .inr (h ▸ List.mem_cons_self)
        · rcases ih h with h | h
          · exact .inl h
          · exact .inr (List.mem_cons_of_mem _ h)

/-- A write keeps the canonical form. -/
theorem Sparse.set_wf (h : Sparse.wf d m = true) : Sparse.wf d (Sparse.set d m k v) = true := by
  induction m with
  | nil =>
    simp only [Sparse.set]
    split
    · rfl
    · simpa [Sparse.wf]
  | cons e r ih =>
    obtain ⟨k', v'⟩ := e
    obtain ⟨hv, hk, hw⟩ := Sparse.wf_cons.1 h
    simp only [Sparse.set]
    split
    next hlt =>
      split
      · exact h
      next hd =>
        refine Sparse.wf_cons.2 ⟨hd, fun e he => ?_, h⟩
        rcases List.mem_cons.1 he with rfl | he
        · exact hlt
        · exact Nat.lt_trans hlt (hk e he)
    next hge =>
      split
      next heq =>
        split
        · exact hw
        next hd => exact Sparse.wf_cons.2 ⟨hd, heq ▸ hk, hw⟩
      next hne =>
        refine Sparse.wf_cons.2 ⟨hv, fun e he => ?_, ih hw⟩
        rcases Sparse.mem_set he with rfl | he
        · exact Nat.lt_of_le_of_ne (Nat.le_of_not_lt hge) (Ne.symm hne)
        · exact hk e he

/-- What a read sees after a write. -/
theorem Sparse.get_set (h : Sparse.wf d m = true) : Sparse.get d (Sparse.set d m k v) j = if j = k then v else Sparse.get d m j := by
  induction m with
  | nil =>
    simp only [Sparse.set]
    split
    next hd => simp [Sparse.get, hd]
    next =>
      simp only [Sparse.get]
      split
      next h1 => simp [h1]
      next h1 => simp [Ne.symm h1]
  | cons e r ih =>
    obtain ⟨k', v'⟩ := e
    obtain ⟨hv, hk, hw⟩ := Sparse.wf_cons.1 h
    simp only [Sparse.set]
    split
    next hlt =>
      split
      next hd =>
        split
        next hj =>
          subst hj
          rw [hd]
          exact Sparse.get_below (fun e he => by
            rcases List.mem_cons.1 he with rfl | he
            · exact hlt
            · exact Nat.lt_trans hlt (hk e he))
        next => rfl
      next =>
        by_cases hj : j = k
        · simp [Sparse.get, hj]
        · have h1 : ¬ k = j := Ne.symm hj
          rw [Sparse.get, if_neg h1]
          split
          next hjk =>
            have h2 : j < k' := Nat.lt_trans hjk hlt
            simp [Sparse.get, h2, Nat.ne_of_gt h2]
          next => rfl
    next hge =>
      split
      next heq =>
        subst heq
        split
        next hd =>
          by_cases hj : j = k
          · subst hj
            rw [if_pos rfl, hd]
            exact Sparse.get_below hk
          · rw [if_neg hj, Sparse.get, if_neg (Ne.symm hj)]
            split
            next hlt => exact Sparse.get_below fun e he => Nat.lt_trans hlt (hk e he)
            next => rfl
        next =>
          by_cases hj : j = k
          · simp [Sparse.get, hj]
          · simp [Sparse.get, hj, Ne.symm hj]
      next hne =>
        rw [Sparse.get]
        by_cases hk' : k' = j
        · subst hk'
          simp [Sparse.get, Ne.symm hne]
        · rw [if_neg hk', ih hw]
          by_cases hlt : j < k'
          · have : ¬ j = k := by omega
            simp [Sparse.get, hk', hlt, this]
          · simp [Sparse.get, hk', hlt]

/-- Dropping entries keeps the canonical form. -/
theorem Sparse.filter_wf {p : Nat × α → Bool} (h : Sparse.wf d m = true) : Sparse.wf d (m.filter p) = true := by
  induction m with
  | nil => rfl
  | cons e r ih =>
    obtain ⟨hv, hk, hw⟩ := Sparse.wf_cons.1 h
    rw [List.filter_cons]
    split
    · exact Sparse.wf_cons.2 ⟨hv, fun e he => hk e (List.mem_filter.1 he).1, ih hw⟩
    · exact ih hw

/-- Clearing a range keeps the canonical form. -/
theorem Sparse.clear_wf {lo n : Nat} (h : Sparse.wf d m = true) : Sparse.wf d (Sparse.clear m lo n) = true := Sparse.filter_wf h

/-- What a read sees after a range is cleared. -/
theorem Sparse.get_clear {lo n : Nat} (h : Sparse.wf d m = true) :
    Sparse.get d (Sparse.clear m lo n) j = if lo ≤ j ∧ j < lo + n then d else Sparse.get d m j := by
  induction m with
  | nil => simp [Sparse.clear, Sparse.get]
  | cons e r ih =>
    obtain ⟨k, v⟩ := e
    obtain ⟨-, hk, hw⟩ := Sparse.wf_cons.1 h
    have ih := ih hw
    simp only [Sparse.clear, List.filter_cons] at ih ⊢
    split
    next hin =>
      have hin : k < lo ∨ lo + n ≤ k := of_decide_eq_true hin
      rw [Sparse.get]
      by_cases hkj : k = j
      · subst hkj
        simp only [Sparse.get, if_true]
        rw [if_neg (by omega)]
      · rw [if_neg hkj]
        by_cases hlt : j < k
        · simp [Sparse.get, hkj, hlt]
        · rw [if_neg hlt, ih]
          simp [Sparse.get, hkj, hlt]
    next hout =>
      have hout : ¬ (k < lo ∨ lo + n ≤ k) := fun h => hout (decide_eq_true h)
      rw [ih]
      by_cases hj : lo ≤ j ∧ j < lo + n
      · simp [hj]
      · rw [if_neg hj, if_neg hj, Sparse.get, if_neg (show ¬ k = j by omega)]
        split
        next hlt => exact Sparse.get_below fun e he => Nat.lt_trans hlt (hk e he)
        next => rfl

/-- Files in canonical form that read alike everywhere are equal. -/
theorem Sparse.ext_get {m' : Sparse α} (h : Sparse.wf d m = true) (h' : Sparse.wf d m' = true)
    (hg : ∀ k, Sparse.get d m k = Sparse.get d m' k) : m = m' := by
  induction m generalizing m' with
  | nil =>
    cases m' with
    | nil => rfl
    | cons e r =>
      have := hg e.1
      simp [Sparse.get] at this
      exact absurd this.symm (Sparse.wf_cons.1 h').1
  | cons e r ih =>
    obtain ⟨k, v⟩ := e
    obtain ⟨hv, hk, hw⟩ := Sparse.wf_cons.1 h
    cases m' with
    | nil =>
      have := hg k
      simp [Sparse.get] at this
      exact absurd this hv
    | cons e' r' =>
      obtain ⟨k', v'⟩ := e'
      obtain ⟨hv', hk', hw'⟩ := Sparse.wf_cons.1 h'
      have h1 := hg k
      have h2 := hg k'
      simp only [Sparse.get, if_true] at h1 h2
      have hkk : k = k' := by
        rcases Nat.lt_trichotomy k k' with hlt | heq | hlt
        · rw [if_neg (Nat.ne_of_gt hlt), if_pos hlt] at h1
          exact absurd h1 hv
        · exact heq
        · rw [if_neg (Nat.ne_of_gt hlt), if_pos hlt] at h2
          exact absurd h2.symm hv'
      subst hkk
      simp only [if_true] at h1
      subst h1
      rw [ih hw hw' fun j => ?_]
      have hj := hg j
      simp only [Sparse.get] at hj
      by_cases hkj : k = j
      · subst hkj
        rw [Sparse.get_below hk, Sparse.get_below hk']
      · rw [if_neg hkj, if_neg hkj] at hj
        by_cases hlt : j < k
        · rw [Sparse.get_below fun e he => Nat.lt_trans hlt (hk e he), Sparse.get_below fun e he => Nat.lt_trans hlt (hk' e he)]
        · rwa [if_neg hlt, if_neg hlt] at hj

end Files

/-! ## Bytes -/

section Bytes
variable {m : List Host.Cell} {a j : Nat} {b : Byte}

/-- A byte written keeps the canonical form. -/
theorem putByte_wf (h : memWf m = true) : memWf (putByte m a b) = true := Sparse.set_wf h

/-- What a read sees after a byte is written. -/
theorem byteAt_putByte (h : memWf m = true) : byteAt (putByte m a b) j = if j = a then b else byteAt m j := Sparse.get_set h

/-- Bytes written keep the canonical form. -/
theorem putBytes_wf {bs : List Byte} (h : memWf m = true) : memWf (putBytes m a bs) = true := by
  induction bs generalizing m a with
  | nil => exact h
  | cons b r ih => exact ih (putByte_wf h)

/-- What a read sees after bytes are written. -/
theorem byteAt_putBytes {bs : List Byte} (h : memWf m = true) :
    byteAt (putBytes m a bs) j = if a ≤ j ∧ j < a + bs.length then bs.getD (j - a) 0 else byteAt m j := by
  induction bs generalizing m a with
  | nil => rw [if_neg (by simp only [List.length_nil]; omega), putBytes]
  | cons b r ih =>
    rw [putBytes, ih (putByte_wf h), byteAt_putByte h]
    rcases Nat.lt_trichotomy j a with hj | rfl | hj
    · rw [if_neg (by omega), if_neg (by omega), if_neg (by omega)]
    · rw [if_neg (by omega), if_pos rfl, if_pos (by simp)]
      simp
    · simp only [List.length_cons]
      by_cases hin : j < a + (r.length + 1)
      · rw [if_pos (by omega), if_pos (by omega)]
        obtain ⟨n, rfl⟩ : ∃ n, j = a + 1 + n := ⟨j - (a + 1), by omega⟩
        rw [show a + 1 + n - a = n + 1 by omega, show a + 1 + n - (a + 1) = n by omega]
        rfl
      · rw [if_neg (by omega), if_neg (by omega), if_neg (by omega)]

/-- Bytes outside a write read as before. -/
theorem byteAt_putBytes_of_not {bs : List Byte} (h : memWf m = true) (hj : ¬ (a ≤ j ∧ j < a + bs.length)) :
    byteAt (putBytes m a bs) j = byteAt m j := by rw [byteAt_putBytes h, if_neg hj]

/-- A number written as little-endian bytes reads back. -/
theorem leNat_leBytes (n v : Nat) : leNat (leBytes n v) = v % 256 ^ n := by
  induction n generalizing v with
  | zero => simp [leBytes, leNat, Nat.mod_one]
  | succ n ih => rw [leBytes, leNat, ih, BitVec.toNat_ofNat, show 2 ^ 8 = 256 from rfl, Nat.pow_succ, Nat.mul_comm (256 ^ n), Nat.mod_mul]

@[simp] theorem length_leBytes (n v : Nat) : (leBytes n v).length = n := by
  induction n generalizing v with
  | zero => rfl
  | succ n ih => simp [leBytes, ih]

end Bytes

/-! ## Every operation that writes storage keeps the canonical form -/

/-- The canonical form of storage, store by store. -/
theorem State.canonical_iff {s : State} :
    s.canonical = true ↔ memWf s.mem = true ∧ memWf s.scratch = true ∧ memWf s.diePad = true := by
  simp [State.canonical, and_assoc]

/-- A change that leaves storage alone keeps its form. -/
theorem State.canonical_of_eq {s t : State} (h : s.canonical = true) (hm : t.mem = s.mem) (hs : t.scratch = s.scratch)
    (hp : t.diePad = s.diePad) : t.canonical = true := by
  rw [State.canonical, hm, hs, hp]
  exact h

theorem canonical_applyStore {s : State} {h : HomeStore} (hc : s.canonical = true) : (applyStore s h).canonical = true := by
  obtain ⟨h1, h2, h3⟩ := State.canonical_iff.1 hc
  exact State.canonical_iff.2 ⟨putBytes_wf h1, h2, h3⟩

theorem canonical_writeNow {s : State} {pa : Nat} {bs : List Byte} (hc : s.canonical = true) : (writeNow s pa bs).canonical = true := by
  obtain ⟨h1, h2, h3⟩ := State.canonical_iff.1 hc
  exact State.canonical_iff.2 ⟨putBytes_wf h1, h2, h3⟩

theorem canonical_setJar {s : State} {cid k : Nat} {r : JarRec} (hc : s.canonical = true) : (setJar s cid k r).canonical = true := by
  unfold setJar
  split
  · exact State.canonical_of_eq hc rfl rfl rfl
  · exact canonical_writeNow (State.canonical_of_eq hc rfl rfl rfl)

theorem canonical_foldl {β : Type} {f : State → β → State} (hf : ∀ s b, s.canonical = true → (f s b).canonical = true) {l : List β}
    {s : State} (hc : s.canonical = true) : (l.foldl f s).canonical = true := by
  induction l generalizing s with
  | nil => exact hc
  | cons b r ih => exact ih (hf s b hc)

theorem canonical_settle {s : State} (hc : s.canonical = true) : (settle s).canonical = true := by
  have := canonical_foldl (f := applyStore) (l := s.homeStores.filter fun h => decide (h.t ≤ s.now)) (fun _ _ => canonical_applyStore) hc
  exact State.canonical_of_eq this rfl rfl rfl

theorem canonical_scrPut {s : State} {p : ScrPlace} {b : Byte} (hc : s.canonical = true) : (scrPut s p b).canonical = true := by
  obtain ⟨h1, h2, h3⟩ := State.canonical_iff.1 hc
  cases p
  · exact State.canonical_iff.2 ⟨h1, putByte_wf h2, h3⟩
  · exact State.canonical_iff.2 ⟨h1, h2, putByte_wf h3⟩

theorem canonical_scrBytes {s : State} {ps : List ScrPlace} {bs : List Byte} (hc : s.canonical = true) :
    (scrBytes s ps bs).canonical = true := by
  induction ps generalizing s bs with
  | nil => simpa [scrBytes]
  | cons p ps ih =>
    cases bs with
    | nil => simpa [scrBytes]
    | cons b bs => exact ih (canonical_scrPut hc)

theorem canonical_scrPuts {s : State} {ps : List ScrPlace} {bs : List Byte} (hc : s.canonical = true) :
    (scrPuts s ps bs).canonical = true :=
  State.canonical_of_eq (canonical_scrBytes hc) rfl rfl rfl

/-- A store that reaches its home waits there: memory itself is as before. -/
theorem storeHome_storage (s : State) (op : Nat) (core : Option Nat) (leased : Bool) (pa : Nat) (bs : List Byte) :
    (storeHome s op core leased pa bs).1.mem = s.mem ∧ (storeHome s op core leased pa bs).1.scratch = s.scratch
      ∧ (storeHome s op core leased pa bs).1.diePad = s.diePad := by
  unfold storeHome
  generalize linePieces (bs.length / 192 + 2) pa bs = l
  suffices ∀ (l : List (Nat × List Byte)) (acc : State × Nat), (l.foldl (homePiece op core leased) acc).1.mem = acc.1.mem
      ∧ (l.foldl (homePiece op core leased) acc).1.scratch = acc.1.scratch ∧ (l.foldl (homePiece op core leased) acc).1.diePad = acc.1.diePad from
    this l (s, 0)
  intro l
  induction l with
  | nil => exact fun _ => ⟨rfl, rfl, rfl⟩
  | cons p r ih => exact fun acc => ih (homePiece op core leased acc p)

theorem canonical_storeHome {s : State} {op pa : Nat} {core : Option Nat} {leased : Bool} {bs : List Byte} (hc : s.canonical = true) :
    (storeHome s op core leased pa bs).1.canonical = true :=
  have h := storeHome_storage s op core leased pa bs
  State.canonical_of_eq hc h.1 h.2.1 h.2.2

theorem canonical_storeAfter {s : State} {pa t0 : Nat} {bs : List Byte} (hc : s.canonical = true) :
    (storeAfter s pa bs t0).1.canonical = true :=
  have h := storeHome_storage { s with now := max s.now t0 } 0 none true pa bs
  State.canonical_of_eq hc h.1 h.2.1 h.2.2

theorem canonical_hostStore {s : State} {req pa : Nat} {bs : List Byte} (hc : s.canonical = true) :
    (hostStore s req pa bs).canonical = true :=
  have h := storeHome_storage s 0 none true pa bs
  State.canonical_of_eq hc h.1 h.2.1 h.2.2

theorem canonical_zeroAllocation {s : State} {die core p0 n : Nat} (hc : s.canonical = true) :
    (zeroAllocation s die core p0 n).canonical = true := by
  obtain ⟨h1, h2, h3⟩ := State.canonical_iff.1 hc
  exact State.canonical_iff.2 ⟨h1, Sparse.clear_wf h2, h3⟩

/-- A fold of byte writes keeps the canonical form. -/
theorem memWf_foldl {β : Type} {f : List Host.Cell → β → List Host.Cell} (hf : ∀ m b, memWf m = true → memWf (f m b) = true)
    {l : List β} {m : List Host.Cell} (h : memWf m = true) : memWf (l.foldl f m) = true := by
  induction l generalizing m with
  | nil => exact h
  | cons b r ih => exact ih (hf m b h)

theorem canonical_reloadBytes {s : State} {t : Team} {die core p0 n : Nat} (hc : s.canonical = true) :
    (reloadBytes s t die core p0 n).canonical = true := by
  obtain ⟨h1, h2, h3⟩ := State.canonical_iff.1 (canonical_zeroAllocation (die := die) (core := core) (p0 := p0) (n := n) hc)
  exact State.canonical_iff.2 ⟨h1, memWf_foldl (fun _ _ h => putByte_wf h) h2, h3⟩

theorem canonical_addContext {s : State} {c : Context} {pads : List Nat} (hc : s.canonical = true) :
    (addContext s c pads).canonical = true := by
  obtain ⟨h1, h2, h3⟩ := State.canonical_iff.1 hc
  refine State.canonical_iff.2 ⟨Sparse.clear_wf h1, h2, memWf_foldl (fun m b h => ?_) h3⟩
  split
  · exact Sparse.clear_wf h
  · exact h

theorem canonical_resetState {s : State} (hc : s.canonical = true) : (resetState s).canonical = true := by
  obtain ⟨-, h2, h3⟩ := State.canonical_iff.1 hc
  exact State.canonical_iff.2 ⟨(State.canonical_iff.1 (canonical_foldl (fun _ _ => canonical_applyStore) hc)).1, h2, h3⟩

end Sys2Proof.Machine
end

