-- ==== Sys2Proof/Laws/Registers.lean ====
section
/-!
SUPPORT. What a register reads after a write: one lemma for each register file, which says what every register of the file then holds.
-/

namespace Sys2Proof.Machine

/-- Lane registers (R118). -/
theorem Wave.v_setV {w : Wave} {r l r' l' : Nat} {x : W32} (h : Sparse.wf 0 w.lanes = true) (hl : l < 32) (hl' : l' < 32) :
    (w.setV r l x).v r' l' = if r' = r ∧ l' = l then x else w.v r' l' := by
  rw [Wave.v, Wave.setV, Sparse.get_set h]
  by_cases he : r' = r ∧ l' = l
  · obtain ⟨rfl, rfl⟩ := he
    simp
  · rw [if_neg he, if_neg (by omega)]
    rfl

/-- A lane register written in the lanes of a list. -/
theorem Wave.v_foldl_setV {ls : List Nat} {w : Wave} {r r' l' : Nat} {x : Nat → W32} (h : Sparse.wf 0 w.lanes = true)
    (hls : ∀ l ∈ ls, l < 32) (hl' : l' < 32) :
    Sparse.wf 0 (ls.foldl (fun w l => w.setV r l (x l)) w).lanes = true
      ∧ (ls.foldl (fun w l => w.setV r l (x l)) w).v r' l' = if r' = r ∧ l' ∈ ls then x l' else w.v r' l' := by
  induction ls generalizing w with
  | nil => exact ⟨h, by simp⟩
  | cons l ls ih =>
    have hw : Sparse.wf 0 (w.setV r l (x l)).lanes = true := Sparse.set_wf h
    obtain ⟨h1, h2⟩ := ih hw fun l h => hls l (List.mem_cons_of_mem _ h)
    refine ⟨h1, h2.trans ?_⟩
    rw [Wave.v_setV h (hls l (by simp)) hl']
    by_cases hin : r' = r ∧ l' ∈ ls
    · rw [if_pos hin, if_pos ⟨hin.1, List.mem_cons_of_mem _ hin.2⟩]
    · rw [if_neg hin]
      by_cases he : r' = r ∧ l' = l
      · rw [if_pos he, if_pos ⟨he.1, he.2 ▸ List.mem_cons_self⟩, he.2]
      · rw [if_neg he, if_neg fun hc => by
          rcases List.mem_cons.1 hc.2 with h | h
          · exact he ⟨hc.1, h⟩
          · exact hin ⟨hc.1, h⟩]

/-- The lanes of a mask. -/
theorem mem_lanesOf {m : W32} {l : Nat} : l ∈ lanesOf m ↔ l < 32 ∧ m.getLsbD l = true := by simp [lanesOf]

/-- A lane register written in the lanes of a mask. -/
theorem Wave.v_setLanes {w : Wave} {r r' l' : Nat} {m : W32} {x : Nat → W32} (h : Sparse.wf 0 w.lanes = true) (hl' : l' < 32) :
    (w.setLanes r m x).v r' l' = if r' = r ∧ m.getLsbD l' = true then x l' else w.v r' l' := by
  rw [Wave.setLanes, (Wave.v_foldl_setV h (fun l h => (mem_lanesOf.1 h).1) hl').2]
  simp [mem_lanesOf, hl']

/-- A lane write leaves every other file of the wave as it is. -/
theorem Wave.setLanes_frame (w : Wave) (r : Nat) (m : W32) (x : Nat → W32) : ∃ l, w.setLanes r m x = { w with lanes := l } := by
  unfold Wave.setLanes
  generalize lanesOf m = ls
  induction ls generalizing w with
  | nil => exact ⟨w.lanes, rfl⟩
  | cons k ls ih => exact ih (w.setV r k (x k))

/-- Scalars (R129). -/
theorem Path.s_setS {p : Path} {k j : Nat} {x : Word} (h : Sparse.wf 0 p.scal = true) : (p.setS k x).s j = if j = k then x else p.s j :=
  Sparse.get_set h

/-- Predicates: p7 always reads as true (R35). -/
theorem Wave.p_setP {w : Wave} {k j : Nat} {m x : W32} (h : Sparse.wf 0 w.preds = true) :
    (w.setP k m x).p j = if j = 7 then 0xFFFFFFFF else if j = k then (Sparse.get 0 w.preds k &&& ~~~m) ||| (x &&& m) else w.p j := by
  rw [Wave.p, Wave.setP, Sparse.get_set h]
  split
  next => rfl
  next h7 =>
    split
    next => rfl
    next => rw [Wave.p, if_neg h7]

@[simp] theorem Wave.p_seven (w : Wave) : w.p 7 = 0xFFFFFFFF := rfl

/-- Handle registers (R302). -/
theorem Wave.h_setH {w : Wave} {k j : Nat} {x : Word} (h : Sparse.wf 0 w.handles = true) :
    (w.setH k x).h j = if j = k then x else w.h j := Sparse.get_set h

/-- Bound registers (R335). -/
theorem Wave.bnd_setBnd {w : Wave} {k j : Nat} {x : Word} (h : Sparse.wf boundInit w.bounds = true) :
    (w.setBnd k x).bnd j = if j = k then x else w.bnd j := Sparse.get_set h

/-- PERF counters (R168). -/
theorem Wave.pf_count {w : Wave} {k j n : Nat} (h : Sparse.wf 0 w.perf = true) :
    (w.count k n).pf j = if j = k then (w.pf k + n) % 2 ^ 64 else w.pf j := Sparse.get_set h

/-- Accumulator elements (R334). -/
theorem Wave.el_setEl {w : Wave} {a i j a' i' j' : Nat} {x : BitVec 96} (h : Sparse.wf 0 w.acc = true)
    (hi : i < 64) (hj : j < 64) (hi' : i' < 64) (hj' : j' < 64) :
    (w.setEl a i j x).el a' i' j' = if a' = a ∧ i' = i ∧ j' = j then x else w.el a' i' j' := by
  rw [Wave.el, Wave.setEl, Sparse.get_set h]
  by_cases he : a' = a ∧ i' = i ∧ j' = j
  · obtain ⟨rfl, rfl, rfl⟩ := he
    simp
  · rw [if_neg he, if_neg (by omega)]
    rfl

/-- Jar records (R301). -/
theorem jarOf_set {c : Context} {k j : Nat} {r : JarRec} (h : Sparse.wf jarFree c.jars = true) :
    jarOf { c with jars := Sparse.set jarFree c.jars k r } j = if j = k then r else jarOf c j := Sparse.get_set h

end Sys2Proof.Machine
end

