-- ==== Sys2Proof/Laws/State.lean ====
section
/-!
SUPPORT. What each update of one record of the state leaves as it is: one lemma per field, and how a record is found again.
-/

namespace Sys2Proof.Machine

/-! ## `updWave` -/

@[simp] theorem updWave_agenda (s : State) (tid ix : Nat) (g : Wave → Wave) : (updWave s tid ix g).agenda = s.agenda := rfl
@[simp] theorem updWave_freeIx (s : State) (tid ix : Nat) (g : Wave → Wave) : (updWave s tid ix g).freeIx = s.freeIx := rfl
@[simp] theorem updWave_fresh (s : State) (tid ix : Nat) (g : Wave → Wave) : (updWave s tid ix g).fresh = s.fresh := rfl
@[simp] theorem updWave_cur (s : State) (tid ix : Nat) (g : Wave → Wave) : (updWave s tid ix g).cur = s.cur := rfl
@[simp] theorem updWave_now (s : State) (tid ix : Nat) (g : Wave → Wave) : (updWave s tid ix g).now = s.now := rfl
@[simp] theorem updWave_mem (s : State) (tid ix : Nat) (g : Wave → Wave) : (updWave s tid ix g).mem = s.mem := rfl
@[simp] theorem updWave_scratch (s : State) (tid ix : Nat) (g : Wave → Wave) : (updWave s tid ix g).scratch = s.scratch := rfl
@[simp] theorem updWave_diePad (s : State) (tid ix : Nat) (g : Wave → Wave) : (updWave s tid ix g).diePad = s.diePad := rfl
@[simp] theorem updWave_poison (s : State) (tid ix : Nat) (g : Wave → Wave) : (updWave s tid ix g).poison = s.poison := rfl
@[simp] theorem updWave_scratchPoison (s : State) (tid ix : Nat) (g : Wave → Wave) : (updWave s tid ix g).scratchPoison = s.scratchPoison := rfl
@[simp] theorem updWave_copies (s : State) (tid ix : Nat) (g : Wave → Wave) : (updWave s tid ix g).copies = s.copies := rfl
@[simp] theorem updWave_inputs (s : State) (tid ix : Nat) (g : Wave → Wave) : (updWave s tid ix g).inputs = s.inputs := rfl
@[simp] theorem updWave_sramPoison (s : State) (tid ix : Nat) (g : Wave → Wave) : (updWave s tid ix g).sramPoison = s.sramPoison := rfl
@[simp] theorem updWave_homeLines (s : State) (tid ix : Nat) (g : Wave → Wave) : (updWave s tid ix g).homeLines = s.homeLines := rfl
@[simp] theorem updWave_codeCopies (s : State) (tid ix : Nat) (g : Wave → Wave) : (updWave s tid ix g).codeCopies = s.codeCopies := rfl
@[simp] theorem updWave_dropped (s : State) (tid ix : Nat) (g : Wave → Wave) : (updWave s tid ix g).dropped = s.dropped := rfl
@[simp] theorem updWave_lineT (s : State) (tid ix : Nat) (g : Wave → Wave) : (updWave s tid ix g).lineT = s.lineT := rfl
@[simp] theorem updWave_homeStores (s : State) (tid ix : Nat) (g : Wave → Wave) : (updWave s tid ix g).homeStores = s.homeStores := rfl
@[simp] theorem updWave_aliases (s : State) (tid ix : Nat) (g : Wave → Wave) : (updWave s tid ix g).aliases = s.aliases := rfl
@[simp] theorem updWave_holds (s : State) (tid ix : Nat) (g : Wave → Wave) : (updWave s tid ix g).holds = s.holds := rfl
@[simp] theorem updWave_refresh (s : State) (tid ix : Nat) (g : Wave → Wave) : (updWave s tid ix g).refresh = s.refresh := rfl
@[simp] theorem updWave_extents (s : State) (tid ix : Nat) (g : Wave → Wave) : (updWave s tid ix g).extents = s.extents := rfl
@[simp] theorem updWave_ops (s : State) (tid ix : Nat) (g : Wave → Wave) : (updWave s tid ix g).ops = s.ops := rfl
@[simp] theorem updWave_teams (s : State) (tid ix : Nat) (g : Wave → Wave) : (updWave s tid ix g).teams = s.teams := rfl
@[simp] theorem updWave_sweeps (s : State) (tid ix : Nat) (g : Wave → Wave) : (updWave s tid ix g).sweeps = s.sweeps := rfl
@[simp] theorem updWave_contexts (s : State) (tid ix : Nat) (g : Wave → Wave) : (updWave s tid ix g).contexts = s.contexts := rfl
@[simp] theorem updWave_queues (s : State) (tid ix : Nat) (g : Wave → Wave) : (updWave s tid ix g).queues = s.queues := rfl
@[simp] theorem updWave_graphs (s : State) (tid ix : Nat) (g : Wave → Wave) : (updWave s tid ix g).graphs = s.graphs := rfl
@[simp] theorem updWave_postings (s : State) (tid ix : Nat) (g : Wave → Wave) : (updWave s tid ix g).postings = s.postings := rfl
@[simp] theorem updWave_guests (s : State) (tid ix : Nat) (g : Wave → Wave) : (updWave s tid ix g).guests = s.guests := rfl
@[simp] theorem updWave_nextOrder (s : State) (tid ix : Nat) (g : Wave → Wave) : (updWave s tid ix g).nextOrder = s.nextOrder := rfl
@[simp] theorem updWave_errors (s : State) (tid ix : Nat) (g : Wave → Wave) : (updWave s tid ix g).errors = s.errors := rfl
@[simp] theorem updWave_irqs (s : State) (tid ix : Nat) (g : Wave → Wave) : (updWave s tid ix g).irqs = s.irqs := rfl
@[simp] theorem updWave_spdm (s : State) (tid ix : Nat) (g : Wave → Wave) : (updWave s tid ix g).spdm = s.spdm := rfl
@[simp] theorem updWave_featReg (s : State) (tid ix : Nat) (g : Wave → Wave) : (updWave s tid ix g).featReg = s.featReg := rfl
@[simp] theorem updWave_featAcc (s : State) (tid ix : Nat) (g : Wave → Wave) : (updWave s tid ix g).featAcc = s.featAcc := rfl
@[simp] theorem updWave_featStat (s : State) (tid ix : Nat) (g : Wave → Wave) : (updWave s tid ix g).featStat = s.featStat := rfl
@[simp] theorem updWave_featLocked (s : State) (tid ix : Nat) (g : Wave → Wave) : (updWave s tid ix g).featLocked = s.featLocked := rfl
@[simp] theorem updWave_adminq (s : State) (tid ix : Nat) (g : Wave → Wave) : (updWave s tid ix g).adminq = s.adminq := rfl
@[simp] theorem updWave_boot (s : State) (tid ix : Nat) (g : Wave → Wave) : (updWave s tid ix g).boot = s.boot := rfl
@[simp] theorem updWave_portstat (s : State) (tid ix : Nat) (g : Wave → Wave) : (updWave s tid ix g).portstat = s.portstat := rfl
@[simp] theorem updWave_dieFence (s : State) (tid ix : Nat) (g : Wave → Wave) : (updWave s tid ix g).dieFence = s.dieFence := rfl
@[simp] theorem updWave_stackFence (s : State) (tid ix : Nat) (g : Wave → Wave) : (updWave s tid ix g).stackFence = s.stackFence := rfl
@[simp] theorem updWave_spanDown (s : State) (tid ix : Nat) (g : Wave → Wave) : (updWave s tid ix g).spanDown = s.spanDown := rfl
@[simp] theorem updWave_lostDevs (s : State) (tid ix : Nat) (g : Wave → Wave) : (updWave s tid ix g).lostDevs = s.lostDevs := rfl
@[simp] theorem updWave_islandLevel (s : State) (tid ix : Nat) (g : Wave → Wave) : (updWave s tid ix g).islandLevel = s.islandLevel := rfl
@[simp] theorem updWave_islandHeld (s : State) (tid ix : Nat) (g : Wave → Wave) : (updWave s tid ix g).islandHeld = s.islandHeld := rfl
@[simp] theorem updWave_islandHot (s : State) (tid ix : Nat) (g : Wave → Wave) : (updWave s tid ix g).islandHot = s.islandHot := rfl
@[simp] theorem updWave_devNum (s : State) (tid ix : Nat) (g : Wave → Wave) : (updWave s tid ix g).devNum = s.devNum := rfl
@[simp] theorem updWave_idxCtr (s : State) (tid ix : Nat) (g : Wave → Wave) : (updWave s tid ix g).idxCtr = s.idxCtr := rfl
@[simp] theorem updWave_verCtr (s : State) (tid ix : Nat) (g : Wave → Wave) : (updWave s tid ix g).verCtr = s.verCtr := rfl
@[simp] theorem updWave_aliasCert (s : State) (tid ix : Nat) (g : Wave → Wave) : (updWave s tid ix g).aliasCert = s.aliasCert := rfl
@[simp] theorem updWave_aliasUsed (s : State) (tid ix : Nat) (g : Wave → Wave) : (updWave s tid ix g).aliasUsed = s.aliasUsed := rfl
@[simp] theorem updWave_fwSlot (s : State) (tid ix : Nat) (g : Wave → Wave) : (updWave s tid ix g).fwSlot = s.fwSlot := rfl
@[simp] theorem updWave_fwVersions (s : State) (tid ix : Nat) (g : Wave → Wave) : (updWave s tid ix g).fwVersions = s.fwVersions := rfl
@[simp] theorem updWave_fwMeasured (s : State) (tid ix : Nat) (g : Wave → Wave) : (updWave s tid ix g).fwMeasured = s.fwMeasured := rfl
@[simp] theorem updWave_mscLines (s : State) (tid ix : Nat) (g : Wave → Wave) : (updWave s tid ix g).mscLines = s.mscLines := rfl
@[simp] theorem updWave_tlb (s : State) (tid ix : Nat) (g : Wave → Wave) : (updWave s tid ix g).tlb = s.tlb := rfl
@[simp] theorem updWave_islandWrites (s : State) (tid ix : Nat) (g : Wave → Wave) : (updWave s tid ix g).islandWrites = s.islandWrites := rfl
@[simp] theorem updWave_bootFailed (s : State) (tid ix : Nat) (g : Wave → Wave) : (updWave s tid ix g).bootFailed = s.bootFailed := rfl
@[simp] theorem updWave_fwHashes (s : State) (tid ix : Nat) (g : Wave → Wave) : (updWave s tid ix g).fwHashes = s.fwHashes := rfl
@[simp] theorem updWave_fwSigned (s : State) (tid ix : Nat) (g : Wave → Wave) : (updWave s tid ix g).fwSigned = s.fwSigned := rfl
@[simp] theorem updWave_update (s : State) (tid ix : Nat) (g : Wave → Wave) : (updWave s tid ix g).update = s.update := rfl
@[simp] theorem updWave_corrected (s : State) (tid ix : Nat) (g : Wave → Wave) : (updWave s tid ix g).corrected = s.corrected := rfl
@[simp] theorem updWave_softPeriod (s : State) (tid ix : Nat) (g : Wave → Wave) : (updWave s tid ix g).softPeriod = s.softPeriod := rfl
@[simp] theorem updWave_window (s : State) (tid ix : Nat) (g : Wave → Wave) : (updWave s tid ix g).window = s.window := rfl

/-! ## `updTeam` -/

@[simp] theorem updTeam_agenda (s : State) (tid : Nat) (g : Team → Team) : (updTeam s tid g).agenda = s.agenda := rfl
@[simp] theorem updTeam_freeIx (s : State) (tid : Nat) (g : Team → Team) : (updTeam s tid g).freeIx = s.freeIx := rfl
@[simp] theorem updTeam_fresh (s : State) (tid : Nat) (g : Team → Team) : (updTeam s tid g).fresh = s.fresh := rfl
@[simp] theorem updTeam_cur (s : State) (tid : Nat) (g : Team → Team) : (updTeam s tid g).cur = s.cur := rfl
@[simp] theorem updTeam_now (s : State) (tid : Nat) (g : Team → Team) : (updTeam s tid g).now = s.now := rfl
@[simp] theorem updTeam_mem (s : State) (tid : Nat) (g : Team → Team) : (updTeam s tid g).mem = s.mem := rfl
@[simp] theorem updTeam_scratch (s : State) (tid : Nat) (g : Team → Team) : (updTeam s tid g).scratch = s.scratch := rfl
@[simp] theorem updTeam_diePad (s : State) (tid : Nat) (g : Team → Team) : (updTeam s tid g).diePad = s.diePad := rfl
@[simp] theorem updTeam_poison (s : State) (tid : Nat) (g : Team → Team) : (updTeam s tid g).poison = s.poison := rfl
@[simp] theorem updTeam_scratchPoison (s : State) (tid : Nat) (g : Team → Team) : (updTeam s tid g).scratchPoison = s.scratchPoison := rfl
@[simp] theorem updTeam_copies (s : State) (tid : Nat) (g : Team → Team) : (updTeam s tid g).copies = s.copies := rfl
@[simp] theorem updTeam_inputs (s : State) (tid : Nat) (g : Team → Team) : (updTeam s tid g).inputs = s.inputs := rfl
@[simp] theorem updTeam_sramPoison (s : State) (tid : Nat) (g : Team → Team) : (updTeam s tid g).sramPoison = s.sramPoison := rfl
@[simp] theorem updTeam_homeLines (s : State) (tid : Nat) (g : Team → Team) : (updTeam s tid g).homeLines = s.homeLines := rfl
@[simp] theorem updTeam_codeCopies (s : State) (tid : Nat) (g : Team → Team) : (updTeam s tid g).codeCopies = s.codeCopies := rfl
@[simp] theorem updTeam_dropped (s : State) (tid : Nat) (g : Team → Team) : (updTeam s tid g).dropped = s.dropped := rfl
@[simp] theorem updTeam_lineT (s : State) (tid : Nat) (g : Team → Team) : (updTeam s tid g).lineT = s.lineT := rfl
@[simp] theorem updTeam_homeStores (s : State) (tid : Nat) (g : Team → Team) : (updTeam s tid g).homeStores = s.homeStores := rfl
@[simp] theorem updTeam_aliases (s : State) (tid : Nat) (g : Team → Team) : (updTeam s tid g).aliases = s.aliases := rfl
@[simp] theorem updTeam_holds (s : State) (tid : Nat) (g : Team → Team) : (updTeam s tid g).holds = s.holds := rfl
@[simp] theorem updTeam_refresh (s : State) (tid : Nat) (g : Team → Team) : (updTeam s tid g).refresh = s.refresh := rfl
@[simp] theorem updTeam_extents (s : State) (tid : Nat) (g : Team → Team) : (updTeam s tid g).extents = s.extents := rfl
@[simp] theorem updTeam_ops (s : State) (tid : Nat) (g : Team → Team) : (updTeam s tid g).ops = s.ops := rfl
@[simp] theorem updTeam_waves (s : State) (tid : Nat) (g : Team → Team) : (updTeam s tid g).waves = s.waves := rfl
@[simp] theorem updTeam_sweeps (s : State) (tid : Nat) (g : Team → Team) : (updTeam s tid g).sweeps = s.sweeps := rfl
@[simp] theorem updTeam_contexts (s : State) (tid : Nat) (g : Team → Team) : (updTeam s tid g).contexts = s.contexts := rfl
@[simp] theorem updTeam_queues (s : State) (tid : Nat) (g : Team → Team) : (updTeam s tid g).queues = s.queues := rfl
@[simp] theorem updTeam_graphs (s : State) (tid : Nat) (g : Team → Team) : (updTeam s tid g).graphs = s.graphs := rfl
@[simp] theorem updTeam_postings (s : State) (tid : Nat) (g : Team → Team) : (updTeam s tid g).postings = s.postings := rfl
@[simp] theorem updTeam_guests (s : State) (tid : Nat) (g : Team → Team) : (updTeam s tid g).guests = s.guests := rfl
@[simp] theorem updTeam_nextOrder (s : State) (tid : Nat) (g : Team → Team) : (updTeam s tid g).nextOrder = s.nextOrder := rfl
@[simp] theorem updTeam_errors (s : State) (tid : Nat) (g : Team → Team) : (updTeam s tid g).errors = s.errors := rfl
@[simp] theorem updTeam_irqs (s : State) (tid : Nat) (g : Team → Team) : (updTeam s tid g).irqs = s.irqs := rfl
@[simp] theorem updTeam_spdm (s : State) (tid : Nat) (g : Team → Team) : (updTeam s tid g).spdm = s.spdm := rfl
@[simp] theorem updTeam_featReg (s : State) (tid : Nat) (g : Team → Team) : (updTeam s tid g).featReg = s.featReg := rfl
@[simp] theorem updTeam_featAcc (s : State) (tid : Nat) (g : Team → Team) : (updTeam s tid g).featAcc = s.featAcc := rfl
@[simp] theorem updTeam_featStat (s : State) (tid : Nat) (g : Team → Team) : (updTeam s tid g).featStat = s.featStat := rfl
@[simp] theorem updTeam_featLocked (s : State) (tid : Nat) (g : Team → Team) : (updTeam s tid g).featLocked = s.featLocked := rfl
@[simp] theorem updTeam_adminq (s : State) (tid : Nat) (g : Team → Team) : (updTeam s tid g).adminq = s.adminq := rfl
@[simp] theorem updTeam_boot (s : State) (tid : Nat) (g : Team → Team) : (updTeam s tid g).boot = s.boot := rfl
@[simp] theorem updTeam_portstat (s : State) (tid : Nat) (g : Team → Team) : (updTeam s tid g).portstat = s.portstat := rfl
@[simp] theorem updTeam_dieFence (s : State) (tid : Nat) (g : Team → Team) : (updTeam s tid g).dieFence = s.dieFence := rfl
@[simp] theorem updTeam_stackFence (s : State) (tid : Nat) (g : Team → Team) : (updTeam s tid g).stackFence = s.stackFence := rfl
@[simp] theorem updTeam_spanDown (s : State) (tid : Nat) (g : Team → Team) : (updTeam s tid g).spanDown = s.spanDown := rfl
@[simp] theorem updTeam_lostDevs (s : State) (tid : Nat) (g : Team → Team) : (updTeam s tid g).lostDevs = s.lostDevs := rfl
@[simp] theorem updTeam_islandLevel (s : State) (tid : Nat) (g : Team → Team) : (updTeam s tid g).islandLevel = s.islandLevel := rfl
@[simp] theorem updTeam_islandHeld (s : State) (tid : Nat) (g : Team → Team) : (updTeam s tid g).islandHeld = s.islandHeld := rfl
@[simp] theorem updTeam_islandHot (s : State) (tid : Nat) (g : Team → Team) : (updTeam s tid g).islandHot = s.islandHot := rfl
@[simp] theorem updTeam_devNum (s : State) (tid : Nat) (g : Team → Team) : (updTeam s tid g).devNum = s.devNum := rfl
@[simp] theorem updTeam_idxCtr (s : State) (tid : Nat) (g : Team → Team) : (updTeam s tid g).idxCtr = s.idxCtr := rfl
@[simp] theorem updTeam_verCtr (s : State) (tid : Nat) (g : Team → Team) : (updTeam s tid g).verCtr = s.verCtr := rfl
@[simp] theorem updTeam_aliasCert (s : State) (tid : Nat) (g : Team → Team) : (updTeam s tid g).aliasCert = s.aliasCert := rfl
@[simp] theorem updTeam_aliasUsed (s : State) (tid : Nat) (g : Team → Team) : (updTeam s tid g).aliasUsed = s.aliasUsed := rfl
@[simp] theorem updTeam_fwSlot (s : State) (tid : Nat) (g : Team → Team) : (updTeam s tid g).fwSlot = s.fwSlot := rfl
@[simp] theorem updTeam_fwVersions (s : State) (tid : Nat) (g : Team → Team) : (updTeam s tid g).fwVersions = s.fwVersions := rfl
@[simp] theorem updTeam_fwMeasured (s : State) (tid : Nat) (g : Team → Team) : (updTeam s tid g).fwMeasured = s.fwMeasured := rfl
@[simp] theorem updTeam_mscLines (s : State) (tid : Nat) (g : Team → Team) : (updTeam s tid g).mscLines = s.mscLines := rfl
@[simp] theorem updTeam_tlb (s : State) (tid : Nat) (g : Team → Team) : (updTeam s tid g).tlb = s.tlb := rfl
@[simp] theorem updTeam_islandWrites (s : State) (tid : Nat) (g : Team → Team) : (updTeam s tid g).islandWrites = s.islandWrites := rfl
@[simp] theorem updTeam_bootFailed (s : State) (tid : Nat) (g : Team → Team) : (updTeam s tid g).bootFailed = s.bootFailed := rfl
@[simp] theorem updTeam_fwHashes (s : State) (tid : Nat) (g : Team → Team) : (updTeam s tid g).fwHashes = s.fwHashes := rfl
@[simp] theorem updTeam_fwSigned (s : State) (tid : Nat) (g : Team → Team) : (updTeam s tid g).fwSigned = s.fwSigned := rfl
@[simp] theorem updTeam_update (s : State) (tid : Nat) (g : Team → Team) : (updTeam s tid g).update = s.update := rfl
@[simp] theorem updTeam_corrected (s : State) (tid : Nat) (g : Team → Team) : (updTeam s tid g).corrected = s.corrected := rfl
@[simp] theorem updTeam_softPeriod (s : State) (tid : Nat) (g : Team → Team) : (updTeam s tid g).softPeriod = s.softPeriod := rfl
@[simp] theorem updTeam_window (s : State) (tid : Nat) (g : Team → Team) : (updTeam s tid g).window = s.window := rfl

/-! ## `updCtx` -/

@[simp] theorem updCtx_agenda (s : State) (cid : Nat) (g : Context → Context) : (updCtx s cid g).agenda = s.agenda := rfl
@[simp] theorem updCtx_freeIx (s : State) (cid : Nat) (g : Context → Context) : (updCtx s cid g).freeIx = s.freeIx := rfl
@[simp] theorem updCtx_fresh (s : State) (cid : Nat) (g : Context → Context) : (updCtx s cid g).fresh = s.fresh := rfl
@[simp] theorem updCtx_cur (s : State) (cid : Nat) (g : Context → Context) : (updCtx s cid g).cur = s.cur := rfl
@[simp] theorem updCtx_now (s : State) (cid : Nat) (g : Context → Context) : (updCtx s cid g).now = s.now := rfl
@[simp] theorem updCtx_mem (s : State) (cid : Nat) (g : Context → Context) : (updCtx s cid g).mem = s.mem := rfl
@[simp] theorem updCtx_scratch (s : State) (cid : Nat) (g : Context → Context) : (updCtx s cid g).scratch = s.scratch := rfl
@[simp] theorem updCtx_diePad (s : State) (cid : Nat) (g : Context → Context) : (updCtx s cid g).diePad = s.diePad := rfl
@[simp] theorem updCtx_poison (s : State) (cid : Nat) (g : Context → Context) : (updCtx s cid g).poison = s.poison := rfl
@[simp] theorem updCtx_scratchPoison (s : State) (cid : Nat) (g : Context → Context) : (updCtx s cid g).scratchPoison = s.scratchPoison := rfl
@[simp] theorem updCtx_copies (s : State) (cid : Nat) (g : Context → Context) : (updCtx s cid g).copies = s.copies := rfl
@[simp] theorem updCtx_inputs (s : State) (cid : Nat) (g : Context → Context) : (updCtx s cid g).inputs = s.inputs := rfl
@[simp] theorem updCtx_sramPoison (s : State) (cid : Nat) (g : Context → Context) : (updCtx s cid g).sramPoison = s.sramPoison := rfl
@[simp] theorem updCtx_homeLines (s : State) (cid : Nat) (g : Context → Context) : (updCtx s cid g).homeLines = s.homeLines := rfl
@[simp] theorem updCtx_codeCopies (s : State) (cid : Nat) (g : Context → Context) : (updCtx s cid g).codeCopies = s.codeCopies := rfl
@[simp] theorem updCtx_dropped (s : State) (cid : Nat) (g : Context → Context) : (updCtx s cid g).dropped = s.dropped := rfl
@[simp] theorem updCtx_lineT (s : State) (cid : Nat) (g : Context → Context) : (updCtx s cid g).lineT = s.lineT := rfl
@[simp] theorem updCtx_homeStores (s : State) (cid : Nat) (g : Context → Context) : (updCtx s cid g).homeStores = s.homeStores := rfl
@[simp] theorem updCtx_aliases (s : State) (cid : Nat) (g : Context → Context) : (updCtx s cid g).aliases = s.aliases := rfl
@[simp] theorem updCtx_holds (s : State) (cid : Nat) (g : Context → Context) : (updCtx s cid g).holds = s.holds := rfl
@[simp] theorem updCtx_refresh (s : State) (cid : Nat) (g : Context → Context) : (updCtx s cid g).refresh = s.refresh := rfl
@[simp] theorem updCtx_extents (s : State) (cid : Nat) (g : Context → Context) : (updCtx s cid g).extents = s.extents := rfl
@[simp] theorem updCtx_ops (s : State) (cid : Nat) (g : Context → Context) : (updCtx s cid g).ops = s.ops := rfl
@[simp] theorem updCtx_waves (s : State) (cid : Nat) (g : Context → Context) : (updCtx s cid g).waves = s.waves := rfl
@[simp] theorem updCtx_teams (s : State) (cid : Nat) (g : Context → Context) : (updCtx s cid g).teams = s.teams := rfl
@[simp] theorem updCtx_sweeps (s : State) (cid : Nat) (g : Context → Context) : (updCtx s cid g).sweeps = s.sweeps := rfl
@[simp] theorem updCtx_queues (s : State) (cid : Nat) (g : Context → Context) : (updCtx s cid g).queues = s.queues := rfl
@[simp] theorem updCtx_graphs (s : State) (cid : Nat) (g : Context → Context) : (updCtx s cid g).graphs = s.graphs := rfl
@[simp] theorem updCtx_postings (s : State) (cid : Nat) (g : Context → Context) : (updCtx s cid g).postings = s.postings := rfl
@[simp] theorem updCtx_guests (s : State) (cid : Nat) (g : Context → Context) : (updCtx s cid g).guests = s.guests := rfl
@[simp] theorem updCtx_nextOrder (s : State) (cid : Nat) (g : Context → Context) : (updCtx s cid g).nextOrder = s.nextOrder := rfl
@[simp] theorem updCtx_errors (s : State) (cid : Nat) (g : Context → Context) : (updCtx s cid g).errors = s.errors := rfl
@[simp] theorem updCtx_irqs (s : State) (cid : Nat) (g : Context → Context) : (updCtx s cid g).irqs = s.irqs := rfl
@[simp] theorem updCtx_spdm (s : State) (cid : Nat) (g : Context → Context) : (updCtx s cid g).spdm = s.spdm := rfl
@[simp] theorem updCtx_featReg (s : State) (cid : Nat) (g : Context → Context) : (updCtx s cid g).featReg = s.featReg := rfl
@[simp] theorem updCtx_featAcc (s : State) (cid : Nat) (g : Context → Context) : (updCtx s cid g).featAcc = s.featAcc := rfl
@[simp] theorem updCtx_featStat (s : State) (cid : Nat) (g : Context → Context) : (updCtx s cid g).featStat = s.featStat := rfl
@[simp] theorem updCtx_featLocked (s : State) (cid : Nat) (g : Context → Context) : (updCtx s cid g).featLocked = s.featLocked := rfl
@[simp] theorem updCtx_adminq (s : State) (cid : Nat) (g : Context → Context) : (updCtx s cid g).adminq = s.adminq := rfl
@[simp] theorem updCtx_boot (s : State) (cid : Nat) (g : Context → Context) : (updCtx s cid g).boot = s.boot := rfl
@[simp] theorem updCtx_portstat (s : State) (cid : Nat) (g : Context → Context) : (updCtx s cid g).portstat = s.portstat := rfl
@[simp] theorem updCtx_dieFence (s : State) (cid : Nat) (g : Context → Context) : (updCtx s cid g).dieFence = s.dieFence := rfl
@[simp] theorem updCtx_stackFence (s : State) (cid : Nat) (g : Context → Context) : (updCtx s cid g).stackFence = s.stackFence := rfl
@[simp] theorem updCtx_spanDown (s : State) (cid : Nat) (g : Context → Context) : (updCtx s cid g).spanDown = s.spanDown := rfl
@[simp] theorem updCtx_lostDevs (s : State) (cid : Nat) (g : Context → Context) : (updCtx s cid g).lostDevs = s.lostDevs := rfl
@[simp] theorem updCtx_islandLevel (s : State) (cid : Nat) (g : Context → Context) : (updCtx s cid g).islandLevel = s.islandLevel := rfl
@[simp] theorem updCtx_islandHeld (s : State) (cid : Nat) (g : Context → Context) : (updCtx s cid g).islandHeld = s.islandHeld := rfl
@[simp] theorem updCtx_islandHot (s : State) (cid : Nat) (g : Context → Context) : (updCtx s cid g).islandHot = s.islandHot := rfl
@[simp] theorem updCtx_devNum (s : State) (cid : Nat) (g : Context → Context) : (updCtx s cid g).devNum = s.devNum := rfl
@[simp] theorem updCtx_idxCtr (s : State) (cid : Nat) (g : Context → Context) : (updCtx s cid g).idxCtr = s.idxCtr := rfl
@[simp] theorem updCtx_verCtr (s : State) (cid : Nat) (g : Context → Context) : (updCtx s cid g).verCtr = s.verCtr := rfl
@[simp] theorem updCtx_aliasCert (s : State) (cid : Nat) (g : Context → Context) : (updCtx s cid g).aliasCert = s.aliasCert := rfl
@[simp] theorem updCtx_aliasUsed (s : State) (cid : Nat) (g : Context → Context) : (updCtx s cid g).aliasUsed = s.aliasUsed := rfl
@[simp] theorem updCtx_fwSlot (s : State) (cid : Nat) (g : Context → Context) : (updCtx s cid g).fwSlot = s.fwSlot := rfl
@[simp] theorem updCtx_fwVersions (s : State) (cid : Nat) (g : Context → Context) : (updCtx s cid g).fwVersions = s.fwVersions := rfl
@[simp] theorem updCtx_fwMeasured (s : State) (cid : Nat) (g : Context → Context) : (updCtx s cid g).fwMeasured = s.fwMeasured := rfl
@[simp] theorem updCtx_mscLines (s : State) (cid : Nat) (g : Context → Context) : (updCtx s cid g).mscLines = s.mscLines := rfl
@[simp] theorem updCtx_tlb (s : State) (cid : Nat) (g : Context → Context) : (updCtx s cid g).tlb = s.tlb := rfl
@[simp] theorem updCtx_islandWrites (s : State) (cid : Nat) (g : Context → Context) : (updCtx s cid g).islandWrites = s.islandWrites := rfl
@[simp] theorem updCtx_bootFailed (s : State) (cid : Nat) (g : Context → Context) : (updCtx s cid g).bootFailed = s.bootFailed := rfl
@[simp] theorem updCtx_fwHashes (s : State) (cid : Nat) (g : Context → Context) : (updCtx s cid g).fwHashes = s.fwHashes := rfl
@[simp] theorem updCtx_fwSigned (s : State) (cid : Nat) (g : Context → Context) : (updCtx s cid g).fwSigned = s.fwSigned := rfl
@[simp] theorem updCtx_update (s : State) (cid : Nat) (g : Context → Context) : (updCtx s cid g).update = s.update := rfl
@[simp] theorem updCtx_corrected (s : State) (cid : Nat) (g : Context → Context) : (updCtx s cid g).corrected = s.corrected := rfl
@[simp] theorem updCtx_softPeriod (s : State) (cid : Nat) (g : Context → Context) : (updCtx s cid g).softPeriod = s.softPeriod := rfl
@[simp] theorem updCtx_window (s : State) (cid : Nat) (g : Context → Context) : (updCtx s cid g).window = s.window := rfl

/-! ## `updSweep` -/

@[simp] theorem updSweep_agenda (s : State) (r : SweepRef) (g : Sweep → Sweep) : (updSweep s r g).agenda = s.agenda := rfl
@[simp] theorem updSweep_freeIx (s : State) (r : SweepRef) (g : Sweep → Sweep) : (updSweep s r g).freeIx = s.freeIx := rfl
@[simp] theorem updSweep_fresh (s : State) (r : SweepRef) (g : Sweep → Sweep) : (updSweep s r g).fresh = s.fresh := rfl
@[simp] theorem updSweep_cur (s : State) (r : SweepRef) (g : Sweep → Sweep) : (updSweep s r g).cur = s.cur := rfl
@[simp] theorem updSweep_now (s : State) (r : SweepRef) (g : Sweep → Sweep) : (updSweep s r g).now = s.now := rfl
@[simp] theorem updSweep_mem (s : State) (r : SweepRef) (g : Sweep → Sweep) : (updSweep s r g).mem = s.mem := rfl
@[simp] theorem updSweep_scratch (s : State) (r : SweepRef) (g : Sweep → Sweep) : (updSweep s r g).scratch = s.scratch := rfl
@[simp] theorem updSweep_diePad (s : State) (r : SweepRef) (g : Sweep → Sweep) : (updSweep s r g).diePad = s.diePad := rfl
@[simp] theorem updSweep_poison (s : State) (r : SweepRef) (g : Sweep → Sweep) : (updSweep s r g).poison = s.poison := rfl
@[simp] theorem updSweep_scratchPoison (s : State) (r : SweepRef) (g : Sweep → Sweep) : (updSweep s r g).scratchPoison = s.scratchPoison := rfl
@[simp] theorem updSweep_copies (s : State) (r : SweepRef) (g : Sweep → Sweep) : (updSweep s r g).copies = s.copies := rfl
@[simp] theorem updSweep_inputs (s : State) (r : SweepRef) (g : Sweep → Sweep) : (updSweep s r g).inputs = s.inputs := rfl
@[simp] theorem updSweep_sramPoison (s : State) (r : SweepRef) (g : Sweep → Sweep) : (updSweep s r g).sramPoison = s.sramPoison := rfl
@[simp] theorem updSweep_homeLines (s : State) (r : SweepRef) (g : Sweep → Sweep) : (updSweep s r g).homeLines = s.homeLines := rfl
@[simp] theorem updSweep_codeCopies (s : State) (r : SweepRef) (g : Sweep → Sweep) : (updSweep s r g).codeCopies = s.codeCopies := rfl
@[simp] theorem updSweep_dropped (s : State) (r : SweepRef) (g : Sweep → Sweep) : (updSweep s r g).dropped = s.dropped := rfl
@[simp] theorem updSweep_lineT (s : State) (r : SweepRef) (g : Sweep → Sweep) : (updSweep s r g).lineT = s.lineT := rfl
@[simp] theorem updSweep_homeStores (s : State) (r : SweepRef) (g : Sweep → Sweep) : (updSweep s r g).homeStores = s.homeStores := rfl
@[simp] theorem updSweep_aliases (s : State) (r : SweepRef) (g : Sweep → Sweep) : (updSweep s r g).aliases = s.aliases := rfl
@[simp] theorem updSweep_holds (s : State) (r : SweepRef) (g : Sweep → Sweep) : (updSweep s r g).holds = s.holds := rfl
@[simp] theorem updSweep_refresh (s : State) (r : SweepRef) (g : Sweep → Sweep) : (updSweep s r g).refresh = s.refresh := rfl
@[simp] theorem updSweep_extents (s : State) (r : SweepRef) (g : Sweep → Sweep) : (updSweep s r g).extents = s.extents := rfl
@[simp] theorem updSweep_ops (s : State) (r : SweepRef) (g : Sweep → Sweep) : (updSweep s r g).ops = s.ops := rfl
@[simp] theorem updSweep_waves (s : State) (r : SweepRef) (g : Sweep → Sweep) : (updSweep s r g).waves = s.waves := rfl
@[simp] theorem updSweep_teams (s : State) (r : SweepRef) (g : Sweep → Sweep) : (updSweep s r g).teams = s.teams := rfl
@[simp] theorem updSweep_contexts (s : State) (r : SweepRef) (g : Sweep → Sweep) : (updSweep s r g).contexts = s.contexts := rfl
@[simp] theorem updSweep_queues (s : State) (r : SweepRef) (g : Sweep → Sweep) : (updSweep s r g).queues = s.queues := rfl
@[simp] theorem updSweep_graphs (s : State) (r : SweepRef) (g : Sweep → Sweep) : (updSweep s r g).graphs = s.graphs := rfl
@[simp] theorem updSweep_postings (s : State) (r : SweepRef) (g : Sweep → Sweep) : (updSweep s r g).postings = s.postings := rfl
@[simp] theorem updSweep_guests (s : State) (r : SweepRef) (g : Sweep → Sweep) : (updSweep s r g).guests = s.guests := rfl
@[simp] theorem updSweep_nextOrder (s : State) (r : SweepRef) (g : Sweep → Sweep) : (updSweep s r g).nextOrder = s.nextOrder := rfl
@[simp] theorem updSweep_errors (s : State) (r : SweepRef) (g : Sweep → Sweep) : (updSweep s r g).errors = s.errors := rfl
@[simp] theorem updSweep_irqs (s : State) (r : SweepRef) (g : Sweep → Sweep) : (updSweep s r g).irqs = s.irqs := rfl
@[simp] theorem updSweep_spdm (s : State) (r : SweepRef) (g : Sweep → Sweep) : (updSweep s r g).spdm = s.spdm := rfl
@[simp] theorem updSweep_featReg (s : State) (r : SweepRef) (g : Sweep → Sweep) : (updSweep s r g).featReg = s.featReg := rfl
@[simp] theorem updSweep_featAcc (s : State) (r : SweepRef) (g : Sweep → Sweep) : (updSweep s r g).featAcc = s.featAcc := rfl
@[simp] theorem updSweep_featStat (s : State) (r : SweepRef) (g : Sweep → Sweep) : (updSweep s r g).featStat = s.featStat := rfl
@[simp] theorem updSweep_featLocked (s : State) (r : SweepRef) (g : Sweep → Sweep) : (updSweep s r g).featLocked = s.featLocked := rfl
@[simp] theorem updSweep_adminq (s : State) (r : SweepRef) (g : Sweep → Sweep) : (updSweep s r g).adminq = s.adminq := rfl
@[simp] theorem updSweep_boot (s : State) (r : SweepRef) (g : Sweep → Sweep) : (updSweep s r g).boot = s.boot := rfl
@[simp] theorem updSweep_portstat (s : State) (r : SweepRef) (g : Sweep → Sweep) : (updSweep s r g).portstat = s.portstat := rfl
@[simp] theorem updSweep_dieFence (s : State) (r : SweepRef) (g : Sweep → Sweep) : (updSweep s r g).dieFence = s.dieFence := rfl
@[simp] theorem updSweep_stackFence (s : State) (r : SweepRef) (g : Sweep → Sweep) : (updSweep s r g).stackFence = s.stackFence := rfl
@[simp] theorem updSweep_spanDown (s : State) (r : SweepRef) (g : Sweep → Sweep) : (updSweep s r g).spanDown = s.spanDown := rfl
@[simp] theorem updSweep_lostDevs (s : State) (r : SweepRef) (g : Sweep → Sweep) : (updSweep s r g).lostDevs = s.lostDevs := rfl
@[simp] theorem updSweep_islandLevel (s : State) (r : SweepRef) (g : Sweep → Sweep) : (updSweep s r g).islandLevel = s.islandLevel := rfl
@[simp] theorem updSweep_islandHeld (s : State) (r : SweepRef) (g : Sweep → Sweep) : (updSweep s r g).islandHeld = s.islandHeld := rfl
@[simp] theorem updSweep_islandHot (s : State) (r : SweepRef) (g : Sweep → Sweep) : (updSweep s r g).islandHot = s.islandHot := rfl
@[simp] theorem updSweep_devNum (s : State) (r : SweepRef) (g : Sweep → Sweep) : (updSweep s r g).devNum = s.devNum := rfl
@[simp] theorem updSweep_idxCtr (s : State) (r : SweepRef) (g : Sweep → Sweep) : (updSweep s r g).idxCtr = s.idxCtr := rfl
@[simp] theorem updSweep_verCtr (s : State) (r : SweepRef) (g : Sweep → Sweep) : (updSweep s r g).verCtr = s.verCtr := rfl
@[simp] theorem updSweep_aliasCert (s : State) (r : SweepRef) (g : Sweep → Sweep) : (updSweep s r g).aliasCert = s.aliasCert := rfl
@[simp] theorem updSweep_aliasUsed (s : State) (r : SweepRef) (g : Sweep → Sweep) : (updSweep s r g).aliasUsed = s.aliasUsed := rfl
@[simp] theorem updSweep_fwSlot (s : State) (r : SweepRef) (g : Sweep → Sweep) : (updSweep s r g).fwSlot = s.fwSlot := rfl
@[simp] theorem updSweep_fwVersions (s : State) (r : SweepRef) (g : Sweep → Sweep) : (updSweep s r g).fwVersions = s.fwVersions := rfl
@[simp] theorem updSweep_fwMeasured (s : State) (r : SweepRef) (g : Sweep → Sweep) : (updSweep s r g).fwMeasured = s.fwMeasured := rfl
@[simp] theorem updSweep_mscLines (s : State) (r : SweepRef) (g : Sweep → Sweep) : (updSweep s r g).mscLines = s.mscLines := rfl
@[simp] theorem updSweep_tlb (s : State) (r : SweepRef) (g : Sweep → Sweep) : (updSweep s r g).tlb = s.tlb := rfl
@[simp] theorem updSweep_islandWrites (s : State) (r : SweepRef) (g : Sweep → Sweep) : (updSweep s r g).islandWrites = s.islandWrites := rfl
@[simp] theorem updSweep_bootFailed (s : State) (r : SweepRef) (g : Sweep → Sweep) : (updSweep s r g).bootFailed = s.bootFailed := rfl
@[simp] theorem updSweep_fwHashes (s : State) (r : SweepRef) (g : Sweep → Sweep) : (updSweep s r g).fwHashes = s.fwHashes := rfl
@[simp] theorem updSweep_fwSigned (s : State) (r : SweepRef) (g : Sweep → Sweep) : (updSweep s r g).fwSigned = s.fwSigned := rfl
@[simp] theorem updSweep_update (s : State) (r : SweepRef) (g : Sweep → Sweep) : (updSweep s r g).update = s.update := rfl
@[simp] theorem updSweep_corrected (s : State) (r : SweepRef) (g : Sweep → Sweep) : (updSweep s r g).corrected = s.corrected := rfl
@[simp] theorem updSweep_softPeriod (s : State) (r : SweepRef) (g : Sweep → Sweep) : (updSweep s r g).softPeriod = s.softPeriod := rfl
@[simp] theorem updSweep_window (s : State) (r : SweepRef) (g : Sweep → Sweep) : (updSweep s r g).window = s.window := rfl

/-! ## `updOp` -/

@[simp] theorem updOp_agenda (s : State) (id : Nat) (g : Op → Op) : (updOp s id g).agenda = s.agenda := rfl
@[simp] theorem updOp_freeIx (s : State) (id : Nat) (g : Op → Op) : (updOp s id g).freeIx = s.freeIx := rfl
@[simp] theorem updOp_fresh (s : State) (id : Nat) (g : Op → Op) : (updOp s id g).fresh = s.fresh := rfl
@[simp] theorem updOp_cur (s : State) (id : Nat) (g : Op → Op) : (updOp s id g).cur = s.cur := rfl
@[simp] theorem updOp_now (s : State) (id : Nat) (g : Op → Op) : (updOp s id g).now = s.now := rfl
@[simp] theorem updOp_mem (s : State) (id : Nat) (g : Op → Op) : (updOp s id g).mem = s.mem := rfl
@[simp] theorem updOp_scratch (s : State) (id : Nat) (g : Op → Op) : (updOp s id g).scratch = s.scratch := rfl
@[simp] theorem updOp_diePad (s : State) (id : Nat) (g : Op → Op) : (updOp s id g).diePad = s.diePad := rfl
@[simp] theorem updOp_poison (s : State) (id : Nat) (g : Op → Op) : (updOp s id g).poison = s.poison := rfl
@[simp] theorem updOp_scratchPoison (s : State) (id : Nat) (g : Op → Op) : (updOp s id g).scratchPoison = s.scratchPoison := rfl
@[simp] theorem updOp_copies (s : State) (id : Nat) (g : Op → Op) : (updOp s id g).copies = s.copies := rfl
@[simp] theorem updOp_inputs (s : State) (id : Nat) (g : Op → Op) : (updOp s id g).inputs = s.inputs := rfl
@[simp] theorem updOp_sramPoison (s : State) (id : Nat) (g : Op → Op) : (updOp s id g).sramPoison = s.sramPoison := rfl
@[simp] theorem updOp_homeLines (s : State) (id : Nat) (g : Op → Op) : (updOp s id g).homeLines = s.homeLines := rfl
@[simp] theorem updOp_codeCopies (s : State) (id : Nat) (g : Op → Op) : (updOp s id g).codeCopies = s.codeCopies := rfl
@[simp] theorem updOp_dropped (s : State) (id : Nat) (g : Op → Op) : (updOp s id g).dropped = s.dropped := rfl
@[simp] theorem updOp_lineT (s : State) (id : Nat) (g : Op → Op) : (updOp s id g).lineT = s.lineT := rfl
@[simp] theorem updOp_homeStores (s : State) (id : Nat) (g : Op → Op) : (updOp s id g).homeStores = s.homeStores := rfl
@[simp] theorem updOp_aliases (s : State) (id : Nat) (g : Op → Op) : (updOp s id g).aliases = s.aliases := rfl
@[simp] theorem updOp_holds (s : State) (id : Nat) (g : Op → Op) : (updOp s id g).holds = s.holds := rfl
@[simp] theorem updOp_refresh (s : State) (id : Nat) (g : Op → Op) : (updOp s id g).refresh = s.refresh := rfl
@[simp] theorem updOp_extents (s : State) (id : Nat) (g : Op → Op) : (updOp s id g).extents = s.extents := rfl
@[simp] theorem updOp_waves (s : State) (id : Nat) (g : Op → Op) : (updOp s id g).waves = s.waves := rfl
@[simp] theorem updOp_teams (s : State) (id : Nat) (g : Op → Op) : (updOp s id g).teams = s.teams := rfl
@[simp] theorem updOp_sweeps (s : State) (id : Nat) (g : Op → Op) : (updOp s id g).sweeps = s.sweeps := rfl
@[simp] theorem updOp_contexts (s : State) (id : Nat) (g : Op → Op) : (updOp s id g).contexts = s.contexts := rfl
@[simp] theorem updOp_queues (s : State) (id : Nat) (g : Op → Op) : (updOp s id g).queues = s.queues := rfl
@[simp] theorem updOp_graphs (s : State) (id : Nat) (g : Op → Op) : (updOp s id g).graphs = s.graphs := rfl
@[simp] theorem updOp_postings (s : State) (id : Nat) (g : Op → Op) : (updOp s id g).postings = s.postings := rfl
@[simp] theorem updOp_guests (s : State) (id : Nat) (g : Op → Op) : (updOp s id g).guests = s.guests := rfl
@[simp] theorem updOp_nextOrder (s : State) (id : Nat) (g : Op → Op) : (updOp s id g).nextOrder = s.nextOrder := rfl
@[simp] theorem updOp_errors (s : State) (id : Nat) (g : Op → Op) : (updOp s id g).errors = s.errors := rfl
@[simp] theorem updOp_irqs (s : State) (id : Nat) (g : Op → Op) : (updOp s id g).irqs = s.irqs := rfl
@[simp] theorem updOp_spdm (s : State) (id : Nat) (g : Op → Op) : (updOp s id g).spdm = s.spdm := rfl
@[simp] theorem updOp_featReg (s : State) (id : Nat) (g : Op → Op) : (updOp s id g).featReg = s.featReg := rfl
@[simp] theorem updOp_featAcc (s : State) (id : Nat) (g : Op → Op) : (updOp s id g).featAcc = s.featAcc := rfl
@[simp] theorem updOp_featStat (s : State) (id : Nat) (g : Op → Op) : (updOp s id g).featStat = s.featStat := rfl
@[simp] theorem updOp_featLocked (s : State) (id : Nat) (g : Op → Op) : (updOp s id g).featLocked = s.featLocked := rfl
@[simp] theorem updOp_adminq (s : State) (id : Nat) (g : Op → Op) : (updOp s id g).adminq = s.adminq := rfl
@[simp] theorem updOp_boot (s : State) (id : Nat) (g : Op → Op) : (updOp s id g).boot = s.boot := rfl
@[simp] theorem updOp_portstat (s : State) (id : Nat) (g : Op → Op) : (updOp s id g).portstat = s.portstat := rfl
@[simp] theorem updOp_dieFence (s : State) (id : Nat) (g : Op → Op) : (updOp s id g).dieFence = s.dieFence := rfl
@[simp] theorem updOp_stackFence (s : State) (id : Nat) (g : Op → Op) : (updOp s id g).stackFence = s.stackFence := rfl
@[simp] theorem updOp_spanDown (s : State) (id : Nat) (g : Op → Op) : (updOp s id g).spanDown = s.spanDown := rfl
@[simp] theorem updOp_lostDevs (s : State) (id : Nat) (g : Op → Op) : (updOp s id g).lostDevs = s.lostDevs := rfl
@[simp] theorem updOp_islandLevel (s : State) (id : Nat) (g : Op → Op) : (updOp s id g).islandLevel = s.islandLevel := rfl
@[simp] theorem updOp_islandHeld (s : State) (id : Nat) (g : Op → Op) : (updOp s id g).islandHeld = s.islandHeld := rfl
@[simp] theorem updOp_islandHot (s : State) (id : Nat) (g : Op → Op) : (updOp s id g).islandHot = s.islandHot := rfl
@[simp] theorem updOp_devNum (s : State) (id : Nat) (g : Op → Op) : (updOp s id g).devNum = s.devNum := rfl
@[simp] theorem updOp_idxCtr (s : State) (id : Nat) (g : Op → Op) : (updOp s id g).idxCtr = s.idxCtr := rfl
@[simp] theorem updOp_verCtr (s : State) (id : Nat) (g : Op → Op) : (updOp s id g).verCtr = s.verCtr := rfl
@[simp] theorem updOp_aliasCert (s : State) (id : Nat) (g : Op → Op) : (updOp s id g).aliasCert = s.aliasCert := rfl
@[simp] theorem updOp_aliasUsed (s : State) (id : Nat) (g : Op → Op) : (updOp s id g).aliasUsed = s.aliasUsed := rfl
@[simp] theorem updOp_fwSlot (s : State) (id : Nat) (g : Op → Op) : (updOp s id g).fwSlot = s.fwSlot := rfl
@[simp] theorem updOp_fwVersions (s : State) (id : Nat) (g : Op → Op) : (updOp s id g).fwVersions = s.fwVersions := rfl
@[simp] theorem updOp_fwMeasured (s : State) (id : Nat) (g : Op → Op) : (updOp s id g).fwMeasured = s.fwMeasured := rfl
@[simp] theorem updOp_mscLines (s : State) (id : Nat) (g : Op → Op) : (updOp s id g).mscLines = s.mscLines := rfl
@[simp] theorem updOp_tlb (s : State) (id : Nat) (g : Op → Op) : (updOp s id g).tlb = s.tlb := rfl
@[simp] theorem updOp_islandWrites (s : State) (id : Nat) (g : Op → Op) : (updOp s id g).islandWrites = s.islandWrites := rfl
@[simp] theorem updOp_bootFailed (s : State) (id : Nat) (g : Op → Op) : (updOp s id g).bootFailed = s.bootFailed := rfl
@[simp] theorem updOp_fwHashes (s : State) (id : Nat) (g : Op → Op) : (updOp s id g).fwHashes = s.fwHashes := rfl
@[simp] theorem updOp_fwSigned (s : State) (id : Nat) (g : Op → Op) : (updOp s id g).fwSigned = s.fwSigned := rfl
@[simp] theorem updOp_update (s : State) (id : Nat) (g : Op → Op) : (updOp s id g).update = s.update := rfl
@[simp] theorem updOp_corrected (s : State) (id : Nat) (g : Op → Op) : (updOp s id g).corrected = s.corrected := rfl
@[simp] theorem updOp_softPeriod (s : State) (id : Nat) (g : Op → Op) : (updOp s id g).softPeriod = s.softPeriod := rfl
@[simp] theorem updOp_window (s : State) (id : Nat) (g : Op → Op) : (updOp s id g).window = s.window := rfl

/-! ## `updQueue` -/

@[simp] theorem updQueue_agenda (s : State) (q : QRef) (g : Queue → Queue) : (updQueue s q g).agenda = s.agenda := rfl
@[simp] theorem updQueue_freeIx (s : State) (q : QRef) (g : Queue → Queue) : (updQueue s q g).freeIx = s.freeIx := rfl
@[simp] theorem updQueue_fresh (s : State) (q : QRef) (g : Queue → Queue) : (updQueue s q g).fresh = s.fresh := rfl
@[simp] theorem updQueue_cur (s : State) (q : QRef) (g : Queue → Queue) : (updQueue s q g).cur = s.cur := rfl
@[simp] theorem updQueue_now (s : State) (q : QRef) (g : Queue → Queue) : (updQueue s q g).now = s.now := rfl
@[simp] theorem updQueue_mem (s : State) (q : QRef) (g : Queue → Queue) : (updQueue s q g).mem = s.mem := rfl
@[simp] theorem updQueue_scratch (s : State) (q : QRef) (g : Queue → Queue) : (updQueue s q g).scratch = s.scratch := rfl
@[simp] theorem updQueue_diePad (s : State) (q : QRef) (g : Queue → Queue) : (updQueue s q g).diePad = s.diePad := rfl
@[simp] theorem updQueue_poison (s : State) (q : QRef) (g : Queue → Queue) : (updQueue s q g).poison = s.poison := rfl
@[simp] theorem updQueue_scratchPoison (s : State) (q : QRef) (g : Queue → Queue) : (updQueue s q g).scratchPoison = s.scratchPoison := rfl
@[simp] theorem updQueue_copies (s : State) (q : QRef) (g : Queue → Queue) : (updQueue s q g).copies = s.copies := rfl
@[simp] theorem updQueue_inputs (s : State) (q : QRef) (g : Queue → Queue) : (updQueue s q g).inputs = s.inputs := rfl
@[simp] theorem updQueue_sramPoison (s : State) (q : QRef) (g : Queue → Queue) : (updQueue s q g).sramPoison = s.sramPoison := rfl
@[simp] theorem updQueue_homeLines (s : State) (q : QRef) (g : Queue → Queue) : (updQueue s q g).homeLines = s.homeLines := rfl
@[simp] theorem updQueue_codeCopies (s : State) (q : QRef) (g : Queue → Queue) : (updQueue s q g).codeCopies = s.codeCopies := rfl
@[simp] theorem updQueue_dropped (s : State) (q : QRef) (g : Queue → Queue) : (updQueue s q g).dropped = s.dropped := rfl
@[simp] theorem updQueue_lineT (s : State) (q : QRef) (g : Queue → Queue) : (updQueue s q g).lineT = s.lineT := rfl
@[simp] theorem updQueue_homeStores (s : State) (q : QRef) (g : Queue → Queue) : (updQueue s q g).homeStores = s.homeStores := rfl
@[simp] theorem updQueue_aliases (s : State) (q : QRef) (g : Queue → Queue) : (updQueue s q g).aliases = s.aliases := rfl
@[simp] theorem updQueue_holds (s : State) (q : QRef) (g : Queue → Queue) : (updQueue s q g).holds = s.holds := rfl
@[simp] theorem updQueue_refresh (s : State) (q : QRef) (g : Queue → Queue) : (updQueue s q g).refresh = s.refresh := rfl
@[simp] theorem updQueue_extents (s : State) (q : QRef) (g : Queue → Queue) : (updQueue s q g).extents = s.extents := rfl
@[simp] theorem updQueue_ops (s : State) (q : QRef) (g : Queue → Queue) : (updQueue s q g).ops = s.ops := rfl
@[simp] theorem updQueue_waves (s : State) (q : QRef) (g : Queue → Queue) : (updQueue s q g).waves = s.waves := rfl
@[simp] theorem updQueue_teams (s : State) (q : QRef) (g : Queue → Queue) : (updQueue s q g).teams = s.teams := rfl
@[simp] theorem updQueue_sweeps (s : State) (q : QRef) (g : Queue → Queue) : (updQueue s q g).sweeps = s.sweeps := rfl
@[simp] theorem updQueue_contexts (s : State) (q : QRef) (g : Queue → Queue) : (updQueue s q g).contexts = s.contexts := rfl
@[simp] theorem updQueue_graphs (s : State) (q : QRef) (g : Queue → Queue) : (updQueue s q g).graphs = s.graphs := rfl
@[simp] theorem updQueue_postings (s : State) (q : QRef) (g : Queue → Queue) : (updQueue s q g).postings = s.postings := rfl
@[simp] theorem updQueue_guests (s : State) (q : QRef) (g : Queue → Queue) : (updQueue s q g).guests = s.guests := rfl
@[simp] theorem updQueue_nextOrder (s : State) (q : QRef) (g : Queue → Queue) : (updQueue s q g).nextOrder = s.nextOrder := rfl
@[simp] theorem updQueue_errors (s : State) (q : QRef) (g : Queue → Queue) : (updQueue s q g).errors = s.errors := rfl
@[simp] theorem updQueue_irqs (s : State) (q : QRef) (g : Queue → Queue) : (updQueue s q g).irqs = s.irqs := rfl
@[simp] theorem updQueue_spdm (s : State) (q : QRef) (g : Queue → Queue) : (updQueue s q g).spdm = s.spdm := rfl
@[simp] theorem updQueue_featReg (s : State) (q : QRef) (g : Queue → Queue) : (updQueue s q g).featReg = s.featReg := rfl
@[simp] theorem updQueue_featAcc (s : State) (q : QRef) (g : Queue → Queue) : (updQueue s q g).featAcc = s.featAcc := rfl
@[simp] theorem updQueue_featStat (s : State) (q : QRef) (g : Queue → Queue) : (updQueue s q g).featStat = s.featStat := rfl
@[simp] theorem updQueue_featLocked (s : State) (q : QRef) (g : Queue → Queue) : (updQueue s q g).featLocked = s.featLocked := rfl
@[simp] theorem updQueue_adminq (s : State) (q : QRef) (g : Queue → Queue) : (updQueue s q g).adminq = s.adminq := rfl
@[simp] theorem updQueue_boot (s : State) (q : QRef) (g : Queue → Queue) : (updQueue s q g).boot = s.boot := rfl
@[simp] theorem updQueue_portstat (s : State) (q : QRef) (g : Queue → Queue) : (updQueue s q g).portstat = s.portstat := rfl
@[simp] theorem updQueue_dieFence (s : State) (q : QRef) (g : Queue → Queue) : (updQueue s q g).dieFence = s.dieFence := rfl
@[simp] theorem updQueue_stackFence (s : State) (q : QRef) (g : Queue → Queue) : (updQueue s q g).stackFence = s.stackFence := rfl
@[simp] theorem updQueue_spanDown (s : State) (q : QRef) (g : Queue → Queue) : (updQueue s q g).spanDown = s.spanDown := rfl
@[simp] theorem updQueue_lostDevs (s : State) (q : QRef) (g : Queue → Queue) : (updQueue s q g).lostDevs = s.lostDevs := rfl
@[simp] theorem updQueue_islandLevel (s : State) (q : QRef) (g : Queue → Queue) : (updQueue s q g).islandLevel = s.islandLevel := rfl
@[simp] theorem updQueue_islandHeld (s : State) (q : QRef) (g : Queue → Queue) : (updQueue s q g).islandHeld = s.islandHeld := rfl
@[simp] theorem updQueue_islandHot (s : State) (q : QRef) (g : Queue → Queue) : (updQueue s q g).islandHot = s.islandHot := rfl
@[simp] theorem updQueue_devNum (s : State) (q : QRef) (g : Queue → Queue) : (updQueue s q g).devNum = s.devNum := rfl
@[simp] theorem updQueue_idxCtr (s : State) (q : QRef) (g : Queue → Queue) : (updQueue s q g).idxCtr = s.idxCtr := rfl
@[simp] theorem updQueue_verCtr (s : State) (q : QRef) (g : Queue → Queue) : (updQueue s q g).verCtr = s.verCtr := rfl
@[simp] theorem updQueue_aliasCert (s : State) (q : QRef) (g : Queue → Queue) : (updQueue s q g).aliasCert = s.aliasCert := rfl
@[simp] theorem updQueue_aliasUsed (s : State) (q : QRef) (g : Queue → Queue) : (updQueue s q g).aliasUsed = s.aliasUsed := rfl
@[simp] theorem updQueue_fwSlot (s : State) (q : QRef) (g : Queue → Queue) : (updQueue s q g).fwSlot = s.fwSlot := rfl
@[simp] theorem updQueue_fwVersions (s : State) (q : QRef) (g : Queue → Queue) : (updQueue s q g).fwVersions = s.fwVersions := rfl
@[simp] theorem updQueue_fwMeasured (s : State) (q : QRef) (g : Queue → Queue) : (updQueue s q g).fwMeasured = s.fwMeasured := rfl
@[simp] theorem updQueue_mscLines (s : State) (q : QRef) (g : Queue → Queue) : (updQueue s q g).mscLines = s.mscLines := rfl
@[simp] theorem updQueue_tlb (s : State) (q : QRef) (g : Queue → Queue) : (updQueue s q g).tlb = s.tlb := rfl
@[simp] theorem updQueue_islandWrites (s : State) (q : QRef) (g : Queue → Queue) : (updQueue s q g).islandWrites = s.islandWrites := rfl
@[simp] theorem updQueue_bootFailed (s : State) (q : QRef) (g : Queue → Queue) : (updQueue s q g).bootFailed = s.bootFailed := rfl
@[simp] theorem updQueue_fwHashes (s : State) (q : QRef) (g : Queue → Queue) : (updQueue s q g).fwHashes = s.fwHashes := rfl
@[simp] theorem updQueue_fwSigned (s : State) (q : QRef) (g : Queue → Queue) : (updQueue s q g).fwSigned = s.fwSigned := rfl
@[simp] theorem updQueue_update (s : State) (q : QRef) (g : Queue → Queue) : (updQueue s q g).update = s.update := rfl
@[simp] theorem updQueue_corrected (s : State) (q : QRef) (g : Queue → Queue) : (updQueue s q g).corrected = s.corrected := rfl
@[simp] theorem updQueue_softPeriod (s : State) (q : QRef) (g : Queue → Queue) : (updQueue s q g).softPeriod = s.softPeriod := rfl
@[simp] theorem updQueue_window (s : State) (q : QRef) (g : Queue → Queue) : (updQueue s q g).window = s.window := rfl

/-! ## Updates of the agent's wave and path -/

@[simp] theorem updCur_eq (s : State) (a : AgentRef) (g : Wave → Wave) : updCur s a g = updWave s a.tid a.wave g := rfl
@[simp] theorem updPath_eq (s : State) (a : AgentRef) (g : Path → Path) :
    updPath s a g = updWave s a.tid a.wave fun w => w.updPath a.lane g := rfl
@[simp] theorem setScalar_eq (s : State) (a : AgentRef) (k : Nat) (x : Word) : setScalar s a k x = updPath s a fun p => p.setS k x := rfl

/-! ## Finding a record after an update -/

/-- A record found by a key that an update keeps. -/
theorem find_map_key {α : Type} (p : α → Bool) (g : α → α) (hp : ∀ x, p (g x) = p x) (l : List α) :
    (l.map g).find? p = (l.find? p).map g := by
  induction l with
  | nil => rfl
  | cons x r ih =>
    simp only [List.map_cons, List.find?_cons, hp]
    cases p x <;> simp [ih]

/-- The wave that was changed. -/
theorem findWave_updWave (s : State) (tid ix : Nat) (g : Wave → Wave) (hg : ∀ w, (g w).tid = w.tid ∧ (g w).ix = w.ix) :
    findWave (updWave s tid ix g) tid ix = (findWave s tid ix).map g := by
  unfold findWave updWave
  simp only
  rw [find_map_key (g := fun w => if w.tid == tid && w.ix == ix then g w else w)]
  · cases h : s.waves.find? (fun w => w.tid == tid && w.ix == ix) with
    | none => rfl
    | some w =>
      have := List.find?_some h
      simp only [Option.map_some, this, if_true]
  · intro w
    by_cases hw : (w.tid == tid && w.ix == ix) = true
    · simp only [hw, if_true, (hg w).1, (hg w).2]
    · simp only [hw, if_false, Bool.false_eq_true]

/-- Another wave than the one that was changed. -/
theorem findWave_updWave_ne (s : State) (tid ix t i : Nat) (g : Wave → Wave) (hg : ∀ w, (g w).tid = w.tid ∧ (g w).ix = w.ix)
    (hne : (t, i) ≠ (tid, ix)) : findWave (updWave s tid ix g) t i = findWave s t i := by
  unfold findWave updWave
  simp only
  induction s.waves with
  | nil => rfl
  | cons w r ih =>
    simp only [List.map_cons, List.find?_cons]
    by_cases hw : (w.tid == tid && w.ix == ix) = true
    · have h1 : (w.tid == t && w.ix == i) = false := by
        simp only [Bool.and_eq_true, beq_iff_eq] at hw
        cases hx : (w.tid == t && w.ix == i)
        · rfl
        · simp only [Bool.and_eq_true, beq_iff_eq] at hx
          exact absurd (by rw [← hx.1, ← hx.2, hw.1, hw.2]) hne
      simp only [hw, if_true, (hg w).1, (hg w).2, h1]
      exact ih
    · simp only [hw, if_false, Bool.false_eq_true]
      rw [ih]

/-- The team that was changed. -/
theorem findTeam_updTeam (s : State) (tid : Nat) (g : Team → Team) (hg : ∀ t, (g t).tid = t.tid) :
    findTeam (updTeam s tid g) tid = (findTeam s tid).map g := by
  unfold findTeam updTeam
  simp only
  rw [find_map_key (g := fun t => if t.tid == tid then g t else t)]
  · cases h : s.teams.find? (fun t => t.tid == tid) with
    | none => rfl
    | some t =>
      have := List.find?_some h
      simp only [Option.map_some, this, if_true]
  · intro t
    by_cases ht : (t.tid == tid) = true
    · simp only [ht, if_true, hg t]
    · simp only [ht, if_false, Bool.false_eq_true]

/-- The operation that was changed. -/
theorem findOp_updOp (s : State) (id : Nat) (g : Op → Op) (hg : ∀ o, (g o).id = o.id) :
    findOp (updOp s id g) id = (findOp s id).map g := by
  unfold findOp updOp
  simp only
  rw [find_map_key (g := fun o => if o.id == id then g o else o)]
  · cases h : s.ops.find? (fun o => o.id == id) with
    | none => rfl
    | some o =>
      have := List.find?_some h
      simp only [Option.map_some, this, if_true]
  · intro o
    by_cases ho : (o.id == id) = true
    · simp only [ho, if_true, hg o]
    · simp only [ho, if_false, Bool.false_eq_true]

@[simp] theorem findWave_updTeam (s : State) (tid : Nat) (g : Team → Team) (t i : Nat) : findWave (updTeam s tid g) t i = findWave s t i := rfl
@[simp] theorem findWave_updOp (s : State) (id : Nat) (g : Op → Op) (t i : Nat) : findWave (updOp s id g) t i = findWave s t i := rfl
@[simp] theorem findTeam_updWave (s : State) (tid ix : Nat) (g : Wave → Wave) (t : Nat) : findTeam (updWave s tid ix g) t = findTeam s t := rfl
@[simp] theorem findTeam_updOp (s : State) (id : Nat) (g : Op → Op) (t : Nat) : findTeam (updOp s id g) t = findTeam s t := rfl
@[simp] theorem findOp_updWave (s : State) (tid ix : Nat) (g : Wave → Wave) (id : Nat) : findOp (updWave s tid ix g) id = findOp s id := rfl
@[simp] theorem findQueue_updWave (s : State) (tid ix : Nat) (g : Wave → Wave) (q : QRef) : findQueue (updWave s tid ix g) q = findQueue s q := rfl
@[simp] theorem ctxOf_updWave (s : State) (tid ix : Nat) (g : Wave → Wave) (c : Nat) : ctxOf (updWave s tid ix g) c = ctxOf s c := rfl

end Sys2Proof.Machine
end

