-- ==== Sys2Proof/Tests/Slice0.lean ====
section
/-!
SUPPORT. Tests: words that the spec writes out, one ill-formed word for each check, single steps with results worked out from the spec's rules, and
for each statement that has hypotheses a state that meets them (`test_met_…`).
-/

namespace Sys2Proof.Tests
open Sys2Proof Sys2Proof.Machine
set_option Elab.async false

/-! ## Helpers -/

/-- A word from its fields (R32): opcode, the four spaces as one byte, D, A, B, C, and bits 15:0. -/
def wd (op sp d a b c lo : Nat) : Nat := 2 ^ 56 * op + 2 ^ 48 * sp + 2 ^ 40 * d + 2 ^ 32 * a + 2 ^ 24 * b + 2 ^ 16 * c + lo

/-- The state in which a word stands at its turn after reset: wave 0 of team 1 is in front of it. -/
def wordAt (w : Nat) : State := State.reset.withFetchWord 64 w

/-- The state with that wave changed. -/
def onWave (g : Wave → Wave) (s : State) : State := updWave s 1 0 g
/-- The state with its team changed. -/
def onTeam (g : Team → Team) (s : State) : State := updTeam s 1 g
/-- The state with its context changed. -/
def onCtx (g : Context → Context) (s : State) : State := updCtx s 1 g
/-- The state with its sweep changed. -/
def onSweep (g : Sweep → Sweep) (s : State) : State := { s with sweeps := s.sweeps.map g }

/-- The state at a tick. -/
def atTick (n : Nat) (s : State) : State := { s with now := n }

/-- Scalars preset. -/
def scal (l : List (Nat × Word)) : State → State := onWave fun w => { w with path := l.foldl (fun p x => p.setS x.1 x.2) w.path }
/-- Lane registers preset, lane by lane. -/
def lanes (r : Nat) (x : Nat → W32) : State → State := onWave fun w => w.setLanes r 0xFFFFFFFF x
/-- Lane registers preset, the same in each lane. -/
def lanesAll (l : List (Nat × W32)) (s : State) : State := l.foldl (fun s x => lanes x.1 (fun _ => x.2) s) s

/-- The state after one step; reset where the step stops. -/
def after (s : State) : State := match step s with | .next t => t | _ => State.reset
/-- The wave after a step. -/
def waveAfter (s : State) : Wave := ((after s).waves.find? fun w => w.ix == 0).getD (placedWave 0 .vector 0 0)

/-- The word at its turn in a state, with what it sees. -/
def turn (s : State) (ok : Instr → Fields → Env → Bool) : Bool :=
  match (curWord s).map decode with
  | some (.ok i) =>
    match fieldsOf i with
    | some f =>
      match envOf s i f with
      | some e =>
        mayIssue e.w e.who.lane && (e.who.lane.isNone || helperRuns i) && (!endsSkid i || !faultPending s e.w e.who.lane) && !rowWaits s e
          && (firstError s e i).isNone && ok i f e
      | none => false
    | none => false
  | _ => false

/-- What `turn` finds is a word at its turn. -/
theorem turn_met {s : State} {ok : Instr → Fields → Env → Bool} (h : turn s ok = true) : ∃ i f e, wordAtTurn s i f e ∧ ok i f e = true := by
  unfold turn at h
  split at h
  next i _ =>
    split at h
    next f hf =>
      split at h
      next e he =>
        simp only [Bool.and_eq_true, Bool.or_eq_true, Option.isNone_iff_eq_none, Bool.not_eq_true'] at h
        refine ⟨i, f, e, ⟨hf, he, h.1.1.1.1.1, h.1.1.1.1.2, fun hk => ?_, h.1.1.2, h.1.2⟩, h.2⟩
        rcases h.1.1.1.2 with h | h
        · rw [hk] at h; cases h
        · exact h
      next => cases h
    next => cases h
  next => cases h

/-- Each word of a list, placed in a state of its own that `g` then completes, is at its turn, and what it sees meets `ok`. -/
def Meets (ws : List Nat) (g : State → State) (ok : State → Instr → Fields → Env → Bool) : Prop :=
  ∀ w ∈ ws, ∃ i f e, wordAtTurn (g (wordAt w)) i f e ∧ ok (g (wordAt w)) i f e = true

theorem meets {ws : List Nat} {g : State → State} {ok : State → Instr → Fields → Env → Bool}
    (h : (ws.all fun w => turn (g (wordAt w)) (ok (g (wordAt w)))) = true) : Meets ws g ok :=
  fun w hw => turn_met (List.all_eq_true.1 h w hw)

/-! ## Words that the spec writes out -/

/-- Chapter 3. -/
theorem test_decode_iadd : decode 0x040802024000001C#64 = .ok (.iadd ⟨0, 0, 2, 0, 2, 2, 0x40, 0, 0, 0, false, false, false, 7, 0⟩) := by decide +kernel
/-- Chapter 3. -/
theorem test_decode_rds : decode 0x333009000000001C#64 = .ok (.rds ⟨0, 3, 0, 0, 9, 0, 0, 0, 0, 0, false, false, false, 7, 0⟩) := by decide +kernel
/-- Chapter 3. -/
theorem test_decode_movi : decode 0x022A150001000024#64 = .ok (.movi ⟨0, 2, 2, 2, 0x15, 0, 1, 0, 0, 0, false, false, true, 1, 0⟩) := by decide +kernel
/-- Chapter 6: `FFMA v0, v4, s51, s52`. -/
theorem test_decode_ffma : decode 0x230500043334001C#64 = .ok (.ffma ⟨0, 0, 1, 1, 0, 4, 51, 52, 0, 0, false, false, false, 7, 0⟩) := by decide +kernel
/-- Chapter 5: `WAITC c2, #0`. -/
theorem test_decode_waitc : decode 0x590400002200201C#64 = .ok (.waitc ⟨0, 0, 1, 0, 0, 0, 0x22, 0, 2, 0, false, false, false, 7, 0⟩) := by decide +kernel
/-- `REDW` of two halves. -/
theorem test_decode_redw : decode 0x320016200000001D#64 = .ok (.redw ⟨0, 0, 0, 0, 0x16, 0x20, 0, 0, 0, 0, false, false, false, 7, 1⟩) := by decide +kernel
/-- An `ATOM.add`. -/
theorem test_decode_atom : decode 0x541802040001101C#64 = .ok (.atom ⟨0, 1, 2, 0, 2, 4, 0, 1, 1, 0, false, false, false, 7, 0⟩) := by decide +kernel
/-- An `RSQ`. -/
theorem test_decode_rsq : decode 0x410003030000001C#64 = .ok (.rsq ⟨0, 0, 0, 0, 3, 3, 0, 0, 0, 0, false, false, false, 7, 0⟩) := by decide +kernel
/-- A `QBLK`. -/
theorem test_decode_qblk : decode 0x84500A140000201C#64 = .ok (.qblk ⟨1, 1, 0, 0, 0x0A, 0x14, 0, 0, 2, 0, false, false, false, 7, 0⟩) := by decide +kernel
/-- A `TALLOC`. -/
theorem test_decode_talloc : decode 0x88D708322701101C#64 = .ok (.talloc ⟨3, 1, 1, 3, 8, 0x32, 0x27, 1, 1, 0, false, false, false, 7, 0⟩) := by decide +kernel
/-- `GANGREL`. -/
theorem test_decode_gangrel : decode 0x7A0000000000001C#64 = .ok (.gangrel ⟨0, 0, 0, 0, 0, 0, 0, 0, 0, 0, false, false, false, 7, 0⟩) := by decide +kernel
/-- An `MMA`. -/
theorem test_decode_mma : decode 0x70D1000A080C001C#64 = .ok (.mma ⟨3, 1, 0, 1, 0, 0x0A, 8, 0x0C, 0, 0, false, false, false, 7, 0⟩) := by decide +kernel
/-- A `BRA`. -/
theorem test_decode_bra : decode 0x900A00000006001C#64 = .ok (.bra ⟨0, 0, 2, 2, 0, 0, 0, 6, 0, 0, false, false, false, 7, 0⟩) := by decide +kernel
/-- A far `BRA` is told from the near one by B's space (R138). -/
theorem test_decode_bra_far : decode 0x900000000000001C#64 = .ok (.braFar ⟨0, 0, 0, 0, 0, 0, 0, 0, 0, 0, false, false, false, 7, 0⟩) := by decide +kernel
/-- `TRAP #7` (R140). -/
theorem test_decode_trap : decode 0xB00800000700001C#64 = .ok (.trap ⟨0, 0, 2, 0, 0, 0, 7, 0, 0, 0, false, false, false, 7, 0⟩) := by decide +kernel
/-- A reserved opcode is refused by name (R33). -/
theorem test_decode_reserved : decode 0x3C0000000000001C#64 = .error (.reservedOpcode 0x3C) := by decide +kernel
/-- Chapter 2's headers. -/
theorem test_decode_headers : headerOfWord 0xC48007F800000000#64 = ⟨0, 9, 0, 15, 15, false, false, false⟩
    ∧ headerOfWord 0xD080017C00000000#64 = ⟨2, 1, 0, 2, 15, true, false, false⟩ := by decide +kernel
/-- The first instruction of a run of bytes, little-endian (R25). -/
theorem test_decode_bytes : decodeBytes [0x1C, 0, 0, 0, 0, 0, 0, 0x7A, 9] = .ok (.gangrel ⟨0, 0, 0, 0, 0, 0, 0, 0, 0, 0, false, false, false, 7, 0⟩, [9]) := by
  decide +kernel

/-! ## One ill-formed term for each check -/

/-- The subcodes that a word breaks (R33); none where its opcode is reserved. -/
def broken (w : Nat) : List Nat := match decode (BitVec.ofNat 64 w) with | .ok i => (staticErrors i).dedup | .error _ => []

/-- FIELD: NOP with a destination index. -/
theorem test_wf_field : broken (wd 0x00 0 1 0 0 0 0x1C) = [2] := by decide +kernel
/-- FIELD: IMULH with an unlisted code. -/
theorem test_wf_code : broken (wd 0x07 0 0 0 0 2 0x1C) = [2] := by decide +kernel
/-- SPACE: SEL takes no scalar destination. -/
theorem test_wf_space : broken (wd 0x03 0x43 0 0 0 0 0x1C) = [3] := by decide +kernel
/-- SPACE: a scalar destination takes no lane source (R245). -/
theorem test_wf_uniform : broken (wd 0x04 0x40 0 0 0 0 0x1C) = [3] := by decide +kernel
/-- INDEX: scalar 64 does not exist. -/
theorem test_wf_index : broken (wd 0x04 0x10 0 64 0 0 0x1C) = [4] := by decide +kernel
/-- INDEX: p7 is no destination (R35). -/
theorem test_wf_pred : broken (wd 0x1E 0xC0 7 0 0 0 0x1C) = [4] := by decide +kernel
/-- INDEX: an FP64 operand stands in an even register (R270). -/
theorem test_wf_align : broken (wd 0x27 0 1 0 0 0 0x1C) = [4] := by decide +kernel
/-- MODIFIER: code 1 suits no integer operand (R38). -/
theorem test_wf_modifier : broken (wd 0x04 0 0 0 0 0 0x101C) = [6] := by decide +kernel
/-- WIDTH: IMUL has no layout 11. -/
theorem test_wf_width : broken (wd 0x06 0 0 0 0 0 0x1F) = [7] := by decide +kernel
/-- HOLD: an immediate is not held (R39). -/
theorem test_wf_hold : broken (wd 0x04 8 0 0 0 0 0x5C) = [8] := by decide +kernel
/-- GUARD: p7 is not negated. -/
theorem test_wf_guard : broken (wd 0x00 0 0 0 0 0 0x3C) = [9] := by decide +kernel
/-- GUARD: FENCE takes none. -/
theorem test_wf_unguarded : broken (wd 0x58 0 0 0 0 0 0x04) = [9] := by decide +kernel
/-- A packet with a reserved byte set is not well-formed (R399). -/
theorem test_wf_packet : (Instr.nopPacket ⟨⟨1, 0⟩, 0, 0, none, 0, 0, false⟩).wf = false := by decide +kernel
/-- INDEX, BLOCK and FEATURE depend on the state: tile 4 of a wave with four, a register outside its blocks, a feature that is not accepted. -/
theorem test_issue_errors :
    (turn (wordAt (wd 0x72 0xC0 3 0 0 0 0x1C)) fun _ _ _ => true) = true
    ∧ (turn (wordAt (wd 0x72 0xC0 4 0 0 0 0x1C)) fun _ _ _ => true) = false
    ∧ (turn (wordAt (wd 0x01 0 63 0 0 0 0x1C)) fun _ _ _ => true) = true
    ∧ (turn (wordAt (wd 0x01 0 64 0 0 0 0x1C)) fun _ _ _ => true) = false
    ∧ (turn { wordAt (wd 0x27 0 0 0 0 0 0x1C) with featAcc := 1 } fun _ _ _ => true) = false := by decide +kernel

/-! ## States that meet the hypotheses of the statements about words -/

/-- MovesAndLogic: NOP, MOV, MOVI, SEL, AND, OR, XOR, NOT. -/
theorem test_met_MovesAndLogic : Meets [0x1c, 0x10000000000001c, 0x22a00000000001c, 0x30300000000001c, 0x100000000000001c, 0x110000000000001c, 0x120000000000001c, 0x130000000000001c] id
    (fun _ _ _ _ => true) := meets (by decide +kernel)

/-- IntegerArithmetic; the words with a code of 0 among them. -/
theorem test_met_IntegerArithmetic : Meets [0x40000000000001c, 0x50000000000001c, 0x60000000000001c, 0x70000000000001c, 0x80000000000001c, 0x90000000000001c, 0xd0300000000001c, 0xa0000000000001c, 0xb0000000000001c, 0xe0000000000001c, 0xf0000000000001c, 0xc0000000000001c] id
    (fun _ _ _ _ => true) := meets (by decide +kernel)

/-- IntegerArithmetic: IMIN, IMAX, IADDS and ISUBS with code 1. -/
theorem test_met_IntegerArithmetic_unsigned : Meets [wd 0x0A 0 0 0 0 1 0x1C, wd 0x0B 0 0 0 0 1 0x1C, wd 0x0E 0 0 0 0 1 0x1C, wd 0x0F 0 0 0 0 1 0x1C] id
    (fun _ _ f _ => f.c == 1) := meets (by decide +kernel)

/-- ShiftsAndRotates. -/
theorem test_met_ShiftsAndRotates : Meets [0x140000000000001c, 0x150000000000001c, 0x160000000000001c, 0x170000000000001c] id
    (fun _ _ _ _ => true) := meets (by decide +kernel)

/-- BitFieldsAndCounts. -/
theorem test_met_BitFieldsAndCounts : Meets [0x180000000000001c, 0x190000000000001c, 0x1a0000000000001c, 0x1b0000000000001c, 0x1c0000000000001c, 0x1d0000000000001c] id
    (fun _ _ _ _ => true) := meets (by decide +kernel)

/-- ConversionPackingAndShuffle. -/
theorem test_met_ConversionPackingAndShuffle : Meets [0x380000000000001c, 0x390000000000001d, 0x3a0000000000001d, 0x300000000000001c] id
    (fun _ _ _ _ => true) := meets (by decide +kernel)

/-- PredicatesAreWrittenInActiveLanes. -/
theorem test_met_PredicatesAreWrittenInActiveLanes : Meets [0x1ec000000000001c, 0x37fc00000000001c, 0x31f000000000001c] id
    (fun _ _ _ _ => true) := meets (by decide +kernel)

/-- SpecialRegistersAndMask: WRS of a value with no reserved bit, MOVEM with a lane left. -/
theorem test_met_SpecialRegistersAndMask : Meets [0x333000000000001c, 0x34D024000000001c, 0x365000000000001c, 0x350000000000001c] (scal [(0, 7)])
    (fun _ i f e => match i with
        | .wrs _ => e.act != 0 && (raw64 e (srcA f) &&& reservedBits f.d.toNat) == 0
        | .movem _ => ((raw64 e (srcA f)).truncate 32 &&& e.p.mask) != 0
        | _ => true) := meets (by decide +kernel)

/-- SpecialRegistersAndMask: WRS with a reserved bit. -/
theorem test_met_SpecialRegistersAndMask_reserved : Meets [0x34D024000000001c] (scal [(0, 0x100000000)])
    (fun _ _ f e => e.act != 0 && (raw64 e (srcA f) &&& reservedBits f.d.toNat) != 0) := meets (by decide +kernel)

/-- SpecialRegistersAndMask: MOVEM with no lane left. -/
theorem test_met_SpecialRegistersAndMask_empty : Meets [0x365000000000001c] id
    (fun _ _ f e => ((raw64 e (srcA f)).truncate 32 &&& e.p.mask) == 0) := meets (by decide +kernel)

/-- SpecialRegistersAndMask: MOVEM where no lane is enabled. -/
theorem test_met_SpecialRegistersAndMask_none : Meets [0x365000000000001c] (scal [(0, 7)] ∘ onWave fun w => { w with path := { w.path with em := 0 } })
    (fun _ _ f e => e.act == 0 && ((raw64 e (srcA f)).truncate 32 &&& e.p.mask) != 0) := meets (by decide +kernel)

/-- FloatArithmeticRoundsOnce, no trap raised: every word that it names. -/
theorem test_met_FloatArithmeticRoundsOnce : Meets [0x200000000000001c, 0x210000000000001c, 0x220000000000001c, 0x230000000000001c, 0x240000000000001c, 0x250000000000001c, 0x270000000000001c, 0x280000000000001c, 0x290000000000001c, 0x4c0000000000001c, 0x400000000000001c, 0x410000000000001c, 0x420000000000001c, 0x4b0000000000001c] id
    (fun _ i _ e => match fpRule i e with | some r => Nat.land (fpFlags e r.2) (trapsOf e.w) == 0 | none => false) := meets (by decide +kernel)

/-- FloatArithmeticRoundsOnce, a trap raised: the root of -1 with NV enabled. -/
theorem test_met_FloatArithmeticRoundsOnce_trap : Meets [0x420000000000001c] (lanesAll [(0, 0xBF800000)] ∘ onWave fun w => { w with fpm := 0xFFFF })
    (fun _ i _ e => match fpRule i e with | some r => Nat.land (fpFlags e r.2) (trapsOf e.w) != 0 | none => false) := meets (by decide +kernel)

/-- FloatWordsComplete: traps disabled. -/
theorem test_met_FloatWordsComplete : Meets [0x260000000000001c, 0x2a0000000006001d, 0x2b0000000006001d, 0x2c0000000006001d, 0x2f0000000066001c, 0x2d0000000011001c, 0x2e0000000033001c, 0x430000000000001c, 0x440000000000001c, 0x450000000000001c, 0x460000000000001c, 0x470000000000001c, 0x480000000000001c, 0x490000000000001c, 0x4a0000000000001c, 0x1fc000000000001c, 0x3bc000000000001c] id
    (fun _ _ _ e => trapsOf e.w == 0) := meets (by decide +kernel)

/-- RedwCombinesActiveLanes. -/
theorem test_met_RedwCombinesActiveLanes : Meets [0x320000000000001c] id
    (fun _ _ f e => e.act != 0 && Nat.land (redResult e).2 (trapsOf e.w) == 0 && f.c == 0 && f.w == 0) := meets (by decide +kernel)

/-- LoadsAndStoresIssueOneAccessPerActiveLane: room for the operation, all lanes active, no DET sweep. -/
theorem test_met_LoadsAndStoresIssueOneAccessPerActiveLane : Meets [0x501000000000001c, 0x511000000000001c, 0x521000000000001c, 0x531000000000001c, 0x575400000000041c, 0x541000000000001c, 0x551000000000001c, 0x561000000000041c, 0x621000000000001c, 0x631000000000001c, 0x661500000000001c] id
    (fun s _ _ e =>
        counterFull s e (some 0) == false && skidFull s e == false && isDet s e.t == false && detFull s e (.load 0 4) [] == false) := meets (by decide +kernel)

/-- The wave is a MATRIX wave with four tiles. -/
def asMatrix (s : State) : State := onWave (fun w => { w with role := .matrix }) (onTeam (fun t => { t with k := placedKernel .matrix }) s)

/-- LoadsAndStoresIssueOneAccessPerActiveLane: LDB and STB of a MATRIX wave. -/
theorem test_met_LoadsAndStoresIssueOneAccessPerActiveLane_bounds : Meets [0x64d400000000001c, 0x651700000000001c] (asMatrix)
    (fun s _ _ e => counterFull s e (some 0) == false && skidFull s e == false) := meets (by decide +kernel)

/-- No lane of the wave's path is active. -/
def noLane : State → State := onWave fun w => { w with path := { w.path with em := 0 } }

/-- LoadsAndStoresIssueOneAccessPerActiveLane: LDB, STB and LNWB with no active lane. -/
theorem test_met_LoadsAndStoresIssueOneAccessPerActiveLane_idle : Meets [0x64d400000000001c, 0x651700000000001c, 0x661500000000001c] (noLane ∘ asMatrix)
    (fun s _ _ e => e.act == 0 && counterFull s e (some 0) == false && skidFull s e == false) := meets (by decide +kernel)

/-- FencesRetireWhenCovered: nothing outstanding. -/
theorem test_met_FencesRetireWhenCovered : Meets [0x580000000000001c, 0x590400000000001c, 0x5a1000000000001c] id
    (fun s i f e => match i with
        | .fence _ => atBoundary s e == false && fenceDone s e f.bmod.toNat
        | .waitc _ => decide (counterOf s e.who.tid e.who.wave f.amod.toNat ≤ waitLimit e)
        | _ => true) := meets (by decide +kernel)

/-- An operation of wave 0 on counter 0 that has not completed. -/
def openOp (k : OpKind) (xs : List Access) (word : Word) : Op :=
  { id := 9, tid := 1, wave := 0, cn := some 0, kind := k, xpc := 0, word := word, lane := none, pid := 0, hist := [], flags := 0, accs := xs, unread := 0, kept := [], regWork := false, inTask := false
    retiredAt := 0, phase := .issued, last := 0, since := 0, batch := 0 }
/-- The state with such an operation. -/
def withOp (o : Op) (s : State) : State := { s with ops := s.ops ++ [o] }
/-- A store of one byte to the core area. -/
def oneStore : Op := openOp .scratchStore [⟨0, .core, 64, 1, 0xAB, 0, false, none, false⟩] 0x531000000000001C

/-- FencesRetireWhenCovered: a store outstanding. -/
theorem test_met_FencesRetireWhenCovered_waiting : Meets [0x580000000000001c, 0x590400000000001c] (withOp oneStore)
    (fun s i f e => match i with
        | .fence _ => atBoundary s e == false && fenceDone s e f.bmod.toNat == false
        | _ => decide (waitLimit e < counterOf s e.who.tid e.who.wave f.amod.toNat)) := meets (by decide +kernel)

/-- The team with one held triad at entry 0. -/
def holding : State → State := onTeam fun t => { t with triads := [⟨true, 5, 10, some 0, false, true, 3⟩] }
/-- Its token. -/
def heldToken : Word := tokenOf 0 ⟨true, 5, 10, some 0, false, true, 3⟩ true
/-- Its wave holds the token in s0. -/
def tokenHeld (s : State) : State := scal [(0, heldToken)] (holding s)

/-- RowWordsComplete: ROWOPEN of a fresh triad. -/
theorem test_met_RowWordsComplete_open : Meets [0x5b5400000000001c] (onTeam fun t => { t with triads := [⟨false, 0, 0, none, false, false, 0⟩] })
    (fun s _ _ e => e.act != 0 && counterFull s e (some 0) == false && skidFull s e == false
        && (pickEntry e.t.triads ((addrOf e 0).toNat / 3072)).isSome && (rangeFault (addrOf e 0) 1).isNone) := meets (by decide +kernel)

/-- RowWordsComplete: the words on a held triad, which the token names. -/
theorem test_met_RowWordsComplete : Meets [0x5c1000000000041c, 0x5d1000000000041c, 0x5e1000000000001c, 0x5f5000000000001c] (tokenHeld)
    (fun s i f e => match tokenEntry e.t (e.p.s f.a.toNat), i with
        | some x, .rowrel _ => rowBusy s e x.triad == false
        | some _, _ => counterFull s e (some 0) == false
        | none, _ => false) := meets (by decide +kernel)

/-- RowWordsComplete: ROWOPEN and ROWQ with no active lane. -/
theorem test_met_RowWordsComplete_idle : Meets [0x5b5400000000001c, 0x5f5000000000001c] (noLane)
    (fun s _ _ e => e.act == 0 && counterFull s e (some 0) == false && skidFull s e == false) := meets (by decide +kernel)

/-- RowWordsComplete: ROWREL while a ROWLD through its entry is outstanding. -/
theorem test_met_RowWordsComplete_busy : Meets [0x5e1000000000001c] (withOp { openOp (.load 7 4) [⟨0, .g, 0, 4, 0, 0, false, none, false⟩] 0x5C1000000000041C with kept := [0] } ∘ tokenHeld)
    (fun s _ f e => (tokenEntry e.t (e.p.s f.a.toNat)).isSome && rowBusy s e (tokenIdx (e.p.s f.a.toNat))) := meets (by decide +kernel)

/-- RowWordsComplete: a token of an old generation. -/
theorem test_met_RowWordsComplete_stale : Meets [0x5c1000000000041c, 0x5d1000000000041c, 0x5e1000000000001c, 0x5f5000000000001c] (scal [(0, 0)] ∘ holding)
    (fun _ _ f e => (tokenEntry e.t (e.p.s f.a.toNat)).isNone) := meets (by decide +kernel)

/-- Jar 1 of the context in a state, generation 2, one granule at VA 0x30000; h0 is a handle on it. -/
def jarState (state kind rights gen : Nat) (s : State) : State :=
  onCtx (fun c => { c with jcount := 4, jars := [(1, { jarFree with base := 0x30000, len := 1, state := state, gen := 2 })] })
    (onWave (fun w => w.setH 0 (mkHandle kind rights 1 gen 0)) s)

/-- Every lane's index lies inside the jar. -/
def insideJar (e : Env) : Bool := (lanesOf e.act).all fun l => decide (0 ≤ indexOf e l) && decide (indexOf e l + 1 ≤ 49152)

/-- JarAccessesIssue: LDT of a FILLED jar through a seeing handle that may read. -/
theorem test_met_JarAccessesIssue_read : Meets [0x603000000000001c] (jarState 2 2 15 2)
    (fun s _ f e => e.act != 0 && recordSeen s e.c (e.w.h f.a.toNat) && (staleSub s e.c (e.w.h f.a.toNat)).isNone && !isFill (e.w.h f.a.toNat)
        && hasRight (e.w.h f.a.toNat) rightRead && (jarFor s e.c (e.w.h f.a.toNat)).state == 2 && insideJar e) := meets (by decide +kernel)

/-- JarAccessesIssue: LDT of an ABANDONED jar. -/
theorem test_met_JarAccessesIssue_abandoned : Meets [0x603000000000001c] (jarState 3 2 15 2)
    (fun s _ f e => recordSeen s e.c (e.w.h f.a.toNat) && (staleSub s e.c (e.w.h f.a.toNat)).isNone && !isFill (e.w.h f.a.toNat)
        && hasRight (e.w.h f.a.toNat) rightRead && (jarFor s e.c (e.w.h f.a.toNat)).state == 3 && insideJar e) := meets (by decide +kernel)

/-- JarAccessesIssue: LDT through a filling handle; STF through a seeing one. -/
theorem test_met_JarAccessesIssue_kind : Meets [0x603000000000001c] (jarState 1 1 15 2)
      (fun s _ f e => recordSeen s e.c (e.w.h f.a.toNat) && (staleSub s e.c (e.w.h f.a.toNat)).isNone && isFill (e.w.h f.a.toNat))
    ∧ Meets [0x613000000000001c] (jarState 2 2 15 2)
      (fun s _ f e => recordSeen s e.c (e.w.h f.a.toNat) && (staleSub s e.c (e.w.h f.a.toNat)).isNone && isSee (e.w.h f.a.toNat)) :=
  ⟨meets (by decide +kernel), meets (by decide +kernel)⟩

/-- The record of a jar of another Y3 of the domain, of which the step's inputs say nothing, has not been read. -/
theorem recordSeen_remote {s : State} {c : Context} {h : Word} (h0 : (h != 0 && handleDev h != ownDev s && s.inputs.jars.isEmpty && s.devNum.isSome) = true)
    (hd : Config.inDomain (handleDev h) = true) : recordSeen s c h = false := by
  simp only [Bool.and_eq_true, bne_iff_ne, ne_eq, List.isEmpty_iff] at h0
  simpa [recordSeen, isRemote, remoteJar, inDomain, hd, h0.1.1.2, h0.1.2, h0.2] using h0.1.1.1

/-- The handle h0 names a jar of device 7. -/
def remoteHandle (s : State) : State := onWave (fun w => w.setH 0 (mkHandle 2 15 1 2 7)) { s with devNum := some 0 }

/-- JarAccessesIssue, HandleWordsComplete: words that read the record of a jar of device 7, where `recordSeen_remote` applies if it is a Y3 of the domain. -/
theorem test_met_JarAccessesIssue_remote : Meets [0x603000000000001c, 0x613000000000001c, 0x8b3800000000001c, 0x8af801000000001c] (remoteHandle)
    (fun s i f e => e.w.h f.a.toNat != 0 && handleDev (e.w.h f.a.toNat) != ownDev s && s.inputs.jars.isEmpty && s.devNum.isSome && handleDev (e.w.h f.a.toNat) == 7 && (match i with
        | .tcopy _ => e.act != 0 && (copyTarget s e).any (fun w => !isFill (w.h f.d.toNat)) && requestBad f.b.toNat == false
        | .tsend _ => e.act != 0 && e.w.task.isNone && isDet s e.t == false && decide (f.b.toNat ≤ 255)
        | _ => true)) := meets (by decide +kernel)

/-- JarAccessesIssue: STF into a FILLING jar through a filling handle that may write. -/
theorem test_met_JarAccessesIssue_write : Meets [0x613000000000001c] (jarState 1 1 15 2)
    (fun s _ f e => e.act != 0 && recordSeen s e.c (e.w.h f.a.toNat) && (staleSub s e.c (e.w.h f.a.toNat)).isNone && !isSee (e.w.h f.a.toNat)
        && hasRight (e.w.h f.a.toNat) rightWrite && insideJar e) := meets (by decide +kernel)

/-- JarAccessesIssue: LDT waits while the jar is FILLING. -/
theorem test_met_JarAccessesIssue_filling : Meets [0x603000000000001c] (jarState 1 2 15 2)
    (fun s _ f e => e.act != 0 && e.who.lane.isNone && recordSeen s e.c (e.w.h f.a.toNat) && (staleSub s e.c (e.w.h f.a.toNat)).isNone
        && !isFill (e.w.h f.a.toNat) && hasRight (e.w.h f.a.toNat) rightRead && (jarFor s e.c (e.w.h f.a.toNat)).state == 1 && insideJar e) := meets (by decide +kernel)

/-- JarAccessesIssue: a handle of an old generation. -/
theorem test_met_JarAccessesIssue_stale : Meets [0x603000000000001c, 0x613000000000001c] (jarState 2 2 15 1)
    (fun s _ f e => recordSeen s e.c (e.w.h f.a.toNat) && (staleSub s e.c (e.w.h f.a.toNat)).isSome) := meets (by decide +kernel)

/-- JarAccessesIssue: no lane active. -/
theorem test_met_JarAccessesIssue_idle : Meets [0x603000000000001c] (noLane ∘ jarState 2 2 15 2)
    (fun s _ f e => e.act == 0 && (staleSub s e.c (e.w.h f.a.toNat)).isNone && counterFull s e (some 0) == false) := meets (by decide +kernel)

/-- TransfersOfAllLanes: every lane goes. -/
theorem test_met_TransfersOfAllLanes : Meets [0x900a00000006001c, 0x900000000000001c, 0x911a00000000001c] id
    (fun _ _ f e => e.act != 0 && (e.p.em &&& ~~~e.act) == 0 && decide ((e.p.s f.a.toNat).toNat < 2 ^ 32) && (e.p.s f.a.toNat).toNat % 8 == 0) := meets (by decide +kernel)

/-- TransfersOfAllLanes: no lane goes. -/
theorem test_met_TransfersOfAllLanes_none : Meets [0x900A000900060000, 0x911A000000060000, 0x9300000000000000, 0xA60A000000060000] id
    (fun _ i f e => e.act == 0 && (match i with | .eject _ => nearOffset f != 0 | _ => true)) := meets (by decide +kernel)

/-- TransfersOfAllLanes: LOOP with 2 and more to go, and CALL. -/
theorem test_met_TransfersOfAllLanes_loop : Meets [0xa04a00000000001c, 0x920000000000001c] (scal [(0, 2)])
    (fun _ i f e => e.act != 0 && (match i with | .loop _ => decide (2 ≤ (e.p.s f.d.toNat).toNat) | _ => decide (nextHeader e - e.sw.code < 2 ^ 32))) := meets (by decide +kernel)

/-- TransfersOfAllLanes: LOOP with 1 to go. -/
theorem test_met_TransfersOfAllLanes_last : Meets [0xa04a00000000001c] (scal [(0, 1)])
    (fun _ _ f e => e.act != 0 && e.p.s f.d.toNat == 1) := meets (by decide +kernel)

/-- TransfersOfAllLanes: LOOP with none to go, and RET. -/
theorem test_met_TransfersOfAllLanes_done : Meets [0xa04a00000000001c, 0x940000000000001c] id
    (fun _ i f e => match i with | .loop _ => e.p.s f.d.toNat == 0 | _ => decide ((e.p.s 62).toNat < 2 ^ 32) && (e.p.s 62).toNat % 8 == 0 && e.w.stack.isEmpty) := meets (by decide +kernel)

/-- p0 holds in lane 0 alone. -/
def lane0 : State → State := onWave fun w => w.setP 0 0xFFFFFFFF 1

/-- SplitsPushOneLevel: BRA and BRX under a guard that holds in lane 0, with a join; ICALL and EJECT. -/
theorem test_met_SplitsPushOneLevel : Meets [0x900A000900060000, 0x911A000000060000, 0x9300000000000000, 0xA60A000000060000] (lane0)
    (fun _ i f e => e.who.lane.isNone && spillFails e.t e.w.stack.length == false && e.act != 0 && (match i with
        | .bra _ => (e.p.em &&& ~~~e.act) != 0 && joinOfDA f != 0
        | .brx _ => (e.p.em &&& ~~~e.act) != 0 && nearOffset f != 0 && decide ((e.p.s f.a.toNat).toNat < 2 ^ 32) && (e.p.s f.a.toNat).toNat % 8 == 0
        | .icall _ => decide (nextHeader e - e.sw.code < 2 ^ 32)
        | _ => nearOffset f != 0)) := meets (by decide +kernel)

/-- The wave stands in one level that reconverges at its own clause. -/
def inLevel (joins : Nat) : State → State := onWave fun w =>
  { w with stack := [⟨7, .join, 0, 0xFFFFFFFF, 0xFFFFFFFF, 0, [], 0, [], joins, [], []⟩] }

/-- JoinReconverges: outside every level. -/
theorem test_met_JoinReconverges_outside : Meets [0x950000000000001c] id
    (fun _ _ _ e => e.who.lane.isNone && e.w.stack.isEmpty) := meets (by decide +kernel)

/-- JoinReconverges: at the level's reconvergence, every other path there. -/
theorem test_met_JoinReconverges : Meets [0x950000000000001c] (inLevel 0)
    (fun _ _ _ e => e.who.lane.isNone && (match e.w.stack with | d :: _ => d.recon == e.k.hdrVa && d.pending.isEmpty && d.joinCount == 0 | [] => false)) := meets (by decide +kernel)

/-- JoinReconverges: a deeper level reconverges at the word, the innermost one elsewhere. -/
theorem test_met_JoinReconverges_deeper : Meets [0x950000000000001c] (onWave fun w =>
      { w with stack := [⟨8, .join, 48, 3, 3, 0, [], 0, [], 0, [], []⟩, ⟨7, .join, 0, 0xFFFFFFFF, 0xFFFFFFFF, 0, [], 0, [], 0, [], []⟩] })
    (fun _ _ _ e => e.who.lane.isNone && (match e.w.stack with | d :: r => d.recon != e.k.hdrVa && r.any (·.recon == e.k.hdrVa) | [] => false)) := meets (by decide +kernel)

/-- JoinReconverges: another serial path of the level still has to run. -/
theorem test_met_JoinReconverges_serial : Meets [0x950000000000001c] (onWave fun w =>
      { w with stack := [⟨7, .join, 0, 0xFFFFFFFF, 0xFFFFFFFF, 0, [], 0, [], 0, [{ w.path with pid := 5, em := 2, mask := 2 }], []⟩] })
    (fun _ _ _ e => e.who.lane.isNone && (match e.w.stack with | d :: _ => d.recon == e.k.hdrVa && !d.pending.isEmpty | [] => false)) := meets (by decide +kernel)

/-- JoinReconverges: the continuation of lane 3 comes to its own level's reconvergence. -/
theorem test_met_JoinReconverges_continuation : Meets [0x950000000000001c] (fun s =>
      let t := onWave (fun w => { w with conts := [⟨3, 7, 0, { w.path with em := 8, mask := 8 }⟩], status := .join }) (inLevel 1 s)
      { t with cur := t.cur.map fun a => { a with lane := some 3 } })
    (fun _ _ _ e => match e.who.lane with
      | some l => (match e.w.conts.find? fun x => x.lane == l with
        | some c => (match levelsFrom c.lid e.w.stack with | d :: _ => d.recon == e.k.hdrVa && d.joinCount == 1 | [] => false)
        | none => false)
      | none => false) := meets (by decide +kernel)

/-- JoinReconverges: a continuation is still out. -/
theorem test_met_JoinReconverges_waits : Meets [0x950000000000001c] (inLevel 1)
    (fun _ _ _ e => e.who.lane.isNone && (match e.w.stack with | d :: _ => d.recon == e.k.hdrVa && d.pending.isEmpty && d.joinCount != 0 | [] => false)) := meets (by decide +kernel)

/-- WaitingWordsStopTheirWave: BAR, BARC of one wave, YIELD, REGPUT without blocks, SLEEP whose tick has come, WAITF. -/
theorem test_met_WaitingWordsStopTheirWave : Meets [0x960000000000001C, 0x971800000100001C, 0x980000000000001C, 0x9C0000000000001C, 0xA10400000100001C, 0x9A0A00000000001C] (scal [(0, 1)] ∘ atTick 1)
    (fun s i f e => e.who.lane.isNone && e.w.stack.isEmpty && e.w.conts.isEmpty && atBoundary s e == false && fenceDone s e 1 && (match i with
        | .barc _ => decide (1 ≤ f.b.toNat) && decide (f.b.toNat ≤ 7) && e.p.s f.a.toNat == 1 && (barrierOf e.t f.b.toNat).arrived.isEmpty && (barrierOf e.t f.b.toNat).closed == false
        | .yield _ => e.w.preq == false
        | .regput _ => e.w.blocks == 0
        | .sleep _ => decide (wakeTick s e ≤ s.now)
        | .bar _ => (barrierOf e.t 0).closed == false
        | .waitf _ => decide (imm16u f < 4096) && heldAtYield e.w == false && (flagsAtWait s e &&& BitVec.ofNat 12 (imm16u f)) == 0
        | _ => true)) := meets (by decide +kernel)

/-- WaitingWordsStopTheirWave: BARC of sixteen waves at barrier 7. -/
theorem test_met_WaitingWordsStopTheirWave_sixteen : Meets [0x971800000700001C] (scal [(0, 16)])
    (fun _ _ f e => f.b == 7 && e.p.s f.a.toNat == 16) := meets (by decide +kernel)

/-- WaitingWordsStopTheirWave: BARC at a barrier whose generation is closed, without the wave. -/
theorem test_met_WaitingWordsStopTheirWave_next : Meets [0x971800000700001C] (scal [(0, 1)] ∘ onTeam fun t => { t with barriers := [⟨7, [5], some 1, 0, true⟩] })
    (fun s _ f e => e.who.lane.isNone && e.w.stack.isEmpty && e.w.conts.isEmpty && fenceDone s e 1 && e.p.s f.a.toNat == 1
        && (barrierOf e.t f.b.toNat).closed && (barrierOf e.t f.b.toNat).arrived.contains e.who.wave == false) := meets (by decide +kernel)

/-- WaitingWordsStopTheirWave: WAITF held by a request to stop. -/
theorem test_met_WaitingWordsStopTheirWave_held : Meets [0x9A0A00000000001C] (onWave fun w => { w with preq := true, status := .retry })
    (fun _ _ f e => decide (imm16u f < 4096) && heldAtYield e.w && e.who.lane.isNone) := meets (by decide +kernel)

/-- WaitingWordsStopTheirWave: SLEEP and WAITS still to come. -/
theorem test_met_WaitingWordsStopTheirWave_sleeps : Meets [0xa10400000000001c, 0xa55400000000001c] (scal [(0, 8)])
    (fun s i f e => match i with | .sleep _ => decide (s.now < wakeTick s e) | _ => e.act != 0 && (e.p.s f.a.toNat).toNat % 8 == 0) := meets (by decide +kernel)

/-- WaitingWordsStopTheirWave: WAITF on a flag that an operation holds. -/
theorem test_met_WaitingWordsStopTheirWave_flag : Meets [0x9A0A00000001001C] (withOp { oneStore with flags := 1, regWork := true })
    (fun s _ f e => (flagsAtWait s e &&& BitVec.ofNat 12 (imm16u f)) != 0) := meets (by decide +kernel)

/-- WaitingWordsStopTheirWave: YIELD under a request to stop. -/
theorem test_met_WaitingWordsStopTheirWave_preq : Meets [0x980000000000001c] (onWave fun w => { w with preq := true })
    (fun _ _ _ e => e.w.preq) := meets (by decide +kernel)

/-- WaitingWordsStopTheirWave: REGGET within the budget. -/
theorem test_met_WaitingWordsStopTheirWave_regget : Meets [0x9B0800000100001C] (onTeam fun t => { t with k := { t.k with extVector := 1 } })
    (fun _ _ f e => e.w.stack.isEmpty && e.w.conts.isEmpty && decide (1 ≤ f.b.toNat) && decide (f.b.toNat ≤ 3) && e.w.blocks == 0 && decide (f.b.toNat ≤ blockBudget e.w e.t.k)) := meets (by decide +kernel)

/-- WaitingWordsStopTheirWave: REGPUT of blocks. -/
theorem test_met_WaitingWordsStopTheirWave_regput : Meets [0x9c0000000000001c] (onWave fun w => { w with blocks := 1 })
    (fun s _ _ e => e.w.stack.isEmpty && e.w.conts.isEmpty && e.w.blocks != 0 && (waveOps s e.who.tid e.who.wave).all fun o => usesBlock o == false) := meets (by decide +kernel)

/-- WaitingWordsStopTheirWave: REGPUT behind a load into v64, and behind a store whose lanes have still to read v64. -/
theorem test_met_WaitingWordsStopTheirWave_regput_waits :
    Meets [0x9c0000000000001c] ((onWave fun w => { w with blocks := 1 }) ∘ withOp { openOp (.load 64 4) [⟨0, .g, 0, 4, 0, 0, false, none, false⟩] 0x501040000000041C with regWork := true })
      (fun s _ _ e => e.w.stack.isEmpty && e.w.conts.isEmpty && e.w.blocks != 0 && (waveOps s e.who.tid e.who.wave).any writesBlock)
    ∧ Meets [0x9c0000000000001c] ((onWave fun w => { w with blocks := 1 }) ∘ withOp { openOp (.store none) [⟨0, .g, 0, 4, 0, 0, false, none, false⟩] (BitVec.ofNat 64 (wd 0x51 0x10 0 0 0 64 0x41C)) with unread := 1 })
      (fun s _ _ e => e.w.stack.isEmpty && e.w.conts.isEmpty && e.w.blocks != 0
        && (waveOps s e.who.tid e.who.wave).any fun o => o.phase != .complete && o.unread != 0 && namesBlock o) := ⟨meets (by decide +kernel), meets (by decide +kernel)⟩

/-- ExitDropsItsLanes: no active lane; outside gang and task. -/
theorem test_met_ExitDropsItsLanes_none : Meets [0x990000000000001c] (noLane)
    (fun _ _ _ e => e.w.gr == 0 && e.w.task.isNone && e.act == 0) := meets (by decide +kernel)

/-- ExitDropsItsLanes: lane 0 of 32. -/
theorem test_met_ExitDropsItsLanes : Meets [0x9900000000000000] (lane0)
    (fun _ _ _ e => e.w.gr == 0 && e.w.task.isNone && e.act != 0 && e.t.lost.isNone && (e.w.alive &&& ~~~e.act) != 0 && (e.w.path.mask &&& ~~~e.act) != 0) := meets (by decide +kernel)

/-- ExitDropsItsLanes: the last lanes of a path whose wave has others, the last lanes of the wave. -/
theorem test_met_ExitDropsItsLanes_last :
    Meets [0x990000000000001c] (onWave fun w => { w with path := { w.path with em := 1, mask := 1 } })
      (fun _ _ _ e => e.w.gr == 0 && e.w.task.isNone && e.act != 0 && e.t.lost.isNone && (e.w.alive &&& ~~~e.act) != 0 && (e.w.path.mask &&& ~~~e.act) == 0)
    ∧ Meets [0x990000000000001c] id
      (fun _ _ _ e => e.w.gr == 0 && e.w.task.isNone && e.act != 0 && e.t.lost.isNone && (e.w.alive &&& ~~~e.act) == 0) :=
  ⟨meets (by decide +kernel), meets (by decide +kernel)⟩

/-- The wave is inside a task. -/
def inTask (commit : Option Nat) : State → State := onWave fun w => { w with task := some ⟨16, false, 0, 0, [], [], [], [], commit⟩ }

/-- ExitDropsItsLanes: EXIT inside a task; TasksBeginAndEnd: a task inside a task. -/
theorem test_met_TasksBeginAndEnd_nested : Meets [0x990000000000001c, 0x9d1800000000001c] (inTask none)
    (fun _ _ _ e => e.w.gr == 0 && e.w.task.isSome) := meets (by decide +kernel)

/-- TasksBeginAndEnd: a task begins. -/
theorem test_met_TasksBeginAndEnd_begin : Meets [0x9d1800000000001c] id
    (fun s _ f e => e.w.task.isNone && e.w.stack.isEmpty && e.w.conts.isEmpty && decide (f.b.toNat < 2) && (e.p.s f.a.toNat).toNat == 0 && atBoundary s e == false) := meets (by decide +kernel)

/-- TasksBeginAndEnd: an end without a task. -/
theorem test_met_TasksBeginAndEnd_none : Meets [0x9e0000000000001c, 0x9f0800000000001c] id
    (fun _ _ _ e => e.w.task.isNone) := meets (by decide +kernel)

/-- TasksBeginAndEnd: a quiet task commits, or is given up. -/
theorem test_met_TasksBeginAndEnd_end : Meets [0x9e0000000000001c, 0x9f0800000000001c] (inTask none)
    (fun s _ _ e => (match e.w.task with | some k => k.commit.isNone | none => false) && taskQuiet s e.who.tid e.who.wave && atBoundary s e == false) := meets (by decide +kernel)

/-- TasksBeginAndEnd: the commit tick has passed. -/
theorem test_met_TasksBeginAndEnd_committed : Meets [0x9e0000000000001c] (inTask (some 0) ∘ atTick 1)
    (fun s _ _ e => match e.w.task with | some k => (match k.commit with | some c => decide (c < s.now) | none => false) | none => false) := meets (by decide +kernel)

/-- DistancesAndSignals: DIEHOPS, and SIGNAL at an aligned VA with nothing outstanding. -/
theorem test_met_DistancesAndSignals : Meets [0xa25400000000001c, 0xa41400000000001c] (atTick 1)
    (fun s _ _ e => e.act != 0 && baseOf e % 8 == 0 && atBoundary s e == false && fenceDone s e 5 && counterFull s e none == false && skidFull s e == false) := meets (by decide +kernel)

/-- DistancesAndSignals: SIGNAL at a VA that is not aligned. -/
theorem test_met_DistancesAndSignals_align : Meets [0xa41400000000001c] (scal [(0, 7)])
    (fun _ _ _ e => e.act != 0 && baseOf e % 8 != 0) := meets (by decide +kernel)

/-- A kernel debugger may halt the context's waves. -/
def debugged : State → State := onCtx fun c => { c with bken := true }

/-- SystemWordsComplete: TRAP, TMASK, BKPT and STOPW without a debugger, TSTAMP, RDSYS, PERF, VCINV of nothing, WRSYS of 0x18. -/
theorem test_met_SystemWordsComplete : Meets [0xB00800000000001C, 0xB94800000100001C, 0xB60800000000001C, 0xB70000000000001C, 0xB24000000000001C, 0xB34A00000000001C, 0xB84800000700001C, 0xB51400000000001C, 0xB41A00000018001C] id
    (fun s i f e => match i with
        | .tmask _ => decide (f.b.toNat < 2)
        | .bkpt _ | .stopw _ => e.c.bken == false
        | .tstamp _ => (findQueue s e.sw.pkt.q).isNone && e.sw.logTag.isNone
        | .rdsys _ => (sysReg s e (256 * f.b.toNat + f.c.toNat)).isSome
        | .perf _ => decide (f.b.toNat < 8)
        | .vcinv _ => e.p.s f.b.toNat == 0
        | .wrsys _ => 256 * f.b.toNat + f.c.toNat == 0x18 && decide ((e.p.s f.a.toNat).toNat ≤ 8)
        | _ => true) := meets (by decide +kernel)

/-- SystemWordsComplete: WRSYS of 8 and of 15. -/
theorem test_met_SystemWordsComplete_wejt : Meets [0xB41A00000018001C, 0xB41A00010018001C] (scal [(0, 8), (1, 15)])
    (fun _ _ f e => (decide ((e.p.s f.a.toNat).toNat ≤ 8) || e.p.s f.a.toNat == 15)) := meets (by decide +kernel)

/-- SystemWordsComplete: BKPT and STOPW with a debugger. -/
theorem test_met_SystemWordsComplete_debugged : Meets [0xb60800000000001c, 0xb70000000000001c] (debugged)
    (fun _ _ _ e => e.c.bken && e.w.skip == false) := meets (by decide +kernel)

/-- SystemWordsComplete: BKPT after a release. -/
theorem test_met_SystemWordsComplete_skip : Meets [0xb60800000000001c] (debugged ∘ onWave fun w => { w with skip := true })
    (fun _ _ _ e => e.c.bken && e.w.skip) := meets (by decide +kernel)

/-- SystemWordsComplete: RDSYS of a number that is not assigned. -/
theorem test_met_SystemWordsComplete_index : Meets [0xB34A0000FFFF001C] id
    (fun s _ f e => (sysReg s e (256 * f.b.toNat + f.c.toNat)).isNone) := meets (by decide +kernel)

/-- SystemWordsComplete: VCINV of 48 bytes, kept and discarded. -/
theorem test_met_SystemWordsComplete_vcinv : Meets [0xB51400000100001C, 0xB51401000100001C] (scal [(1, 48)])
    (fun s _ f e => e.act != 0 && e.p.s f.b.toNat != 0 && (rangeFault (e.p.s f.a.toNat).toNat (e.p.s f.b.toNat).toNat).isNone && dirtyIn s e.c.cid (e.p.s f.a.toNat).toNat (e.p.s f.b.toNat).toNat == false) := meets (by decide +kernel)

/-- SystemWordsComplete: ENQ at a VA that is not a sector's. -/
theorem test_met_SystemWordsComplete_enq_align : Meets [0xa35400000000001c] (scal [(0, 47)])
    (fun _ _ _ e => e.act != 0 && baseOf e % 48 != 0) := meets (by decide +kernel)

/-- A granule of stack socket 11 with the tables of the context, and the first physical byte of what they map: VA `v` below 2^20 granules
stands at byte `pa0 + v`, in stack socket 10. -/
def tableAt : Nat := 11 * 2 ^ 34
def pa0 : Nat := 49152 * (10 * 2 ^ 34)
/-- A level 2 leaf with every permission (R197). -/
def leafEntry : Nat := 2 ^ 63 + 2 ^ 62 + 2 ^ 61 + 2 ^ 60 + 2 ^ 49 + 10 * 2 ^ 34
/-- The two tables: the root in slot 0, its level 2 in slot 1. -/
def tables : List Host.Cell :=
  putBytes (putBytes [] (49152 * tableAt) (leBytes 8 (2 ^ 63 + 2 ^ 40 + tableAt))) (49152 * tableAt + 8192) (leBytes 8 leafEntry)
/-- The context translates. -/
def mapped (s : State) : State := { onCtx (fun c => { c with root := tableAt }) s with mem := tables }
/-- Bytes of memory preset by VA. -/
def bytesAtVa (va : Nat) (bs : List Byte) (s : State) : State := { s with mem := putBytes s.mem (pa0 + va) bs }

/-- A translation of one byte is what the tables say, at the bottom and at the top of what they map. -/
theorem test_translation : (match ctxOf (mapped (wordAt 0)) 1 with
    | some c => plainAccess (mapped (wordAt 0)) c 64 4 .load == .ok (pa0 + 64) leafEntry
        && plainAccess (mapped (wordAt 0)) c (49152 * 2 ^ 20 - 1 : Nat) 1 .store == .ok (pa0 + 49152 * 2 ^ 20 - 1) leafEntry
        && plainAccess (mapped (wordAt 0)) c (49152 * 2 ^ 20 : Nat) 1 .load == .page 1 false .page 1
        && plainAccess (mapped (wordAt 0)) c (-1) 1 .load == .fault .range 2
        && plainAccess (mapped (wordAt 0)) c 49148 8 .load == .fault .align 2
        && plainAccess (mapped (wordAt 0)) c 2 4 .atomic == .fault .align 1
    | none => false) = true := by decide +kernel

/-- Queue 0 of the context, with its record at VA 96 and a ring of 64 sectors at VA 4800. -/
def queue0 : Queue :=
  { q := ⟨1, 0⟩, asid := 0, shadow := pa0 + 192, kinds := 0xFFFFFFFF, guest := 0, prio := 0, pmax := 0, devsub := true, missed := false, mapped := true
    halt := false, admin := false, rowsmax := 15, pdl := 20000, uva := 96, woken := true, waker := 0, visible := 64, rptr := 0, nextSeq := 1, pending := []
    started := [], readers := [], ring := [], done := 0, ehead := 0, told := 0, errq := [], capture := none, replay := none }
/-- The state with the queue, its record in memory. -/
def queued (s : State) : State :=
  bytesAtVa 96 (leBytes 8 4800 ++ leBytes 4 64) (bytesAtVa 192 (leBytes 40 0) { mapped s with queues := [queue0] })

/-- SystemWordsComplete: ENQ of a NOP. -/
theorem test_met_SystemWordsComplete_enq : Meets [0xa35400000000001c] (atTick 1 ∘ queued)
    (fun s _ f e => e.act != 0 && baseOf e % 48 == 0 && atBoundary s e == false && fenceDone s e 5
        && (match enqPacket s e (baseOf e) with | .ok d => (submit s e (e.p.s f.b.toNat).toNat d).1.isSome | .error _ => false)) := meets (by decide +kernel)

/-- SystemWordsComplete: TSTAMP with the queue of its sweep mapped; in a replay, the value found in the log at VA 9,600, and none. -/
theorem test_met_SystemWordsComplete_stamp :
    Meets [0xB24000000000001C] (queued) (fun s _ _ e => e.act != 0 && e.sw.logTag.isNone && (match findQueue s e.sw.pkt.q with | some q => (logMeets s q 1).isNone | none => false))
    ∧ Meets [0xB24000000000001C] (fun s =>
        let t := onSweep (fun w => { w with logTag := some 7 }) (queued s)
        bytesAtVa 9600 (LogEntry.bytes ⟨.stamp, 0, 7, 0, 0, 0, 123⟩) { t with mem := t.mem, queues := [{ queue0 with replay := some (9600, 96, 0) }] })
      (fun s _ _ e => match findQueue s e.sw.pkt.q with | some q => loggedStamp s q 7 e.t.teamix e.who.wave (e.w.pf 1) == some 123 | none => false)
    ∧ Meets [0xB24000000000001C] (onSweep (fun w => { w with logTag := some 7 }) ∘ queued)
      (fun s _ _ e => e.act != 0 && (match findQueue s e.sw.pkt.q with | some q => (loggedStamp s q 7 e.t.teamix e.who.wave (e.w.pf 1)).isNone | none => false)) :=
  ⟨meets (by decide +kernel), meets (by decide +kernel), meets (by decide +kernel)⟩

/-- ReturnFromTrapRestores: RTT outside a handler. -/
theorem test_met_ReturnFromTrapRestores_none : Meets [0xb10000000000001c] id
    (fun _ _ _ e => e.w.frame.isNone) := meets (by decide +kernel)

/-- ReturnFromTrapRestores: RTT in a handler. -/
theorem test_met_ReturnFromTrapRestores : Meets [0xb10000000000001c] (onWave fun w => { w with frame := some ⟨3, 1, 40, [], 32⟩, xpc := 32, trapMask := true })
    (fun _ _ _ e => e.who.lane.isNone && e.t.lost.isNone && (match e.w.frame with | some fr => e.w.xpc == fr.xpc && fr.replay.isEmpty | none => false)) := meets (by decide +kernel)

/-! ## Tiles, gangs and copies -/

/-- TileWordsComplete: no ACCLD loads the tile; ACCRD at row 63, GANGSET of 0 excepted. -/
theorem test_met_TileWordsComplete : Meets [0x72C000000000001C, 0x7BC000000000001C, 0x7BC000000000011C, 0x77D000000000001C, 0x77D000000000011C, 0x77D000000000021C, 0x787000000000001C, 0x753800003F00001C, 0x76F000010000001C, 0x7A0000000000001C] id
    (fun s i f e => matPending s e == false && s.inputs.late == false && e.act != 0 && match i with
        | .accz _ | .accmode _ => tileBusy s e f.d.toNat == false
        | .bndset _ => tileBusy s e f.d.toNat == false && (f.bmod == 0 || decide ((e.p.s f.a.toNat).toNat < 2 ^ 32))
        | .bndrd _ => tileBusy s e f.a.toNat == false
        | .accrd _ => decide ((if f.bsp = 1 then (e.p.s f.b.toNat).toNat else f.b.toNat) < 64) && tileBusy s e f.a.toNat == false
        | .accop _ => tileBusy s e f.d.toNat == false && tileBusy s e f.a.toNat == false
        | _ => e.w.gr == 0) := meets (by decide +kernel)

/-- An ACCLD of tile 0 is outstanding. -/
def tileLoading : State → State := withOp { openOp (.accLoad 0 0) [⟨0, .g, 768, 768, 0, 0, false, none, false⟩] 0x73D400000080001C with regWork := true }
/-- A MAT word of tile 0 waits for its turn. -/
def matWaiting (word : Word) : State → State := withOp { openOp (.matWord 0 false) [] word with xpc := 8, regWork := true }

/-- TileWordsComplete: the words behind an ACCLD of their tile; ACCOP waits for it. -/
theorem test_met_TileWordsComplete_busy : Meets [0x72C000000000001C, 0x7BC000000000001C, 0x77D000000000001C, 0x787000000000001C, 0x753800003F00001C, 0x76F000010000001C] (tileLoading)
    (fun s i f e => e.act != 0 && tileBusy s e (match i with | .bndrd _ | .accrd _ => f.a.toNat | _ => f.d.toNat)) := meets (by decide +kernel)

/-- TileWordsComplete: BNDSET, BNDRD and ACCRD behind a word of another tile that waits; with no active lane BNDRD writes nothing. -/
theorem test_met_TileWordsComplete_waiting : Meets [0x77D001000000001C, 0x787001010000001C] (matWaiting 0x72C000000000001C)
      (fun s _ _ e => e.act != 0 && matPending s e)
    ∧ Meets [0x787000000000001C] (noLane) (fun _ _ _ e => e.act == 0) := ⟨meets (by decide +kernel), meets (by decide +kernel)⟩

/-- TileWordsComplete: the turn of an ACCZ, ACCMODE, BNDSET of each kind, BNDRD, ACCRD, ACCLD and ACCST that waited. -/
theorem test_met_TileWordsComplete_turn : ([((0x72C000000000001C : Word), 0), (0x77D000000000001C, 1), (0x787000000000001C, 2), (0x73D400000080001C, 3), (0x741780000400001C, 4), (0x7BC000000000011C, 5), (0x753800003F00001C, 6), (0x77D000000000011C, 7), (0x77D000000000021C, 8)].all fun (x : Word × Nat) =>
    let s := matWaiting x.1 (wordAt 0x1C)
    match findOp s 9 with
    | some o => o.phase == .issued && (waveOps s o.tid o.wave).length == 1 && (match envAgain s o 1 with
      | some e => (match e.i with
        | .accz _ => x.2 == 0
        | .bndset _ => x.2 == (if e.f.bmod == 0 then 1 else if e.f.bmod == 1 then 7 else 8)
        | .accmode _ => x.2 == 5
        | .accrd _ => x.2 == 6
        | .bndrd _ => x.2 == 2
        | .accld _ => x.2 == 3
        | .accst _ => x.2 == 4 && (storageFmt e.f.d.toNat).isSome
        | _ => false)
      | none => false)
    | none => false) = true := by decide +kernel

/-- The bound that ACCOP finds in its tiles. -/
def foundBound (f : Fields) (e : Env) : W32 :=
  let sc := readF .fp32 ((e.p.s f.b.toNat).toNat % 2 ^ 32)
  accBound f.c.toNat sc (e.w.bound f.d.toNat) (e.w.bound f.a.toNat)
    (maxPart (places.map fun p => (accElem f.c.toNat sc (e.w.el f.d.toNat p.1 p.2) (e.w.el f.a.toNat p.1 p.2)).2))

/-- TileWordsComplete: ACCOP inside the threshold. -/
theorem test_met_TileWordsComplete_accop : Meets [0x76F000010003001C] id
    (fun _ _ f e => decide (foundBound f e ≤ e.w.thresh f.d.toNat)) := meets (by decide +kernel)

/-- TileWordsComplete: ACCOP past the threshold. -/
theorem test_met_TileWordsComplete_bound : Meets [0x76F000010003001C] (onWave fun w => (w.setBnd 0 0x40000000).setBnd 1 0x41000000)
    (fun _ _ f e => decide (e.w.thresh f.d.toNat < foundBound f e)) := meets (by decide +kernel)

/-- A gang of waves 0 and 1: wave 0 gives the quarters 0 and 1 of B, wave 1 the others. -/
def pairGang : Word := BitVec.ofNat 64 (2 + 2 ^ 7 + 2 ^ 33 + 2 ^ 36)
/-- The team has a second MATRIX wave; s0 holds the gang. -/
def pairTeam (s : State) : State :=
  scal [(0, pairGang)] { s with waves := s.waves ++ [{ placedWave 1 .matrix 0 0 with ix := 1 }] }
/-- Wave 0 is in the gang. -/
def ganged (s : State) : State := onWave (fun w => { w with gr := pairGang }) (scal [(0, 0)] (pairTeam s))

/-- TileWordsComplete: GANGSET of two waves. -/
theorem test_met_TileWordsComplete_gangset : Meets [0x791000000000001c] (pairTeam)
    (fun s _ f e => gangValid s e.who.tid e.who.wave (e.p.s f.a.toNat) && decide (gangSize (e.p.s f.a.toNat) ≤ 4)) := meets (by decide +kernel)

/-- TileWordsComplete: GANGREL in a gang. -/
theorem test_met_TileWordsComplete_gangrel : Meets [0x7a0000000000001c] (ganged)
    (fun _ _ _ e => e.w.gr != 0) := meets (by decide +kernel)

/-- GangsMeetAtTheirLatch: MMA and MMAR of the leader, the first to arrive. -/
theorem test_met_GangsMeetAtTheirLatch_arrives : Meets [0x70d100000000001c, 0x71d500000000001c] (ganged)
    (fun s i f e => e.who.lane.isNone && e.w.gangEnded == false && e.w.gr != 0 && controlErrors e == false
        && operandsHeld e (match i with | .mma _ => true | _ => false) && tileBusy s e f.d.toNat == false && matPending s e == false && (findRound e.t e.w.ix e.w.gr).isNone) := meets (by decide +kernel)

/-- GangsMeetAtTheirLatch: MMA and MMAR with no active lane. -/
theorem test_met_GangsMeetAtTheirLatch_none : Meets [0x70d100000000001c, 0x71d500000000001c] (noLane ∘ ganged)
    (fun s i f e => e.who.lane.isNone && e.act == 0 && e.w.gangEnded == false && e.w.gr != 0 && controlErrors e == false
        && operandsHeld e (match i with | .mma _ => true | _ => false) && tileBusy s e f.d.toNat == false && matPending s e == false) := meets (by decide +kernel)

/-- TileWordsComplete: ACCLD and ACCST of AC96 rows in memory, without and with a side record. -/
theorem test_met_TileWordsComplete_rows : Meets [0x73D400000080001C, 0x741780000400001C, 0x741780000200001C] (scal [(0, 768), (3, 96000)])
    (fun s i f e => match i with
        | .accld _ => storageFmt f.c.toNat == some .ac96 && decide ((e.p.s f.b.toNat).toNat < 2 ^ 32) && tileBusy s e f.d.toNat == false
            && (tileFaults s e (levelOfCode f.bmod.toNat) (rowBytes .ac96)).isEmpty && counterFull s e (some f.amod.toNat) == false
        | _ => storageFmt f.d.toNat == some .ac96 && tileBusy s e f.c.toNat == false && (e.p.s (f.b + 1).toNat).toNat % 16 == 0
            && ((e.p.s (f.b + 1).toNat).toNat == 0 || (sideRange s e.t e.c .g ((e.p.s (f.b + 1).toNat).toNat : Nat) 16).isNone)
            && (tileFaults s e (levelOfCode f.bmod.toNat) (rowBytes .ac96)).isEmpty && counterFull s e (some f.amod.toNat) == false) := meets (by decide +kernel)

/-- TileWordsComplete: ACCLD and ACCST behind an ACCLD of their tile, and with no active lane. -/
theorem test_met_TileWordsComplete_rows_wait : Meets [0x73D400000080001C, 0x741780000400001C] (tileLoading ∘ scal [(0, 768)])
      (fun s i f e => e.act != 0 && tileBusy s e 0 && counterFull s e (some f.amod.toNat) == false && (match i with
        | .accld _ => storageFmt f.c.toNat == some .ac96 && decide ((e.p.s f.b.toNat).toNat < 2 ^ 32)
        | _ => storageFmt f.d.toNat == some .ac96 && e.p.s (f.b + 1).toNat == 0) && (tileFaults s e (levelOfCode f.bmod.toNat) (rowBytes .ac96)).isEmpty)
    ∧ Meets [0x73D400000080001C, 0x741780000400001C] (noLane ∘ scal [(0, 768)])
      (fun s i f e => e.act == 0 && counterFull s e (some f.amod.toNat) == false && skidFull s e == false && (match i with
        | .accld _ => storageFmt f.c.toNat == some .ac96 && decide ((e.p.s f.b.toNat).toNat < 2 ^ 32)
        | _ => storageFmt f.d.toNat == some .ac96)) := ⟨meets (by decide +kernel), meets (by decide +kernel)⟩

/-- The team has a core area of 4,096 bytes; s0 = 64, s1 = 128, s2 the size and shape operand, s3 the strides. -/
def cored (x y : Word) (s : State) : State :=
  scal [(0, 64), (1, 128), (2, x), (3, y)] (onTeam (fun t => { t with k := { t.k with scratch := 4096 } }) s)

/-- CopiesEnterTheEngine: a copy of 48 bytes from memory into the core area. -/
theorem test_met_CopiesEnterTheEngine : Meets [wd 0x80 0x54 0 1 2 0x02 0x1C] (cored 48 0)
    (fun s _ f e => e.act != 0 && e.p.s f.b.toNat == 48 && (partsFault s e (lowLevel f) (highLevel f) [⟨((e.p.s f.d.toNat).toNat : Int), ((e.p.s f.a.toNat).toNat : Int), 48⟩]).isNone && copyFull s e == false) := meets (by decide +kernel)

/-- CopiesEnterTheEngine: two rows of 16 bytes. -/
theorem test_met_CopiesEnterTheEngine_rows : Meets [wd 0x81 0x54 0 1 2 0x02 0x1C] (cored 0x100002 0x2000000020)
    (fun s _ f e => e.act != 0 && e.p.s f.b.toNat == 0x100002 && (partsFault s e (lowLevel f) (highLevel f) (tileRows ((e.p.s f.d.toNat).toNat : Int) ((e.p.s f.a.toNat).toNat : Int) 2 16 32 32)).isNone && copyFull s e == false) := meets (by decide +kernel)

/-- CopiesEnterTheEngine: gathers and scatters of one element. -/
theorem test_met_CopiesEnterTheEngine_lists : Meets [wd 0x82 0x54 0 1 2 0x02 0x1C, wd 0x83 0x54 0 1 2 0x02 0x1C] (cored 0x100000100 0)
    (fun s _ f e => e.act != 0 && (e.p.s f.b.toNat).toNat / 2 ^ 32 == 1 && (e.p.s f.b.toNat).toNat % 2 ^ 32 % 4 == 0 && (sideRange s e.t e.c .core ((e.p.s f.b.toNat).toNat % 2 ^ 32 : Nat) 4).isNone && copyFull s e == false) := meets (by decide +kernel)

/-- CopiesEnterTheEngine: no byte, with every lane active. -/
theorem test_met_CopiesEnterTheEngine_empty : Meets [wd 0x80 0x54 0 1 2 0x02 0x1C, wd 0x81 0x54 0 1 2 0x02 0x1C, wd 0x82 0x54 0 1 2 0x02 0x1C, wd 0x83 0x54 0 1 2 0x02 0x1C] (cored 0 0)
      (fun s _ f e => e.act != 0 && e.p.s f.b.toNat == 0 && copyFull s e == false)
    ∧ Meets [wd 0x81 0x54 0 1 2 0x02 0x1C] (cored 0xC0000000 0) (fun s _ f e => e.act != 0 && e.p.s f.b.toNat == 49152 * 65536 && copyFull s e == false) :=
  ⟨meets (by decide +kernel), meets (by decide +kernel)⟩

/-- CopiesEnterTheEngine: no active lane. -/
theorem test_met_CopiesEnterTheEngine_none : Meets [0x805400000000001c, 0x815400000000001c, 0x825400000000001c, 0x835400000000001c, 0x845000000000001c, 0x851400000000001c, 0x864400000000001c, 0x870400000000001c, 0x88d701000000001c, 0x893000000000001c, 0x8b3400000000001c, 0x8cc000000000001c, 0x8e5400000000001c] (noLane)
    (fun s _ _ e => e.act == 0 && copyFull s e == false) := meets (by decide +kernel)

/-- A ring 0 of two slots of 16 bytes at `.core` offset 256 (R296). -/
def ringed (s : State) : State :=
  let s1 := cored 0 0 s
  { s1 with scratch := putBytes s1.scratch 0 (leBytes 4 256 ++ leBytes 2 16 ++ leBytes 1 2 ++ leBytes 1 0) }

/-- SieveAndStageWordsIssue: STGPUT from memory, STGGET to memory, STGREL, on ring 0. -/
theorem test_met_SieveAndStageWordsIssue : Meets [wd 0x85 0x14 0 0 4 0 0x1C, wd 0x86 0x44 0 0 4 0 0x1C, wd 0x87 0x04 0 0 4 0 0x1C] (ringed)
    (fun s _ _ e => e.act != 0 && copyFull s e == false && (match readRing s e.t 0 with
        | some r => ringBad e.t r == false && r.base == 256 && r.slot == 16 && r.nslot == 2 && decide (32 * (0 + 1) ≤ e.t.k.scratch)
            && (partsFault s e .core .g [⟨r.base, 64, r.slot⟩]).isNone && (partsFault s e .g .core [⟨64, r.base, r.slot⟩]).isNone
        | none => false)) := meets (by decide +kernel)

/-- A sieve descriptor at `.core` offset 64 (R299): 16 FP32 values at 256, bitmap, scales and elements at 512, 1,024 and 2,048. -/
def sieving (s : State) : State :=
  let s1 := cored 0 0 s
  { s1 with scratch := putBytes s1.scratch 64 (leBytes 4 256 ++ leBytes 4 512 ++ leBytes 4 1024 ++ leBytes 4 2048 ++ leBytes 2 16 ++ leBytes 1 1 ++ leBytes 1 0 ++ leBytes 1 1) }

/-- SieveAndStageWordsIssue: QBLK. -/
theorem test_met_SieveAndStageWordsIssue_sieve : Meets [0x845000000000001c] (sieving)
    (fun s _ f e => e.act != 0 && isDet s e.t == false && (e.p.s f.a.toNat).toNat % 16 == 0 && copyFull s e == false
        && (sideRange s e.t e.c .core ((e.p.s f.a.toNat).toNat : Int) 32).isNone && (match coreBytes s e.t e.w.ix (e.p.s f.a.toNat).toNat 32 with
        | some bs =>
          let d := sieveDesc bs
          d.rest == 0 && decide (1 ≤ d.n) && decide (d.n ≤ 4096) && decide (1 ≤ d.r) && decide (d.r ≤ 64) && decide (d.rho ≤ 31) && d.inp % 4 == 0
            && d.bm % 16 == 0 && d.sc % 16 == 0 && d.el % 16 == 0 && (match sieveFmt d.fmt with
              | some fm => (sieveAreas s e d fm).isNone && (upto d.r).all fun v => (sieveVector s e d v).all fun x => decide (x % 2 ^ 31 < 0x7F800000)
              | none => false)
        | none => false)) := meets (by decide +kernel)

/-- What the words on handles ask of the wave and its sweep. -/
def openWord (s : State) (e : Env) : Bool := e.act != 0 && e.w.task.isNone && isDet s e.t == false && copyFull s e == false

/-- HandleWordsComplete: TALLOC of one granule; TRECV; COLL with its record at VA 0. -/
theorem test_met_HandleWordsComplete : Meets [0x88D700000101001C, 0x8CC000000000001C, 0x8E5400000000001C] (onWave fun w => { w with path := (w.path.setS 0 0).setS 1 1 })
    (fun s i f e => openWord s e && (match i with
        | .talloc _ => isFill (e.w.h f.d.toNat) == false && isFill (e.w.h f.c.toNat) == false && controlBad (e.p.s f.b.toNat).toNat == false && (e.p.s f.a.toNat).toNat % 49152 == 0
        | .trecv _ => isFill (e.w.h f.d.toNat) == false
        | _ => (e.p.s f.b.toNat).toNat % 48 == 0 && (sideRange s e.t e.c .g ((e.p.s f.b.toNat).toNat : Int) 48).isNone)) := meets (by decide +kernel)

/-- HandleWordsComplete: TDROP of a fill handle. -/
theorem test_met_HandleWordsComplete_drop : Meets [0x893000000000001c] (jarState 1 1 15 2)
    (fun s _ f e => openWord s e && f.bmod == 0 && isFill (e.w.h f.a.toNat) && recordSeen s e.c (e.w.h f.a.toNat) && (staleSub s e.c (e.w.h f.a.toNat)).isNone) := meets (by decide +kernel)

/-- HandleWordsComplete: TDROP of the null handle and of a seeing one. -/
theorem test_met_HandleWordsComplete_null : Meets [wd 0x89 0x30 0 0 0 0 0x1C, wd 0x89 0x30 0 1 0 0 0x1C] (jarState 2 2 15 2)
    (fun s _ f e => openWord s e && f.bmod == 0 && (e.w.h f.a.toNat == 0 || isSee (e.w.h f.a.toNat))) := meets (by decide +kernel)

/-- HandleWordsComplete: TDROP that retires. -/
theorem test_met_HandleWordsComplete_retire : Meets [wd 0x89 0x30 0 0 0 0 0x11C] (jarState 2 2 15 2)
    (fun s _ f e => openWord s e && f.bmod == 1 && recordSeen s e.c (e.w.h f.a.toNat) && (staleSub s e.c (e.w.h f.a.toNat)).isNone && isFill (e.w.h f.a.toNat) == false && hasRight (e.w.h f.a.toNat) rightRetire && (jarOf e.c 1).state == 2) := meets (by decide +kernel)

/-- HandleWordsComplete: TCOPY with the same rights and with rights 1 alone; TSEND; TSTAT. -/
theorem test_met_HandleWordsComplete_copy : Meets [wd 0x8A 0xF8 1 0 0 0 0x1C, wd 0x8A 0xF8 1 0 0x81 0 0x1C, wd 0x8B 0x38 0 0 0 0 0x1C, wd 0x8D 0x70 0 0 0 0 0x1C] (jarState 2 2 15 2)
    (fun s i f e => openWord s e && recordSeen s e.c (e.w.h f.a.toNat) && (staleSub s e.c (e.w.h f.a.toNat)).isNone && isFill (e.w.h f.a.toNat) == false && hasRight (e.w.h f.a.toNat) rightShare && (match i with
        | .tcopy _ => (copyTarget s e).isSome && requestBad f.b.toNat == false && (decide (f.b.toNat < 128) || Nat.land (f.b.toNat % 16) (15 - handleRights (e.w.h f.a.toNat)) == 0)
        | _ => true)) := meets (by decide +kernel)

/-- HandleWordsComplete: TCOPY moves a fill handle to another register. -/
theorem test_met_HandleWordsComplete_move : Meets [wd 0x8A 0xF8 1 0 0 0 0x1C] (jarState 1 1 15 2)
    (fun s _ f e => e.act != 0 && (staleSub s e.c (e.w.h f.a.toNat)).isNone && isFill (e.w.h f.a.toNat) && (match copyTarget s e with | some w => isFill (w.h f.d.toNat) == false && sameRegister e w == false | none => false)) := meets (by decide +kernel)

/-! ## The machine as a whole -/

/-- What an instruction answers, if that is a next state that meets `P`. -/
def goes (i : Instr) (s : State) (P : State → Bool) : Bool := match exec i s with | .next t => P t | _ => false
/-- The instruction stops with `notEnabled`. -/
def refusesEvent (i : Instr) (s : State) : Bool := match exec i s with | .fault .notEnabled => true | _ => false
/-- A state in which wave 0 of team 1 stands in front of NOP. -/
def base0 : State := wordAt 0x1C
/-- Wave 0 of team 1. -/
def wave0 (s : State) : Wave := ((s.waves.find? fun w => w.tid == 1 && w.ix == 0)).getD (placedWave 0 .vector 0 0)
/-- Team 1. -/
def team1 (s : State) : Team := (findTeam s 1).getD (placedTeam 0 0 .vector)
/-- Context 1. -/
def ctx1 (s : State) : Context := (ctxOf s 1).getD placedContext

/-- StepRunsDecodedInstruction: a word with an agenda slot, the same with an empty agenda, an event that a slot names, a reserved word. -/
theorem test_met_StepRunsDecodedInstruction :
    (match step base0 with | .next t => (wave0 t).pf 1 == 1 && t.now == 0 | _ => false) = true
    ∧ (match step { base0 with agenda := [] } with | .next t => (wave0 t).pf 1 == 1 && t.now == 1 | _ => false) = true
    ∧ (match step { base0 with agenda := [⟨5, [], none, some (.islandLevel 3 2), .quiet⟩] } with | .next t => t.islandLevel == [(3, 2)] && t.now == 5 | _ => false) = true
    ∧ (match step (onWave (fun w => { w with tba := 64 }) (wordAt 0x3C0000000000001C)) with
        | .next t => bitsOf (wave0 t).xcause.toNat 15 0 == 0x101 && (wave0 t).path.pc == 64 | _ => false) = true := by decide +kernel

/-- StepRunsDecodedInstruction, EncodeAndDecodeAgree: one word of each class is read from the table's numbering, is well-formed and encodes back. -/
theorem test_met_EncodeAndDecodeAgree : ([0x1C, 0x400000000000001C, 0x580000000000001C, 0x7A0000000000001C, 0x893000000000001C, 0x950000000000001C, 0xB70000000000001C].all fun w =>
    match decodeTableWord 64 w with | some i => i.wf && encode i == some (BitVec.ofNat 64 w) | none => false) = true := by decide +kernel

/-- EveryStepKeepsStorageCanonical: from reset, and where a slot brings a store of an agent outside the Y3 that comes into force at once. -/
theorem test_met_EveryStepKeepsStorageCanonical : State.reset.canonical = true
    ∧ (match step { State.reset with agenda := [⟨1, [(0x800, 100, [7, 0, 9])], none, none, .quiet⟩] } with
        | .next t => t.canonical && byteAt t.mem 100 == 7 && byteAt t.mem 101 == 0 && byteAt t.mem 102 == 9 | _ => false) = true := by decide +kernel

/-- RetirementFrame, ResultsWriteOnlyTheirDestination: a wave, its path and registers in canonical form. -/
theorem test_met_RetirementFrame : (turn (wordAt 0x040802024000001C) fun _ _ e =>
    findWave (wordAt 0x040802024000001C) e.who.tid e.who.wave == some e.w && e.w.pathOf e.who.lane == some e.p && Sparse.wf 0 e.w.lanes && Sparse.wf 0 e.p.scal
      && Sparse.wf 0 e.w.preds && e.act != 0) = true := by decide +kernel

/-- FieldsReadBackFromTheirWords: fields at the ends of their ranges, worked out by hand. -/
theorem test_met_FieldsReadBackFromTheirWords :
    bitInsert 32 0x3 0 (30 + 256 * 2) = 0xC0000000 ∧ bitExtract 32 0xC0000000 (30 + 256 * 2) = 3
    ∧ bitInsert 64 0xFFFFFFFFFFFFFFFF 0 (256 * 64) = 0xFFFFFFFFFFFFFFFF
    ∧ mkHandle 15 15 0xFFFFFF 0xFFFFFF 255 = 0xFFFFFFFFFFFFFFFF ∧ mkHandle 1 2 3 4 5 = 0x1200000300000405 := by decide +kernel

/-- RoundingKeepsRepresentableValues: 1.0 and the largest finite FP16. -/
theorem test_met_RoundingKeepsRepresentableValues : roundF .fp32 0 (readF .fp32 0x3F800000) = (0x3F800000, 0)
    ∧ roundF .fp16 3 (readF .fp16 0x7BFF) = (0x7BFF, 0) := by decide +kernel

/-- IllegalFormsRaiseIllegalOp: NOP with a destination index, at its turn in every other respect. -/
theorem test_met_IllegalFormsRaiseIllegalOp :
    (match (curWord (wordAt (wd 0 0 1 0 0 0 0x1C))).map decode with
      | some (.ok i) => (match fieldsOf i with
        | some f => (match envOf (wordAt (wd 0 0 1 0 0 0 0x1C)) i f with
          | some e => mayIssue e.w e.who.lane && e.who.lane.isNone && !rowWaits (wordAt (wd 0 0 1 0 0 0 0x1C)) e && firstError (wordAt (wd 0 0 1 0 0 0 0x1C)) e i == some 2 && badStorage i f == false
          | none => false)
        | none => false)
      | _ => false) = true := by decide +kernel

/-- IllegalFormsRaiseIllegalOp: ACCLD with a storage code that names no format, of a tile that the wave does not have. -/
theorem test_met_IllegalFormsRaiseIllegalOp_storage :
    (match (curWord (wordAt 0x73D40400000F001C)).map decode with
      | some (.ok i) => (match fieldsOf i with
        | some f => (match envOf (wordAt 0x73D40400000F001C) i f with
          | some e => mayIssue e.w e.who.lane && e.who.lane.isNone && !rowWaits (wordAt 0x73D40400000F001C) e && (firstError (wordAt 0x73D40400000F001C) e i).isSome && badStorage i f
          | none => false)
        | none => false)
      | _ => false) = true := by decide +kernel

/-- TrapEntrySavesTheTrapRegisters, UnhandledFaultEndsTheTeam: a wave, its team and sweep; no handler at first, then `%tba`. -/
theorem test_met_TrapEntrySavesTheTrapRegisters :
    (match findWave base0 1 0, findTeam base0 1 with
      | some w, some t => (sweepOf base0 t).isSome && w.tba == 0 && w.trapMask == false
      | _, _ => false) = true
    ∧ (wave0 (deliver base0 ⟨1, 0, none⟩ ⟨.page, 1, 64⟩ (preciseAt 8))).status = .ended
    ∧ (wave0 (trapEntry (onWave (fun w => { w with tba := 64 }) base0) ⟨1, 0, none⟩ ⟨.page, 1, 64⟩ (preciseAt 8))).xcause = 0x110 := by decide +kernel

/-! ## Clauses, the helper and memory -/

/-- Code at VA 0: a VEC clause of one NOP. The wave stands at its header. -/
def atHeader (hdr : Nat) (s : State) : State :=
  onWave (fun w => { w with path := { w.path with clause := none } }) (bytesAtVa 0 (leBytes 8 hdr ++ leBytes 8 0x1C) (mapped s))
/-- A header of the class `g` that waits for `m`. -/
def header (g wait : Nat) : Nat := 2 ^ 62 * 3 + 2 ^ 59 * g + 2 ^ 43 * wait + 2 ^ 39 * 15 + 2 ^ 35 * 15

/-- ClausesAreTakenOrRefused: taken; refused for an engine code that is not assigned; stalled on a flag, and released. -/
theorem test_met_ClausesAreTakenOrRefused :
    goes .clauseHeader (atHeader (header 0 0) base0) (fun t => (wave0 t).path.clause == some ⟨0, BitVec.ofNat 64 (header 0 0), [0x1C], 0⟩ && (wave0 t).status == .running) = true
    ∧ goes .clauseHeader (onWave (fun w => { w with tba := 64 }) (atHeader (header 7 0) base0)) (fun t => bitsOf (wave0 t).xcause.toNat 7 0 == 2 && (wave0 t).path.pc == 64) = true
    ∧ goes .clauseHeader (withOp { oneStore with flags := 1, regWork := true } (atHeader (header 0 1) base0)) (fun t => (wave0 t).status == .flagWait
        && refusesEvent .clauseWaitRelease t && goes .clauseWaitRelease { t with ops := [] } (fun u => (wave0 u).status == .running)) = true
    ∧ goes .clauseHeader (withOp { oneStore with flags := 1, regWork := true } (atHeader (header 0 1 + 2 ^ 34) base0)) (fun t => (wave0 t).status == .flagWait
        && goes .clauseWaitRelease (onWave (fun w => { w with preq := true }) t) (fun u => (wave0 u).status == .stopped)) = true := by decide +kernel

/-- ClausesAreTakenOrRefused: with a handler, no code at the header; a MAT clause of a VECTOR wave; a breakpoint under a debugger, and past it once BKSKIP is
set, which is cleared. -/
theorem test_met_ClausesAreTakenOrRefused_raises :
    let handled : State → State := onWave fun w => { w with tba := 64 }
    let raised (t : State) (k : Nat) : Bool := bitsOf (wave0 t).xcause.toNat 7 0 == k && (wave0 t).path.pc == 64
    goes .clauseHeader (handled { atHeader (header 0 0) base0 with mem := [] }) (raised · 4) = true
    ∧ goes .clauseHeader (handled (bytesAtVa 8 (leBytes 8 0x7A0000000000001C) (atHeader (header 3 0) base0))) (raised · 3) = true
    ∧ goes .clauseHeader (debugged (atHeader (header 0 0 + 2 ^ 33) base0)) (fun t => bitsOf (wave0 t).xcause.toNat 7 0 == 0x61 && (wave0 t).status == .halted) = true
    ∧ goes .clauseHeader (onWave (fun w => { w with skip := true, xcause := 0x10000 }) (debugged (atHeader (header 0 0 + 2 ^ 33) base0)))
      (fun t => !(wave0 t).skip && (wave0 t).xcause == 0 && (wave0 t).path.clause.isSome) = true := by decide +kernel

/-- A continuation for lane 3 in front of `IADD v2, v2, #64`. -/
def ejected (s : State) : State :=
  onWave (fun w => { w with conts := [⟨3, 9, 0, { w.path with em := 8, mask := 8, clause := some ⟨0, 0, [0x040802024000001C], 0⟩ }⟩], status := .join }) s

/-- HelperRunsTheContinuationsWord: lane 3 alone takes the result. -/
theorem test_met_HelperRunsTheContinuationsWord :
    goes (.helperIssue 1 [(0, 3)]) (ejected base0) (fun t => (wave0 t).v 2 3 == 64 && (wave0 t).v 2 4 == 0 && t.cur == base0.cur) = true := by decide +kernel

/-- The same continuation in front of another word. -/
def ejectedAt (word : Word) (s : State) : State :=
  onWave (fun w => { w with conts := w.conts.map fun c => { c with path := { c.path with clause := some ⟨0, 0, [word], 0⟩ } } }) (ejected s)

/-- HelperRunsTheContinuationsWord: a NOP retires; at BAR, which the helper does not run, the lane is recalled. -/
theorem test_met_HelperRunsTheContinuationsWord_forms :
    helperServes (ejectedAt 0x1C base0) 1 [(0, 3)] = true
    ∧ (turn { ejectedAt 0x1C base0 with cur := some ⟨1, 0, some 3⟩ } fun i _ e => helperRuns i && mayIssue e.w (some 3) && e.who.lane == some 3) = true
    ∧ goes (.helperIssue 1 [(0, 3)]) (ejectedAt 0x1C base0) (fun t => (wave0 t).pf 7 == 1 && (wave0 t).conts.length == 1) = true
    ∧ goes (.helperIssue 1 [(0, 3)]) (ejectedAt 0x960000000000001C base0) (fun t => (wave0 t).conts.isEmpty) = true := by decide +kernel

/-- An operation of lane 0 on four bytes at a VA, or at an offset of a level. -/
def oneOp (k : OpKind) (word : Word) (lev : Level) (va : Int) (data : Nat) : Op := openOp k [⟨0, lev, va, 4, data, 0, false, none, false⟩] word
/-- The bytes 11 22 33 44 at VA 64. -/
def someBytes (s : State) : State := bytesAtVa 64 [0x11, 0x22, 0x33, 0x44] (mapped s)

/-- LoadWritesItsLane: v7 of lane 0. -/
theorem test_met_LoadWritesItsLane :
    goes (.loadPerform 9 1) (withOp (oneOp (.load 7 4) 0x501000000000041C .g 64 0) (someBytes base0))
      (fun t => (wave0 t).v 7 0 == 0x44332211 && (wave0 t).v 7 1 == 0) = true := by decide +kernel

/-- StoresReachTheirHome: a store waits at its home and comes into force with time; a scratchpad store lands at once. -/
theorem test_met_StoresReachTheirHome :
    goes (.storeAtHome 9 1) (withOp (oneOp (.store none) 0x511000000000041C .g 64 0xAABBCCDD) (someBytes base0))
      (fun t => byteAt t.mem (pa0 + 64) == 0x11 && t.homeStores.map (fun h => (h.pa, h.bytes)) == [(pa0 + 64, [0xDD, 0xCC, 0xBB, 0xAA])]
        && byteAt (settle (atTick 5000 t)).mem (pa0 + 64) == 0xDD) = true
    ∧ goes (.storeAtHome 9 1) (withOp (oneOp .scratchStore 0x531000000000001C .core 8 0xAABBCCDD) (cored 0 0 base0))
      (fun t => byteAt t.scratch 8 == 0xDD && byteAt t.scratch 11 == 0xAA) = true := by decide +kernel

/-- AtomicsReadAndStoreInOneStep: 0x44332211 + 1. -/
theorem test_met_AtomicsReadAndStoreInOneStep :
    goes (.atomicPerform 9 1) (withOp (oneOp (.atomic .add (some 7)) 0x541000000000001C .g 64 1) (someBytes base0))
      (fun t => t.homeStores.map (fun h => (h.pa, h.bytes)) == [(pa0 + 64, [0x12, 0x22, 0x33, 0x44])]) = true
    ∧ goes (.atomicPerform 9 1) (withOp (openOp (.atomic .cas (some 7)) [⟨0, .g, 64, 4, 9, 5, false, none, false⟩] 0x551000000000041C) (someBytes base0))
      (fun t => t.homeStores.isEmpty && t.ops.all fun o => o.accs.all fun x => x.done && x.data == 0x44332211) = true := by decide +kernel

/-- OperationsCompleteInTime: a store whose accesses are done completes once its time has come. -/
theorem test_met_OperationsCompleteInTime :
    let o : Op := { oneOp (.store none) 0x511000000000041C .g 64 0 with accs := [⟨0, .g, 64, 4, 0, 0, true, none, false⟩], last := 10 }
    refusesEvent (.storeCompletion 9) (withOp o (atTick 9 base0)) = true
    ∧ goes (.storeCompletion 9) (withOp o (atTick 10 base0)) (fun t => t.ops.isEmpty) = true := by decide +kernel

/-- OperationsCompleteInTime: an LNWB whose line was dirty at its home. -/
theorem test_met_OperationsCompleteInTime_lnwb :
    goes (.storeCompletion 9) (withOp { openOp .lnwb [⟨0, .g, 0, 192, 0, 0, true, none, false⟩] 0x661500000000001C with phase := .issued }
        { mapped base0 with homeLines := [⟨1, none, 0, pa0 / 192, 0, true⟩] })
      (fun t => t.ops.isEmpty && t.homeLines.all fun y => !y.dirty) = true := by decide +kernel

/-- OperationsCompleteInTime: ROWOPEN with hold, its leases run out. -/
theorem test_met_OperationsCompleteInTime_row :
    let o : Op := { openOp (.rowOpen 4 0 0 true) [⟨0, .g, 0, 1, 0, 0, true, none, false⟩] 0x5B5400000000011C with phase := .started, last := 10 }
    let s := { onTeam (fun t => { t with triads := [⟨true, 0, 10, some 0, false, true, 3⟩] }) (mapped (atTick 10 base0)) with
      holds := [⟨10, 0, 1, 0, 10 * 2 ^ 34, stackTriadOf pa0, false⟩]
      refresh := (triadChannels (stackTriadOf pa0)).map fun ch => ⟨10, ch, 0, 0, 0, 0⟩ }
    goes (.leaseExpiry 9) (withOp o s) (fun t => (t.holds.all (·.isOpen)) && t.ops.isEmpty && (wave0 t).path.s 4 == tokenOf 0 ⟨true, 0, 10, some 0, false, true, 3⟩ true) = true := by
  decide +kernel

/-- A copy of four bytes from VA 64 to `.core` offset 16. -/
def copyOp : Op := { openOp (.copy .core .g 16 64 1 4 0 0) [engineAcc 0] 0x805400000002001C with phase := .queued }

/-- CopyEngineStepsRun: a copy starts, moves its bytes and completes. -/
theorem test_met_CopyEngineStepsRun_copy :
    goes (.copyOperationStart 9) (withOp copyOp (someBytes (cored 0 0 base0))) (fun t =>
      byteAt t.scratch 16 == 0x11 && byteAt t.scratch 19 == 0x44
        && goes (.copyOperationComplete 9) (atTick 5000 t) (fun u => u.ops.isEmpty)) = true := by decide +kernel

/-- CopyEngineStepsRun: the publication of a jar: FILLING becomes FILLED at this tick. -/
theorem test_met_CopyEngineStepsRun_publish :
    let s := atTick 77 (jarState 1 1 15 2 base0)
    goes (.copyOperationComplete 9) (withOp { openOp (.tdrop 0 (mkHandle 1 15 1 2 0) false) [] 0x893000000000001C with phase := .started } s)
      (fun t => (jarOf (ctx1 t) 1).state == 2 && (jarOf (ctx1 t) 1).ptime == 77 && (jarOf (ctx1 t) 1).base == 0x30000) = true := by decide +kernel

/-- CopyEngineStepsRun: STGPUT finds a free slot and STGGET a phase that shows. -/
theorem test_met_CopyEngineStepsRun_stage :
    goes (.stageSlotFree 9) (withOp { openOp (.stgPut 0 0 .g 64) [engineAcc 0] 0 with phase := .started } (ringed (someBytes base0)))
      (fun t => byteAt t.scratch 256 == 0x11) = true
    ∧ goes (.stagePhaseReady 9) (withOp { openOp (.stgGet 0 0 .core 512) [engineAcc 0] 0 with phase := .started }
        (let s := ringed (someBytes base0); { s with scratch := putBytes (putByte s.scratch 20 1) 256 [9, 8] }))
      (fun t => byteAt t.scratch 512 == 9 && byteAt t.scratch 513 == 8) = true := by decide +kernel

/-- CopyEngineStepsRun: TSEND to this device. -/
theorem test_met_CopyEngineStepsRun_mailbox :
    goes (.mailboxDeposit 9) (withOp { openOp (.tsend (mkHandle 2 15 1 2 0) 0) [engineAcc 0] 0 with phase := .started } (jarState 2 2 15 2 base0))
      (fun t => (ctx1 t).mailbox == [mkHandle 2 15 1 2 0]) = true := by decide +kernel

/-- A TSEND of a see handle to a device. -/
def sending (dev : Nat) : Op := { openOp (.tsend (mkHandle 2 15 1 2 0) dev) [engineAcc 0] 0 with phase := .started }

/-- CopyEngineStepsRun: TSEND to a full mailbox. -/
theorem test_met_CopyEngineStepsRun_away :
    goes (.mailboxDeposit 9) (withOp (sending 0) (onCtx (fun c => { c with mailbox := List.replicate 256 0 }) (jarState 2 2 15 2 base0)))
      (fun t => t.ops.all fun o => o.kept == [1]) = true := by decide +kernel

/-- CopyEngineStepsRun: TSEND to another Y3, where the domain has one: before it has answered, and once it has taken the handle. -/
theorem test_met_CopyEngineStepsRun_sent (h : Config.inDomain 3 = true) :
    sendAnswer { base0 with devNum := some 0 } (sending 3) 3 = none
    ∧ sendAnswer { base0 with devNum := some 0, inputs := { Inputs.quiet with sent := [(9, true)] } } (sending 3) 3 = some true := by
  unfold sendAnswer inDomain
  rw [h]
  exact ⟨rfl, rfl⟩

/-- CopyEngineStepsRun: a COLL of devices 0 and 1 in its first round: four bytes of FP32 each, summed (1.0 + 2.0). -/
theorem test_met_CopyEngineStepsRun_coll :
    let record : List Byte := leBytes 2 0 ++ leBytes 2 2 ++ leBytes 1 0 ++ leBytes 1 0 ++ leBytes 1 8 ++ leBytes 1 0 ++ leBytes 8 960 ++ leBytes 8 1
    let s := bytesAtVa 960 [0, 1] (bytesAtVa 480 (leBytes 4 0x3F800000) (bytesAtVa 0 record (mapped base0)))
    let o : Op := { openOp (.coll 720 480 0 1) [engineAcc 0] 0 with phase := .started, kept := (record ++ leBytes 24 0 ++ [0, 1]).map fun (b : Byte) => b.toNat }
    goes (.collRound 9 [⟨1, true, leBytes 4 0x40000000⟩]) (withOp o s) (fun t => t.homeStores.map (fun h => (h.pa, h.bytes)) == [(pa0 + 720, leBytes 4 0x40400000)]) = true := by decide +kernel

/-- A round of the pair's MMAR in which both waves have arrived; the group table at `.core` offset 512 names one group of no row, the format
block at 256 is FP16 throughout. -/
def roundFull (s : State) : State :=
  let s1 := onTeam (fun t => { t with k := { t.k with scratch := 4096 }, rounds := [⟨pairGang, 0x71D500000102001C, false, [0, 1]⟩] })
    (scal [(1, 512), (2, 256)] (ganged s))
  { s1 with
    waves := s1.waves.map fun w => { w with status := .latch, gr := pairGang }
    scratch := putByte (putByte (putByte (putByte s1.scratch 256 7) 280 7) 512 1) 524 0 }

/-- GangsMeetAtTheirLatch: the latch opens and both waves go on; a lost gang ends its team at its limit. -/
theorem test_met_GangsMeetAtTheirLatch :
    goes (.rendezvousLatchExit 1 0) (roundFull (wordAt 0x71D500000102001C)) (fun t => (team1 t).rounds.isEmpty && t.waves.all fun w => w.status == .running) = true
    ∧ goes (.gangLostHandlerLimit 1) (atTick 8192 (onTeam (fun t => { t with lost := some (0, 64, 0) }) base0)) (fun t => t.waves.all fun w => w.status == .ended) = true := by
  decide +kernel

/-! ## Waits, faults and pre-emption -/

/-- The wave waits for something. -/
def waiting (st : Status) : State → State := onWave fun w => { w with status := st }

/-- WaitsEndWhenTheirConditionHolds: SLEEP at its tick and one before it; LDT on a FILLED and a FILLING jar; REGGET; WAITS below and at its
value; a barrier whose one wave has arrived, and an empty one. -/
theorem test_met_WaitsEndWhenTheirConditionHolds :
    goes (.sleepWake 1 0) (atTick 10 (waiting (.sleep 10) base0)) (fun t => (wave0 t).pf 1 == 1) = true
    ∧ refusesEvent (.sleepWake 1 0) (atTick 9 (waiting (.sleep 10) base0)) = true
    ∧ goes (.ldtRelease 1 0) (waiting (.ldt 1 0) (jarState 2 2 15 2 base0)) (fun t => (wave0 t).status == .running) = true
    ∧ refusesEvent (.ldtRelease 1 0) (waiting (.ldt 1 0) (jarState 1 2 15 2 base0)) = true
    ∧ goes (.reggetGrant 1 0) (waiting (.regget 1) base0) (fun t => (wave0 t).blocks == 1) = true
    ∧ goes (.waitsReload 1 0) (waiting (.waits 64 0x44332211 5 0) (someBytes base0)) (fun t => (wave0 t).path.s 5 == 0x44332211) = true
    ∧ goes (.waitsReload 1 0) (waiting (.waits 64 0x44332212 5 0) (someBytes base0)) (fun t => (wave0 t).path.s 5 == 0) = true
    ∧ goes (.barrierRelease 1 0) (waiting (.barrier 0) (onTeam (fun t => { t with barriers := [⟨0, [0], none, 0, true⟩] }) (wordAt 0x960000000000001C))) (fun t => (wave0 t).status == .running) = true
    ∧ refusesEvent (.barrierRelease 1 0) base0 = true
    ∧ refusesEvent (.barrierRelease 1 0) (waiting (.barrier 0) (onTeam (fun t => { t with barriers := [⟨0, [0], none, 0, true⟩], preempt := some ⟨false, 0⟩ }) base0)) = true
    ∧ refusesEvent (.sleepWake 1 0) (atTick 10 (onWave (fun w => { w with preq := true }) (waiting (.sleep 10) base0))) = true
    ∧ refusesEvent (.ldtRelease 1 0) (onWave (fun w => { w with preq := true }) (waiting (.ldt 1 0) (jarState 2 2 15 2 base0))) = true := by decide +kernel

/-- WaitsEndWhenTheirConditionHolds: JOIN, once its last continuation has come. -/
theorem test_met_WaitsEndWhenTheirConditionHolds_join :
    goes (.joinRelease 1 0) (waiting .join (inLevel 0 (wordAt 0x950000000000001C))) (fun t => (wave0 t).stack.isEmpty && (wave0 t).status == .running && (wave0 t).path.pc == 16) = true := by
  decide +kernel

/-- ExitDropsItsLanes: a wave ends with a FILLING jar under its handle, whose exit policy is PUBLISH, or ABANDON, and gives its stack slot back; its
team ends with it, and the sweep counts the team. -/
theorem test_met_ExitDropsItsLanes_ends :
    (let s := jarState 1 1 15 2 (wordAt 0x990000000000001C);
      (match findWave s 1 0 with | some w => w.status != .ended && w.h 0 == mkHandle 1 15 1 2 0 | none => false)
        && (jarOf (ctx1 s) 1).state == 1 && handleDev (mkHandle 1 15 1 2 0) == ownDev s && (exitHandle 1 ⟨1, 0, none⟩ s (mkHandle 1 15 1 2 0)).ops.length == 1
        && (jarOf (ctx1 (exitHandle 1 ⟨1, 0, none⟩ (onCtx (fun c => { c with jars := c.jars.map fun x => (x.1, { x.2 with exit := true }) }) s) (mkHandle 1 15 1 2 0))) 1).state == 3
        && (findTeam s 1).any (fun t => t.status != .ended && t.lost.isNone && (sweepOf s t).isSome)
        && (endWave s 1 0).waves.all (fun w => w.tid != 1 || w.status == .ended)
        && (team1 (checkTeamEnd (endWave s 1 0) 1)).status == .ended) = true := by decide +kernel

/-- A load that met an absent page. -/
def faulted : Op := { openOp (.load 7 4) [⟨0, .g, 64, 4, 0, 0, false, some ⟨.page, 1, 64⟩, false⟩] 0x501000000000041C with phase := .faulted }

/-- ImpreciseFaultsParkOrTrap: parked while an answer is outstanding; delivered with the operation as the replay set where none is. -/
theorem test_met_ImpreciseFaultsParkOrTrap :
    goes (.impreciseFaultDelivery 1 0) (withOp faulted (onCtx (fun c => { c with faults := [⟨some 0, 0, 64, 0, 0, 0, 0, 0, 0, 1, false, .page, 1, [(.op 9, 64)], none⟩] }) (onWave (fun w => { w with status := .retry }) base0)))
      (fun t => (wave0 t).status == .parked) = true
    ∧ goes (.impreciseFaultDelivery 1 0) (withOp faulted (onWave (fun w => { w with tba := 64, status := .retry }) base0))
      (fun t => (wave0 t).xcause == 0x110 && (wave0 t).xmask == 1 && (wave0 t).xaddr == 64 && (wave0 t).frame.map (·.replay) == some [9]) = true := by decide +kernel

/-- ImpreciseFaultsParkOrTrap: the operation of a continuation faulted, which is recalled. -/
theorem test_met_ImpreciseFaultsParkOrTrap_lane :
    goes (.impreciseFaultDelivery 1 0) (withOp { faulted with lane := some 3, pid := 5 }
        (onWave (fun w => { w with conts := w.conts.map fun c => { c with path := { c.path with pid := 5 } } }) (ejected base0)))
      (fun t => (wave0 t).conts.isEmpty && (wave0 t).xcause == 0) = true := by decide +kernel

/-- PreemptionStopsWaves: the request, the deadline, a handler's allowance, and no deadline in a handler. -/
theorem test_met_PreemptionStopsWaves :
    goes (.preemptRequest 1 false) base0 (fun t => (wave0 t).preq && (wave0 t).deadline == some 20000) = true
    ∧ goes (.preemptDeadline 1 0) (onWave (fun w => { w with preq := true, deadline := some 0 }) base0) (fun t => (wave0 t).status == .stopped) = true
    ∧ goes (.handlerAllowance 1 0) (onWave (fun w => { w with preq := true, trapMask := true, frame := some ⟨1, 0, 8, [], 8⟩, allowance := 0 }) base0) (fun t => (wave0 t).status == .stopped) = true
    ∧ refusesEvent (.preemptDeadline 1 0) (onWave (fun w => { w with preq := true, trapMask := true, frame := some ⟨1, 0, 8, [], 8⟩, deadline := some 0 }) base0) = true := by decide +kernel

/-- StacksYieldRefreshAndRelease: a held triad whose rows are open closes for another request in its bank; extents are released. -/
theorem test_met_StacksYieldRefreshAndRelease :
    let s := { base0 with holds := [⟨10, 0, 1, 0, 10 * 2 ^ 34, 0, true⟩], inputs := { Inputs.quiet with rowWait := [(10, (triadChannels 0).headD 0, triadBank 0)] } }
    goes (.holdYield 10 ((triadChannels 0).headD 0) (triadBank 0)) s (fun t => t.holds.all fun h => !h.isOpen) = true
    ∧ goes (.refreshPerformed 10 3) { base0 with refresh := [⟨10, 3, 1, 1, 0, 0⟩] } (fun t => t.holds.isEmpty) = true
    ∧ goes (.extentRelease 1 5 2) base0 (fun t => t.extents == [(1, 5, 2, false)]) = true
    ∧ goes (.forcedExtentRelease 0 0 1) base0 (fun t => t.extents == [(0, 0, 1, true)]) = true := by decide +kernel

/-- StacksYieldRefreshAndRelease: the tick of a socket's refresh exists, whatever its phase is. -/
theorem test_met_StacksYieldRefreshAndRelease_due : dueNow (atTick (Config.refreshPhase 10).val base0) 10 0 = true := by
  have h : (Config.refreshPhase 10).val < 3666 := (Config.refreshPhase 10).isLt
  simp [dueNow, isChannel, atTick, Nat.mod_eq_of_lt h, base0, wordAt, State.withFetchWord, State.reset]

/-! ## Packets -/

/-- The packet's reference. -/
def pref : PktRef := ⟨⟨1, 0⟩, 0, 4800, none, 0, 0, true⟩
/-- Queue 0 with one packet read and not started; the Y3 runs its queues. -/
def pending (kind : Nat) (bs : List Byte) (s : State) : State :=
  { queued s with featStat := 1, queues := [{ queue0 with pending := [⟨pref, kind, leBytes 1 kind ++ leBytes 7 0 ++ bs, none, 0, none, 0⟩] }] }
/-- The instruction of the packet that stands at the head of the queue, if it is at its turn. -/
def headTurn (s : State) : Option Instr :=
  match headPkt s pref with
  | some (q, r) => if mayStartPkt s q r && pref.rz then packetInstr r else none
  | none => none
/-- The packet is at its turn, and its step leaves a state that meets `P`. -/
def runsPkt (s : State) (P : State → Bool) : Bool := match headTurn s with | some i => goes i s P | none => false
/-- No packet is left started or waiting in queue 0. -/
def queueIdle (t : State) : Bool := t.queues.all fun q => q.pending.isEmpty && q.started.isEmpty
/-- The kind of what has started. -/
def startedKinds (t : State) : List Nat := t.queues.flatMap fun q => q.started.map (·.kind)

/-- PacketsTakeEffect: NOP; COPY of nothing and of 4 bytes; WAIT met and held; FENCE with VA 0; SIGNAL; INDIRECT. -/
theorem test_met_PacketsTakeEffect :
    runsPkt (pending 0 (leBytes 40 0) base0) queueIdle = true
    ∧ runsPkt (pending 3 (leBytes 8 640 ++ leBytes 8 64 ++ leBytes 24 0) base0) queueIdle = true
    ∧ runsPkt (pending 3 (leBytes 8 640 ++ leBytes 8 64 ++ leBytes 24 4) (someBytes base0)) (fun t => t.homeStores.map (·.pa) == [pa0 + 640]) = true
    ∧ runsPkt (pending 4 (leBytes 8 64 ++ leBytes 24 0) base0) queueIdle = true
    ∧ runsPkt (pending 4 (leBytes 8 64 ++ leBytes 8 1 ++ leBytes 16 0) base0) (fun t => startedKinds t == [4]) = true
    ∧ runsPkt (pending 6 (leBytes 32 0) base0) queueIdle = true
    ∧ runsPkt (pending 5 (leBytes 8 64 ++ leBytes 8 3 ++ leBytes 16 0) base0) (fun t => t.homeStores.map (fun h => (h.pa, h.bytes)) == [(pa0 + 64, leBytes 8 3)]) = true
    ∧ runsPkt (pending 7 (leBytes 8 192 ++ leBytes 8 0 ++ leBytes 4 1 ++ leBytes 12 0) base0) (fun t => t.queues.all fun q => q.readers.map (fun x => (x.va, x.stop)) == [(192, 384)]) = true := by
  decide +kernel

/-- PacketsTakeEffect: MIGRATE of a mapped granule; a capture with no region starts, and one of 48 bytes in 960 stops; a replay of an empty log. -/
theorem test_met_PacketsTakeEffect_logs :
    runsPkt (pending 12 (leBytes 8 0 ++ leBytes 8 1 ++ leBytes 24 0) base0) (fun t => startedKinds t == [12]) = true
    ∧ runsPkt (pending 10 (leBytes 8 1920 ++ leBytes 8 960 ++ leBytes 8 0 ++ leBytes 8 0 ++ leBytes 8 0) base0) (fun t => t.queues.all fun q => q.capture.isSome) = true
    ∧ runsPkt (let s := pending 10 (leBytes 8 1920 ++ leBytes 8 960 ++ leBytes 8 1 ++ leBytes 8 0 ++ leBytes 8 0) base0
        { s with queues := s.queues.map fun q => { q with capture := some (1920, 960, 48) } }) (fun t => t.queues.all fun q => q.capture.isNone) = true
    ∧ runsPkt (pending 11 (leBytes 8 1920 ++ leBytes 8 96 ++ leBytes 24 0) base0) (fun t => t.queues.all fun q => q.replay.isSome) = true := by decide +kernel

/-- A launch record of one VECTOR wave at VA 1,920 (R55), and a descriptor of one FP32 tile at VA 3,840 with one plot record at VA 7,680 (R373). -/
def launchable (s : State) : State :=
  bytesAtVa 3848 (leBytes 1 8 ++ leBytes 1 1) (bytesAtVa 3856 ((upto 10).flatMap fun _ => leBytes 4 1)
    (bytesAtVa 3896 (leBytes 8 7680 ++ leBytes 4 1) (bytesAtVa 1928 (leBytes 1 1 ++ leBytes 1 0 ++ leBytes 1 0 ++ leBytes 1 1) s)))
/-- The body of a SWEEP under tag 5. -/
def sweepBytes : List Byte := leBytes 8 3840 ++ leBytes 8 1920 ++ leBytes 8 0 ++ leBytes 4 5 ++ leBytes 12 0 ++ leBytes 48 0

/-- SweepsGraphsAndNotifies: SWEEP is admitted, with a rake for each bound die; RESUME of a stopped sweep. -/
theorem test_met_SweepsGraphsAndNotifies :
    runsPkt (launchable (pending 1 sweepBytes { base0 with sweeps := [] })) (fun t => t.sweeps.map (fun w => (w.ref.tag, w.nplot, w.rakes.length)) == [(5, 1, 8)]) = true
    ∧ runsPkt (pending 2 (leBytes 4 0 ++ leBytes 1 1 ++ leBytes 35 0) (onSweep (fun w => { w with rakes := [⟨0, some 0, 0, [], [(3, true)], [], true, false⟩] }) base0))
        (fun t => queueIdle t && t.sweeps.all fun w => w.rakes.all fun r => !r.stopped) = true := by decide +kernel

/-- SweepsGraphsAndNotifies: a GRAPH of one COPY node, whose record stands at VA 1,920; NOTIFY of one entry to a host ring at VA 5,760; both kinds of
count. -/
theorem test_met_SweepsGraphsAndNotifies_graph :
    runsPkt (bytesAtVa 9600 [3, 1] (bytesAtVa 1920 [3] (bytesAtVa 1928 (leBytes 8 9600) (pending 8 (leBytes 8 1920 ++ leBytes 4 1 ++ leBytes 4 0 ++ leBytes 24 0) base0))))
      (fun t => t.graphs.map (fun g => (g.nnode, g.nodes.map (·.kind))) == [(1, [3])]) = true
    ∧ runsPkt (pending 9 (leBytes 8 5760 ++ leBytes 8 0 ++ leBytes 8 0 ++ leBytes 2 1 ++ leBytes 14 0) base0) (fun t => !t.queues.isEmpty) = true
    ∧ runsPkt (pending 9 (leBytes 8 5760 ++ leBytes 8 0 ++ leBytes 8 64 ++ leBytes 2 0 ++ leBytes 14 0) (bytesAtVa 64 (leBytes 4 1) base0)) (fun t => !t.queues.isEmpty) = true := by
  decide +kernel

/-- A graph whose two nodes are a NOP that is complete and the one that follows it. -/
def runningGraph (s : State) : State :=
  let n : GraphNode := { kind := 0, nsucc := 0, npred := 1, body := 9600, succ := [], opnd := 0, cc := 0, act := 0, unread := none, pend := 1, phase := .idle, raw := none }
  { queued s with featStat := 1, graphs := [⟨pref, 1920, 2, 0, 0, false, [{ n with nsucc := 1, npred := 0, pend := 0, succ := [1], phase := .complete }, n], 0, false, false, false, none⟩] }

/-- SweepsGraphsAndNotifies: a node that is complete finishes and lowers its successor; COND finds its operand; the tail of a host ring and a held
word are loaded again. -/
theorem test_met_SweepsGraphsAndNotifies_nodes :
    goes (.graphNodeFinish pref 0) (runningGraph base0) (fun t => t.graphs.all fun g => g.nodes.map (·.pend) == [0, 0]) = true
    ∧ goes (.graphNodeFinish pref 0) (let s := runningGraph base0
        { s with graphs := s.graphs.map fun g => { g with nodes := g.nodes.map fun n => if n.nsucc = 1 then { n with kind := 0x0D, body := 64, phase := .entry } else n } })
        (fun t => t.graphs.all fun g => g.nodes.map (·.phase) != [.entry, .idle]) = true
    ∧ goes (.hostRingTailReload pref) { queued base0 with postings := [⟨pref, 5760, 64, 1, false, 6000, 4, 1, 0, 0, true, 0, 0, 0, 0, 0, 0, true⟩] }
        (fun t => !t.homeStores.isEmpty) = true
    ∧ goes (.waitWordReload pref) { queued base0 with queues := [{ queue0 with started := [⟨pref, 4, none, 64, 1, 0, none, 0, 0⟩] }] } (fun t => startedKinds t == [4]) = true
    ∧ goes (.waitWordReload pref) (bytesAtVa 64 [1] { queued base0 with queues := [{ queue0 with started := [⟨pref, 4, none, 64, 1, 0, none, 0, 0⟩] }] }) (fun t => startedKinds t == []) = true := by
  decide +kernel

/-- The admin queue with one packet read; its addresses are physical (R394). -/
def adminPending (kind : Nat) (bs : List Byte) (s : State) : State :=
  { queued s with
    featStat := 1
    queues := [queue0, { queue0 with q := ⟨0, 0⟩, admin := true, uva := pa0 + 384, pending := [⟨{ pref with q := ⟨0, 0⟩ }, kind, leBytes 1 kind ++ leBytes 7 0 ++ bs, none, 0, none, 0⟩] }] }
/-- The admin packet is at its turn, and its step leaves a state that meets `P`. -/
def runsAdmin (s : State) (P : State → Bool) : Bool :=
  match headPkt s { pref with q := ⟨0, 0⟩ } with
  | some (q, r) => mayStartPkt s q r && (match packetInstr r with | some i => goes i s P | none => false)
  | none => false
/-- The admin packet has completed. -/
def adminIdle (t : State) : Bool := t.queues.all fun q => !q.admin || (q.pending.isEmpty && q.started.isEmpty)

/-- A context record for CID 2 (R395): one die, 16 jars at granule 12 · 2^34, a fault ring of one record. -/
def contextRecord : List Byte :=
  leBytes 2 2 ++ leBytes 6 0 ++ leBytes 8 0x80 ++ leBytes 8 tableAt ++ leBytes 4 0 ++ leBytes 4 1 ++ leBytes 8 0 ++ leBytes 8 0 ++ leBytes 8 0 ++ leBytes 8 0
    ++ leBytes 4 1 ++ leBytes 4 16 ++ leBytes 8 (12 * 2 ^ 34) ++ leBytes 4 192

/-- AdminPacketsTakeEffect: CTX_CREATE, CTX_DESTROY, Q_MAP, Q_UNMAP. -/
theorem test_met_AdminPacketsTakeEffect :
    runsAdmin (bytesAtVa 1920 contextRecord (adminPending 0x20 (leBytes 8 (pa0 + 1920) ++ leBytes 32 0) base0)) (fun t => adminIdle t && t.contexts.map (·.cid) == [1, 2]) = true
    ∧ runsAdmin (adminPending 0x21 (leBytes 2 1 ++ leBytes 38 0) base0) (fun t => t.contexts.all fun c => c.dead) = true
    ∧ runsAdmin (bytesAtVa 1920 (leBytes 2 1) (bytesAtVa 1936 (leBytes 4 7) (adminPending 0x22 (leBytes 8 (pa0 + 1920) ++ leBytes 32 0) base0)))
        (fun t => adminIdle t && t.queues.any fun q => q.q == ⟨1, 7⟩ && q.mapped) = true
    ∧ runsAdmin (adminPending 0x23 (leBytes 2 1 ++ leBytes 2 0 ++ leBytes 4 0 ++ leBytes 32 0) base0) (fun t => adminIdle t && t.queues.any fun q => q.q == ⟨1, 0⟩ && !q.mapped) = true := by
  decide +kernel

/-- AdminPacketsTakeEffect: BUDGET at the end of its range, BKEN, RELEASE. -/
theorem test_met_AdminPacketsTakeEffect_small :
    runsAdmin (adminPending 0x24 (leBytes 4 63 ++ leBytes 4 940000 ++ leBytes 2 288 ++ leBytes 30 0) base0) (fun t => adminIdle t && (guestOf t 63).next == some (940000, 288)) = true
    ∧ runsAdmin (adminPending 0x25 (leBytes 2 1 ++ leBytes 1 1 ++ leBytes 37 0) base0) (fun t => adminIdle t && t.contexts.all fun c => c.bken) = true
    ∧ runsAdmin (adminPending 0x26 (leBytes 2 1 ++ leBytes 2 0 ++ leBytes 4 0 ++ leBytes 32 0) (onSweep (fun w => { w with halted := true }) base0)) (fun t => adminIdle t && t.sweeps.all fun w => !w.halted) = true := by
  decide +kernel

/-- AdminPacketsTakeEffect: FWUPDATE of an image of 48 bytes into the slot that does not run. Whether the image's signature verifies, and its version,
are left open (log entry 3); every other hypothesis holds. -/
theorem test_met_AdminPacketsTakeEffect_firmware :
    (match headPkt (adminPending 0x27 (leBytes 8 (pa0 + 1920) ++ leBytes 4 48 ++ leBytes 4 1 ++ leBytes 24 0) base0) { pref with q := ⟨0, 0⟩ } with
      | some (q, r) => (match packetInstr r with
        | some (.fwupdate _ b) => b.slot == 1 && decide (span base0 q b.addr.toNat b.len.toNat .load = .ok)
            && mayStartPkt (adminPending 0x27 (leBytes 8 (pa0 + 1920) ++ leBytes 4 48 ++ leBytes 4 1 ++ leBytes 24 0) base0) q r
        | _ => false)
      | none => false) = true := by decide +kernel

/-! ## Rakes, teams, answers and the system -/

/-- A sweep of tag 5 whose plot table of one record stands at VA 7,680, walked by the rake of virtual die 0. -/
def raked (r : Rake) (s : State) : State :=
  onSweep (fun w => { w with ref := ⟨1, 5, 0⟩, plot := 7680, cursor := 0, claimed := 0, rakes := [r] }) { mapped s with teams := [], waves := [] }
/-- The sweep. -/
def sweep5 : SweepRef := ⟨1, 5, 0⟩
/-- A claim that has returned with an outcome. -/
def claimed (o : Nat) : ClaimResult := ⟨0, o, leBytes 48 0, 0⟩

/-- RakesClaimAndPlaceTeams: the chunk; a claim that succeeds and one that finds the tag; its return with a team, passed over, and stopped. -/
theorem test_met_RakesClaimAndPlaceTeams :
    goes (.chunkTake sweep5 0) (raked ⟨0, none, 0, [], [], [], false, false⟩ base0) (fun t => t.sweeps.all fun w => w.cursor == 1) = true
    ∧ goes (.claim sweep5 0) (raked ⟨0, some 0, 0, [], [], [], false, false⟩ base0) (fun t => t.homeStores.map (fun h => (h.pa, h.bytes)) == [(pa0 + 7700, leBytes 4 5)]) = true
    ∧ goes (.claim sweep5 0) (bytesAtVa 7700 [5] (raked ⟨0, some 0, 0, [], [], [], false, false⟩ base0)) (fun t => t.homeStores.isEmpty
        && t.sweeps.all fun w => w.rakes.all fun r => r.claims.map (·.outcome) == [1]) = true
    ∧ goes (.claimReturn sweep5 0) (raked ⟨0, some 0, 1, [claimed 0], [], [], false, false⟩ base0) (fun t => t.teams.map (·.status) == [.waiting]) = true
    ∧ goes (.claimReturn sweep5 0) (raked ⟨0, some 0, 1, [claimed 1], [], [], false, false⟩ base0) (fun t => t.teams.isEmpty && t.sweeps.all fun w => w.skipped == 1) = true
    ∧ goes (.claimReturn sweep5 0) (raked ⟨0, some 0, 1, [claimed 3], [], [], false, false⟩ base0) (fun t => t.sweeps.all fun w => w.rakes.all (·.stopped)) = true := by
  decide +kernel

/-- The sweep's queue belongs to a guest out of budget, while another queue has a packet to start. -/
def heldRakes : State :=
  let s := raked ⟨0, some 0, 0, [], [], [], false, false⟩ (pending 0 (leBytes 40 0) base0)
  onSweep (fun w => { w with pkt := { w.pkt with q := ⟨1, 9⟩ } })
    { s with queues := s.queues ++ [{ queue0 with q := ⟨1, 9⟩, guest := 3 }], guests := [⟨3, 1, 288, 288, false, none⟩] }

/-- RakesClaimAndPlaceTeams: rakes of a queue that is pre-empted claim nothing, and none does behind a full dibber. -/
theorem test_met_RakesClaimAndPlaceTeams_held :
    (heldRakes.sweeps.all fun w => rakeHeld heldRakes w) = true
    ∧ (let s := raked ⟨0, some 0, 1, [claimed 0], [], [], false, false⟩ base0
       let u := { s with teams := List.replicate 4096 { placedTeam 1 0 .vector with status := .waiting } }
       u.sweeps.all fun w => (sweepCtx u w).any fun c => w.rakes.all fun r => handoffWaits u w c r) = true := by
  decide +kernel

/-- A team that waits at its dibber, with a stack for each wave. -/
def dibbed (s : State) : State := onCtx (fun c => { c with nslot := 4 }) (onTeam (fun t => { t with status := .waiting, slots := [] }) { s with waves := [] })

/-- RakesClaimAndPlaceTeams: a team claimed for a fenced die ends. -/
theorem test_met_RakesClaimAndPlaceTeams_fenced :
    goes (.claimReturn sweep5 0) { raked ⟨0, some 0, 1, [claimed 0], [], [], false, false⟩ base0 with dieFence := 0xFF } (fun t => t.teams.map (·.status) == [.ended]) = true := by
  decide +kernel

/-- The die holds no more: on each of its cores stands a team with the whole scratchpad. -/
def crowded (s : State) : State :=
  { s with teams := s.teams ++ (upto 36).map fun k => { placedTeam (100 + k) 0 .vector with core := k, slots := [], k := { (placedTeam 1 0 .vector).k with scratch := 524160 } } }

/-- RakesClaimAndPlaceTeams: a dibber places its team; a team that has waited long enough is grafted to another die. -/
theorem test_met_RakesClaimAndPlaceTeams_dibber :
    goes (.dibberPlacement 0) (dibbed base0) (fun t => t.teams.map (·.status) == [.placed] && t.waves.length == 1) = true
    ∧ goes (.teamGraft 1) (onSweep (fun w => { w with graft := true, gwait := 0, k := { w.k with scratch := 524160 } })
        (onCtx (fun c => { c with vdmap := [128, 129] }) (crowded (onTeam (fun t => { t with k := { t.k with scratch := 524160 } }) (dibbed base0))))) (fun t => (team1 t).grafted && (team1 t).vdie != 0) = true := by
  decide +kernel

/-- The team is to stop, and its wave has. -/
def stopped (abort : Bool) (s : State) : State :=
  onWave (fun w => { w with status := .stopped, preq := true }) (onTeam (fun t => { t with preempt := some ⟨abort, 0⟩ }) s)

/-- The team is saved, its save at VA 960. -/
def savedTeam : State → State := onWave (fun w => { w with status := .saved }) ∘ onTeam fun t => { t with status := .saved, saveAt := some 960 }

/-- TeamsAreSavedRestoredAndCommitted: a save that finds its place, a restore, a save that reads back poisoned, an abort, a save that does not fit, a
quantum. -/
theorem test_met_TeamsAreSavedRestoredAndCommitted :
    (let s := stopped false (onCtx (fun c => { c with save := 960, saveSize := 2 ^ 30 }) (mapped base0));
      maySave s (team1 s) && allocationPoisoned s (team1 s) == false && isWaiting s (.save 1) == false && arenaPlace s (ctx1 s) (team1 s) == some 960
        && arenaBad s (ctx1 s) 960 (saveBytes s (team1 s)) .store == none) = true
    ∧ goes (.teamRestore 1) (savedTeam (mapped base0)) (fun t => (team1 t).status == .placed && (team1 t).saveAt == none) = true
    ∧ goes (.preemptAbort 1) { savedTeam (mapped base0) with poison := [(pa0 + 960) / 48] } (fun t => t.waves.all fun w => w.status == .ended) = true
    ∧ goes (.preemptAbort 1) (stopped true base0) (fun t => t.waves.all fun w => w.status == .ended) = true
    ∧ goes (.preemptAbort 1) (stopped false base0) (fun t => t.waves.all fun w => w.status == .ended) = true
    ∧ goes (.quantumCommit ⟨1, 0, 0⟩) (onSweep (fun w => { w with det := true }) (waiting .quantum base0)) (fun t => (wave0 t).status == .running) = true := by decide +kernel

/-- TeamsAreSavedRestoredAndCommitted: a commit in which an operation of the copy engine goes on, and one in which a wave stands at QBLK. -/
theorem test_met_TeamsAreSavedRestoredAndCommitted_runs :
    goes (.quantumCommit ⟨1, 0, 0⟩) (withOp { copyOp with phase := .issued } (onSweep (fun w => { w with det := true }) (waiting .quantumEnd (someBytes (cored 0 0 base0)))))
      (fun t => commitRuns t ⟨1, 0, 0⟩ && (wave0 t).status == .quantumEnd && t.ops.map (·.phase) == [.queued]) = true
    ∧ goes (.quantumCommit ⟨1, 0, 0⟩) (onSweep (fun w => { w with det := true }) (waiting .quantum (sieving (wordAt 0x845000000000001C))))
      (fun t => t.ops.length == 1 && (wave0 t).status == .quantumEnd) = true := by decide +kernel

/-- TeamsAreSavedRestoredAndCommitted: a restore that waits for a bank of a triad under KEEP. -/
theorem test_met_TeamsAreSavedRestoredAndCommitted_waits :
    let s := { savedTeam (onTeam (fun t => { t with triads := [⟨true, 0, 10, none, false, true, 0⟩] }) (mapped base0)) with
      holds := [⟨10, 0, 1, 4096, 10 * 2 ^ 34, stackTriadOf pa0 + 2048, true⟩]
      refresh := (triadChannels (stackTriadOf pa0)).map fun ch => ⟨10, ch, 0, 0, 0, 0⟩ }
    (restorePlace s (team1 s)).isSome = true ∧ savePoisoned s (ctx1 s) (team1 s) = false ∧ leasesOver s (ctx1 s) (team1 s) = true ∧ (s.sweeps.all fun w => !w.drop) = true
    ∧ reopenWaits s (ctx1 s) (team1 s) = true
    ∧ goes (.teamRestore 1) s (fun t => (team1 t).reopenAt == some 0 && refusesEvent (.teamRestore 1) t) = true
    ∧ (let t := onTeam (fun t => { t with reopenAt := some 0 }) (atTick 1880 s)
       t.holds.all fun h => restoreWaits t h (team1 t)) = true := by decide +kernel

/-- TeamsAreSavedRestoredAndCommitted: the last live team of a DET sweep is gone, and a copy still waits for the commit. -/
theorem test_met_TeamsAreSavedRestoredAndCommitted_copies :
    (let s := withOp { copyOp with phase := .issued } (onSweep (fun w => { w with det := true }) (onTeam (fun t => { t with status := .ended }) (waiting .ended base0)));
      copiesWait s ⟨1, 0, 0⟩ && quantumReady s ⟨1, 0, 0⟩ && !commitRuns s ⟨1, 0, 0⟩ && s.sweeps.all fun w => w.det) = true := by decide +kernel

/-- An unanswered fault on granule 3: of the first stage in the ring's slot 0, or of the second stage. -/
def fault3 (second : Bool) (seq : Option Nat) : FaultRecord := ⟨seq, 0, 3 * 49152, 0, 0, 0, 0, 0, 3, 1, second, .page, 1, [], none⟩
/-- The context has a fault ring of one record at VA 1,920. -/
def ringAt (fs : List FaultRecord) (s : State) : State := onCtx (fun c => { c with fring := 1920, fcount := 1, faults := fs }) (mapped s)

/-- AnswersAndWakesAreServed: a record whose answer a faulted operation has not taken yet stays; one that has nothing left to wait for leaves. -/
theorem test_met_AnswersAndWakesAreServed_finish :
    (let r := { fault3 false (some 0) with answer := some false, waiters := [(.op 9, 3 * 49152)] }
      let s := withOp { faulted with accs := [⟨0, .g, 3 * 49152, 4, 0, 0, false, some ⟨.page, 1, BitVec.ofNat 64 (3 * 49152)⟩, false⟩] } (ringAt [r] base0)
      (finishRecord 1 s r).contexts.all (fun c => c.faults.length == 1)
        && (finishRecord 1 { s with ops := [] } r).homeStores.map (fun h => (h.pa, h.bytes)) == [(pa0 + 1960, leBytes 8 3)]) = true := by decide +kernel

/-- AnswersAndWakesAreServed: the guest's reply, the second stage's answer, a slot that is free for a record that waits, wakes of a mapped and an unmapped
queue. -/
theorem test_met_AnswersAndWakesAreServed :
    goes (.faultReply 1 0) (bytesAtVa 1960 [1] (ringAt [fault3 false (some 0)] base0)) (fun t => t.contexts.all (fun c => c.faults.isEmpty)
        && t.homeStores.map (fun h => (h.pa, h.bytes)) == [(pa0 + 1960, leBytes 8 3)]) = true
    ∧ goes (.secondStageResolution 1 3 true) (ringAt [fault3 true none] base0) (fun t => t.contexts.all fun c => c.faults.isEmpty) = true
    ∧ goes (.faultRingSlotFree 1) (bytesAtVa 1960 [3] (ringAt [fault3 false none] base0)) (fun t => t.contexts.all fun c => c.faults.all fun r => r.seq == some 0) = true
    ∧ goes (.wakeWrite ⟨1, 0⟩) { queued base0 with featStat := 1 } (fun t => t.queues.all fun q => !q.missed) = true
    ∧ goes (.wakeWrite ⟨1, 0⟩) { queued base0 with featStat := 1, queues := [{ queue0 with woken := false }] } (fun t => t.queues.all fun q => q.waker == 0x800) = true
    ∧ goes (.wakeWrite ⟨1, 0⟩) { queued base0 with queues := [{ queue0 with mapped := false }] } (fun t => t.queues.all fun q => q.missed) = true := by decide +kernel

/-- RegistersFirmwareAndIslands: features accepted, refused and too late; the admin queue; writes; islands; heartbeats in time and too late; a window;
a guest out of budget. -/
theorem test_met_RegistersFirmwareAndIslands :
    let up := { State.reset with boot := 3 }
    let upd := { up with update := some ⟨1, 7, 0, false, pref⟩ }
    goes (.featgo 1) { up with featReg := 1 } (fun t => t.featStat == 1 && t.featAcc == 1) = true
    ∧ goes (.featgo 1) { up with featReg := 2 } (fun t => t.featStat == 2) = true
    ∧ goes (.featgo 1) { up with featLocked := true } (fun t => t.featStat == 3) = true
    ∧ goes (.featgo 1) { up with featReg := 1, bootFailed := true } (fun t => t.featStat == 0) = true
    ∧ goes (.admingo 1) { up with adminq := BitVec.ofNat 64 (49152 * 10 * 2 ^ 34) } (fun t => t.boot == 4 && t.queues.length == 1 && !t.bootFailed) = true
    ∧ goes (.admingo 1) { up with adminq := 96 } (fun t => t.boot == 4 && t.queues.isEmpty && t.bootFailed) = true
    ∧ goes (.registerWrite 0 0x10 5) State.reset (fun t => t.featReg == 5) = true
    ∧ goes (.registerWrite 0 0x40 96) State.reset (fun t => t.adminq == 96) = true
    ∧ goes (.registerWrite 1 0x40 96) State.reset (fun t => t.adminq == 0) = true
    ∧ goes (.islandLevel 159 7) State.reset (fun t => t.islandLevel == [(159, 7)]) = true
    ∧ goes (.thermalLimit 0 true) State.reset (fun t => t.islandHot == [0] && goes (.thermalLimit 0 false) t (fun u => u.islandHot == [])) = true
    ∧ goes (.powerLimitClear 5) { State.reset with islandHeld := [(5, 1)] } (fun t => t.islandHeld == []) = true
    ∧ goes .firmwareHeartbeat { up with fwVersions := [4, 0] } (fun t => t.verCtr == 4) = true
    ∧ goes .firmwareHeartbeat { upd with now := 47000000 } (fun t => t.fwSlot == 1 && t.update.isNone) = true
    ∧ refusesEvent .heartbeatTimeout { upd with now := 47000000 } = true
    ∧ goes .heartbeatTimeout { upd with now := 47000001 } (fun t => t.fwSlot == 0 && t.update.isNone && t.errors.length == 1) = true
    ∧ refusesEvent .firmwareHeartbeat { upd with now := 47000001 } = true
    ∧ goes .budgetWindow { State.reset with now := 940000 } (fun t => t.window == 940000) = true
    ∧ goes (.guestOutOfBudget 0) { State.reset with guests := [⟨0, 1, 1, 288, false, none⟩] } (fun t => (guestOf t 0).out) = true := by decide +kernel

/-- RegistersFirmwareAndIslands: a core cluster's island that the module limit may lower exists, whichever clusters the fuses disable. -/
theorem test_met_RegistersFirmwareAndIslands_power : ∃ k, clusterOn k = true ∧ runLevel State.reset k < 7 := by
  by_cases h : Config.disabledCluster 0 = 0
  · exact ⟨1, by simp [clusterOn, h], by decide⟩
  · exact ⟨0, by
      have h' : ¬ 0 = (Config.disabledCluster 0).val := fun hc => h (Fin.ext hc.symm)
      simp [clusterOn, h'], by decide⟩

/-- AttestationRequestsAreAnswered: on a port that is up, with the last signature left and with none. -/
theorem test_met_AttestationRequestsAreAnswered :
    let s := { State.reset with portstat := 0xFFFF, aliasCert := true, aliasUsed := 1023 }
    portMode s 0 ≠ 0 ∧ portMode s 1 ≠ 0
    ∧ goes (.challenge 0) s (fun t => t.spdm == [(0, .ok .challenge (some 1023))] && goes (.challenge 0) t fun u => u.spdm.length == 2 && u.aliasUsed == 1024) = true
    ∧ goes (.getVersion 1) s (fun t => t.spdm == [(1, .ok .getVersion none)]) = true := by decide +kernel

/-- ResetsErrorsAndUnmap: a good bring-up, one that fails at step 2, a port, numbers, fences, errors, summaries, a scrub. -/
theorem test_met_ResetsErrorsAndUnmap :
    goes (.coldReset ⟨none, [], 0⟩) base0 (fun t => t.boot == 3 && t.teams.isEmpty && t.now == 0) = true
    ∧ goes (.coldReset ⟨some 2, [], 0⟩) base0 (fun t => t.boot == 2 && t.bootFailed) = true
    ∧ goes (.portReset 0) { queued base0 with boot := 4 } (fun t => t.queues.isEmpty && t.boot == 3) = true
    ∧ goes (.deviceNumberWrite 7) State.reset (fun t => t.devNum == some 7 && goes (.deviceNumberWrite 8) t fun u => u.devNum == some 7) = true
    ∧ goes (.spanPortDown 35 []) State.reset (fun t => t.spanDown == [35]) = true
    ∧ goes (.dieFence 7) State.reset (fun t => t.dieFence == 0x80) = true
    ∧ goes (.uncorrectableError (.sector (pa0 + 49))) State.reset (fun t => t.poison == [(pa0 + 49) / 48]) = true
    ∧ goes (.uncorrectableError (.scratch 287 524287)) State.reset (fun t => t.scratchPoison == [3145727]) = true
    ∧ goes (.uncorrectableError (.pad 7 67108863)) State.reset (fun t => t.scratchPoison == [14330538]) = true
    ∧ goes (.uncorrectableError (.waveRegs 1 0)) base0 (fun t => (wave0 t).status == .ended) = true
    ∧ goes (.uncorrectableError (.cache (pa0 + 49))) State.reset (fun t => t.sramPoison == [(pa0 + 49) / 48]) = true
    ∧ goes (.uncorrectableError (.l1 0 pa0)) { State.reset with copies := [⟨.l1 0, 1, none, 0, pa0 / 192, 9, 0, true, []⟩] } (fun t => t.copies.map (·.bad) == [[pa0 / 48]]) = true
    ∧ goes (.uncorrectableError (.l2 0 pa0)) { State.reset with copies := [⟨.l2 0, 1, none, 0, pa0 / 192, 9, 0, true, []⟩] } (fun t => t.copies.map (·.bad) == [[pa0 / 48]]) = true
    ∧ goes (.uncorrectableError (.gangRegs 1 1)) (onTeam (fun t => { t with rounds := t.rounds.map fun r => { r with word := 0x70D1000A080C001C } }) (roundFull (wordAt 0x71D500000102001C))) (fun t => (team1 t).rounds.isEmpty && (team1 t).lost.isSome) = true
    ∧ goes (.uncorrectableError (.tile 1 1)) (roundFull (wordAt 0x71D500000102001C)) (fun t => (team1 t).rounds.isEmpty && (team1 t).lost.isSome) = true
    ∧ ((pgnSocket (10 * 2 ^ 34)).isSome && pgnPresent base0 (10 * 2 ^ 34)) = true
    ∧ goes .softErrorSummary { State.reset with now := 940000000, corrected := 2 } (fun t => t.softPeriod == 1 && t.errors.length == 1) = true
    ∧ goes .softErrorSummary { State.reset with now := 940000000 } (fun t => t.softPeriod == 1 && t.errors.isEmpty) = true := by decide +kernel

/-- Granule 3 alone mapped, by a level 0 leaf: the four tables in slots 0 to 3 of their granule. -/
def mappedOne (s : State) : State :=
  let at_ (k : Nat) : Nat := 49152 * tableAt + 8192 * k
  let down (k : Nat) (m : List Host.Cell) : List Host.Cell := putBytes m (at_ k) (leBytes 8 (2 ^ 63 + 2 ^ 40 * (k + 1) + tableAt))
  { onCtx (fun c => { c with root := tableAt }) s with mem := putBytes (down 2 (down 1 (down 0 []))) (at_ 3 + 24) (leBytes 8 (leafEntry + 3)) }

/-- ResetsErrorsAndUnmap: the driver removes the leaf, and leaves another readable alone. -/
theorem test_met_ResetsErrorsAndUnmap_unmap :
    goes (.unmap 1 3 1 .remove) (mappedOne base0) (fun t => match reach t (ctx1 t) (3 * 49152) 4 .load with | .page 1 _ _ _ => true | _ => false) = true
    ∧ goes (.unmap 1 3 1 (.reduce true false false)) (mappedOne base0) (fun t => (match reach t (ctx1 t) (3 * 49152) 4 .load with | .ok _ _ => true | _ => false)
        && reach t (ctx1 t) (3 * 49152) 4 .store == .fault .prot 2) = true := by decide +kernel

/-! ## Single steps, with results worked out by hand from the rules -/

/-- Lane `l` of a register after the step of a word with registers preset. -/
def laneAfter (w : Nat) (regs : List (Nat × W32)) (r : Nat) : W32 := (waveAfter (lanesAll regs (wordAt w))).v r 0
/-- A scalar after the step of a word with scalars preset. -/
def scalAfter (w : Nat) (regs : List (Nat × Word)) (r : Nat) : Word := (waveAfter (scal regs (wordAt w))).path.s r

/-- R250: 64 in the last lane, the path behind its clause, one instruction and one clause counted (R168). -/
theorem test_step_iadd : (waveAfter (wordAt 0x040802024000001C)).v 2 31 = 64
    ∧ (waveAfter (wordAt 0x040802024000001C)).path.pc = 16 ∧ (waveAfter (wordAt 0x040802024000001C)).pf 1 = 1 := by decide +kernel
/-- R40: under `?p0`, lane 0 alone. -/
theorem test_step_guard : (waveAfter (lane0 (wordAt 0x0408020240000000))).v 2 0 = 64 ∧ (waveAfter (lane0 (wordAt 0x0408020240000000))).v 2 1 = 0 := by decide +kernel
/-- R247: halves do not carry into each other. -/
theorem test_step_iadd_h2 : laneAfter (wd 0x04 0 0 1 2 0 0x1D) [(1, 0x0001FFFF), (2, 0x00010001)] 0 = 0x00020000 := by decide +kernel
/-- R250: 64 bits in the scalar form. -/
theorem test_step_isub : scalAfter (wd 0x05 0x54 0 1 2 0 0x1C) [(1, 5), (2, 7)] 0 = 0xFFFFFFFFFFFFFFFE := by decide +kernel
/-- R250: the high half, signed and unsigned. -/
theorem test_step_imulh : laneAfter (wd 0x07 0 0 1 2 0 0x1C) [(1, 0x80000000), (2, 2)] 0 = 0xFFFFFFFF
    ∧ laneAfter (wd 0x07 0 0 1 2 1 0x1C) [(1, 0x80000000), (2, 2)] 0 = 1 := by decide +kernel
/-- R250: 3 · 4 + 5. -/
theorem test_step_imad : laneAfter (wd 0x08 0 0 1 2 3 0x1C) [(1, 3), (2, 4), (3, 5)] 0 = 17 := by decide +kernel
/-- R252: carry in and out. -/
theorem test_step_iaddc : (waveAfter (onWave (fun w => w.setP 1 0xFFFFFFFF 0xFFFFFFFF) (lanesAll [(1, 0xFFFFFFFF)] (wordAt (wd 0x0D 3 0 1 2 1 0x1C))))).v 0 5 = 0
    ∧ (waveAfter (onWave (fun w => w.setP 1 0xFFFFFFFF 0xFFFFFFFF) (lanesAll [(1, 0xFFFFFFFF)] (wordAt (wd 0x0D 3 0 1 2 1 0x1C))))).p 1 = 0xFFFFFFFF := by decide +kernel
/-- R251: signed saturation upward; unsigned downward. -/
theorem test_step_saturate : laneAfter (wd 0x0E 0 0 1 2 0 0x1C) [(1, 0x7FFFFFFF), (2, 1)] 0 = 0x7FFFFFFF
    ∧ laneAfter (wd 0x0F 0 0 1 2 1 0x1C) [(1, 1), (2, 2)] 0 = 0 := by decide +kernel
/-- R251: -1 and 1, signed and unsigned. -/
theorem test_step_imin : laneAfter (wd 0x0A 0 0 1 2 0 0x1C) [(1, 0xFFFFFFFF), (2, 1)] 0 = 0xFFFFFFFF
    ∧ laneAfter (wd 0x0A 0 0 1 2 1 0x1C) [(1, 0xFFFFFFFF), (2, 1)] 0 = 1 := by decide +kernel
/-- R248: `?!p1 MOVI v21, #0x0001_0000` with p1 false. -/
theorem test_step_movi : laneAfter 0x022A150001000024 [] 0x15 = 0x10000 := by decide +kernel
/-- R254: a shift by the width leaves 0; an arithmetic one the sign; a rotation goes round. -/
theorem test_step_shifts : laneAfter (wd 0x14 0x08 0 1 32 0 0x1C) [(1, 0xFFFFFFFF)] 0 = 0 ∧ laneAfter (wd 0x16 0x08 0 1 40 0 0x1C) [(1, 0x80000000)] 0 = 0xFFFFFFFF
    ∧ laneAfter (wd 0x17 0x08 0 1 1 0 0x1C) [(1, 0x80000001)] 0 = 3 := by decide +kernel
/-- R256. -/
theorem test_step_counts : laneAfter (wd 0x1A 0 0 1 0 0 0x1C) [(1, 0xF0F0)] 0 = 8 ∧ laneAfter (wd 0x1B 0 0 1 0 0 0x1C) [(1, 1)] 0 = 31
    ∧ laneAfter (wd 0x1C 0 0 1 0 0 0x1C) [(1, 1)] 0 = 0x80000000 := by decide +kernel
/-- R257: byte 0 of A, byte 3 of B, byte 0 of B, and zero. -/
theorem test_step_permb : laneAfter (wd 0x1D 0 0 1 2 3 0x1C) [(1, 0x33221100), (2, 0x77665544), (3, 0x80040700)] 0 = 0x00447700 := by decide +kernel
/-- R258: EQ in every lane. -/
theorem test_step_icmp : (waveAfter (lanesAll [(1, 5), (2, 5)] (wordAt (wd 0x1E 0xC0 3 1 2 0 0x1C)))).p 3 = 0xFFFFFFFF := by decide +kernel
/-- R264: every lane takes lane 5's value. -/
theorem test_step_shfl : (waveAfter (lanes 1 (fun l => BitVec.ofNat 32 (100 + l)) (wordAt (wd 0x30 0x08 0 1 5 0 0x1C)))).v 0 17 = 105 := by decide +kernel
/-- R265: the sum of 0 to 31. -/
theorem test_step_redw : (waveAfter (lanes 1 (fun l => BitVec.ofNat 32 l) (wordAt (wd 0x32 0 0 1 0 0 0x1C)))).v 0 9 = 496 := by decide +kernel
/-- R266: `%laneid`. -/
theorem test_step_rds : (waveAfter (wordAt 0x333009000000001C)).v 9 5 = 5 := by decide +kernel
/-- R267: MOVEM gives the old mask and takes the new one. -/
theorem test_step_movem : scalAfter (wd 0x36 0x50 0 1 0 0 0x1C) [(1, 7)] 0 = 0xFFFFFFFF
    ∧ (waveAfter (scal [(1, 7)] (wordAt (wd 0x36 0x50 0 1 0 0 0x1C)))).path.em = 7 := by decide +kernel

/-- R274: 1 + 2, and 2 · 3 + 1. -/
theorem test_step_fadd : laneAfter (wd 0x20 0 0 1 2 0 0x1C) [(1, 0x3F800000), (2, 0x40000000)] 0 = 0x40400000
    ∧ laneAfter (wd 0x23 0 0 1 2 3 0x1C) [(1, 0x40000000), (2, 0x40400000), (3, 0x3F800000)] 0 = 0x40E00000 := by decide +kernel
/-- R58, R71: 1 + 2^-24 is a tie and rounds to the even 1, inexact. -/
theorem test_step_fadd_tie : laneAfter (wd 0x20 0 0 1 2 0 0x1C) [(1, 0x3F800000), (2, 0x33800000)] 0 = 0x3F800000
    ∧ (waveAfter (lanesAll [(1, 0x3F800000), (2, 0x33800000)] (wordAt (wd 0x20 0 0 1 2 0 0x1C)))).fpf = BitVec.ofNat 64 fNX := by decide +kernel
/-- R278: 1 / 3, the root of 2, the reciprocal of 4. -/
theorem test_step_fdiv : laneAfter (wd 0x4B 0 0 1 2 0 0x1C) [(1, 0x3F800000), (2, 0x40400000)] 0 = 0x3EAAAAAB
    ∧ laneAfter (wd 0x42 0 0 1 0 0 0x1C) [(1, 0x40000000)] 0 = 0x3FB504F3 ∧ laneAfter (wd 0x40 0 0 1 0 0 0x1C) [(1, 0x40800000)] 0 = 0x3E800000 := by decide +kernel
/-- R275: 1 + 1 in register pairs. -/
theorem test_step_dadd : laneAfter (wd 0x27 0 4 2 2 0 0x1C) [(3, 0x3FF00000)] 5 = 0x40000000 := by decide +kernel
/-- R283: `CVT.e4m3.fp32` of 448, its largest value (R56). -/
theorem test_step_cvt : laneAfter 0x480005040004001C [(4, 0x43E00000)] 5 = 0x7E := by decide +kernel
/-- R280: four products of INT8. -/
theorem test_step_dot4 : laneAfter (wd 0x2D 0 0 1 2 0x44 0x1C) [(0, 10), (1, 0xFF010101), (2, 0x02020202)] 0 = 14 := by decide +kernel

/-- R28, R222: LD becomes one operation on counter 1, with an access of 4 bytes for each lane. -/
theorem test_step_ld : (after (lanesAll [(3, 8)] (scal [(48, 100)] (wordAt 0x501004300300141C)))).ops.map (fun o => (o.cn, o.accs.length, (o.accs.map fun x => (x.addr, x.n)).head?))
    = [(some 1, 32, some (108, 4))] := by decide +kernel
/-- R138, R141 to R145: six words on; a far target; a call leaves the next header; a return; a loop. -/
theorem test_step_transfers : (waveAfter (wordAt 0x900A00000006001C)).path.pc = 48 ∧ (waveAfter (wordAt 0x900000000000051C)).path.pc = 40
    ∧ (waveAfter (wordAt 0x920000000000051C)).path.pc = 40 ∧ (waveAfter (wordAt 0x920000000000051C)).path.s 62 = 16 ∧ (waveAfter (wordAt 0x920000000000051C)).v 58 3 = 16
    ∧ (waveAfter (scal [(62, 24)] (wordAt 0x940000000000001C))).path.pc = 24
    ∧ scalAfter 0xA04A00000001001C [(0, 2)] 0 = 1 ∧ (waveAfter (scal [(0, 2)] (wordAt 0xA04A00000001001C))).path.pc = 8 := by decide +kernel
/-- R153: the last lanes of the last wave end the team. -/
theorem test_step_exit : (waveAfter (wordAt 0x990000000000001C)).status = .ended ∧ (team1 (after (wordAt 0x990000000000001C))).status = .ended := by decide +kernel
/-- R164, R170: TRAP #7 reports SOFTWARE with 7, its own address, and goes to the handler. -/
theorem test_step_trap :
    let w := waveAfter (onWave (fun w => { w with tba := 64 }) (wordAt 0xB00800000700001C))
    w.xcause = 0x0760 ∧ w.xpc = 8 ∧ w.path.pc = 64 ∧ w.trapMask = true := by decide +kernel
/-- R171: RTT goes on at the resume point. -/
theorem test_step_rtt :
    let w := waveAfter (onWave (fun w => { w with frame := some ⟨3, 1, 40, [], 32⟩, xpc := 32, trapMask := true }) (wordAt 0xB10000000000001C))
    w.path.pc = 40 ∧ w.path.em = 3 ∧ w.trapMask = false := by decide +kernel
/-- R158: a task begins at the next header; given up, it reports TABORT's number and its own start. -/
theorem test_step_task : (waveAfter (scal [(40, 0)] (wordAt 0x9D1800280000001C))).task.map (·.start) = some 16
    ∧ (waveAfter (inTask none (wordAt 0x9F0800000500001C))).xtask = BitVec.ofNat 64 (2 ^ 63 + 2 ^ 48 + 5 * 2 ^ 40 + 8) := by decide +kernel
/-- R160: from die 0 to die 5 of the grid of two rows of four. -/
theorem test_step_diehops : scalAfter (wd 0xA2 0x54 0 1 2 0 0x1C) [(1, 0), (2, 5)] 0 = 2 := by decide +kernel
/-- R165, R167, R168: the CID, the mask, a counter. -/
theorem test_step_system : scalAfter 0xB34A00000001001C [] 0 = 1 ∧ (waveAfter (wordAt 0xB94800000100001C)).trapMask = true ∧ scalAfter 0xB84800000100001C [(0, 9)] 0 = 0 := by
  decide +kernel
/-- R335, R339: a bound register written, THRESH in its upper half; a gang register. -/
theorem test_step_tiles : (waveAfter (scal [(0, 0x4000000041000000)] (wordAt 0x77D000000000001C))).bnd 0 = 0x4000000041000000
    ∧ (waveAfter (pairTeam (wordAt 0x791000000000001C))).gr = pairGang := by decide +kernel
/-- R33: NOP with a destination index is ILLEGAL_OP, FIELD, with 0 in `%xaddr`. -/
theorem test_step_illegal :
    let w := waveAfter (onWave (fun w => { w with tba := 64 }) (wordAt (wd 0 0 1 0 0 0 0x1C)))
    w.xcause = 0x0201 ∧ w.xpc = 8 ∧ w.xaddr = 0 := by decide +kernel

end Sys2Proof.Tests
end

section
/-!
PROOF. A path at a header (R28, R33, R49 to R51): what the header does, check by check, and what ends the wait on its flags.
-/

namespace Sys2Proof.Machine

/-! ## What each part of a header's way answers -/

/-- Outside an ICALL group a fault at a header is a plain precise one. -/
theorem headerFault_ungrouped {p : Path} (hgrp : p.grp = false) (s : State) (a : AgentRef) (fi : FaultInfo) (va : Nat) :
    headerFault s a p fi va = deliver s a fi (preciseAt va) := by
  simp [headerFault, hgrp, preciseAt]

/-- A clause whose header cannot be fetched cannot be fetched, for the same cause. -/
theorem fetchClause_of_codeWord_error {s : State} {c : Context} {seat va sub : Nat} (h : codeWord s c seat va = .error sub) :
    fetchClause s c seat va = .error (sub, va) := by
  simp [fetchClause, h]

/-- Below `fetchAlias` the fault of a fetch is FETCH with its SUB bits (R51). -/
theorem fetchFault_of_lt {sub : Nat} (h : sub < fetchAlias) (addr : Nat) : fetchFault sub addr = ⟨.fetch, sub, BitVec.ofNat 64 addr⟩ :=
  if_neg (Nat.not_le.2 h)

/-- A wave's own path starts its clause when none of the flags that the header names is raised, and stalls on them otherwise (R28 steps 6, 7). -/
theorem startClause_main {a : AgentRef} (hlane : a.lane = none) (s : State) (w : Wave) (k : Clause) :
    startClause s a w k =
      if flagsOf (updCur s a fun w => { w with flagsHeld := 0 }) { w with flagsHeld := 0 } &&& (headerOfWord k.hdr).wait = 0 then
        enterClause (updCur s a fun w => { w with flagsHeld := 0 }) a k
      else updCur (enterClause (updCur s a fun w => { w with flagsHeld := 0 }) a k) a fun w => { w with status := .flagWait } := by
  simp only [startClause, hlane]

section Reach
variable {s : State} {a : AgentRef} {w : Wave} {t : Team} {c : Context} {p : Path} {k : Clause} {sw : Sweep} {eng : Engine}

/-- An agent that may issue and stands between clauses of a sweep that is not halted goes through the steps of R28. -/
theorem execClauseHeader_reaches (hcur : s.cur = some a) (hw : findWave s a.tid a.wave = some w) (ht : findTeam s a.tid = some t)
    (hp : w.pathOf a.lane = some p) (hc : teamCtx s t = some c) (hsw : sweepOf s t = some sw) (hhalt : sw.halted = false)
    (hfree : p.clause = none) (hissue : mayIssue w a.lane = true) (hpc : p.pc % 8 = 0) (hmid : p.mid = false) :
    execClauseHeader s = .next (reachHeader s a w t c p) := by
  simp [execClauseHeader, nextClause, hcur, hw, ht, hp, hc, hsw, hhalt, hfree, hissue, hpc, hmid]

/-- A clause that breaks a check of R28 step 2. -/
theorem reachHeader_illegal {sub : Nat} (hk : fetchClause s c (seatOf t) p.pc = .ok k) (hsub : clauseFault k = some sub) :
    reachHeader s a w t c p = headerFault (keepClause s c (seatOf t) k) a p ⟨.illegalClause, sub, 0⟩ p.pc := by
  simp only [reachHeader, hk, hsub]

section Passes
variable (hk : fetchClause s c (seatOf t) p.pc = .ok k) (hok : clauseFault k = none)
  (hqb : headerBoundary (keepClause s c (seatOf t) k) a w t (headerOfWord k.hdr) = false)
  (hyp : ((headerOfWord k.hdr).yp && w.preq) = false) (heng : engOfCode (headerOfWord k.hdr).eng.toNat = some eng)
include hk hok hqb hyp heng

/-- A clause that breaks no check of R28 step 2, at no boundary and under no request to stop, is refused for its role (R14). -/
theorem reachHeader_role (hrole : roleMay w.role eng = false) :
    reachHeader s a w t c p = headerFault (keepClause s c (seatOf t) k) a p ⟨.role, 0, 0⟩ p.pc := by
  simp [reachHeader, hk, hok, hqb, hyp, heng, hrole]

/-- Such a clause of a class that the role may issue is refused for its breakpoint, unless BKSKIP is in force (R46). -/
theorem reachHeader_breakpoint (hrole : roleMay w.role eng = true) (hbk : ((headerOfWord k.hdr).bk && c.bken) = true)
    (hskip : w.skip = false) :
    reachHeader s a w t c p = headerFault (keepClause s c (seatOf t) k) a p ⟨.breakpoint, 0, 0⟩ p.pc := by
  simp only [reachHeader, hk, hok, hqb, hyp, heng, hrole, hbk, bkskip, hskip, Bool.not_true, Bool.false_and, Bool.false_eq_true,
    if_false, if_true]

/-- Where no breakpoint stops it, it starts; a breakpoint passed clears BKSKIP (R46). -/
theorem reachHeader_starts (hrole : roleMay w.role eng = true) (hgo : ((headerOfWord k.hdr).bk && c.bken) = false ∨ w.skip = true) :
    reachHeader s a w t c p = startClause (if (headerOfWord k.hdr).bk && c.bken then updCur (keepClause s c (seatOf t) k) a clearSkip
      else keepClause s c (seatOf t) k) a w k := by
  simp only [reachHeader, hk, hok, hqb, hyp, heng, hrole, Bool.not_true, Bool.false_and, Bool.false_eq_true, if_false]
  cases hbk : ((headerOfWord k.hdr).bk && c.bken) with
  | false => simp only [Bool.false_eq_true, if_false]
  | true =>
    have hskip : w.skip = true := hgo.resolve_left (by simp [hbk])
    simp only [bkskip, hskip, if_true]

end Passes

end Reach

/-! ## The wait on flags -/

section FlagWait
variable {s : State} {a : AgentRef} {w : Wave} {k : Clause}

/-- A wave that waits on flags is at a yield point where its header has YP set (R154). -/
theorem heldAtYield_flagWait (hst : w.status = .flagWait) (hk : w.path.clause = some k) :
    heldAtYield w = (w.preq && (headerOfWord k.hdr).yp) := by
  simp only [heldAtYield, atYield, hst, hk]

/-- The end of a wait on flags. -/
theorem execClauseWaitRelease_flagWait (hcur : s.cur = some a) (hw : findWave s a.tid a.wave = some w) (hst : w.status = .flagWait)
    (hk : w.path.clause = some k) :
    execClauseWaitRelease s =
      if w.preq && (headerOfWord k.hdr).yp then .next (updCur s a fun w =>
        { w with status := .stopped, path := { w.path with pc := k.hdrVa, mid := false, clause := none } })
      else if flagsOf s w &&& (headerOfWord k.hdr).wait = 0 then .next (makeReady s a.tid a.wave) else .fault .notEnabled := by
  simp only [execClauseWaitRelease, hcur, hw, hst, hk, heldAtYield_flagWait hst hk]

end FlagWait

/-- Settles O41, from what a header and the end of a wait do, check by check. -/
theorem clausesAreTakenOrRefused : Obligations.ClausesAreTakenOrRefused := by
  intro s a w k hcur hw stands
  refine ⟨?unfetched, ?fetched, ?wait⟩
  case unfetched =>
    rintro t p c sub ⟨ht, hp, hc, ⟨sw, hsw, hhalt⟩, hfree, hissue, hpc, hmid⟩ hgrp herr hsub
    refine (execClauseHeader_reaches hcur hw ht hp hc hsw hhalt hfree hissue hpc hmid).trans ?_
    simp only [reachHeader, fetchClause_of_codeWord_error herr, headerFault_ungrouped hgrp, fetchFault_of_lt hsub]
  case fetched =>
    rintro t p c ⟨ht, hp, hc, ⟨sw, hsw, hhalt⟩, hfree, hissue, hpc, hmid⟩ hk s1 h passes
    have reaches : exec .clauseHeader s = .next (reachHeader s a w t c p) :=
      execClauseHeader_reaches hcur hw ht hp hc hsw hhalt hfree hissue hpc hmid
    rw [reaches]
    refine ⟨fun sub hgrp hsub => ?illegal, fun eng hpass hgrp hrole => ?role, fun eng hpass hgrp hrole hbk hbken hskip => ?breakpoint,
      fun eng hpass hrole hgo hlane => ?starts⟩
    case illegal => rw [reachHeader_illegal hk hsub, headerFault_ungrouped hgrp]
    case role =>
      obtain ⟨hok, hqb, hyp, heng⟩ := hpass
      rw [reachHeader_role hk hok hqb hyp heng hrole, headerFault_ungrouped hgrp]
    case breakpoint =>
      obtain ⟨hok, hqb, hyp, heng⟩ := hpass
      have hstop : (h.bk && c.bken) = true := by rw [hbk, hbken]; rfl
      rw [reachHeader_breakpoint hk hok hqb hyp heng hrole hstop hskip, headerFault_ungrouped hgrp]
    case starts =>
      obtain ⟨hok, hqb, hyp, heng⟩ := hpass
      intro s2 s0
      have hstart : reachHeader s a w t c p = startClause s2 a w k := reachHeader_starts hk hok hqb hyp heng hrole hgo
      rw [hstart, startClause_main hlane]
      exact ⟨fun hclear => congrArg _ (if_pos hclear), fun hraised => congrArg _ (if_neg hraised)⟩
  case wait =>
    intro hst hk held
    have hrel : exec .clauseWaitRelease s = _ := execClauseWaitRelease_flagWait hcur hw hst hk
    rw [hrel]
    refine ⟨fun hheld hclear => ?_, fun hheld hraised => ?_, fun hheld => ?_⟩
    · rw [if_neg (Bool.eq_false_iff.1 hheld), if_pos hclear]
    · rw [if_neg (Bool.eq_false_iff.1 hheld), if_neg hraised]
    · rw [if_pos hheld]

end Sys2Proof.Machine
end

section
/-!
PROOF. What the end of a team may change. Sending error records and ending waves (R153, R173, R422) touches the work of teams, the queues and the
memory that records and jars are written to; everything else of the machine stands, and no error record is taken back.
-/

namespace Sys2Proof.Machine

/-- The state `t` with all that the end of a team may touch as it is in `s`. -/
def withTeamsOf (s t : State) : State :=
  { t with
    waves := s.waves, teams := s.teams, sweeps := s.sweeps, ops := s.ops, contexts := s.contexts, queues := s.queues, fresh := s.fresh
    mem := s.mem, poison := s.poison, sramPoison := s.sramPoison, homeStores := s.homeStores, lineT := s.lineT, holds := s.holds
    refresh := s.refresh, aliases := s.aliases, tlb := s.tlb, errors := s.errors }

/-- From `s` to `t` nothing has changed but what the end of a team may touch, and error records were only added. -/
structure EndFrame (s t : State) : Prop where
  rest : withTeamsOf s t = s
  told : s.errors ⊆ t.errors

namespace EndFrame

theorem refl (s : State) : EndFrame s s := ⟨rfl, List.Subset.refl _⟩

theorem trans {s t u : State} (h : EndFrame s t) (h' : EndFrame t u) : EndFrame s u :=
  ⟨(congrArg (withTeamsOf s) h'.rest).trans h.rest, List.Subset.trans h.told h'.told⟩

/-- A change that leaves the errors alone. -/
theorem of_rest {s t : State} (h : withTeamsOf s t = s) (he : t.errors = s.errors) : EndFrame s t := ⟨h, he ▸ List.Subset.refl _⟩

theorem foldl {β : Type} {f : State → β → State} (hf : ∀ s b, EndFrame s (f s b)) (l : List β) (s : State) : EndFrame s (l.foldl f s) := by
  induction l generalizing s with
  | nil => exact refl s
  | cons b r ih => exact (hf s b).trans (ih (f s b))

/-- The end of a team fences no die. -/
theorem dieFence {s t : State} (h : EndFrame s t) : t.dieFence = s.dieFence := by
  rw [← congrArg State.dieFence h.rest]
  rfl

end EndFrame

/-! ## Updates of one record -/

theorem endFrame_updWave (s : State) (tid ix : Nat) (g : Wave → Wave) : EndFrame s (updWave s tid ix g) := .of_rest rfl rfl
theorem endFrame_updTeam (s : State) (tid : Nat) (g : Team → Team) : EndFrame s (updTeam s tid g) := .of_rest rfl rfl
theorem endFrame_updSweep (s : State) (r : SweepRef) (g : Sweep → Sweep) : EndFrame s (updSweep s r g) := .of_rest rfl rfl
theorem endFrame_updCtx (s : State) (cid : Nat) (g : Context → Context) : EndFrame s (updCtx s cid g) := .of_rest rfl rfl
theorem endFrame_updQueue (s : State) (q : QRef) (g : Queue → Queue) : EndFrame s (updQueue s q g) := .of_rest rfl rfl
theorem endFrame_pushOp (s : State) (o : Op) : EndFrame s (pushOp s o) := .of_rest rfl rfl
theorem endFrame_ops (s : State) (l : List Op) : EndFrame s { s with ops := l } := .of_rest rfl rfl
theorem endFrame_errors (s : State) (rs : List ErrorRecord) : EndFrame s { s with errors := s.errors ++ rs } :=
  ⟨rfl, List.subset_append_left s.errors rs⟩

/-! ## Error records (R422) -/

/-- A store that reaches its home waits there, and the times of its lines move on. -/
theorem storeHome_frame (s : State) (op : Nat) (core : Option Nat) (leased : Bool) (pa : Nat) (bs : List Byte) :
    { (storeHome s op core leased pa bs).1 with homeStores := s.homeStores, lineT := s.lineT } = s := by
  unfold storeHome
  generalize linePieces (bs.length / 192 + 2) pa bs = l
  suffices ∀ acc : State × Nat, { (l.foldl (homePiece op core leased) acc).1 with homeStores := acc.1.homeStores, lineT := acc.1.lineT } = acc.1 from
    this (s, 0)
  induction l with
  | nil => exact fun _ => rfl
  | cons x r ih =>
    intro acc
    exact congrArg (fun u : State => { u with homeStores := acc.1.homeStores, lineT := acc.1.lineT }) (ih (homePiece op core leased acc x))

theorem endFrame_storeAfter (s : State) (pa : Nat) (bs : List Byte) (t0 : Nat) : EndFrame s (storeAfter s pa bs t0).1 := by
  have h := storeHome_frame { s with now := max s.now t0 } 0 none true pa bs
  have herr : (storeAfter s pa bs t0).1.errors = s.errors := by
    rw [← congrArg State.errors h]
    rfl
  exact .of_rest (congrArg (fun u => withTeamsOf s { u with now := s.now }) h) herr

theorem endFrame_noteTlb (s : State) (c : Context) (g : Nat) : EndFrame s (noteTlb s c g) := by
  unfold noteTlb
  dsimp only
  split
  · exact .of_rest rfl rfl
  · exact .refl s

theorem endFrame_noteAlias (s : State) (c : Context) (pte pgn vgn : Nat) : EndFrame s (noteAlias s c pte pgn vgn) := by
  refine (endFrame_noteTlb s c vgn).trans ?_
  unfold noteAlias
  dsimp only
  split
  · exact .of_rest rfl rfl
  · exact .refl _

theorem endFrame_queueNoted (s : State) (q : Queue) (va n : Nat) (k : AccKind) : EndFrame s (queueNoted s q va n k) := by
  unfold queueNoted
  split
  · unfold noteQueueAlias
    split
    · exact endFrame_noteAlias ..
    · exact .refl s
  · exact .refl s

/-- A record written to a queue's ring. -/
theorem endFrame_ringWrite {s s1 : State} {q : Queue} {r : ErrorRecord} {t : Nat} (h : ringWrite s q r = .done s1 t) : EndFrame s s1 := by
  unfold ringWrite at h
  split at h
  case h_1 u _ _ =>
    dsimp only at h
    split at h
    case h_1 =>
      cases h
      exact (endFrame_queueNoted ..).trans <| (endFrame_queueNoted ..).trans <| (endFrame_storeAfter ..).trans <|
        (endFrame_storeAfter ..).trans (endFrame_updQueue ..)
    all_goals cases h
  all_goals cases h

theorem endFrame_noteTold (s : State) (q : QRef) (t : Nat) : EndFrame s (noteTold s q t) := endFrame_updQueue ..

theorem endFrame_postAdmin (s : State) (r : ErrorRecord) : EndFrame s (postAdmin s r) := by
  unfold postAdmin
  split
  · exact .refl s
  · split
    next h => exact (endFrame_ringWrite h).trans (endFrame_noteTold ..)
    · exact .refl s

theorem endFrame_haltQueue (s : State) (q : Queue) (code sub va : Nat) : EndFrame s (haltQueue s q code sub va) := by
  unfold haltQueue
  split
  · exact .refl s
  · exact (endFrame_errors s _).trans <| (endFrame_updQueue ..).trans (endFrame_postAdmin ..)

theorem endFrame_sendRecords (s : State) (q : QRef) (rs : List ErrorRecord) : EndFrame s (sendRecords s q rs) := by
  induction rs generalizing s with
  | nil => exact .refl s
  | cons r rs ih =>
    rw [sendRecords]
    split
    · exact .foldl endFrame_postAdmin (r :: rs) s
    · split
      · exact endFrame_updQueue ..
      · split
        next h => exact (endFrame_ringWrite h).trans <| (endFrame_noteTold ..).trans (ih _)
        · exact endFrame_updQueue ..
        · split
          · exact ih s
          · exact (EndFrame.foldl endFrame_postAdmin (r :: rs) s).trans (endFrame_haltQueue ..)

theorem endFrame_postErrors (s : State) (q : QRef) (rs : List ErrorRecord) : EndFrame s (postErrors s q rs) :=
  (endFrame_errors s rs).trans (endFrame_sendRecords ..)

/-! ## The end of waves and teams (R153, R173) -/

theorem endFrame_writeNow (s : State) (pa : Nat) (bs : List Byte) : EndFrame s (writeNow s pa bs) := .of_rest rfl rfl

theorem endFrame_setJar (s : State) (cid k : Nat) (r : JarRec) : EndFrame s (setJar s cid k r) := by
  unfold setJar
  split
  · exact endFrame_updCtx ..
  · exact (endFrame_updCtx ..).trans (endFrame_writeNow ..)

theorem endFrame_exitHandle (cid : Nat) (a : AgentRef) (s : State) (h : Word) : EndFrame s (exitHandle cid a s h) := by
  unfold exitHandle
  split
  · dsimp only
    split
    · split
      · exact endFrame_setJar ..
      · exact endFrame_pushOp ..
    · exact .refl s
  · exact .refl s

theorem endFrame_exitHandles (s : State) (cid : Nat) (w : Wave) : EndFrame s (exitHandles s cid w) :=
  .foldl (β := Nat × Word) (fun s e => endFrame_exitHandle cid ⟨w.tid, w.ix, none⟩ s e.2) w.handles s

theorem endFrame_returnSlot (s : State) (cid : Nat) (e : TriadEntry) (tid : Nat) : EndFrame s (returnSlot s cid e tid) := by
  unfold returnSlot
  split
  · exact .refl s
  · split
    · exact .refl s
    · exact .of_rest rfl rfl

theorem endFrame_releaseTriads (s : State) (t : Team) : EndFrame s (releaseTriads s t) := by
  refine EndFrame.trans (.foldl (fun s e => ?_) t.triads s) (endFrame_updTeam ..)
  split
  · exact endFrame_returnSlot ..
  · exact .refl s

theorem endFrame_checkTeamEnd (s : State) (tid : Nat) : EndFrame s (checkTeamEnd s tid) := by
  unfold checkTeamEnd
  split
  · exact .refl s
  · split
    · exact .refl s
    · exact (endFrame_releaseTriads ..).trans <| (endFrame_updTeam ..).trans (endFrame_updSweep ..)

theorem endFrame_endWave (s : State) (tid ix : Nat) : EndFrame s (endWave s tid ix) := by
  unfold endWave
  split
  · split
    · exact .refl s
    · exact (endFrame_updWave ..).trans <| (endFrame_updTeam ..).trans <| (endFrame_ops ..).trans (endFrame_exitHandles ..)
  · exact .refl s

theorem endFrame_discardTask (s : State) (w : Wave) : EndFrame s (discardTask s w) := by
  unfold discardTask
  split
  · exact .refl s
  · split
    · exact .refl s
    · exact (endFrame_ops ..).trans <| (endFrame_updTeam ..).trans (endFrame_updWave ..)

/-- A team ends with an error record. -/
theorem endFrame_endTeam (s : State) (tid type code sub wave : Nat) (xpc xaddr : Word) (frame : Option Frame) :
    EndFrame s (endTeam s tid type code sub wave xpc xaddr frame) := by
  unfold endTeam
  split
  · exact .refl s
  · split
    · exact .refl s
    · exact (endFrame_updTeam ..).trans <| (EndFrame.foldl endFrame_discardTask _ _).trans <|
        (EndFrame.foldl (fun s (w : Wave) => endFrame_endWave s w.tid w.ix) _ _).trans <| (endFrame_checkTeamEnd ..).trans <|
        (endFrame_updSweep ..).trans (endFrame_postErrors ..)

end Sys2Proof.Machine
end

section
/-!
PROOF. Resets, bring-up, span ports, fences, errors and the unmap (R9, R169, R207, R345, R418, R419, R423, R425, R429), one lemma for each event
and outcome.
-/

namespace Sys2Proof.Machine

/-! ## Reset and bring-up (R419, R425) -/

/-- Settles O4: the reset state is plain data, each value of which is read off (R15, R410, R425). -/
theorem resetHoldsTheSpecsValues : Obligations.ResetHoldsTheSpecsValues :=
  ⟨rfl, rfl, rfl, rfl, rfl, rfl, rfl, rfl, rfl, rfl, rfl, rfl, rfl, rfl, rfl, fun _ => rfl⟩

/-- What a cold reset leaves whether or not bring-up succeeds: the timebase is 0 and nothing runs. -/
structure NothingRuns (t : State) : Prop where
  now : t.now = 0
  teams : t.teams = []
  waves : t.waves = []
  contexts : t.contexts = []
  queues : t.queues = []

theorem nothingRuns_resetState (s : State) : NothingRuns (resetState s) := ⟨rfl, rfl, rfl, rfl, rfl⟩

theorem NothingRuns.bootFails {s : State} (h : NothingRuns s) (k : Nat) : NothingRuns (bootFails s k) := { h with }

theorem NothingRuns.bootFirmware {s : State} (h : NothingRuns s) (slot : Nat) : NothingRuns (bootFirmware s slot) := by
  unfold Machine.bootFirmware
  dsimp only
  split
  · exact { h with }
  · exact { h with }

theorem NothingRuns.trainLinks {s : State} (h : NothingRuns s) (b : BringUp) : NothingRuns (trainLinks s b) := { h with }

/-- A bring-up that no step fails goes through to BOOT 3. -/
theorem bringUp_of_failAt_none {s : State} {b : BringUp} {slot : Nat} (hslot : bootSlot s = some slot) (hb : b.failAt = none) :
    bringUp s b = { trainLinks (bootFirmware s slot) b with boot := 3 } := by
  simp [bringUp, hslot, hb]

/-- A bring-up that fails at step `k` stops there, or at 1 where no slot can boot, and nothing runs (log entry 36). -/
theorem bringUp_of_failAt_some {s : State} {b : BringUp} {k : Nat} (hs : NothingRuns s) (hb : b.failAt = some k) :
    ((bringUp s b).boot = k ∨ (bringUp s b).boot = 1) ∧ (bringUp s b).bootFailed = true ∧ NothingRuns (bringUp s b) := by
  unfold bringUp
  split
  case h_1 => exact ⟨.inr rfl, rfl, hs.bootFails 1⟩
  case h_2 slot _ =>
    split
    · exact ⟨.inr rfl, rfl, hs.bootFails 1⟩
    · simp only [hb]
      exact ⟨.inl rfl, rfl, ((hs.bootFirmware slot).trainLinks b).bootFails k⟩

/-! ## Span ports, fences and errors (R9, R345, R418, R423) -/

/-- A port that takes no device's last route with it. -/
theorem execSpanPortDown_noneLost {s : State} {k : Nat} (hk : k < 36) (hup : s.spanDown.contains k = false) :
    execSpanPortDown k [] s = .next (failLostColls { s with spanDown := s.spanDown ++ [k] }) := by
  have hen : (decide (36 ≤ k) || s.spanDown.contains k) = false := by
    rw [hup, decide_eq_false (Nat.not_le.2 hk), Bool.or_self]
  rw [execSpanPortDown, if_neg (Bool.eq_false_iff.1 hen)]
  simp

theorem endFrame_fenceContext (d : Nat) (s : State) (c : Context) : EndFrame s (fenceContext d s c) := by
  unfold fenceContext
  split
  · exact .refl s
  · exact .of_rest rfl rfl

/-- A fence of a die is noted once, whatever it ends. -/
theorem execDieFence_dieFence {s : State} {d : Nat} (hd : d < 8) (hnew : s.dieFence.getLsbD d = false) :
    ∃ t, execDieFence d s = .next t ∧ t.dieFence = s.dieFence ||| BitVec.ofNat 8 (2 ^ d) := by
  have hen : (decide (8 ≤ d) || s.dieFence.getLsbD d) = false := by
    rw [hnew, decide_eq_false (Nat.not_le.2 hd), Bool.or_self]
  unfold execDieFence
  rw [if_neg (Bool.eq_false_iff.1 hen)]
  refine ⟨_, rfl, EndFrame.dieFence (.trans (.foldl (endFrame_fenceContext d) s.contexts _) (.foldl (fun s t => ?_) _ _))⟩
  exact endFrame_endTeam ..

/-- Poison in a copy that a cache keeps of the line is noted in each such copy (R219). -/
theorem spoilCopy_of_hit {s : State} {place : CopyPlace} {pa : Nat}
    (hany : s.copies.any (fun y => y.place = place && y.kept && y.pline == pa / 192) = true) :
    spoilCopy s place pa = some { s with copies := s.copies.map fun y =>
      if y.place = place && y.kept && y.pline == pa / 192 then { y with bad := addOnce (pa / 48) y.bad } else y } :=
  if_pos hany

/-- An error in the registers of a wave that has not ended ends its team. -/
theorem execUncorrectableError_waveRegs {s : State} {tid ix : Nat} {w : Wave} (hw : findWave s tid ix = some w) (hlive : w.status ≠ .ended) :
    execUncorrectableError (.waveRegs tid ix) s = .next (endTeam s tid 1 Code.poison.num 2 ix 0 0 none) := by
  simp only [execUncorrectableError, hw, hlive, if_false]

/-- An error in a gang's registers that a full round reads loses the member that they belong to (R345). -/
theorem execUncorrectableError_gangRegs {s : State} {tid ix : Nat} {v : Wave} (hv : lostMember s tid ix false = some v) :
    execUncorrectableError (.gangRegs tid ix) s = .next (loseMember s v) := by
  simp only [execUncorrectableError, hv, Option.map_some, orNotEnabled]

/-- So does one in its tile (R345). -/
theorem execUncorrectableError_tile {s : State} {tid ix : Nat} {v : Wave} (hv : lostMember s tid ix true = some v) :
    execUncorrectableError (.tile tid ix) s = .next (loseMember s v) := by
  simp only [execUncorrectableError, hv, Option.map_some, orNotEnabled]

section SoftErrors
variable {s : State} (hdue : s.softPeriod < s.now / 940000000)
include hdue

/-- A period without corrected errors ends without a record. -/
theorem execSoftErrorSummary_none (hcor : s.corrected = 0) :
    execSoftErrorSummary s = .next { s with softPeriod := s.now / 940000000 } := by
  rw [execSoftErrorSummary, softTicks, if_neg (Nat.not_le.2 hdue), if_pos hcor]
  exact congrArg (fun n => Host.Outcome.next { s with corrected := n, softPeriod := s.now / 940000000 }) hcor.symm

/-- The corrected errors of a period are reported in one record. -/
theorem execSoftErrorSummary_some (hcor : s.corrected ≠ 0) :
    ∃ t, execSoftErrorSummary s = .next t ∧ t.corrected = 0 ∧ t.softPeriod = s.now / 940000000 ∧ softRecord s ∈ t.errors := by
  rw [execSoftErrorSummary, softTicks, if_neg (Nat.not_le.2 hdue), if_neg hcor]
  refine ⟨_, rfl, rfl, rfl, ?_⟩
  exact (endFrame_postAdmin { s with errors := s.errors ++ [softRecord s] } (softRecord s)).told (by simp)

end SoftErrors

/-- A scrub of a line that is there leaves memory as it is; an error corrected there is counted. -/
theorem execPatrolScrub_present {s : State} {line : Nat} (hstack : (pgnSocket (line / 256)).isSome = true)
    (hthere : pgnPresent s (line / 256) = true) :
    ∃ t, execPatrolScrub line s = .next t ∧ t.mem = s.mem ∧ (t.corrected = s.corrected ∨ t.corrected = s.corrected + 1) := by
  rw [execPatrolScrub, hstack, hthere, Bool.and_self, if_pos rfl]
  by_cases hb : Config.freeBool s.freeIx = true
  · exact ⟨_, congrArg _ (if_pos hb), rfl, .inr rfl⟩
  · exact ⟨_, congrArg _ (if_neg hb), rfl, .inl rfl⟩

/-! ## The unmap (R169, R207, R429) -/

/-- A range of whole leaves inside the VA space, with no store and no open version left in it. -/
theorem execUnmap_whole {s : State} {cid base count : Nat} {perm : UnmapPerm} {c : Context} (hc : ctxOf s cid = some c) (hcount : 0 < count)
    (htop : 49152 * (base + count) ≤ Config.vaTop) (hleaves : wholeLeaves s c base count = true)
    (hclean : dirtyIn s cid (49152 * base) (49152 * count) = false) (hopen : versionHolds s c base count = false) :
    let s2 := discardCopies ((upto count).foldl (fun s k => unmapGranule c perm s (base + k))
      (if perm = .remove then dropAliases s c base count else s)) cid (49152 * base) (49152 * count)
    execUnmap cid base count perm s = .next
      (if perm = .remove then dropTriads s2 fun h => h.cid == cid && decide (base ≤ h.triad / 16) && decide (h.triad / 16 < base + count) else s2) := by
  have hcount' : count ≠ 0 := Nat.ne_of_gt hcount
  have htop' : ¬ Config.vaTop < 49152 * base + 49152 * count := by omega
  simp only [execUnmap, hc, hcount', htop', hleaves, hclean, hopen, decide_false, Bool.not_true, Bool.or_self, Bool.false_eq_true, if_false]

/-- Settles O60, event by event. -/
theorem resetsErrorsAndUnmap : Obligations.ResetsErrorsAndUnmap := by
  intro s
  refine ⟨?reset, ?resetFails, ?port1, ?port0, ?devNum, ?spanDown, ?dieFence, ?sector, ?scratch, ?pad, ?cache, ?copy, ?member, ?waveRegs,
    ?softNone, ?softSome, ?scrub, ?unmap⟩
  case reset =>
    intro b slot hgood hslot hb
    exact (if_pos hgood).trans (congrArg _ (bringUp_of_failAt_none hslot hb))
  case resetFails =>
    intro b k hgood hb
    obtain ⟨hboot, hfailed, hruns⟩ := bringUp_of_failAt_some (nothingRuns_resetState s) hb
    exact ⟨_, if_pos hgood, hboot, hfailed, hruns.now, hruns.teams, hruns.waves, hruns.contexts, hruns.queues⟩
  case port1 => rfl
  case port0 => exact ⟨_, rfl, rfl, rfl, rfl⟩
  case devNum =>
    intro n
    refine congrArg _ (if_congr ?_ rfl rfl)
    rw [Bool.and_eq_true, Option.isNone_iff_eq_none, decide_eq_true_eq]
  case spanDown => exact fun k hk hup => execSpanPortDown_noneLost hk hup
  case dieFence => exact fun d hd hnew => execDieFence_dieFence hd hnew
  case sector => exact fun pa hpa => if_pos hpa
  case scratch => exact fun core off hcore hoff => if_pos (by simp [hcore, hoff])
  case pad => exact fun die off hdie hoff => if_pos (by simp [hdie, hoff])
  case cache => exact fun pa hpa hstack => if_pos (by simp [hpa, hstack])
  case copy =>
    rintro site place pa (⟨k, rfl, rfl⟩ | ⟨k, rfl, rfl⟩) hit hany
    · exact congrArg orNotEnabled (spoilCopy_of_hit hany)
    · exact congrArg orNotEnabled (spoilCopy_of_hit hany)
  case member => exact fun tid ix v => ⟨fun hv => execUncorrectableError_gangRegs hv, fun hv => execUncorrectableError_tile hv⟩
  case waveRegs => exact fun tid ix w hw hlive => execUncorrectableError_waveRegs hw hlive
  case softNone => exact fun hdue hcor => execSoftErrorSummary_none hdue hcor
  case softSome => exact fun hdue hcor => execSoftErrorSummary_some hdue hcor
  case scrub => exact fun line hstack hthere => execPatrolScrub_present hstack hthere
  case unmap =>
    exact fun cid c base count perm hc hcount htop hleaves hclean hopen => execUnmap_whole hc hcount htop hleaves hclean hopen

end Sys2Proof.Machine
end

section
/-!
PROOF. Words and instructions read back from each other (R25 to R27, R32, R45): the fields of a word make the word again, a cell of the opcode map
holds an instruction of its own opcode, and the instruction of an opcode stands in its cell.
-/

namespace Sys2Proof

/-! ## A word from its fields (R32) -/

/-- A bit is a piece of length 1. -/
theorem ofBool_getLsbD_eq_extract {v : Nat} (x : BitVec v) (i : Nat) : BitVec.ofBool (x.getLsbD i) = x.extractLsb' i 1 := by
  ext j hj
  obtain rfl : j = 0 := by omega
  simp

/-- A word is its opcode and its fields. -/
theorem wordOf_opOfWord_fieldsOfWord (w : Word) : wordOf (opOfWord w) (fieldsOfWord w) = w := by
  unfold wordOf opOfWord fieldsOfWord
  simp only [ofBool_getLsbD_eq_extract]
  repeat rw [BitVec.extractLsb'_append_extractLsb'_eq_extractLsb']
  · exact BitVec.extractLsb'_eq_self
  all_goals rfl

/-- A clause header is read back from its word (R27). -/
theorem headerOfWord_wordOfHeader (h : Header) : headerOfWord (wordOfHeader h) = h := by
  obtain ⟨eng, cnt, wait, seta, setb, yp, bk, qb⟩ := h
  unfold headerOfWord wordOfHeader
  simp only [Header.mk.injEq]
  refine ⟨?_, ?_, ?_, ?_, ?_, ?yp, ?bk, ?qb⟩
  case yp | bk | qb =>
    repeat refine bit_above (by decide) rfl ?_
    exact bit_last
  all_goals
    repeat refine extract_above (by decide) rfl ?_
    exact BitVec.extractLsb'_append_eq_right

/-! ## The opcode map (R45) and the two forms of BRA (R140) -/

theorem readBra_far {f : Fields} (h : f.bsp = 0) : readBra f = .braFar f := if_pos h

theorem readBra_near {f : Fields} (h : f.bsp ≠ 0) : readBra f = .bra f := if_neg h

/-- The cell of opcode `op`: what it reads has that opcode and the fields that it was read from. -/
def CellReads (op : BitVec 8) (read : Fields → Instr) : Prop :=
  ∀ f, opcodeOf (read f) = some op ∧ Machine.fieldsOf (read f) = some f

theorem cellReads_readBra : CellReads 0x90 readBra := by
  intro f
  by_cases h : f.bsp = 0
  · rw [readBra_far h]; exact ⟨rfl, rfl⟩
  · rw [readBra_near h]; exact ⟨rfl, rfl⟩

/-- Every cell of the opcode map reads the instructions of its own opcode. -/
theorem cellReads_opGrid :
    ∀ row ∈ opGrid.zipIdx, ∀ cell ∈ row.1.zipIdx, CellReads (BitVec.ofNat 8 (16 * row.2 + cell.2)) cell.1 := by
  simp only [opGrid, List.zipIdx_cons, List.zipIdx_nil, List.forall_mem_cons, List.not_mem_nil, false_imp_iff, implies_true, and_true]
  and_intros
  any_goals exact fun _ => ⟨rfl, rfl⟩
  exact cellReads_readBra

/-- An instruction that stands in the opcode map has the opcode of its cell, and the fields that it was read from. -/
theorem opcodeOf_fieldsOf_of_instrAt {op : BitVec 8} {f : Fields} {i : Instr} (h : instrAt op f = some i) :
    opcodeOf i = some op ∧ Machine.fieldsOf i = some f := by
  obtain ⟨read, hread, rfl⟩ := Option.map_eq_some_iff.1 h
  obtain ⟨row, hrow, hcell⟩ := Option.bind_eq_some_iff.1 hread
  have hreads := cellReads_opGrid (row, _) (List.mk_mem_zipIdx_iff_getElem?.2 hrow) (read, _) (List.mk_mem_zipIdx_iff_getElem?.2 hcell)
  rw [Nat.div_add_mod, BitVec.ofNat_toNat, BitVec.setWidth_eq] at hreads
  exact hreads f

/-- A word that breaks no check has its B field in a space that the slot allows. -/
theorem spaceErrors_b_of_wf {i : Instr} {f : Fields} (hwf : i.wf = true) (hf : Machine.fieldsOf i = some f) :
    (Machine.formOf i).b.spaceErrors f.bsp f.b.toNat (Machine.immB (Machine.formOf i) f) = [] := by
  have herr : (Machine.formOf i).errors f = [] := by
    simp only [Instr.wf, Machine.staticErrors, hf, Bool.and_eq_true, List.isEmpty_iff] at hwf
    exact hwf.1
  simp only [Machine.Form.errors, Machine.slotErrors, List.append_eq_nil_iff] at herr
  tauto

/-- A field of raw bits is in space 00, whatever its bits. -/
theorem spaceErrors_sRaw {sp : BitVec 2} (h : sp ≠ 0) (ix : Nat) : Machine.sRaw.spaceErrors sp ix false = [Machine.subSpace] := by
  rw [Machine.SlotForm.spaceErrors, if_neg h]
  simp [Machine.SlotForm.unused, Machine.sRaw, Machine.sK, Machine.sU]

/-- A field that takes a 16-bit immediate and nothing else is not in space 00. -/
theorem spaceErrors_sI16_zero (ix : Nat) (imm : Bool) : Machine.sI16.spaceErrors 0 ix imm = [Machine.subSpace] := rfl

theorem immB_farForm (f : Fields) : Machine.immB Machine.farForm f = false := ite_self _

/-- The near form of BRA has the high half of its near target in B, as an immediate (R138). -/
theorem bsp_ne_zero_of_wf_bra {f : Fields} (hwf : (Instr.bra f).wf = true) : f.bsp ≠ 0 := by
  intro h
  have hb : Machine.sI16.spaceErrors f.bsp f.b.toNat _ = [] := spaceErrors_b_of_wf hwf rfl
  rw [h, spaceErrors_sI16_zero] at hb
  cases hb

/-- The far form of BRA has bits of its far target in B, in space 00 (R138). -/
theorem bsp_eq_zero_of_wf_braFar {f : Fields} (hwf : (Instr.braFar f).wf = true) : f.bsp = 0 := by
  by_contra h
  have hb : Machine.sRaw.spaceErrors f.bsp f.b.toNat (Machine.immB Machine.farForm f) = [] := spaceErrors_b_of_wf hwf rfl
  rw [immB_farForm, spaceErrors_sRaw h] at hb
  cases hb

/-- The instruction of an opcode and fields stands in the cell of that opcode; of the two that share 0x90 the well-formed one is read. -/
theorem instrAt_of_wf {i : Instr} {op : BitVec 8} {f : Fields} (hwf : i.wf = true) (hop : opcodeOf i = some op)
    (hf : Machine.fieldsOf i = some f) : instrAt op f = some i := by
  cases i
  case bra =>
    cases hop
    cases hf
    exact congrArg some (readBra_near (bsp_ne_zero_of_wf_bra hwf))
  case braFar =>
    cases hop
    cases hf
    exact congrArg some (readBra_far (bsp_eq_zero_of_wf_braFar hwf))
  -- every other word stands in a cell that holds its own constructor; an event has no opcode
  all_goals cases hop <;> cases hf <;> rfl

/-! ## Reading and writing words -/

theorem decode_eq_ok_iff {w : Word} {i : Instr} : decode w = .ok i ↔ instrAt (opOfWord w) (fieldsOfWord w) = some i := by
  unfold decode
  split
  case h_1 j hj => rw [hj, Except.ok.injEq, Option.some.injEq]
  case h_2 hnone => simp [hnone]

theorem encode_of_opcodeOf_fieldsOf {i : Instr} {op : BitVec 8} {f : Fields} (hop : opcodeOf i = some op) (hf : Machine.fieldsOf i = some f) :
    encode i = some (wordOf op f) := by
  unfold encode
  rw [hop, hf]

theorem decode_encode {i : Instr} {w : Word} (hwf : i.wf = true) (h : encode i = some w) : decode w = .ok i :=
  have ⟨hop, hf⟩ := encode_some h
  decode_eq_ok_iff.2 (instrAt_of_wf hwf hop hf)

theorem encode_decode {w : Word} {i : Instr} (h : decode w = .ok i) : encode i = some w := by
  obtain ⟨hop, hf⟩ := opcodeOf_fieldsOf_of_instrAt (decode_eq_ok_iff.1 h)
  rw [encode_of_opcodeOf_fieldsOf hop hf, wordOf_opOfWord_fieldsOfWord]

theorem decodeBytes_of_decode {b0 b1 b2 b3 b4 b5 b6 b7 : Byte} {rest : List Byte} {i : Instr}
    (h : decode (wordOfBytes b0 b1 b2 b3 b4 b5 b6 b7) = .ok i) :
    decodeBytes (b0 :: b1 :: b2 :: b3 :: b4 :: b5 :: b6 :: b7 :: rest) = .ok (i, rest) := by
  rw [decodeBytes, h]

/-- Settles O3: the opcode map and the numbering of opcodes are inverse to each other on well-formed instructions, and the fields of a word make the
word again. -/
theorem encodeAndDecodeAgree : Obligations.EncodeAndDecodeAgree :=
  ⟨fun _ _ => decode_encode, fun _ _ => encode_decode, headerOfWord_wordOfHeader, fun _ _ _ _ _ _ _ _ _ _ => decodeBytes_of_decode⟩

end Sys2Proof
end

section
/-!
PROOF. The retirement of a word (R26, R39, R40, R168): every update that it makes touches the issuing wave alone, and of that wave the places of its
paths, its counters, latches, status and record of issue.
-/

namespace Sys2Proof.Machine

/-! ## States that differ in one wave -/

/-- `t` is `s` but for the wave `(tid, ix)`. -/
structure SameButWave (tid ix : Nat) (s t : State) : Prop where
  rest : { t with waves := s.waves } = s
  others : ∀ tid' ix', (tid', ix') ≠ (tid, ix) → findWave t tid' ix' = findWave s tid' ix'

theorem SameButWave.trans {tid ix : Nat} {s t u : State} (h : SameButWave tid ix s t) (h' : SameButWave tid ix t u) :
    SameButWave tid ix s u where
  rest := by
    have hrest := h.rest
    rw [← h'.rest] at hrest
    exact hrest
  others tid' ix' hne := (h'.others tid' ix' hne).trans (h.others tid' ix' hne)

theorem sameButWave_updWave (s : State) (tid ix : Nat) {g : Wave → Wave} (hg : ∀ w, (g w).tid = w.tid ∧ (g w).ix = w.ix) :
    SameButWave tid ix s (updWave s tid ix g) :=
  ⟨rfl, fun tid' ix' hne => findWave_updWave_ne s tid ix tid' ix' g hg hne⟩

/-- The wave found after an update of it. -/
theorem findWave_updWave_of_find {s : State} {tid ix : Nat} {g : Wave → Wave} {w : Wave} (hg : ∀ w, (g w).tid = w.tid ∧ (g w).ix = w.ix)
    (hw : findWave s tid ix = some w) : findWave (updWave s tid ix g) tid ix = some (g w) := by
  rw [findWave_updWave s tid ix g hg, hw, Option.map_some]

/-! ## The paths of a wave -/

/-- A path found after an update: the one that was updated, or another as it was. -/
theorem Wave.pathOf_updPath (w : Wave) (lane l : Option Nat) (g : Path → Path) :
    (w.updPath lane g).pathOf l = if l = lane then (w.pathOf l).map g else w.pathOf l := by
  cases lane with
  | none => cases l <;> rfl
  | some k =>
    cases l with
    | none => rfl
    | some j =>
      simp only [Wave.updPath, Wave.pathOf, Option.some.injEq]
      rw [find_map_key (fun c : Cont => c.lane == j) _ fun c => by split <;> rfl]
      cases hfind : w.conts.find? fun c => c.lane == j with
      | none => simp
      | some c =>
        have hlane : (c.lane == j) = true := List.find?_some (p := fun c : Cont => c.lane == j) hfind
        rw [beq_iff_eq] at hlane
        by_cases hjk : j = k <;> simp [hlane, hjk]

theorem Wave.updPath_key (w : Wave) (lane : Option Nat) (g : Path → Path) :
    (w.updPath lane g).tid = w.tid ∧ (w.updPath lane g).ix = w.ix := by
  cases lane <;> exact ⟨rfl, rfl⟩

/-- An update of a path changes the paths of the wave alone. -/
theorem Wave.updPath_rest (w : Wave) (lane : Option Nat) (g : Path → Path) :
    { w.updPath lane g with path := w.path, conts := w.conts } = w := by
  cases lane <;> rfl

/-! ## What a retirement may change -/

/-- `p'` is `p` at another place. -/
def Path.MovesTo (p p' : Path) : Prop := { p' with pc := p.pc, mid := p.mid, grp := p.grp, clause := p.clause } = p

theorem Path.MovesTo.trans {p q r : Path} (h : p.MovesTo q) (h' : q.MovesTo r) : p.MovesTo r := by
  unfold Path.MovesTo at h h' ⊢
  rw [← h'] at h
  exact h

/-- What the retirement of a word leaves of its wave: all but the places of its paths, the PERF counters, the hold latches, the status and
the record of issue. -/
structure Wave.RetiresTo (w w' : Wave) : Prop where
  rest : { w' with path := w.path, conts := w.conts, perf := w.perf, holdA := w.holdA, holdB := w.holdB, status := w.status
                   lastIssue := w.lastIssue, favoured := w.favoured, qpass := w.qpass } = w
  paths : ∀ l p, w.pathOf l = some p → ∃ p', w'.pathOf l = some p' ∧ p.MovesTo p'

theorem Wave.RetiresTo.trans {w w' w'' : Wave} (h : w.RetiresTo w') (h' : w'.RetiresTo w'') : w.RetiresTo w'' where
  rest := by
    have hrest := h.rest
    rw [← h'.rest] at hrest
    exact hrest
  paths l p hp := by
    obtain ⟨p', hp', hm⟩ := h.paths l p hp
    obtain ⟨p'', hp'', hm'⟩ := h'.paths l p' hp'
    exact ⟨p'', hp'', hm.trans hm'⟩

theorem Wave.RetiresTo.key {w w' : Wave} (h : w.RetiresTo w') : w'.tid = w.tid ∧ w'.ix = w.ix :=
  ⟨congrArg (·.tid) h.rest, congrArg (·.ix) h.rest⟩

/-- A wave whose paths stay where they are. -/
theorem Wave.RetiresTo.of_paths {w w' : Wave} (hpath : w'.path = w.path) (hconts : w'.conts = w.conts)
    (hrest : { w' with perf := w.perf, holdA := w.holdA, holdB := w.holdB, status := w.status
                       lastIssue := w.lastIssue, favoured := w.favoured, qpass := w.qpass } = w) : w.RetiresTo w' where
  rest := by
    rw [← hpath, ← hconts]
    exact hrest
  paths l p hp := by
    refine ⟨p, ?_, rfl⟩
    cases l with
    | none => rwa [Wave.pathOf, hpath]
    | some k => rwa [Wave.pathOf, hconts]

theorem Wave.retiresTo_updPath {w : Wave} {g : Path → Path} (lane : Option Nat) (hg : ∀ p : Path, p.MovesTo (g p)) :
    w.RetiresTo (w.updPath lane g) where
  rest := by cases lane <;> rfl
  paths l p hp := by
    rw [Wave.pathOf_updPath, hp]
    split
    · exact ⟨g p, rfl, hg p⟩
    · exact ⟨p, rfl, rfl⟩

theorem Wave.retiresTo_countRetired (w : Wave) (a : AgentRef) : w.RetiresTo (countRetired a w) := by
  unfold countRetired
  cases a.lane <;> exact .of_paths rfl rfl rfl

theorem Wave.retiresTo_noteIssue (w : Wave) (e : Env) : w.RetiresTo (noteIssue e w) := by
  unfold noteIssue latch
  cases e.who.lane <;> exact .of_paths rfl rfl rfl

/-! ## The steps of a retirement -/

/-- What the retirement of a word leaves of the state. -/
structure RetiresTo (a : AgentRef) (s t : State) : Prop where
  same : SameButWave a.tid a.wave s t
  own : ∀ w, findWave s a.tid a.wave = some w → ∃ w', findWave t a.tid a.wave = some w' ∧ w.RetiresTo w'

theorem RetiresTo.trans {a : AgentRef} {s t u : State} (h : RetiresTo a s t) (h' : RetiresTo a t u) : RetiresTo a s u where
  same := h.same.trans h'.same
  own w hw := by
    obtain ⟨w', hw', hr⟩ := h.own w hw
    obtain ⟨w'', hw'', hr'⟩ := h'.own w' hw'
    exact ⟨w'', hw'', hr.trans hr'⟩

theorem retiresTo_updCur (s : State) (a : AgentRef) {g : Wave → Wave} (hg : ∀ w : Wave, w.RetiresTo (g w)) : RetiresTo a s (updCur s a g) where
  same := sameButWave_updWave s a.tid a.wave fun w => (hg w).key
  own w hw := ⟨g w, findWave_updWave_of_find (fun w => (hg w).key) hw, hg w⟩

theorem retiresTo_endClause (s : State) (a : AgentRef) : RetiresTo a s (endClause s a) := by
  refine retiresTo_updCur s a fun w => ?_
  extract_lets w1
  have hplace : w.RetiresTo w1 := Wave.retiresTo_updPath a.lane fun p => by split <;> rfl
  refine hplace.trans ?_
  cases a.lane <;> exact .of_paths rfl rfl rfl

theorem retiresTo_retire (s : State) (a : AgentRef) : RetiresTo a s (retire s a) := by
  unfold retire
  extract_lets s1
  have hcount : RetiresTo a s s1 := retiresTo_updCur s a fun w => (w.retiresTo_countRetired a).trans (.of_paths rfl rfl rfl)
  split
  · exact hcount
  next p _ =>
    split
    · exact hcount
    next c _ =>
      extract_lets s2
      have hnext : RetiresTo a s s2 := hcount.trans (retiresTo_updCur s1 a fun w => Wave.retiresTo_updPath a.lane fun _ => rfl)
      split
      · exact hnext
      · exact hnext.trans (retiresTo_endClause s2 a)

theorem retiresTo_retireMoved (s : State) (a : AgentRef) : RetiresTo a s (retireMoved s a) := by
  refine retiresTo_updCur s a fun w => ?_
  refine (w.retiresTo_countRetired a).trans ?_
  cases a.lane <;> exact .of_paths rfl rfl rfl

theorem retiresTo_noteIssue (s : State) (e : Env) : RetiresTo e.who s (updCur s e.who (noteIssue e)) :=
  retiresTo_updCur s e.who fun w => w.retiresTo_noteIssue e

theorem retiresTo_retired (s : State) (e : Env) : RetiresTo e.who s (retired s e) :=
  (retiresTo_noteIssue s e).trans (retiresTo_retire _ e.who)

theorem retiresTo_retiredMoved (s : State) (e : Env) : RetiresTo e.who s (retiredMoved s e) :=
  (retiresTo_noteIssue s e).trans (retiresTo_retireMoved _ e.who)

/-- Settles O6: each update that a retirement makes keeps what the statement names. -/
theorem retirementFrame : Obligations.RetirementFrame := by
  intro s e t ht
  have h : RetiresTo e.who s t := by
    rcases ht with rfl | rfl
    · exact retiresTo_retired s e
    · exact retiresTo_retiredMoved s e
  refine ⟨h.same.rest, h.same.others, fun w hw => ?_⟩
  obtain ⟨w', hw', hr⟩ := h.own w hw
  exact ⟨w', hw', hr.rest, hr.paths⟩

end Sys2Proof.Machine
end

section
/-!
PROOF. Results (R40, R57, R118): the writes of a lane, scalar or predicate result touch the issuing wave alone, and of its registers those that the
word names, in the active lanes.
-/

namespace Sys2Proof.Machine

/-! ## Bits of a mask -/

theorem getLsbD_laneBit {l j : Nat} (hj : j < 32) : (laneBit l).getLsbD j = decide (j = l) := by
  rw [laneBit, BitVec.getLsbD_ofNat, Nat.testBit_two_pow]
  simp [hj, eq_comm]

/-- A mask gathered from a list of lanes. -/
theorem getLsbD_foldl_laneBit {p : Nat → Bool} {j : Nat} (hj : j < 32) (ls : List Nat) (m : W32) :
    (ls.foldl (fun m l => if p l then m ||| laneBit l else m) m).getLsbD j = (m.getLsbD j || (decide (j ∈ ls) && p j)) := by
  induction ls generalizing m with
  | nil => simp
  | cons l ls ih =>
    rw [List.foldl_cons, ih]
    by_cases hl : j = l
    · subst hl
      cases p j <;> simp [getLsbD_laneBit hj]
    · cases p l <;> simp [hl, getLsbD_laneBit hj]

/-- A lane's bit in the mask of a condition. -/
theorem getLsbD_maskOf {p : Nat → Bool} {j : Nat} (hj : j < 32) : (maskOf p).getLsbD j = p j := by
  rw [maskOf, getLsbD_foldl_laneBit hj]
  simp [hj]

/-! ## One register file of a wave after a result -/

/-- A lane write leaves every other file of the wave as it is. -/
theorem Wave.setLanes_rest (w : Wave) (r : Nat) (m : W32) (x : Nat → W32) : { w.setLanes r m x with lanes := w.lanes } = w := by
  obtain ⟨l, hl⟩ := w.setLanes_frame r m x
  rw [hl]

theorem Wave.setLanes_key (w : Wave) (r : Nat) (m : W32) (x : Nat → W32) :
    (w.setLanes r m x).tid = w.tid ∧ (w.setLanes r m x).ix = w.ix := by
  obtain ⟨l, hl⟩ := w.setLanes_frame r m x
  rw [hl]
  exact ⟨rfl, rfl⟩

theorem Wave.setLanes_wf {w : Wave} (h : Sparse.wf 0 w.lanes = true) (r : Nat) (m : W32) (x : Nat → W32) :
    Sparse.wf 0 (w.setLanes r m x).lanes = true :=
  (Wave.v_foldl_setV (r' := r) (l' := 0) h (fun _ hl => (mem_lanesOf.1 hl).1) (by decide)).1

/-- A lane's bit of a predicate after a write of predicate `k` in the lanes of a mask. -/
theorem Wave.getLsbD_p_setP {w : Wave} {k j l : Nat} {m : W32} {g : Nat → Bool} (h : Sparse.wf 0 w.preds = true) (hk : k < 7) (hl : l < 32) :
    ((w.setP k m (maskOf g)).p j).getLsbD l = if j = k ∧ m.getLsbD l = true then g l else (w.p j).getLsbD l := by
  have hk7 : k ≠ 7 := by omega
  rw [Wave.p_setP h]
  by_cases hjk : j = k
  · subst hjk
    rw [if_neg hk7, if_pos rfl, BitVec.getLsbD_or, BitVec.getLsbD_and, BitVec.getLsbD_and, BitVec.getLsbD_not, getLsbD_maskOf hl, Wave.p,
      if_neg hk7]
    cases m.getLsbD l <;> simp [hl]
  · have hfar : ¬(j = k ∧ m.getLsbD l = true) := fun hc => hjk hc.1
    rw [if_neg hjk, if_neg hfar]
    by_cases hj7 : j = 7
    · rw [if_pos hj7, hj7, Wave.p_seven]
    · rw [if_neg hj7]

/-- Settles O7: each result is one update of the issuing wave, and each register file reads after a write as its own law says. -/
theorem resultsWriteOnlyTheirDestination : Obligations.ResultsWriteOnlyTheirDestination := by
  intro s e w hw
  refine ⟨fun g => ?lanes, fun x p hp => ?scalar, fun k g hk => ?pred⟩
  case lanes =>
    have hkey (w : Wave) := w.setLanes_key e.f.d.toNat e.act g
    have hsame := sameButWave_updWave s e.who.tid e.who.wave hkey
    exact ⟨hsame.rest, hsame.others, _, findWave_updWave_of_find hkey hw, w.setLanes_rest .., fun hwf =>
      ⟨Wave.setLanes_wf hwf .., fun _ _ hl => Wave.v_setLanes hwf hl⟩⟩
  case scalar =>
    have hkey (w : Wave) := w.updPath_key e.who.lane fun p => p.setS e.f.d.toNat x
    have hsame := sameButWave_updWave s e.who.tid e.who.wave hkey
    have hnone (h : e.act = 0) : writeScalar e s x = s := if_pos h
    have hsome (h : e.act ≠ 0) : writeScalar e s x = updPath s e.who fun p => p.setS e.f.d.toNat x := if_neg h
    refine ⟨?_, hnone, fun hact => ?_⟩
    · by_cases hact : e.act = 0
      · rw [hnone hact]
      · rw [hsome hact]
        exact hsame.rest
    · rw [hsome hact]
      refine ⟨_, p.setS e.f.d.toNat x, findWave_updWave_of_find hkey hw, w.updPath_rest .., ?_, rfl, rfl, fun l hl => ?_, fun hwf =>
        ⟨Sparse.set_wf hwf, fun _ => Path.s_setS hwf⟩⟩
      · rw [Wave.pathOf_updPath, if_pos rfl, hp, Option.map_some]
      · rw [Wave.pathOf_updPath, if_neg hl]
  case pred =>
    have hkey (w : Wave) : (w.setP k e.act (maskOf g)).tid = w.tid ∧ (w.setP k e.act (maskOf g)).ix = w.ix := ⟨rfl, rfl⟩
    exact ⟨rfl, _, findWave_updWave_of_find hkey hw, rfl, fun hwf =>
      ⟨Sparse.set_wf hwf, fun _ _ hl => Wave.getLsbD_p_setP hwf hk hl⟩⟩

end Sys2Proof.Machine
end

section
/-!
PROOF. Words that break a check (R33, R127, R356, R357): every subcode is below 256 but the mark of a spill that fails, every word is issued through
the same checks, and what is reported is the lowest subcode.
-/

namespace Sys2Proof.Machine

/-! ## Subcodes of the form of a word -/

/-- Subcodes without the mark of a failed spill. -/
def Plain (l : List Nat) : Prop := ∀ k ∈ l, k < 256

theorem plain_nil : Plain [] := fun _ h => nomatch h

theorem plain_singleton {k : Nat} (h : k < 256) : Plain [k] := fun _ hj => List.mem_singleton.1 hj ▸ h

theorem Plain.append {l m : List Nat} (hl : Plain l) (hm : Plain m) : Plain (l ++ m) :=
  fun k hk => (List.mem_append.1 hk).elim (hl k) (hm k)

theorem Plain.ite {c : Prop} [Decidable c] {l m : List Nat} (hl : Plain l) (hm : Plain m) : Plain (if c then l else m) := by
  split
  · exact hl
  · exact hm

/-- A check that names one subcode. -/
theorem plain_check {c : Prop} [Decidable c] {k : Nat} (h : k < 256) : Plain (if c then [k] else []) :=
  (plain_singleton h).ite plain_nil

/-- A check that is named by what passes it. -/
theorem plain_unless {c : Prop} [Decidable c] {k : Nat} (h : k < 256) : Plain (if c then [] else [k]) :=
  plain_nil.ite (plain_singleton h)

theorem plain_fileErrors (r : RegFile) (ix : Nat) : Plain (fileErrors r ix) := by
  cases r with
  | specialDst => exact (plain_unless (by decide)).ite (plain_singleton (by decide))
  | pred | predDst | special | handle | tile | bound => exact plain_unless (by decide)

theorem plain_codeErrors (s : SlotForm) (ix : Nat) : Plain (s.codeErrors ix) := by
  unfold SlotForm.codeErrors
  split
  · exact plain_unless (by decide)
  · exact plain_nil

theorem plain_spaceErrors (s : SlotForm) (sp : BitVec 2) (ix : Nat) (imm : Bool) : Plain (s.spaceErrors sp ix imm) := by
  have hspace : Plain [subSpace] := plain_singleton (by decide)
  have hboth : Plain [subField, subSpace] := (plain_singleton (by decide)).append hspace
  unfold SlotForm.spaceErrors
  refine .ite ?lane (.ite (hspace.ite hboth) (.ite ?scalar (.ite (plain_unless (by decide)) ?file)))
  case lane =>
    split
    · exact plain_nil
    · exact plain_unless (by decide)
    · exact (plain_unless (by decide)).ite hspace
  case scalar =>
    split
    · exact plain_unless (by decide)
    · exact hspace
  case file =>
    split
    · exact plain_fileErrors _ ix
    · exact hspace

theorem plain_slotErrors (s : SlotForm) (sp : BitVec 2) (ix : Nat) (imm : Bool) : Plain (slotErrors s sp ix imm) :=
  (plain_codeErrors s ix).append (plain_spaceErrors s sp ix imm)

theorem plain_cErrors (fm : Form) (f : Fields) : Plain (cErrors fm f) :=
  plain_nil.ite ((plain_singleton (by decide)).ite (plain_slotErrors _ _ _ _))

theorem plain_modErrors (m : ModForm) (isReg : Bool) (v : Nat) : Plain (modErrors m isReg v) := by
  cases m with
  | zero | mods | code => exact plain_unless (by decide)
  | counter | bits => exact plain_nil

theorem plain_holdErrors (holds : Bool) (s : SlotForm) (sp : BitVec 2) (h : Bool) : Plain (holdErrors holds s sp h) :=
  plain_nil.ite ((plain_singleton (by decide)).ite (plain_unless (by decide)))

theorem plain_formErrors {fm : Form} (hextra : Plain fm.extra) (f : Fields) : Plain (fm.errors f) := by
  unfold Form.errors
  refine Plain.append ?_ hextra
  refine Plain.append ?_ (plain_check (by decide))
  refine Plain.append ?_ (plain_unless (by decide))
  refine Plain.append ?_ (plain_check (by decide))
  refine Plain.append ?_ (plain_check (by decide))
  refine Plain.append ?_ (plain_holdErrors _ _ _ _)
  refine Plain.append ?_ (plain_holdErrors _ _ _ _)
  refine Plain.append ?_ (plain_modErrors _ _ _)
  refine Plain.append ?_ (plain_modErrors _ _ _)
  refine Plain.append ?_ (plain_cErrors _ _)
  refine Plain.append ?_ (plain_slotErrors _ _ _ _)
  exact (plain_slotErrors _ _ _ _).append (plain_slotErrors _ _ _ _)

/-- The further subcodes of the entries that have some (R324, R326) are FIELD. -/
theorem plain_formOf_extra (i : Instr) : Plain (formOf i).extra := by
  cases i
  case talloc | tcopy => exact plain_check (by decide)
  all_goals exact plain_nil

theorem plain_issueErrors (s : State) (e : Env) (i : Instr) : Plain (issueErrors s e i) := by
  unfold issueErrors
  refine (((plain_formErrors (plain_formOf_extra i) e.f).append (plain_unless (by decide))).append (plain_unless (by decide))).append ?_
  split <;> exact plain_unless (by decide)

theorem firstError_lt {s : State} {e : Env} {i : Instr} {sub : Nat} (h : firstError s e i = some sub) : sub < 256 := by
  have hform := plain_formErrors (plain_formOf_extra i) e.f
  simp only [firstError] at h
  split at h
  case isTrue hmat =>
    split at h
    case h_1 x _ hx =>
      cases h
      exact hform _ (List.min?_mem hx)
    case h_2 ft hnone =>
      split at h
      · cases h; decide
      · split at h
        · cases h; decide
        · split at h
          · cases h; decide
          · cases h
  case isFalse hmat => exact plain_issueErrors s e i _ (List.min?_mem h)

/-! ## Subcodes of a word's own checks -/

/-- Subcodes as they are reported: below 256, or the mark of a spill that does fail (R127). -/
def Reportable (e : Env) (l : List Nat) : Prop := ∀ k ∈ l, k < 256 ∨ (k = subSpill ∧ spillFails e.t e.w.stack.length = true)

theorem Plain.reportable {l : List Nat} (h : Plain l) (e : Env) : Reportable e l := fun k hk => .inl (h k hk)

theorem Reportable.append {e : Env} {l m : List Nat} (hl : Reportable e l) (hm : Reportable e m) : Reportable e (l ++ m) :=
  fun k hk => (List.mem_append.1 hk).elim (hl k) (hm k)

theorem Reportable.ite {e : Env} {c : Prop} [Decidable c] {l m : List Nat} (hl : Reportable e l) (hm : Reportable e m) :
    Reportable e (if c then l else m) := by
  split
  · exact hl
  · exact hm

theorem reportable_nil (e : Env) : Reportable e [] := plain_nil.reportable e

theorem reportable_spillErrors (e : Env) : Reportable e (spillErrors e) := by
  unfold spillErrors
  split
  next hfails => exact fun k hk => .inr ⟨List.mem_singleton.1 hk, hfails⟩
  next => exact reportable_nil e

theorem reportable_splitErrors (e : Env) (join : Int) : Reportable e (splitErrors e join) :=
  (reportable_nil e).ite (((plain_singleton (by decide)).reportable e).ite (reportable_spillErrors e))

theorem plain_offsetErrors (v : Word) : Plain (offsetErrors v) := plain_check (by decide)

theorem plain_returnErrors (e : Env) : Plain (returnErrors e) := plain_check (by decide)

theorem reportable_icallErrors (e : Env) : Reportable e (icallErrors e) :=
  ((plain_returnErrors e).reportable e).append ((reportable_nil e).ite (reportable_spillErrors e))

theorem plain_joinErrors (e : Env) : Plain (joinErrors e) := by
  unfold joinErrors
  split
  · exact plain_nil
  · exact plain_check (by decide)

theorem plain_tokenErrors (e : Env) : Plain (tokenErrors e) := plain_check (by decide)

theorem plain_barcErrors (e : Env) : Plain (barcErrors e) := plain_check (by decide)

theorem plain_reggetErrors (e : Env) : Plain (reggetErrors e) := (plain_check (by decide)).append (plain_check (by decide))

theorem plain_tbeginErrors (e : Env) (s : State) : Plain (tbeginErrors e s) :=
  plain_nil.ite ((plain_check (by decide)).append (plain_check (by decide)))

theorem plain_refusedIn (task det : Bool) (e : Env) (s : State) : Plain (refusedIn task det e s) := plain_check (by decide)

theorem plain_wrsysErrors (e : Env) (s : State) : Plain (wrsysErrors e s) :=
  (plain_unless (by decide)).ite ((plain_singleton (by decide)).ite (plain_singleton (by decide)))

/-! ## Every word is issued through the same checks -/

/-- The outcome `o` is that of the issue of `i`, with reportable checks of its own. -/
def IsCheckedIssue (i : Instr) (s : State) (o : Host.Outcome State Fault Refusal) : Prop :=
  ∃ (extra : Extra) (body : Env → State → Verdict), (∀ e, Reportable e (extra e s)) ∧ o = issueWith i extra s body

theorem isCheckedIssue_of_reportable {i : Instr} {s : State} {extra : Extra} (h : ∀ e, Reportable e (extra e s)) (body : Env → State → Verdict) :
    IsCheckedIssue i s (issueWith i extra s body) :=
  ⟨extra, body, h, rfl⟩

/-- Checks of its own that know no spill. -/
theorem isCheckedIssue_of_plain {i : Instr} {s : State} {extra : Extra} (h : ∀ e, Plain (extra e s)) (body : Env → State → Verdict) :
    IsCheckedIssue i s (issueWith i extra s body) :=
  isCheckedIssue_of_reportable (fun e => (h e).reportable e) body

theorem isCheckedIssue_issue (i : Instr) (s : State) (body : Env → State → Verdict) : IsCheckedIssue i s (issue i s body) :=
  isCheckedIssue_of_plain (fun _ => plain_nil) body

/-- A row access checks its token (R236). -/
theorem isCheckedIssue_rowIssue (i : Instr) (f : Fields) (s : State) : IsCheckedIssue i s (rowIssue i f s) :=
  isCheckedIssue_of_plain plain_tokenErrors _

theorem isCheckedIssue_issuePlan (i : Instr) (cn : Option Nat) (s : State) : IsCheckedIssue i s (issuePlan i cn s) :=
  isCheckedIssue_issue i s _

/-- The meaning of every word is its issue through the shared checks. -/
theorem isCheckedIssue_exec {i : Instr} {f : Fields} (hf : fieldsOf i = some f) (s : State) : IsCheckedIssue i s (exec i s) := by
  unfold exec
  cases i <;> cases hf
  -- the words that may split their path
  case bra => exact isCheckedIssue_of_reportable (fun e => reportable_splitErrors e _) _
  case brx =>
    exact isCheckedIssue_of_reportable
      (fun e => (reportable_splitErrors e _).append ((reportable_nil e).ite ((plain_offsetErrors _).reportable e))) _
  case icall => exact isCheckedIssue_of_reportable (fun e => reportable_icallErrors e) _
  case eject =>
    exact isCheckedIssue_of_reportable
      (fun e => ((plain_singleton (by decide)).reportable e).ite ((reportable_nil e).ite (reportable_spillErrors e))) _
  -- the other words with checks of their own
  case call => exact isCheckedIssue_of_plain (fun e => plain_returnErrors e) _
  case ret => exact isCheckedIssue_of_plain (fun _ => plain_offsetErrors _) _
  case join => exact isCheckedIssue_of_plain (fun e => plain_joinErrors e) _
  case rowld | rowst => exact isCheckedIssue_rowIssue _ _ s
  case rowrel => exact isCheckedIssue_of_plain (fun e => plain_tokenErrors e) _
  case barc => exact isCheckedIssue_of_plain (fun e => plain_barcErrors e) _
  case regget => exact isCheckedIssue_of_plain (fun e => plain_reggetErrors e) _
  case tbegin => exact isCheckedIssue_of_plain (fun e => plain_tbeginErrors e s) _
  case talloc | tdrop | tsend | trecv | coll => exact isCheckedIssue_of_plain (fun e => plain_refusedIn _ _ e s) _
  case wrsys => exact isCheckedIssue_of_plain (fun e => plain_wrsysErrors e s) _
  case bar | waitf | exit | regput | wrs | movem | rtt | tmask | rdsys | perf =>
    exact isCheckedIssue_of_plain (fun _ => plain_check (by decide)) _
  case ld | st | lds | sts | atom | acas | atoms | ldu | amaxu | amaxswap | ldb | stb | lnwb => exact isCheckedIssue_issuePlan _ _ s
  all_goals exact isCheckedIssue_issue _ s _

/-! ## What is reported -/

/-- The lowest of reportable subcodes, `sub` among them: with `%xaddr` 0, or with the depth where it is that of a failed spill alone (R33, R127). -/
theorem reported_of_reportable {e : Env} {l : List Nat} {sub : Nat} (hl : Reportable e l) (hmem : sub ∈ l) (hsub : sub < 256) :
    ∃ k x, k ≤ sub ∧ reported e l = some ⟨.illegalOp, k, x⟩
      ∧ (x = 0 ∨ (k = subField ∧ k < sub ∧ x = BitVec.ofNat 64 (e.w.stack.length + 1) ∧ spillFails e.t e.w.stack.length = true)) := by
  have hmem' : sub ∈ l.map (· % 256) := List.mem_map.2 ⟨sub, hmem, Nat.mod_eq_of_lt hsub⟩
  obtain ⟨k, hk⟩ := Option.isSome_iff_exists.1 (List.isSome_min?_of_mem hmem')
  have hle : k ≤ sub := (List.min?_eq_some_iff.1 hk).2 sub hmem'
  refine ⟨k, _, hle, by rw [reported, hk, Option.map_some], ?_⟩
  by_cases hin : l.contains k = true
  · exact .inl (if_pos hin)
  · have hout : k ∉ l := fun h => hin (List.contains_iff_mem.2 h)
    have hlt : k < sub := Nat.lt_of_le_of_ne hle fun h => hout (h ▸ hmem)
    obtain ⟨j, hj, hjk⟩ := List.mem_map.1 (List.min?_mem hk)
    rcases hl j hj with hsmall | ⟨rfl, hfails⟩
    · rw [← hjk, Nat.mod_eq_of_lt hsmall] at hout
      exact absurd hj hout
    · exact .inr ⟨hjk.symm, hlt, if_neg hin, hfails⟩

/-- A word at its place that breaks a check which every word shares is delivered FORMAT for its storage code (R356), or else what is reported (R33). -/
theorem issueWith_of_firstError {i : Instr} {f : Fields} {s : State} {e : Env} {sub : Nat} {fi : FaultInfo} {extra : Extra}
    {body : Env → State → Verdict} (hf : fieldsOf i = some f) (he : envOf s i f = some e) (hissue : mayIssue e.w e.who.lane = true)
    (hlane : e.who.lane = none ∨ helperRuns i = true) (hskid : endsSkid i = true → faultPending s e.w e.who.lane = false)
    (hrow : rowWaits s e = false) (hsub : firstError s e i = some sub)
    (hfi : (badStorage i f = true ∧ fi = ⟨.format, 1, 0⟩)
      ∨ (badStorage i f = false ∧ reported e ((if (formOf i).eng = .mat then [] else extra e s) ++ [sub]) = some fi)) :
    issueWith i extra s body = .next (deliver s e.who fi (preciseAt e.va)) := by
  have hskid' : (endsSkid i && faultPending s e.w e.who.lane) = false := by
    cases hi : endsSkid i
    · rfl
    · exact hskid hi
  rcases hlane with hlane | hlane
  · rw [hlane] at hissue hskid'
    rcases hfi with ⟨hbad, rfl⟩ | ⟨hgood, hrep⟩
    · simp [issueWith, hf, he, hlane, hissue, hskid', hrow, hsub, hbad, faulting]
    · simp [issueWith, hf, he, hlane, hissue, hskid', hrow, hsub, hgood, hrep]
  · rcases hfi with ⟨hbad, rfl⟩ | ⟨hgood, hrep⟩
    · simp [issueWith, hf, he, hissue, hlane, hskid', hrow, hsub, hbad, faulting]
    · simp [issueWith, hf, he, hissue, hlane, hskid', hrow, hsub, hgood, hrep]

/-- Settles O35: a word is issued through the shared checks whatever it is, and the lowest of its subcodes is reported. -/
theorem illegalFormsRaiseIllegalOp : Obligations.IllegalFormsRaiseIllegalOp := by
  intro s i f e sub hf he hissue hlane hskid hrow hsub
  obtain ⟨extra, body, hextra, hexec⟩ := isCheckedIssue_exec hf s
  rw [hexec]
  refine ⟨fun hgood => ?illegal, fun hbad => issueWith_of_firstError hf he hissue hlane hskid hrow hsub (.inl ⟨hbad, rfl⟩)⟩
  have hlt : sub < 256 := firstError_lt hsub
  have hall : Reportable e ((if (formOf i).eng = .mat then [] else extra e s) ++ [sub]) :=
    ((reportable_nil e).ite (hextra e)).append ((plain_singleton hlt).reportable e)
  obtain ⟨k, x, hle, hrep, hx⟩ := reported_of_reportable hall (by simp) hlt
  exact ⟨k, x, hle, issueWith_of_firstError hf he hissue hlane hskid hrow hsub (.inr ⟨hgood, hrep⟩), hx⟩

end Sys2Proof.Machine
end

section
/-!
PROOF. The issue of a memory word (R30, R42, R175, R208, R221 to R232, R242, R243): where there is room, the operation that a word plans enters the
list of its wave, and each word plans the accesses that its entry gives.
-/

namespace Sys2Proof.Machine

/-! ## An operation that finds room -/

/-- Where there is room, a memory operation is issued. -/
theorem issueMem_of_memRoom {s : State} {e : Env} {cn : Option Nat} {k : OpKind} {xs : List Access} (h : memRoom s e cn k xs) :
    issueMem s e cn k xs = .ok (memIssued s e cn k xs) := by
  obtain ⟨hcounter, hskid, hdet⟩ := h
  simp only [issueMem, hcounter, hskid, hdet, Bool.or_false, Bool.false_eq_true, if_false]
  rfl

/-- A word at its turn that plans an operation, and finds room for it, issues it. -/
theorem issuePlan_atTurn {s : State} {i : Instr} {f : Fields} {e : Env} {cn : Option Nat} {k : OpKind} {xs : List Access}
    (h : wordAtTurn s i f e) (hplan : memPlan s i e = some (k, xs)) (hroom : memRoom s e cn k xs) :
    issuePlan i cn s = .next (retired (memIssued s e cn k xs) e) := by
  rw [issuePlan, issue_atTurn _ h, hplan]
  simp only [issueMem_of_memRoom hroom, conclude_ok]

/-- A word whose meaning is its plan completes with the operation issued, where there is room for it. -/
theorem completesIf_of_memPlan {s : State} {i : Instr} {f : Fields} {cn : Option Nat} {k : Env → OpKind} {xs : Env → List Access}
    (hexec : exec i s = issuePlan i cn s) (hplan : ∀ e, e.f = f → memPlan s i e = some (k e, xs e)) :
    completesIf s i f (fun e => memRoom s e cn (k e) (xs e)) fun e => memIssued s e cn (k e) (xs e) := by
  intro e h hroom
  rw [hexec]
  exact issuePlan_atTurn h (hplan e h.fields) hroom

/-! ## The plans that read a code or a range -/

theorem memPlan_ldu (s : State) (e : Env) :
    memPlan s (.ldu e.f) e = some (.loadScalar e.f.d.toNat e.p.pid (if e.f.bmod = 5 then 8 else 4),
      if e.act = 0 then [] else [⟨0, .g, addrOf e 0, if e.f.bmod = 5 then 8 else 4, 0, 0, false, none, false⟩]) := by
  have hsize : (if e.f.bmod.toNat = 5 then 8 else 4) = if e.f.bmod = 5 then 8 else 4 := if_congr (BitVec.toNat_inj (y := 5#4)) rfl rfl
  simp only [memPlan, hsize, accOf]

/-- Bytes of a bound word's access (R242). -/
theorem boundBytes_eq (x : BitVec 4) : (if x.toNat = 1 then 8 else 4) = if x = 1 then 8 else 4 := if_congr (BitVec.toNat_inj (y := 1#4)) rfl rfl

theorem memPlan_ldb (s : State) (e : Env) :
    memPlan s (.ldb e.f) e = some (.loadBound e.f.d.toNat (e.f.bmod == 1), if e.act = 0 then []
      else [needAlign (if e.f.bmod = 1 then 8 else 4) ⟨0, .g, addrOf e 0, if e.f.bmod = 1 then 8 else 4, 0, 0, false, none, false⟩]) := by
  have hcode : (e.f.bmod.toNat == 1) = (e.f.bmod == 1) := by
    rw [Bool.eq_iff_iff, beq_iff_eq, beq_iff_eq]
    exact BitVec.toNat_inj (y := 1#4)
  simp only [memPlan, boundBytes_eq, hcode, accOf]

theorem memPlan_stb (s : State) (e : Env) :
    memPlan s (.stb e.f) e = some (.store none, if e.act = 0 then []
      else [needAlign (if e.f.bmod = 1 then 8 else 4) ⟨0, .g, addrOf e 0, if e.f.bmod = 1 then 8 else 4,
        (e.w.bnd e.f.c.toNat).toNat % 2 ^ (8 * if e.f.bmod = 1 then 8 else 4), 0, false, none, false⟩]) := by
  simp only [memPlan, boundBytes_eq, accOf]

/-- LNWB with no active lane, of no bytes, or of a range that obeys R195. -/
theorem memPlan_lnwb {s : State} {e : Env}
    (h : rangeFault (addrOf e 0) (e.p.s e.f.c.toNat).toNat = none ∨ e.p.s e.f.c.toNat = 0 ∨ e.act = 0) :
    memPlan s (.lnwb e.f) e = some (.lnwb, if e.act = 0 ∨ e.p.s e.f.c.toNat = 0 then []
      else [⟨0, .g, addrOf e 0, (e.p.s e.f.c.toNat).toNat, 0, 0, true, none, false⟩]) := by
  have hzero : (e.p.s e.f.c.toNat).toNat = 0 ↔ e.p.s e.f.c.toNat = 0 := BitVec.toNat_inj (y := 0#64)
  simp only [memPlan, Bool.or_eq_true, decide_eq_true_eq, hzero, accOf]
  by_cases hidle : e.act = 0 ∨ e.p.s e.f.c.toNat = 0
  · rw [if_pos hidle, if_pos hidle]
  · have hrange : rangeFault (addrOf e 0) (e.p.s e.f.c.toNat).toNat = none := h.resolve_right fun hc => hidle hc.symm
    rw [if_neg hidle, if_neg hidle, hrange]

/-- An LNWB takes no room in a DET buffer, so that its room does not depend on its access. -/
theorem memRoom_lnwb {s : State} {e : Env} {cn : Option Nat} (xs : List Access) (h : memRoom s e cn .lnwb []) : memRoom s e cn .lnwb xs := by
  obtain ⟨hcounter, hskid, -⟩ := h
  refine ⟨hcounter, hskid, ?_⟩
  simp [detFull, OpKind.stores, OpKind.isAtomic]

/-- Settles O20: the meaning of each word is its plan, and the plan is what the entry of the word gives. -/
theorem loadsAndStoresIssueOneAccessPerActiveLane : Obligations.LoadsAndStoresIssueOneAccessPerActiveLane := by
  intro s f cn n n2 at_ accs issues
  refine ⟨?ld, ?st, ?lds, ?sts, ?ldu, ?atom, ?acas, ?atoms, ?amaxu, ?amaxswap, ?ldb, ?stb, ?lnwb⟩
  case ldu => exact completesIf_of_memPlan rfl fun e he => by subst he; exact memPlan_ldu s e
  case ldb => exact completesIf_of_memPlan rfl fun e he => by subst he; exact memPlan_ldb s e
  case stb => exact completesIf_of_memPlan rfl fun e he => by subst he; exact memPlan_stb s e
  case lnwb =>
    rintro e h ⟨hrange, hroom⟩
    obtain rfl : e.f = f := h.fields
    have hexec : exec (.lnwb e.f) s = issuePlan (.lnwb e.f) (some (counterName e.f)) s := rfl
    rw [hexec]
    exact issuePlan_atTurn h (memPlan_lnwb hrange) (memRoom_lnwb _ hroom)
  -- the entry's accesses, one for each active lane, are the plan's own
  all_goals exact completesIf_of_memPlan rfl fun e he => by subst he; rfl

end Sys2Proof.Machine
end

section
/-!
PROOF. Floating-point words (R56 to R59, R70 to R74, R271 to R285): each word ends as one floating-point result for each active lane, which either
is written with its flags or, with a raised trap enabled, is not.
-/

namespace Sys2Proof.Machine

/-! ## Results and their flags -/

/-- Results of 32 bits written to a lane register, from `sh` bits up. -/
theorem writeResults_laneResults (e : Env) (r sh : Nat) (g : Nat → Nat × Nat) (s : State) :
    writeResults e r sh (laneResults e g) s = updCur s e.who fun w => w.setLanes r e.act fun l => BitVec.ofNat 32 ((g l).1 / 2 ^ sh) := by
  simp only [writeResults, laneResults, Wave.setLanes, List.foldl_map]

theorem allFlags_laneResults (e : Env) (g : Nat → Nat × Nat) :
    allFlags (laneResults e g) = (lanesOf e.act).foldl (fun m l => Nat.lor m (g l).2) 0 := by
  simp only [allFlags, laneResults, List.foldl_map]

/-- The uniform form executes once for the wave (R270). -/
theorem uniformD_iff {e : Env} : uniformD e = true ↔ e.f.dsp = 1 := beq_iff_eq

/-- Where no enabled trap is among the flags, the write is made and `%fpf` takes the flags. -/
theorem finishFlags_of_disabled {e : Env} {s : State} {flags : Nat} {write : State → State} (h : Nat.land flags (trapsOf e.w) = 0) :
    finishFlags e s flags write = .ok (fpfTakes e (write s) flags) := if_neg (not_not_intro h)

theorem finishFlags_of_enabled {e : Env} {s : State} {flags : Nat} {write : State → State} (h : Nat.land flags (trapsOf e.w) ≠ 0) :
    finishFlags e s flags write = .trap ⟨.fpe, flags, 0⟩ := if_pos h

/-- A floating-point word is the end of its flags, in the lane form and in the uniform form with an active lane. -/
theorem fpInstr_of_active {e : Env} (s : State) (wide : Bool) (g : Nat → Nat × Nat) (h : e.f.dsp ≠ 1 ∨ e.act ≠ 0) :
    ∃ write : State → State, fpInstr e s wide g = finishFlags e s (fpFlags e g) write
      ∧ fpWritten e s wide g = fpfTakes e (write s) (fpFlags e g) := by
  by_cases hd : e.f.dsp = 1
  · have hact : e.act ≠ 0 := h.resolve_left (not_not_intro hd)
    refine ⟨fun s => setScalar s e.who e.f.d.toNat (BitVec.ofNat 64 (g (lowestLane e.act)).1), ?_, ?_⟩
    · simp only [fpInstr, fpFlags, uniformD_iff.2 hd, hd, hact, if_true, if_false]
    · simp only [fpWritten, hd, hact, if_true, if_false]
  · refine ⟨fun s =>
      let s1 := writeResults e e.f.d.toNat 0 (laneResults e g) s
      if wide then writeResults e (e.f.d.toNat + 1) 32 (laneResults e g) s1 else s1, ?_, ?_⟩
    · simp only [fpInstr, fpFlags, allFlags_laneResults, uniformD_iff, hd, if_false]
    · simp only [fpWritten, hd, if_false, writeResults_laneResults, Nat.pow_zero, Nat.div_one, writeLanes]

/-- A uniform word with no active lane raises no flag and writes nothing (R42). -/
theorem fpInstr_of_idle {e : Env} (s : State) (wide : Bool) (g : Nat → Nat × Nat) (hd : e.f.dsp = 1) (hact : e.act = 0) :
    fpFlags e g = 0 ∧ fpWritten e s wide g = s ∧ fpInstr e s wide g = .ok s := by
  simp only [fpFlags, fpWritten, fpInstr, uniformD_iff.2 hd, hd, hact, if_true, and_self]

/-- With no enabled trap raised, a floating-point word writes its results and `%fpf` takes the flags (R71, R271). -/
theorem fpInstr_of_disabled {e : Env} {s : State} {wide : Bool} {g : Nat → Nat × Nat} (h : Nat.land (fpFlags e g) (trapsOf e.w) = 0) :
    fpInstr e s wide g = .ok (fpWritten e s wide g) := by
  by_cases hidle : e.f.dsp = 1 ∧ e.act = 0
  · obtain ⟨-, hwritten, hinstr⟩ := fpInstr_of_idle s wide g hidle.1 hidle.2
    rw [hwritten, hinstr]
  · obtain ⟨write, hinstr, hwritten⟩ := fpInstr_of_active s wide g (not_and_or.1 hidle)
    rw [hinstr, hwritten, finishFlags_of_disabled h]

/-- With an enabled trap raised, FPE carries the flags (R72). -/
theorem fpInstr_of_enabled {e : Env} {s : State} {wide : Bool} {g : Nat → Nat × Nat} (h : Nat.land (fpFlags e g) (trapsOf e.w) ≠ 0) :
    fpInstr e s wide g = .trap ⟨.fpe, fpFlags e g, 0⟩ := by
  have hactive : e.f.dsp ≠ 1 ∨ e.act ≠ 0 := not_and_or.1 fun hidle => by
    obtain ⟨hnone, -, -⟩ := fpInstr_of_idle s wide g hidle.1 hidle.2
    rw [hnone] at h
    exact h (Nat.zero_and _)
  obtain ⟨write, hinstr, -⟩ := fpInstr_of_active s wide g hactive
  rw [hinstr, finishFlags_of_enabled h]

/-! ## Arithmetic words -/

/-- At its turn, a word with no checks of its own ends as its body does. -/
theorem outcome_atTurn {s : State} {i : Instr} {f : Fields} {e : Env} {body : Env → State → Verdict} {v : Verdict}
    {o : Host.Outcome State Fault Refusal} (ho : o = issue i s body) (h : wordAtTurn s i f e) (hbody : body e s = v) :
    o = .next (conclude s e v) := by
  rw [ho, issue_atTurn body h, hbody]

/-- At its turn, an arithmetic word is the floating-point result that its rule gives. -/
theorem exec_of_fpRule {s : State} {i : Instr} {f : Fields} {e : Env} {r : Bool × (Nat → Nat × Nat)} (h : wordAtTurn s i f e)
    (hr : fpRule i e = some r) : exec i s = .next (conclude s e (fpInstr e s r.1 r.2)) := by
  obtain rfl : e.f = f := h.fields
  have hfields : fieldsOf i = some e.f := h.1
  unfold fpRule at hr
  split at hr
  case h_15 => cases hr
  all_goals
    cases hr
    cases hfields
    unfold exec
    exact outcome_atTurn rfl h rfl

/-- Settles O16: by the rule of each word, and by whether an enabled trap is among its flags. -/
theorem floatArithmeticRoundsOnce : Obligations.FloatArithmeticRoundsOnce := by
  intro s i f e r h hr
  rw [exec_of_fpRule h hr]
  refine ⟨fun hoff => ?_, fun hon => ?_⟩
  · rw [fpInstr_of_disabled hoff, conclude_ok]
  · rw [fpInstr_of_enabled hon, conclude_trap]

/-! ## Words that complete with every trap disabled -/

/-- With every trap disabled no flag traps. -/
theorem land_trapsOf_of_disabled {e : Env} (hoff : trapsOf e.w = 0) (flags : Nat) : Nat.land flags (trapsOf e.w) = 0 := by
  rw [hoff]
  exact Nat.and_zero _

/-- A word whose body is a floating-point result completes with it. -/
theorem floats_of_body {s : State} {i : Instr} {f : Fields} {wide : Env → Bool} {g : Env → Nat → Nat × Nat} {body : Env → State → Verdict}
    (hexec : exec i s = issue i s body) (hbody : ∀ e, e.f = f → body e s = fpInstr e s (wide e) (g e)) : floats s i f wide g := by
  intro e h hoff
  rw [hexec, issue_atTurn body h, hbody e h.fields, fpInstr_of_disabled (land_trapsOf_of_disabled hoff _), conclude_ok]

/-- A lane's truth is found in the list of the active lanes' results exactly where the lane is active and its truth holds. -/
theorem any_laneResult (m : W32) (g : Nat → Bool × Nat) {l : Nat} (hl : l < 32) :
    (((lanesOf m).map fun l => (l, g l)).any fun r => r.1 == l && r.2.1) = (m.getLsbD l && (g l).1) := by
  rw [Bool.eq_iff_iff, List.any_map, List.any_eq_true, Bool.and_eq_true]
  simp only [Function.comp_apply, Bool.and_eq_true, beq_iff_eq, mem_lanesOf]
  constructor
  · rintro ⟨k, ⟨-, hk⟩, rfl, hg⟩
    exact ⟨hk, hg⟩
  · rintro ⟨hm, hg⟩
    exact ⟨l, ⟨hl, hm⟩, rfl, hg⟩

/-- The mask of a condition asks for the 32 lanes alone. -/
theorem maskOf_congr {p q : Nat → Bool} (h : ∀ l, l < 32 → p l = q l) : maskOf p = maskOf q := by
  refine BitVec.eq_of_getLsbD_eq fun l hl => ?_
  rw [getLsbD_maskOf hl, getLsbD_maskOf hl, h l hl]

/-- With every trap disabled a comparison writes the truth of each active lane (R276). -/
theorem fpCompare_of_disabled {e : Env} {s : State} {g : Nat → Bool × Nat} (hoff : trapsOf e.w = 0) :
    fpCompare e s g = .ok (fpfTakes e (writePred e s e.f.d.toNat fun l => e.act.getLsbD l && (g l).1)
      ((lanesOf e.act).foldl (fun m l => Nat.lor m (g l).2) 0)) := by
  have hmask : maskOf (fun l => ((lanesOf e.act).map fun l => (l, g l)).any fun r => r.1 == l && r.2.1)
      = maskOf fun l => e.act.getLsbD l && (g l).1 := maskOf_congr fun _ hl => any_laneResult e.act g hl
  simp only [fpCompare, finishFlags_of_disabled (land_trapsOf_of_disabled hoff _), writePred, hmask, List.foldl_map]

/-- A word whose body is a comparison completes with its predicate and flags. -/
theorem completesIf_of_compare {s : State} {i : Instr} {f : Fields} {g : Env → Nat → Bool × Nat} {body : Env → State → Verdict}
    (hexec : exec i s = issue i s body) (hbody : ∀ e, e.f = f → body e s = fpCompare e s (g e)) :
    completesIf s i f (fun e => trapsOf e.w = 0) fun e =>
      fpfTakes e (writePred e s f.d.toNat fun l => e.act.getLsbD l && (g e l).1)
        ((lanesOf e.act).foldl (fun m l => Nat.lor m (g e l).2) 0) := by
  intro e h hoff
  rw [hexec, issue_atTurn body h, hbody e h.fields, fpCompare_of_disabled hoff, conclude_ok, h.fields]

/-! ## The functions of R74 -/

/-- What a function word gives for an input: the table's rows for a NaN, an infinity and a zero, else the rule rounded. -/
def fnResult (e : Env) (zero infinite : Bool → FVal × Nat) (rule : Bool → Nat → Int → Except Nat FnVal) (v : FVal) : Nat × Nat :=
  let fixed (v : FVal × Nat) : Nat × Nat := ((roundF .fp32 (rmOf e) v.1).1, v.2)
  match v with
  | .nan _ sg => fixed (.nan false false, if sg then fNV else 0)
  | .inf sg => fixed (infinite sg)
  | .num sg m ex =>
    if m = 0 then fixed (zero sg)
    else match rule sg m ex with
      | .ok v => roundFn (ftzOf e) (rmOf e) v
      | .error fl => fixed (.nan false false, fl)

theorem fnInstr_eq (e : Env) (s : State) (zero infinite : Bool → FVal × Nat) (rule : Bool → Nat → Int → Except Nat FnVal) :
    fnInstr e s zero infinite rule = fpInstr e s false fun l => fnResult e zero infinite rule (in32 e (srcA e.f) l) :=
  rfl

/-- A function word completes with what its table and its rule give. -/
theorem floats_of_fn {s : State} {i : Instr} {f : Fields} {g : Env → Nat → Nat × Nat} {zero infinite : Bool → FVal × Nat}
    {rule : Bool → Nat → Int → Except Nat FnVal} (hexec : exec i s = issue i s fun e s => fnInstr e s zero infinite rule)
    (hg : ∀ e l, fnResult e zero infinite rule (in32 e (srcA f) l) = g e l) : floats s i f (fun _ => false) g := by
  refine floats_of_body hexec fun e he => ?_
  subst he
  rw [fnInstr_eq]
  exact congrArg (fpInstr e s false) (funext (hg e))

@[simp] theorem roundF_fp32_nan (rm : Nat) (sg q : Bool) : roundF .fp32 rm (.nan sg q) = (0x7FC00000, 0) := rfl
@[simp] theorem roundF_fp32_inf (rm : Nat) (sg : Bool) : roundF .fp32 rm (.inf sg) = (if sg then 0xFF800000 else 0x7F800000, 0) := by
  cases sg <;> rfl
@[simp] theorem roundF_fp32_zero (rm : Nat) (sg : Bool) (ex : Int) : roundF .fp32 rm (.num sg 0 ex) = (if sg then 0x80000000 else 0, 0) := rfl
@[simp] theorem roundF_fp32_one (rm : Nat) (sg : Bool) : roundF .fp32 rm (.num sg 1 0) = (if sg then 0xBF800000 else 0x3F800000, 0) := by
  cases sg <;> rfl

/-- A dot product is the floating-point result of its rule (R280). -/
theorem dotProduct_eq (e : Env) (s : State) (n : Nat) : dotProduct e s n = fpInstr e s false (dotRule e n) := by
  have h44 : kcode e = 0x44 ↔ e.f.c = 0x44 := BitVec.toNat_inj (y := 0x44#8)
  have h55 : kcode e = 0x55 ↔ e.f.c = 0x55 := BitVec.toNat_inj (y := 0x55#8)
  simp only [dotProduct, Bool.or_eq_true, decide_eq_true_eq, h44, h55]
  rfl

/-- A packed word is the floating-point result of its two elements (R279). -/
theorem packedFloat_eq (e : Env) (s : State) (g : FVal → FVal → FVal → FVal × Nat) :
    packedFloat e s g = fpInstr e s false fun l =>
      let fm : Fmt := if e.f.c = 6 then .bf16 else .fp16
      let el (x : W32) (k : Nat) : FVal := readIn (ftzOf e) fm (bitsOf x.toNat (16 * k + 15) (16 * k))
      let one (k : Nat) := rounded e fm (g (el (pkSrc e fm (srcA e.f) l) k) (el (pkSrc e fm (srcB e.f) l) k)
        (el (raw32 e ⟨e.f.dsp, e.f.d.toNat, 0⟩ l) k))
      ((one 0).1 + 65536 * (one 1).1, Nat.lor (one 0).2 (one 1).2) := by
  have hcode : kcode e = 6 ↔ e.f.c = 6 := BitVec.toNat_inj (y := 6#8)
  simp only [packedFloat, hcode]
  rfl

/-- Bit 3 of a code. -/
theorem code_bit3 (e : Env) : kcode e / 8 % 2 = 1 ↔ e.f.c.getLsbD 3 = true := by
  rw [BitVec.getLsbD, Nat.testBit_eq_decide_div_mod_eq, decide_eq_true_eq]
  rfl

/-- Settles O17: the body of each word is one floating-point result for each lane, or a comparison; that of a function of R74 is read row by row of
its table. -/
theorem floatWordsComplete : Obligations.FloatWordsComplete := by
  intro s f no
  refine ⟨?fclass, ?packed, ?dot2, ?dot4, ?dot8, ?exp2, ?log2, ?sin, ?cos, ?tanh, ?cvt, ?cvtfi, ?cvtif, ?compare⟩
  case fclass => exact floats_of_body (rfl : _ = execFclass f s) fun e he => by subst he; rfl
  case packed =>
    rintro i g (⟨rfl, rfl⟩ | ⟨rfl, rfl⟩ | ⟨rfl, rfl⟩)
    · exact floats_of_body (rfl : _ = execPkadd f s) fun e he => by subst he; exact packedFloat_eq e s _
    · exact floats_of_body (rfl : _ = execPkmul f s) fun e he => by subst he; exact packedFloat_eq e s _
    · exact floats_of_body (rfl : _ = execPkfma f s) fun e he => by subst he; exact packedFloat_eq e s _
  case dot2 => exact floats_of_body (rfl : _ = execDot2 f s) fun e _ => dotProduct_eq e s 2
  case dot4 => exact floats_of_body (rfl : _ = execDot4 f s) fun e _ => dotProduct_eq e s 4
  case dot8 => exact floats_of_body (rfl : _ = execDot8 f s) fun e _ => dotProduct_eq e s 8
  case exp2 =>
    refine floats_of_fn (rfl : _ = execExp2 f s) fun e l => ?_
    cases in32 e (srcA f) l with
    | nan _ sg => rfl
    | inf sg => cases sg <;> rfl
    | num sg m ex => simp [fnResult, oneF]
  case log2 =>
    refine floats_of_fn (rfl : _ = execLog2 f s) fun e l => ?_
    cases in32 e (srcA f) l with
    | nan _ sg => rfl
    | inf sg => cases sg <;> rfl
    | num sg m ex => cases sg <;> simp [fnResult]
  case sin =>
    refine floats_of_fn (rfl : _ = execSin f s) fun e l => ?_
    cases in32 e (srcA f) l with
    | nan _ sg => rfl
    | inf sg => rfl
    | num sg m ex => simp [fnResult]
  case cos =>
    refine floats_of_fn (rfl : _ = execCos f s) fun e l => ?_
    cases in32 e (srcA f) l with
    | nan _ sg => rfl
    | inf sg => rfl
    | num sg m ex => simp [fnResult, oneF]
  case tanh =>
    refine floats_of_fn (rfl : _ = execTanh f s) fun e l => ?_
    cases in32 e (srcA f) l with
    | nan _ sg => rfl
    | inf sg => cases sg <;> rfl
    | num sg m ex => simp [fnResult]
  case cvt =>
    refine floats_of_body (rfl : _ = execCvt f s) fun e he => ?_
    subst he
    have hsat : e.f.bmod.toNat % 2 = 1 ↔ e.f.bmod.getLsbD 0 = true := by
      rw [BitVec.getLsbD, Nat.testBit_zero, decide_eq_true_eq]
    simp only [hsat]
    rfl
  case cvtfi =>
    refine floats_of_body (rfl : _ = execCvtfi f s) fun e he => ?_
    subst he
    simp only [code_bit3, uniformD_iff]
    rfl
  case cvtif =>
    refine floats_of_body (rfl : _ = execCvtif f s) fun e he => ?_
    subst he
    simp only [code_bit3]
    cases e.f.c.getLsbD 3 <;> rfl
  case compare =>
    exact ⟨
      completesIf_of_compare (g := fun e l => fpCond f.c.toNat (in32 e (srcA f) l) (in32 e (srcB f) l)) (rfl : _ = execFcmp f s)
        fun e he => by subst he; rfl,
      completesIf_of_compare (g := fun e l => fpCond f.c.toNat (in64 e (srcA f) l) (in64 e (srcB f) l)) (rfl : _ = execDcmp f s)
        fun e he => by subst he; rfl⟩

end Sys2Proof.Machine
end

section
/-!
PROOF. Rounding a value that a format holds (R56, R58): a pattern of BF16, FP16, FP32 or FP64 is its sign, exponent and fraction; the value read from
them has a significand of at most p + 1 bits, so that rounding neither loses a bit nor passes the largest finite magnitude, and packing it puts the
same three fields back.
-/

namespace Sys2Proof.Machine

/-! ## The fields of a pattern -/

/-- The formats whose patterns have IEEE 754's layout, with infinities and signalling NaNs (R56). -/
def IsInterchange (f : Fmt) : Prop := f = .bf16 ∨ f = .fp16 ∨ f = .fp32 ∨ f = .fp64

/-- The sign of a pattern. -/
def signOf (f : Fmt) (x : Nat) : Bool := x / 2 ^ (fmtBits f - 1) % 2 == 1
/-- The exponent field of a pattern. -/
def expOf (f : Fmt) (x : Nat) : Nat := x / 2 ^ fmtP f % 2 ^ fmtE f
/-- The fraction of a pattern. -/
def fracOf (f : Fmt) (x : Nat) : Nat := x % 2 ^ fmtP f

theorem fracOf_lt (f : Fmt) (x : Nat) : fracOf f x < 2 ^ fmtP f := Nat.mod_lt _ (Nat.two_pow_pos _)

theorem expOf_le (f : Fmt) (x : Nat) : expOf f x ≤ 2 ^ fmtE f - 1 := Nat.le_sub_one_of_lt (Nat.mod_lt _ (Nat.two_pow_pos _))

/-- Sign, exponent and fraction fill the pattern. -/
theorem IsInterchange.bits {f : Fmt} (hf : IsInterchange f) : fmtBits f - 1 = fmtP f + fmtE f ∧ 0 < fmtBits f := by
  rcases hf with rfl | rfl | rfl | rfl <;> decide

/-- A pattern is its three fields put together. -/
theorem pattern_eq_fields {f : Fmt} (hf : IsInterchange f) {x : Nat} (hx : x < 2 ^ fmtBits f) :
    signBit f (signOf f x) + expOf f x * 2 ^ fmtP f + fracOf f x = x := by
  obtain ⟨hbits, hpos⟩ := hf.bits
  have hsign : signBit f (signOf f x) = x / 2 ^ (fmtBits f - 1) * 2 ^ (fmtBits f - 1) := by
    have hlt : x / 2 ^ (fmtBits f - 1) < 2 := by
      rw [Nat.div_lt_iff_lt_mul (Nat.two_pow_pos _), ← Nat.pow_succ', Nat.succ_eq_add_one, Nat.sub_add_cancel hpos]
      exact hx
    unfold signBit signOf
    interval_cases x / 2 ^ (fmtBits f - 1) <;> simp
  have hrest : expOf f x * 2 ^ fmtP f + fracOf f x = x % 2 ^ (fmtBits f - 1) := by
    rw [hbits, Nat.pow_add, Nat.mod_mul, expOf, fracOf]
    ring
  rw [hsign, Nat.add_assoc, hrest, Nat.div_add_mod']

/-! ## What a pattern's fields mean -/

/-- A zero or a subnormal. -/
theorem readF_of_expOf_zero {f : Fmt} (hf : IsInterchange f) {x : Nat} (h : expOf f x = 0) :
    readF f x = .num (signOf f x) (fracOf f x) (fmtEmin f - fmtP f) := by
  rcases hf with rfl | rfl | rfl | rfl <;> exact if_pos h

/-- A normal number. -/
theorem readF_of_normal {f : Fmt} (hf : IsInterchange f) {x : Nat} (h0 : expOf f x ≠ 0) (h1 : expOf f x ≠ 2 ^ fmtE f - 1) :
    readF f x = .num (signOf f x) (2 ^ fmtP f + fracOf f x) ((expOf f x : Int) - fmtBias f - fmtP f) := by
  rcases hf with rfl | rfl | rfl | rfl <;> exact (if_neg h0).trans (if_neg (mt beq_iff_eq.1 h1))

/-- An infinity or a NaN. -/
theorem readF_of_top {f : Fmt} (hf : IsInterchange f) {x : Nat} (h : expOf f x = 2 ^ fmtE f - 1) :
    readF f x = if fracOf f x = 0 then .inf (signOf f x) else .nan (signOf f x) (decide (fracOf f x < 2 ^ (fmtP f - 1))) := by
  rcases hf with rfl | rfl | rfl | rfl <;> exact (if_neg fun h0 => absurd (h.symm.trans h0) (by decide)).trans (if_pos (beq_iff_eq.2 h))

/-! ## Rounding and packing -/

theorem roundF_num {f : Fmt} (hf : IsInterchange f) (rm : Nat) (s : Bool) (m : Nat) (e : Int) :
    roundF f rm (.num s m e) = roundFinite f rm s m e := by
  rcases hf with rfl | rfl | rfl | rfl <;> rfl

theorem roundF_inf {f : Fmt} (hf : IsInterchange f) (rm : Nat) (s : Bool) : roundF f rm (.inf s) = (infPattern f s, 0) := by
  rcases hf with rfl | rfl | rfl | rfl <;> rfl

/-- The largest finite magnitude has all its p + 1 bits set, in the exponent below the infinity's. -/
theorem fmtMax_of_isInterchange {f : Fmt} (hf : IsInterchange f) :
    fmtMax f = (2 ^ (fmtP f + 1) - 1, ((2 ^ fmtE f - 2 : Nat) : Int) - fmtBias f - fmtP f) := by
  rcases hf with rfl | rfl | rfl | rfl <;> rfl

/-- A significand of at most p + 1 bits, in the units to which rounding goes and at most in those of the largest finite magnitude, is packed as it
is, with no flag. -/
theorem roundFinite_of_exact {f : Fmt} {m : Nat} {e : Int} (hm : m ≠ 0) (he : max (e + Nat.log2 m) (fmtEmin f) - fmtP f = e)
    (hle : m ≤ (fmtMax f).1) (htop : e ≤ (fmtMax f).2) (rm : Nat) (s : Bool) : roundFinite f rm s m e = (packF f s m e, 0) := by
  have hround : roundAt rm s m e e = (m, false) := by simp [roundAt]
  have hinside : ¬ (e ≥ (fmtMax f).2 ∧ m * 2 ^ (e - (fmtMax f).2).toNat > (fmtMax f).1) := by
    rintro ⟨hge, hgt⟩
    rw [le_antisymm htop hge, Int.sub_self] at hgt
    simp only [Int.toNat_zero, Nat.pow_zero, Nat.mul_one] at hgt
    omega
  have hbeyond : (if e ≥ (fmtMax f).2 then decide (m * 2 ^ (e - (fmtMax f).2).toNat > (fmtMax f).1) else false) = false := by
    simpa using hinside
  simp only [roundFinite, if_neg hm, he, hround, hbeyond, Bool.false_and, Bool.false_eq_true, if_false, Nat.add_zero]

/-- A significand of fewer than p + 1 bits at the least exponent is a subnormal's fraction. -/
theorem packF_subnormal {f : Fmt} {m : Nat} (hm : m < 2 ^ fmtP f) (s : Bool) : packF f s m (fmtEmin f - fmtP f) = signBit f s + m := by
  simp +contextual [packF, hm]

/-- A normal number's significand has p + 1 bits. -/
theorem log2_significand {p fr : Nat} (hfr : fr < 2 ^ p) : Nat.log2 (2 ^ p + fr) = p := by
  rw [Nat.log2_eq_iff (by positivity)]
  omega

/-- A significand of p + 1 bits is a normal number's fraction beside its exponent. -/
theorem packF_normal {f : Fmt} {fr : Nat} (hfr : fr < 2 ^ fmtP f) (ex : Nat) (s : Bool) :
    packF f s (2 ^ fmtP f + fr) ((ex : Int) - fmtBias f - fmtP f) = signBit f s + ex * 2 ^ fmtP f + fr := by
  simp [packF, log2_significand hfr]

/-- Rounding gives a zero and a subnormal back. -/
theorem roundFinite_subnormal {f : Fmt} (hf : IsInterchange f) {m : Nat} (hm : m < 2 ^ fmtP f) (rm : Nat) (s : Bool) :
    roundFinite f rm s m (fmtEmin f - fmtP f) = (signBit f s + m, 0) := by
  by_cases h0 : m = 0
  · subst h0
    rfl
  have hlog : Nat.log2 m < fmtP f := (Nat.log2_lt h0).2 hm
  have hexp : 3 ≤ 2 ^ fmtE f := by rcases hf with rfl | rfl | rfl | rfl <;> decide
  rw [roundFinite_of_exact h0 ?units ?inside ?below, packF_subnormal hm]
  case units => omega
  case inside =>
    rw [fmtMax_of_isInterchange hf, Nat.pow_succ]
    omega
  case below =>
    rw [fmtMax_of_isInterchange hf, fmtEmin]
    omega

/-- Rounding gives a normal number back. -/
theorem roundFinite_normal {f : Fmt} (hf : IsInterchange f) {fr ex : Nat} (hfr : fr < 2 ^ fmtP f) (h0 : 0 < ex) (h1 : ex < 2 ^ fmtE f - 1)
    (rm : Nat) (s : Bool) :
    roundFinite f rm s (2 ^ fmtP f + fr) ((ex : Int) - fmtBias f - fmtP f) = (signBit f s + ex * 2 ^ fmtP f + fr, 0) := by
  have hlog := log2_significand hfr
  rw [roundFinite_of_exact (by positivity) ?units ?inside ?below, packF_normal hfr]
  case units =>
    rw [hlog, fmtEmin]
    omega
  case inside =>
    rw [fmtMax_of_isInterchange hf, Nat.pow_succ]
    omega
  case below =>
    rw [fmtMax_of_isInterchange hf]
    omega

/-- Settles O18: a subnormal and a normal number are exact, and an infinity's pattern is its own. -/
theorem roundingKeepsRepresentableValues : Obligations.RoundingKeepsRepresentableValues := by
  intro f rm x (hf : IsInterchange f) hx hnan
  have hfields := pattern_eq_fields hf hx
  by_cases h0 : expOf f x = 0
  · rw [h0, Nat.zero_mul, Nat.add_zero] at hfields
    rw [readF_of_expOf_zero hf h0, roundF_num hf, roundFinite_subnormal hf (fracOf_lt f x), hfields]
  by_cases h1 : expOf f x = 2 ^ fmtE f - 1
  · have hfrac : fracOf f x = 0 := by
      by_contra hne
      exact hnan _ _ ((readF_of_top hf h1).trans (if_neg hne))
    rw [hfrac, Nat.add_zero, h1] at hfields
    rw [readF_of_top hf h1, if_pos hfrac, roundF_inf hf, infPattern, hfields]
  · have hlt : expOf f x < 2 ^ fmtE f - 1 := Nat.lt_of_le_of_ne (expOf_le f x) h1
    rw [readF_of_normal hf h0 h1, roundF_num hf, roundFinite_normal hf (fracOf_lt f x) (Nat.pos_of_ne_zero h0) hlt, hfields]

end Sys2Proof.Machine
end

section
/-!
PROOF. Storage in its canonical form (log entry 4) and what answers with a state: one lemma for each operation of the machine that answers with one, which
says that it leaves storage canonical. This part: memory, waves, teams, faults, clauses and results.
-/

namespace Sys2Proof.Machine

/-! ## Storage in canonical form in what an operation answers -/

/-- The state that an outcome goes on to, if there is one, has its storage in canonical form. -/
def canonicalNext : Host.Outcome State Fault Refusal → Bool
  | .next s => s.canonical
  | _ => true

/-- The state that an option holds, if any, has its storage in canonical form. -/
def canonicalSome : Option State → Bool
  | some s => s.canonical
  | none => true

/-- The state in which a word's own meaning ends has its storage in canonical form. -/
def Verdict.canonical : Verdict → Bool
  | .ok s | .moved s | .stall s => s.canonical
  | .trap _ | .trapAt _ _ => true

/-- The state after a ring write has its storage in canonical form. -/
def RingRes.canonical : RingRes → Bool
  | .done s _ => s.canonical
  | _ => true

/-- The state in which a row stands ready has its storage in canonical form. -/
def RowReady.canonical : RowReady → Bool
  | .ready s | .slotTaken s => s.canonical
  | _ => true

theorem canonical_of_next {r : Host.Outcome State Fault Refusal} {t : State} (h : canonicalNext r = true) (ht : r = .next t) :
    t.canonical = true := by subst ht; exact h

theorem canonical_of_some {r : Option State} {t : State} (h : canonicalSome r = true) (ht : r = some t) :
    t.canonical = true := by subst ht; exact h

theorem canonical_of_fst {α : Type} {p : State × α} {t : State} {a : α} (h : p.1.canonical = true) (hp : p = (t, a)) : t.canonical = true := by
  subst hp; exact h

theorem canonical_of_snd {α : Type} {p : α × State} {t : State} {a : α} (h : p.2.canonical = true) (hp : p = (a, t)) : t.canonical = true := by
  subst hp; exact h

theorem canonical_of_done {r : RingRes} {t : State} {n : Nat} (h : r.canonical = true) (ht : r = .done t n) : t.canonical = true := by
  subst ht; exact h

theorem canonical_of_ready {r : RowReady} {t : State} (h : r.canonical = true) (ht : r = .ready t) : t.canonical = true := by subst ht; exact h

theorem canonical_of_slotTaken {r : RowReady} {t : State} (h : r.canonical = true) (ht : r = .slotTaken t) : t.canonical = true := by
  subst ht; exact h

/-- A run through a list of pairs with a state keeps its form. -/
theorem canonical_fst_foldl {β γ : Type} {f : State × γ → β → State × γ} (hf : ∀ a b, a.1.canonical = true → (f a b).1.canonical = true)
    {l : List β} {a : State × γ} (ha : a.1.canonical = true) : (l.foldl f a).1.canonical = true := by
  induction l generalizing a with
  | nil => exact ha
  | cons b r ih => exact ih (hf a b ha)

/-- A run through a list of pairs of pairs with a state keeps its form. -/
theorem canonical_fst_fst_foldl {β γ δ : Type} {f : (State × γ) × δ → β → (State × γ) × δ}
    (hf : ∀ a b, a.1.1.canonical = true → (f a b).1.1.canonical = true)
    {l : List β} {a : (State × γ) × δ} (ha : a.1.1.canonical = true) : (l.foldl f a).1.1.canonical = true := by
  induction l generalizing a with
  | nil => exact ha
  | cons b r ih => exact ih (hf a b ha)

theorem canonicalSome_foldl {β : Type} {f : Option State → β → Option State} (hf : ∀ m b, canonicalSome m = true → canonicalSome (f m b) = true)
    {l : List β} {m : Option State} (hm : canonicalSome m = true) : canonicalSome (l.foldl f m) = true := by
  induction l generalizing m with
  | nil => exact hm
  | cons b r ih => exact ih (hf m b hm)

theorem canonical_getD {m : Option State} {s : State} (hm : canonicalSome m = true) (hc : s.canonical = true) : (m.getD s).canonical = true := by
  cases m with
  | none => exact hc
  | some t => exact hm

/-- What holds of both branches holds of the choice. -/
theorem keeps_ite {α : Type} {P : α → Bool} {c : Prop} [Decidable c] {a b : α} (ha : P a = true) (hb : P b = true) :
    P (if c then a else b) = true := by
  split
  · exact ha
  · exact hb

/-! A change of one other field than the three stores. -/

theorem canonical_withLineT {s : State} {l : Sparse Nat} (h : s.canonical = true) : ({ s with lineT := l } : State).canonical = true := h
theorem canonical_withHomeStores {s : State} {l : List HomeStore} (h : s.canonical = true) : ({ s with homeStores := l } : State).canonical = true := h
theorem canonical_withOps {s : State} {l : List Op} (h : s.canonical = true) : ({ s with ops := l } : State).canonical = true := h
theorem canonical_withCur {s : State} {a : Option AgentRef} (h : s.canonical = true) : ({ s with cur := a } : State).canonical = true := h
theorem canonical_withIrqs {s : State} {l : List (Nat × Nat)} (h : s.canonical = true) : ({ s with irqs := l } : State).canonical = true := h
theorem canonical_withCorrected {s : State} {n : Nat} (h : s.canonical = true) : ({ s with corrected := n } : State).canonical = true := h

/-! ## Lines, translations and stores (R77 to R93, R199) -/

theorem canonical_noteTlb {s : State} {c : Context} {g : Nat} (hc : s.canonical = true) : (noteTlb s c g).canonical = true := by
  unfold noteTlb
  split
  · exact State.canonical_of_eq hc rfl rfl rfl
  · exact hc

theorem canonical_noteAlias {s : State} {c : Context} {pte pgn vgn : Nat} (hc : s.canonical = true) :
    (noteAlias s c pte pgn vgn).canonical = true :=
  keeps_ite (State.canonical_of_eq (canonical_noteTlb hc) rfl rfl rfl) (canonical_noteTlb hc)

theorem canonical_fillMsc {s : State} {pline : Nat} {dirty : Bool} (hc : s.canonical = true) : (fillMsc s pline dirty).canonical = true :=
  keeps_ite hc (State.canonical_of_eq hc rfl rfl rfl)

theorem canonical_evictHome {s : State} {p : HomeLine → Bool} (hc : s.canonical = true) : (evictHome s p).canonical = true :=
  canonical_foldl (fun _ _ h => keeps_ite (canonical_fillMsc h) h) (State.canonical_of_eq hc rfl rfl rfl)

theorem canonical_carryT {s : State} {new old : Nat} (hc : s.canonical = true) : (carryT s new old).canonical = true :=
  State.canonical_of_eq hc rfl rfl rfl

theorem canonical_rebaseLine {s : State} {c : Context} {vline pline : Nat} (hc : s.canonical = true) :
    (rebaseLine s c vline pline).canonical = true :=
  canonical_foldl (fun _ _ h => canonical_carryT h) (State.canonical_of_eq hc rfl rfl rfl)

theorem canonical_rebaseGranule {s : State} {c : Context} {g pgn : Nat} (hc : s.canonical = true) :
    (rebaseGranule s c g pgn).canonical = true :=
  canonical_foldl (fun _ _ h => canonical_rebaseLine h) hc

theorem canonical_noteHome {s : State} {c : Context} {va pa pte : Nat} {dirty : Bool} (hc : s.canonical = true) :
    (noteHome s c va pa pte dirty).canonical = true := by
  refine keeps_ite hc ?_
  exact State.canonical_of_eq (canonical_rebaseLine (keeps_ite hc (canonical_fillMsc (canonical_evictHome hc)))) rfl rfl rfl

theorem canonical_noteLine {s : State} {c : Context} {va pa pte : Nat} {dirty : Bool} (hc : s.canonical = true) :
    (noteLine s c va pa pte dirty).canonical = true :=
  keeps_ite (canonical_fillMsc hc) (canonical_noteHome hc)

theorem canonical_leaveHome {s : State} {c : Context} {va pa pte : Nat} (hc : s.canonical = true) :
    (leaveHome s c va pa pte).canonical = true :=
  keeps_ite hc (keeps_ite (canonical_evictHome hc) (State.canonical_of_eq (canonical_evictHome hc) rfl rfl rfl))

theorem canonical_leaveAt {s : State} {c : Context} {va pa : Nat} (hc : s.canonical = true) : (leaveAt s c va pa).canonical = true := by
  unfold leaveAt
  split
  · exact canonical_leaveHome hc
  · exact hc

theorem canonical_cleanLines {s : State} {p : Nat → Bool} (hc : s.canonical = true) : (cleanLines s p).canonical = true :=
  State.canonical_of_eq hc rfl rfl rfl

theorem canonical_grantL2 {s : State} {c : Context} {die va pa pte : Nat} (hc : s.canonical = true) :
    (grantL2 s c die va pa pte).1.canonical = true := by
  unfold grantL2
  split
  · exact hc
  split
  · exact canonical_noteHome hc
  split
  · exact hc
  · exact State.canonical_of_eq (canonical_noteHome hc) rfl rfl rfl

theorem canonical_grantCopies {s : State} {c : Context} {die core va pa pte : Nat} (hc : s.canonical = true) :
    (grantCopies s c die core va pa pte).canonical = true :=
  keeps_ite hc (keeps_ite (canonical_noteLine hc) (State.canonical_of_eq (canonical_grantL2 hc) rfl rfl rfl))

theorem canonical_grantDevice {s : State} {x : Nat × Nat × Nat} (hc : s.canonical = true) : (grantDevice s x).canonical = true :=
  keeps_ite hc (State.canonical_of_eq hc rfl rfl rfl)

theorem canonical_homePiece {op : Nat} {core : Option Nat} {leased : Bool} {acc : State × Nat} {piece : Nat × List Byte}
    (h : acc.1.canonical = true) :
    (homePiece op core leased acc piece).1.canonical = true :=
  State.canonical_of_eq h rfl rfl rfl

theorem canonical_withReq {s r : State} {req : Nat} (hr : r.canonical = true) :
    (withReq s r req).canonical = true := State.canonical_of_eq hr rfl rfl rfl

theorem canonical_storeAs {s : State} {req pa : Nat} {bs : List Byte} {t0 : Nat} (hc : s.canonical = true) :
    (storeAs s req pa bs t0).1.canonical = true :=
  canonical_withReq (canonical_storeAfter hc)

/-! ## Waves, teams, error records and the end of an instruction -/

theorem canonical_updWave {s : State} {tid ix : Nat} {g : Wave → Wave} (hc : s.canonical = true) :
    (updWave s tid ix g).canonical = true :=
  State.canonical_of_eq hc rfl rfl rfl

theorem canonical_updTeam {s : State} {tid : Nat} {g : Team → Team} (hc : s.canonical = true) : (updTeam s tid g).canonical = true :=
  State.canonical_of_eq hc rfl rfl rfl

theorem canonical_updCtx {s : State} {cid : Nat} {g : Context → Context} (hc : s.canonical = true) : (updCtx s cid g).canonical = true :=
  State.canonical_of_eq hc rfl rfl rfl

theorem canonical_updSweep {s : State} {r : SweepRef} {g : Sweep → Sweep} (hc : s.canonical = true) : (updSweep s r g).canonical = true :=
  State.canonical_of_eq hc rfl rfl rfl

theorem canonical_updOp {s : State} {id : Nat} {g : Op → Op} (hc : s.canonical = true) : (updOp s id g).canonical = true :=
  State.canonical_of_eq hc rfl rfl rfl

theorem canonical_updQueue {s : State} {q : QRef} {g : Queue → Queue} (hc : s.canonical = true) : (updQueue s q g).canonical = true :=
  State.canonical_of_eq hc rfl rfl rfl

theorem canonical_takeFree {s : State} (hc : s.canonical = true) : (takeFree s).2.canonical = true := State.canonical_of_eq hc rfl rfl rfl

theorem canonical_updCur {s : State} {a : AgentRef} {g : Wave → Wave} (hc : s.canonical = true) : (updCur s a g).canonical = true :=
  canonical_updWave hc

theorem canonical_updPath {s : State} {a : AgentRef} {g : Path → Path} (hc : s.canonical = true) : (updPath s a g).canonical = true :=
  canonical_updCur hc

theorem canonical_setScalar {s : State} {a : AgentRef} {k : Nat} {x : Word} (hc : s.canonical = true) :
    (setScalar s a k x).canonical = true :=
  canonical_updPath hc

theorem canonical_lower {s : State} (hc : s.canonical = true) : (lower s).canonical = true := State.canonical_of_eq hc rfl rfl rfl

theorem canonical_noteQueueAlias {s : State} {q : Queue} {va pa pte : Nat} (hc : s.canonical = true) :
    (noteQueueAlias s q va pa pte).canonical = true := by
  unfold noteQueueAlias
  split
  · exact canonical_noteAlias hc
  · exact hc

theorem canonical_queueNoted {s : State} {q : Queue} {va n : Nat} {k : AccKind} (hc : s.canonical = true) :
    (queueNoted s q va n k).canonical = true := by
  unfold queueNoted
  split
  · exact canonical_noteQueueAlias hc
  · exact hc

theorem canonical_ringWrite {s : State} {q : Queue} {r : ErrorRecord} (hc : s.canonical = true) : (ringWrite s q r).canonical = true := by
  unfold ringWrite
  split
  · dsimp only
    split
    · exact canonical_updQueue (canonical_storeAfter (canonical_storeAfter (canonical_queueNoted (canonical_queueNoted hc))))
    · rfl
    · rfl
  · rfl
  · rfl

theorem canonical_noteTold {s : State} {q : QRef} {t : Nat} (hc : s.canonical = true) : (noteTold s q t).canonical = true := canonical_updQueue hc

theorem canonical_postAdmin {s : State} {r : ErrorRecord} (hc : s.canonical = true) : (postAdmin s r).canonical = true := by
  unfold postAdmin
  split
  · exact hc
  split
  · exact canonical_noteTold (canonical_of_done (canonical_ringWrite hc) ‹_›)
  · exact hc

theorem canonical_haltQueue {s : State} {q : Queue} {code sub : Nat} {va : Nat} (hc : s.canonical = true) :
    (haltQueue s q code sub va).canonical = true :=
  keeps_ite hc (canonical_postAdmin (canonical_updQueue (State.canonical_of_eq hc rfl rfl rfl)))

theorem canonical_sendRecords {s : State} {qr : QRef} {rs : List ErrorRecord} (hc : s.canonical = true) :
    (sendRecords s qr rs).canonical = true := by
  induction rs generalizing s with
  | nil => exact hc
  | cons r rs ih =>
    unfold sendRecords
    split
    · exact canonical_foldl (fun _ _ h => canonical_postAdmin h) hc
    · split
      · exact canonical_updQueue hc
      · split
        · exact ih (canonical_noteTold (canonical_of_done (canonical_ringWrite hc) ‹_›))
        · exact canonical_updQueue hc
        · split
          · exact ih hc
          · exact canonical_haltQueue (canonical_foldl (fun _ _ h => canonical_postAdmin h) hc)

theorem canonical_postErrors {s : State} {q : QRef} {rs : List ErrorRecord} (hc : s.canonical = true) :
    (postErrors s q rs).canonical = true :=
  canonical_sendRecords (State.canonical_of_eq hc rfl rfl rfl)

theorem canonical_postError {s : State} {r : ErrorRecord} (hc : s.canonical = true) : (postError s r).canonical = true := canonical_postErrors hc
theorem canonical_pushOp {s : State} {o : Op} (hc : s.canonical = true) : (pushOp s o).canonical = true := State.canonical_of_eq hc rfl rfl rfl

theorem canonical_exitHandle {cid : Nat} {a : AgentRef} {s : State} {h : Word} (hc : s.canonical = true) :
    (exitHandle cid a s h).canonical = true := by
  unfold exitHandle
  split
  · exact keeps_ite (keeps_ite (canonical_setJar hc) (canonical_pushOp hc)) hc
  · exact hc

theorem canonical_exitHandles {s : State} {cid : Nat} {w : Wave} (hc : s.canonical = true) : (exitHandles s cid w).canonical = true :=
  canonical_foldl (fun _ _ h => canonical_exitHandle h) hc

theorem canonical_freeHold {s : State} {socket slot : Nat} (hc : s.canonical = true) : (freeHold s socket slot).canonical = true :=
  State.canonical_of_eq (State.canonical_of_eq hc rfl rfl rfl) rfl rfl rfl

theorem canonical_returnSlot {s : State} {cid : Nat} {e : TriadEntry} {tid : Nat} (hc : s.canonical = true) :
    (returnSlot s cid e tid).canonical = true := by
  unfold returnSlot
  split
  · exact hc
  · exact keeps_ite hc (canonical_freeHold hc)

theorem canonical_releaseTriads {s : State} {t : Team} (hc : s.canonical = true) : (releaseTriads s t).canonical = true :=
  canonical_updTeam (canonical_foldl (fun _ _ h => keeps_ite (canonical_returnSlot h) h) hc)

theorem canonical_checkTeamEnd {s : State} {tid : Nat} (hc : s.canonical = true) : (checkTeamEnd s tid).canonical = true := by
  unfold checkTeamEnd
  split
  · exact hc
  · exact keeps_ite hc (canonical_updSweep (canonical_updTeam (canonical_releaseTriads hc)))

theorem canonical_makeReady {s : State} {tid ix : Nat} (hc : s.canonical = true) : (makeReady s tid ix).canonical = true := canonical_updWave hc

theorem canonical_endWave {s : State} {tid ix : Nat} (hc : s.canonical = true) : (endWave s tid ix).canonical = true := by
  unfold endWave
  split
  · exact keeps_ite hc (canonical_exitHandles (canonical_lower (State.canonical_of_eq hc rfl rfl rfl)))
  · exact hc

theorem canonical_discardTask {s : State} {w : Wave} (hc : s.canonical = true) : (discardTask s w).canonical = true := by
  unfold discardTask
  split
  · exact hc
  · exact keeps_ite hc (canonical_updWave (canonical_updTeam (State.canonical_of_eq hc rfl rfl rfl)))

theorem canonical_endTeam {s : State} {tid : Nat} {type code sub wave : Nat} {xpc xaddr : Word} {frame : Option Frame} (hc : s.canonical = true) :
    (endTeam s tid type code sub wave xpc xaddr frame).canonical = true := by
  unfold endTeam
  split
  · exact hc
  split
  · exact hc
  · exact canonical_postErrors (canonical_updSweep (canonical_checkTeamEnd (canonical_foldl (fun _ _ h => canonical_endWave h) (canonical_foldl
      (fun _ _ h => canonical_discardTask h) (canonical_updTeam hc)))))

theorem canonical_trapEntry {s : State} {a : AgentRef} {fi : FaultInfo} {ti : TrapInfo} (hc : s.canonical = true) :
    (trapEntry s a fi ti).canonical = true := by
  unfold trapEntry
  split
  · split
    · exact hc
    · exact canonical_updCur (canonical_discardTask hc)
  · exact hc

theorem canonical_haltBreak {s : State} {a : AgentRef} {fi : FaultInfo} {xpc : Nat} (hc : s.canonical = true) :
    (haltBreak s a fi xpc).canonical = true :=
  canonical_updCur hc

theorem canonical_reissue {s : State} {a : AgentRef} {w : Wave} {k : Task} {sw : Sweep} (hc : s.canonical = true) :
    (reissue s a w k sw).canonical = true :=
  canonical_updCur (canonical_discardTask hc)

theorem canonical_recallLane {s : State} {a : AgentRef} {l : Nat} (hc : s.canonical = true) : (recallLane s a l).canonical = true :=
  canonical_updCur hc

theorem canonical_deliver {s : State} {a : AgentRef} {fi : FaultInfo} {ti : TrapInfo} (hc : s.canonical = true) :
    (deliver s a fi ti).canonical = true := by
  unfold deliver
  split
  · exact canonical_recallLane hc
  split
  · split
    · exact hc
    refine keeps_ite (canonical_haltBreak hc) ?_
    split
    · exact keeps_ite (canonical_reissue hc) (keeps_ite (canonical_endTeam hc) (canonical_trapEntry hc))
    · exact keeps_ite (canonical_endTeam hc) (canonical_trapEntry hc)
  · exact hc

theorem canonical_leaveRounds {s : State} {tid wave : Nat} (hc : s.canonical = true) : (leaveRounds s tid wave).canonical = true :=
  canonical_updTeam hc

theorem canonical_breakMember {s : State} {w : Wave} (hc : s.canonical = true) : (breakMember s w).canonical = true :=
  keeps_ite (canonical_deliver (canonical_updWave (canonical_leaveRounds hc))) (canonical_updWave hc)

theorem canonical_breakGangs {s : State} {tid ix : Nat} (hc : s.canonical = true) : (breakGangs s tid ix).canonical = true := by
  refine canonical_foldl (fun _ _ h => ?_) hc
  split
  · exact keeps_ite h (canonical_breakMember h)
  · exact h

theorem canonical_abandonOps {s : State} {ids : List Nat} (hc : s.canonical = true) : (abandonOps s ids).canonical = true :=
  canonical_lower (State.canonical_of_eq hc rfl rfl rfl)

theorem canonical_returnFrom {s : State} {a : AgentRef} {w : Wave} {fr : Frame} {replay : State → List Nat → W32 → State} (hc : s.canonical = true)
    (hr : ∀ s l m, s.canonical = true → (replay s l m).canonical = true) : (returnFrom s a w fr replay).canonical = true :=
  keeps_ite (hr _ _ _ (canonical_updCur hc)) (canonical_abandonOps (canonical_updCur hc))

theorem canonical_illegal {sub : Nat} : (illegal sub).canonical = true := rfl
theorem canonical_faulting {code : Code} {sub : Nat} {addr : Word} : (faulting code sub addr).canonical = true := rfl
theorem canonical_endClause {s : State} {a : AgentRef} (hc : s.canonical = true) : (endClause s a).canonical = true := canonical_updCur hc

theorem canonical_retire {s : State} {a : AgentRef} (hc : s.canonical = true) : (retire s a).canonical = true := by
  unfold retire
  split
  all_goals
    dsimp only
    split
    · exact canonical_updCur hc
    split
    · exact canonical_updCur hc
    · exact keeps_ite (canonical_updPath (canonical_updCur hc)) (canonical_endClause (canonical_updPath (canonical_updCur hc)))

theorem canonical_retireMoved {s : State} {a : AgentRef} (hc : s.canonical = true) : (retireMoved s a).canonical = true := canonical_updCur hc

theorem canonical_conclude {s : State} {e : Env} {v : Verdict} (hc : s.canonical = true) (hv : v.canonical = true) :
    (conclude s e v).canonical = true := by
  unfold conclude
  split
  · exact canonical_retire (canonical_updCur hv)
  · exact canonical_retireMoved (canonical_updCur hv)
  · exact hv
  · exact canonical_deliver hc
  · exact canonical_deliver hc

theorem canonical_standStill {s : State} {e : Env} (hc : s.canonical = true) : (standStill s e).canonical = true := by
  unfold standStill
  split
  · exact canonical_updCur hc
  · exact hc

theorem canonical_issueWith {i : Instr} {extra : Extra} {s : State} {body : Env → State → Verdict} (hc : s.canonical = true)
    (hb : ∀ e, (body e s).canonical = true) : canonicalNext (issueWith i extra s body) = true := by
  unfold issueWith
  split
  · rfl
  split
  · rfl
  refine keeps_ite rfl ?_
  split
  · exact canonical_recallLane hc
  refine keeps_ite (canonical_standStill hc) ?_
  split
  · refine canonical_conclude hc (keeps_ite canonical_faulting ?_)
    split
    · rfl
    · exact canonical_illegal
  · split
    · exact canonical_conclude hc rfl
    · exact canonical_conclude hc (hb _)

theorem canonical_issue {i : Instr} {s : State} {body : Env → State → Verdict} (hc : s.canonical = true)
    (hb : ∀ e, (body e s).canonical = true) : canonicalNext (issue i s body) = true :=
  canonical_issueWith hc (fun _ => hb _)

theorem canonical_tryAgain {s : State} {e : Env} (hc : s.canonical = true) : (tryAgain s e).canonical = true := canonical_standStill hc

theorem canonical_parkAs {s : State} {e : Env} {st : Status} (hc : s.canonical = true) : (parkAs s e st).canonical = true := by
  unfold parkAs
  split
  · exact canonical_updCur hc
  · exact hc

theorem canonical_waitAs {s : State} {e : Env} {st : Status} (hc : s.canonical = true) : (waitAs s e st).canonical = true := by
  unfold waitAs
  split
  · exact canonical_updCur hc
  · exact hc

/-! ## The log of a captured run -/

theorem canonical_putSector {q : Queue} {acc : State × Nat} {bs : List Byte} (h : acc.1.canonical = true) :
    (putSector q acc bs).1.canonical = true := by
  unfold putSector
  split
  · exact canonical_storeAfter (canonical_queueNoted h)
  · exact h

theorem canonical_logAppend {s : State} {q : Queue} {sectors : List (List Byte)} (hc : s.canonical = true) :
    (logAppend s q sectors).canonical = true := by
  unfold logAppend
  split
  · exact hc
  refine keeps_ite (canonical_updQueue (canonical_fst_foldl (fun _ _ h => canonical_putSector h) hc)) ?_
  exact canonical_updQueue (keeps_ite (canonical_putSector hc) hc)

/-! ## Faults of an access -/

theorem canonical_updAcc {s : State} {id lane : Nat} {g : Access → Access} (hc : s.canonical = true) :
    (updAcc s id lane g).canonical = true :=
  canonical_updOp hc

theorem canonical_holdFault {s : State} {o : Op} {lane : Nat} {fi : FaultInfo} (hc : s.canonical = true) :
    (holdFault s o lane fi).canonical = true :=
  canonical_updOp (canonical_updAcc hc)

theorem canonical_markFault {s : State} {o : Op} {lane : Nat} {fi : FaultInfo} (hc : s.canonical = true) :
    (markFault s o lane fi).canonical = true := by
  unfold markFault
  split
  · exact hc
  · exact keeps_ite (canonical_updAcc hc) (canonical_holdFault hc)

theorem canonical_aliasNoted {s : State} {c : Context} {va n : Nat} (hc : s.canonical = true) : (aliasNoted s c va n).canonical = true := by
  unfold aliasNoted
  split
  · exact canonical_noteAlias hc
  · exact hc

theorem canonical_writeRecord {cid : Nat} {s : State} {r : FaultRecord} (hc : s.canonical = true) : (writeRecord cid s r).canonical = true := by
  unfold writeRecord
  split
  · exact hc
  · split
    · exact hc
    · split
      · exact hc
      · split
        · exact canonical_withIrqs (canonical_updCtx (canonical_storeAfter (canonical_aliasNoted hc)))
        · exact hc

theorem canonical_writeRecords {s : State} {cid : Nat} (hc : s.canonical = true) : (writeRecords s cid).canonical = true := by
  unfold writeRecords
  split
  · exact hc
  · exact canonical_foldl (fun _ _ h => canonical_writeRecord h) hc

theorem canonical_touchEntry {s : State} {c : Context} {va vdie : Nat} (hc : s.canonical = true) :
    (touchEntry s c va vdie).canonical = true := by
  unfold touchEntry
  split
  · exact keeps_ite (canonical_writeNow hc) hc
  · exact hc

theorem canonical_noteFault {s : State} {c : Context} {va kind vdie core sub : Nat} {second : Bool} {ucode : Code} {usub : Nat} {w : Waiter}
    (hc : s.canonical = true) : (noteFault s c va kind vdie core sub second ucode usub w).canonical = true := by
  have hnumbered : (if vdie = 0xFF then takeFree s else (BitVec.ofNat 64 vdie, s)).2.canonical = true := by
    split
    · exact canonical_takeFree hc
    · exact hc
  exact canonical_writeRecords (canonical_updCtx (keeps_ite (canonical_touchEntry hnumbered) hc))

theorem canonical_failAccess {s : State} {o : Op} {t : Team} {c : Context} {kind : Nat} {x : Access} {va : Int} {r : AccRes}
    (hc : s.canonical = true) :
    (failAccess s o t c kind x va r).canonical = true := by
  unfold failAccess
  split
  · exact hc
  · exact canonical_markFault hc
  · exact canonical_holdFault (canonical_noteFault hc)

/-! ## Headers and clauses -/

theorem canonical_keepWord {c : Context} {seat : Nat} {s : State} {x : Nat × Word} (hc : s.canonical = true) :
    (keepWord c seat s x).canonical = true := by
  unfold keepWord
  split
  · exact State.canonical_of_eq (canonical_noteAlias hc) rfl rfl rfl
  · exact hc

theorem canonical_keepClause {s : State} {c : Context} {seat : Nat} {k : Clause} (hc : s.canonical = true) :
    (keepClause s c seat k).canonical = true :=
  canonical_foldl (fun _ _ h => canonical_keepWord h) hc

theorem canonical_enterClause {s : State} {a : AgentRef} {k : Clause} (hc : s.canonical = true) : (enterClause s a k).canonical = true :=
  canonical_updCur hc

theorem canonical_headerFault {s : State} {a : AgentRef} {p : Path} {fi : FaultInfo} {va : Nat} (hc : s.canonical = true) :
    (headerFault s a p fi va).canonical = true :=
  canonical_deliver hc

theorem canonical_startClause {s : State} {a : AgentRef} {w : Wave} {k : Clause} (hc : s.canonical = true) :
    (startClause s a w k).canonical = true := by
  refine keeps_ite ?_ ?_
  · refine canonical_enterClause ?_
    split
    · exact canonical_updCur hc
    · exact hc
  · split
    · exact canonical_updCur (canonical_enterClause (canonical_updCur hc))
    · exact hc

theorem canonical_reachHeader {s0 : State} {a : AgentRef} {w : Wave} {t : Team} {c : Context} {p : Path} (hs0 : s0.canonical = true) :
    (reachHeader s0 a w t c p).canonical = true := by
  unfold reachHeader
  split
  · exact canonical_headerFault hs0
  split
  · exact canonical_headerFault (canonical_keepClause hs0)
  refine keeps_ite (canonical_updCur (canonical_keepClause hs0)) ?_
  refine keeps_ite (canonical_updCur (canonical_keepClause hs0)) ?_
  split
  · exact canonical_keepClause hs0
  refine keeps_ite (canonical_headerFault (canonical_keepClause hs0)) ?_
  refine keeps_ite ?_ (canonical_startClause (canonical_keepClause hs0))
  refine keeps_ite (canonical_startClause (canonical_updCur (canonical_keepClause hs0))) ?_
  exact canonical_headerFault (canonical_keepClause hs0)

theorem canonical_nextClause {s : State} {a : AgentRef} {w : Wave} {t : Team} {c : Context} {p : Path} (hc : s.canonical = true) :
    (nextClause s a w t c p).canonical = true := by
  refine keeps_ite (canonical_headerFault hc) ?_
  refine keeps_ite ?_ (canonical_reachHeader hc)
  split
  · exact canonical_reachHeader hc
  · exact canonical_enterClause (canonical_keepClause hc)
  · exact canonical_headerFault hc
  · exact canonical_headerFault hc

theorem canonical_execClauseHeader {s : State} (hc : s.canonical = true) : canonicalNext (execClauseHeader s) = true := by
  unfold execClauseHeader
  split
  · rfl
  split
  · split
    · refine keeps_ite rfl ?_
      refine keeps_ite ?_ (canonical_nextClause hc)
      split
      · exact canonical_updCur hc
      · exact hc
    · rfl
  · rfl

theorem canonical_execClauseWaitRelease {s : State} (hc : s.canonical = true) : canonicalNext (execClauseWaitRelease s) = true := by
  unfold execClauseWaitRelease
  split
  · rfl
  split
  · rfl
  split
  · exact keeps_ite (canonical_updCur hc) (keeps_ite (canonical_makeReady hc) rfl)
  · rfl

/-! ## Results -/

theorem canonical_writeLanes {e : Env} {s : State} {x : Nat → W32} (hc : s.canonical = true) : (writeLanes e s x).canonical = true :=
  canonical_updCur hc

theorem canonical_writePair {e : Env} {s : State} {x : Nat → Word} (hc : s.canonical = true) : (writePair e s x).canonical = true :=
  canonical_updCur hc

theorem canonical_writeScalar {e : Env} {s : State} {x : Word} (hc : s.canonical = true) : (writeScalar e s x).canonical = true :=
  keeps_ite hc (canonical_setScalar hc)

theorem canonical_writePred {e : Env} {s : State} {k : Nat} {x : Nat → Bool} (hc : s.canonical = true) :
    (writePred e s k x).canonical = true :=
  canonical_updCur hc

theorem canonical_laneOrScalar {e : Env} {s : State} {uni : Word} {lane : Nat → W32} (hc : s.canonical = true) :
    (laneOrScalar e s uni lane).canonical = true :=
  keeps_ite (canonical_writeScalar hc) (canonical_writeLanes hc)

/-! ## Divergence -/

theorem canonical_jumpTo {s : State} {a : AgentRef} {va : Nat} (hc : s.canonical = true) : (jumpTo s a va).canonical = true := canonical_updPath hc

theorem canonical_pushLevel {s : State} {e : Env} {d : DivLevel} (hc : s.canonical = true) : (pushLevel s e d).canonical = true := by
  refine keeps_ite (canonical_updCur hc) ?_
  split
  · exact canonical_updCur hc
  split
  split
  · exact canonical_scrPuts (State.canonical_of_eq hc rfl rfl rfl)
  · exact canonical_updCur hc

theorem canonical_split {s : State} {e : Env} {t : W32} {tVa : Nat} {f : W32} {fVa recon : Nat} (hc : s.canonical = true) :
    (split s e t tVa f fVa recon).canonical = true := by
  refine keeps_ite (canonical_updCur (canonical_pushLevel (State.canonical_of_eq hc rfl rfl rfl))) ?_
  exact canonical_updCur (canonical_pushLevel (State.canonical_of_eq hc rfl rfl rfl))

theorem canonical_branchTo {s : State} {e : Env} {va : Nat} {join : Int} (hc : s.canonical = true) :
    (branchTo s e va join).canonical = true :=
  keeps_ite hc (keeps_ite (canonical_jumpTo hc) (canonical_split hc))

end Sys2Proof.Machine
end

section
/-!
PROOF. Storage stays canonical: accesses as they are performed, and the words of loads, stores and the sequencer.
-/

namespace Sys2Proof.Machine

/-! ## Loads, stores and atomics as they are performed -/

theorem canonical_writeLoaded {s : State} {o : Op} {lane v : Nat} (hc : s.canonical = true) : (writeLoaded s o lane v).canonical = true :=
  canonical_updWave hc

theorem canonical_writeTile {s : State} {o : Op} (hc : s.canonical = true) : (writeTile s o).canonical = true := by
  unfold writeTile
  split
  · split
    · exact canonical_updWave hc
    · exact hc
  · exact hc

theorem canonical_settleOp {s : State} {id : Nat} (hc : s.canonical = true) : (settleOp s id).canonical = true := by
  unfold settleOp
  split
  · exact hc
  · exact keeps_ite hc (keeps_ite (canonical_lower (canonical_updOp (canonical_writeTile hc))) (canonical_updOp hc))

theorem canonical_noteAccess {s : State} {c : Context} {seat : Nat} {va pa pte : Nat} {k : AccKind} (hc : s.canonical = true) :
    (noteAccess s c seat va pa pte k).canonical = true :=
  keeps_ite hc (canonical_noteAlias hc)

theorem canonical_performLoad {s : State} {o : Op} {x : Access} (hc : s.canonical = true) : canonicalSome (performLoad s o x) = true := by
  unfold performLoad
  split
  · rfl
  refine keeps_ite rfl ?_
  refine keeps_ite ?_ ?_
  · split
    · exact canonical_markFault hc
    · exact keeps_ite (canonical_markFault hc) (canonical_settleOp (canonical_updAcc (canonical_writeLoaded hc)))
  · dsimp only
    split
    · refine keeps_ite ?_ ?_
      · refine canonical_updAcc (keeps_ite (canonical_updWave (canonical_grantCopies (canonical_noteAccess hc))) ?_)
        exact canonical_grantCopies (canonical_noteAccess hc)
      · refine canonical_settleOp (canonical_updAcc ?_)
        refine canonical_writeLoaded (keeps_ite (canonical_updWave (canonical_grantCopies (canonical_noteAccess hc))) ?_)
        exact canonical_grantCopies (canonical_noteAccess hc)
    · exact canonical_failAccess hc

theorem canonical_raiseHorizon {s : State} {tid wave t : Nat} (hc : s.canonical = true) : (raiseHorizon s tid wave t).canonical = true :=
  canonical_updWave hc

theorem canonical_enterAs {s : State} {tid wave pa n die : Nat} {bs : List Byte} {e : VersionWrite} (hc : s.canonical = true) :
    (enterAs s tid wave pa n die bs e).canonical = true :=
  canonical_updWave hc

theorem canonical_enterVersion {s : State} {tid wave pa die : Nat} {bs : List Byte} (hc : s.canonical = true) :
    (enterVersion s tid wave pa die bs).canonical = true :=
  canonical_enterAs hc

theorem canonical_bufferDet {s : State} {o : Op} {x : Access} {pa : Nat} {last : Bool} (hc : s.canonical = true) :
    (bufferDet s o x pa last).canonical = true :=
  canonical_updTeam hc

theorem canonical_storePiece {s : State} {o : Op} {t : Team} {c : Context} {x : Access} {pa pte : Nat} (hc : s.canonical = true) :
    (storePiece s o t c x pa pte).canonical = true := by
  refine keeps_ite ?_ ?_
  · refine canonical_updAcc (canonical_updOp ?_)
    refine keeps_ite (canonical_raiseHorizon (canonical_fst_foldl (fun _ _ h => canonical_homePiece h) (canonical_noteLine hc))) ?_
    exact canonical_fst_foldl (fun _ _ h => canonical_homePiece h) (canonical_noteLine hc)
  · refine canonical_settleOp (canonical_updAcc (canonical_updOp ?_))
    refine keeps_ite (canonical_raiseHorizon (canonical_fst_foldl (fun _ _ h => canonical_homePiece h) (canonical_noteLine hc))) ?_
    exact canonical_fst_foldl (fun _ _ h => canonical_homePiece h) (canonical_noteLine hc)

theorem canonical_performStore {s : State} {o : Op} {x : Access} (hc : s.canonical = true) : canonicalSome (performStore s o x) = true := by
  unfold performStore
  split
  · rfl
  refine keeps_ite rfl ?_
  refine keeps_ite ?_ ?_
  · split
    · exact canonical_markFault hc
    refine keeps_ite (canonical_settleOp (canonical_bufferDet (canonical_updAcc hc))) ?_
    refine canonical_settleOp (canonical_updAcc (keeps_ite (canonical_raiseHorizon (canonical_updOp (canonical_scrPuts hc))) ?_))
    exact canonical_updOp (canonical_scrPuts hc)
  · split
    · dsimp only
      split
      · exact canonical_settleOp (canonical_bufferDet (canonical_updAcc (canonical_noteAccess hc)))
      · exact canonical_failAccess hc
    · split
      · dsimp only
        split
        · split
          · exact canonical_markFault hc
          · exact canonical_settleOp (canonical_updAcc (canonical_enterVersion (canonical_noteAccess hc)))
        · exact canonical_failAccess hc
      · dsimp only
        split
        · exact keeps_ite rfl (canonical_storePiece (canonical_noteAccess hc))
        · exact canonical_failAccess hc

theorem canonical_atomDest {s : State} {o : Op} {lane n v : Nat} (hc : s.canonical = true) : (atomDest s o lane n v).canonical = true := by
  unfold atomDest
  split
  · exact canonical_updWave hc
  · exact hc

theorem canonical_enterAtomic {s : State} {w : Wave} {o : Op} {f : AtomFn} {x : Access} {pa die : Nat} (hc : s.canonical = true) :
    (enterAtomic s w o f x pa die).canonical = true :=
  canonical_enterAs hc

theorem canonical_atomicHome {s : State} {op : Nat} {leased : Bool} {pa n : Nat} {x1 : Option Nat} (hc : s.canonical = true) :
    (atomicHome s op leased pa n x1).1.canonical = true := by
  unfold atomicHome
  split
  · exact canonical_storeHome hc
  · exact State.canonical_of_eq hc rfl rfl rfl

theorem canonical_performAtomic {s : State} {o : Op} {f : AtomFn} {x : Access} (hc : s.canonical = true) :
    canonicalSome (performAtomic s o f x) = true := by
  unfold performAtomic
  split
  · rfl
  refine keeps_ite rfl ?_
  refine keeps_ite ?_ ?_
  · split
    · exact canonical_markFault hc
    refine keeps_ite (canonical_markFault hc) ?_
    refine keeps_ite (canonical_markFault hc) ?_
    refine keeps_ite (canonical_bufferDet hc) ?_
    refine canonical_settleOp (canonical_updAcc (canonical_updOp (canonical_raiseHorizon ?_)))
    split
    · exact canonical_scrPuts hc
    · exact hc
  · split
    · refine keeps_ite (canonical_markFault hc) ?_
      refine keeps_ite (canonical_bufferDet (canonical_noteAccess hc)) ?_
      split
      · split
        · exact canonical_markFault hc
        · exact canonical_settleOp (canonical_updAcc (canonical_enterAtomic (canonical_noteAccess hc)))
      · refine canonical_settleOp (canonical_updAcc (canonical_updOp (canonical_raiseHorizon ?_)))
        split
        · exact canonical_storeHome (canonical_leaveHome (canonical_noteAccess hc))
        · exact State.canonical_of_eq (canonical_leaveHome (canonical_noteAccess hc)) rfl rfl rfl
    · exact canonical_failAccess hc

theorem canonical_performEach {s : State} {id : Nat} {sel : Access → Bool} {one : State → Op → Access → Option State} (hc : s.canonical = true)
    (ho : ∀ s o x, s.canonical = true → canonicalSome (one s o x) = true) : canonicalSome (performEach s id sel one) = true := by
  unfold performEach
  split
  · rfl
  · refine canonicalSome_foldl (fun m x hm => ?_) rfl
    have hs : (m.getD s).canonical = true := canonical_getD hm hc
    dsimp only
    split
    · exact hm
    · split
      · exact hm
      · split
        · exact hm
        · split
          · exact canonical_of_some (ho _ _ _ hs) ‹_›
          · exact hm

theorem canonical_writeAtomLanes {s : State} {o : Op} {p : Access → Bool} (hc : s.canonical = true) :
    (writeAtomLanes s o p).canonical = true :=
  canonical_updOp (canonical_foldl (fun _ _ h => canonical_atomDest h) hc)

theorem canonical_completeOp {s : State} {o : Op} (hc : s.canonical = true) : (completeOp s o).canonical = true :=
  canonical_lower (canonical_updOp (keeps_ite (canonical_writeAtomLanes hc) hc))

/-! ## Handles -/

theorem canonical_handleFault {code : Code} {sub : Nat} {h : Word} : (handleFault code sub h).canonical = true := canonical_faulting

/-! ## The words of loads and stores -/

theorem canonical_issueMem {s : State} {e : Env} {cn : Option Nat} {kind : OpKind} {accs : List Access} (hc : s.canonical = true) :
    (issueMem s e cn kind accs).canonical = true := by
  refine keeps_ite (canonical_tryAgain hc) ?_
  refine keeps_ite (canonical_updCur hc) ?_
  exact keeps_ite (canonical_updCur (canonical_lower (canonical_pushOp hc))) (canonical_lower (canonical_pushOp hc))

theorem canonical_issuePlan {i : Instr} {cn : Option Nat} {s : State} (hc : s.canonical = true) :
    canonicalNext (issuePlan i cn s) = true := by
  refine canonical_issue hc (fun _ => ?_)
  split
  · exact canonical_issueMem hc
  · exact hc

theorem canonical_execLd {f : Fields} {s : State} (hc : s.canonical = true) : canonicalNext (execLd f s) = true := canonical_issuePlan hc
theorem canonical_execSt {f : Fields} {s : State} (hc : s.canonical = true) : canonicalNext (execSt f s) = true := canonical_issuePlan hc
theorem canonical_execLds {f : Fields} {s : State} (hc : s.canonical = true) : canonicalNext (execLds f s) = true := canonical_issuePlan hc
theorem canonical_execSts {f : Fields} {s : State} (hc : s.canonical = true) : canonicalNext (execSts f s) = true := canonical_issuePlan hc
theorem canonical_execAtom {f : Fields} {s : State} (hc : s.canonical = true) : canonicalNext (execAtom f s) = true := canonical_issuePlan hc
theorem canonical_execAcas {f : Fields} {s : State} (hc : s.canonical = true) : canonicalNext (execAcas f s) = true := canonical_issuePlan hc
theorem canonical_execAtoms {f : Fields} {s : State} (hc : s.canonical = true) : canonicalNext (execAtoms f s) = true := canonical_issuePlan hc
theorem canonical_execLdu {f : Fields} {s : State} (hc : s.canonical = true) : canonicalNext (execLdu f s) = true := canonical_issuePlan hc
theorem canonical_execAmaxu {f : Fields} {s : State} (hc : s.canonical = true) : canonicalNext (execAmaxu f s) = true := canonical_issuePlan hc
theorem canonical_execAmaxswap {f : Fields} {s : State} (hc : s.canonical = true) : canonicalNext (execAmaxswap f s) = true := canonical_issuePlan hc
theorem canonical_execLdb {f : Fields} {s : State} (hc : s.canonical = true) : canonicalNext (execLdb f s) = true := canonical_issuePlan hc
theorem canonical_execStb {f : Fields} {s : State} (hc : s.canonical = true) : canonicalNext (execStb f s) = true := canonical_issuePlan hc
theorem canonical_quantumStop {s : State} {e : Env} (hc : s.canonical = true) : (quantumStop s e).canonical = true := canonical_updCur hc

theorem canonical_execFence {f : Fields} {s : State} (hc : s.canonical = true) : canonicalNext (execFence f s) = true :=
  canonical_issue hc (fun _ => keeps_ite (canonical_quantumStop hc) (keeps_ite hc (canonical_tryAgain hc)))

theorem canonical_execWaitc {f : Fields} {s : State} (hc : s.canonical = true) : canonicalNext (execWaitc f s) = true :=
  canonical_issue hc (fun _ => keeps_ite hc (canonical_tryAgain hc))

theorem canonical_prefetch {e : Env} {lvl : Nat} {s : State} {l : Nat} (hc : s.canonical = true) :
    (prefetch e lvl s l).canonical = true := by
  unfold prefetch
  split
  · refine keeps_ite (canonical_grantCopies (canonical_noteAccess hc)) ?_
    exact keeps_ite (canonical_grantL2 (canonical_noteAccess hc)) (canonical_noteHome (canonical_noteAccess hc))
  · exact hc

theorem canonical_execPref {f : Fields} {s : State} (hc : s.canonical = true) : canonicalNext (execPref f s) = true :=
  canonical_issue hc (fun _ => canonical_foldl (fun _ _ h1 => canonical_prefetch h1) hc)

theorem canonical_execLnwb {f : Fields} {s : State} (hc : s.canonical = true) : canonicalNext (execLnwb f s) = true := canonical_issuePlan hc

theorem canonical_execRowopen {f : Fields} {s : State} (hc : s.canonical = true) : canonicalNext (execRowopen f s) = true := by
  refine canonical_issue hc (fun _ => ?_)
  refine keeps_ite (canonical_issueMem hc) ?_
  refine keeps_ite (canonical_tryAgain hc) ?_
  split
  all_goals
    dsimp only
    split
    · exact canonical_faulting
    · exact canonical_updCur (canonical_pushOp (keeps_ite hc (canonical_updTeam hc)))

theorem canonical_rowIssue {i : Instr} {f : Fields} {s : State} (hc : s.canonical = true) : canonicalNext (rowIssue i f s) = true := by
  refine canonical_issueWith hc (fun _ => ?_)
  split
  · exact canonical_issueMem hc
  · exact hc

theorem canonical_execRowld {f : Fields} {s : State} (hc : s.canonical = true) : canonicalNext (execRowld f s) = true := canonical_rowIssue hc
theorem canonical_execRowst {f : Fields} {s : State} (hc : s.canonical = true) : canonicalNext (execRowst f s) = true := canonical_rowIssue hc

theorem canonical_execRowrel {f : Fields} {s : State} (hc : s.canonical = true) : canonicalNext (execRowrel f s) = true := by
  refine canonical_issueWith hc (fun _ => ?_)
  dsimp only
  split
  · exact canonical_illegal
  refine keeps_ite (canonical_tryAgain hc) ?_
  split
  · exact canonical_updTeam hc
  · exact keeps_ite (canonical_updTeam hc) (canonical_freeHold (canonical_updTeam hc))

theorem canonical_execRowq {f : Fields} {s : State} (hc : s.canonical = true) : canonicalNext (execRowq f s) = true := by
  refine canonical_issue hc (fun _ => ?_)
  refine keeps_ite hc ?_
  split
  · dsimp only
    split
    · exact canonical_setScalar hc
    · exact canonical_updTeam (canonical_setScalar hc)
  · dsimp only
    split <;> exact canonical_setScalar hc

theorem canonical_execLdt {f : Fields} {s : State} (hc : s.canonical = true) : canonicalNext (execLdt f s) = true := by
  refine canonical_issue hc (fun _ => ?_)
  refine keeps_ite (canonical_tryAgain hc) ?_
  split
  · rfl
  · exact keeps_ite (canonical_parkAs hc) (canonical_issueMem hc)

theorem canonical_execStf {f : Fields} {s : State} (hc : s.canonical = true) : canonicalNext (execStf f s) = true := by
  refine canonical_issue hc (fun _ => ?_)
  refine keeps_ite (canonical_tryAgain hc) ?_
  split
  · rfl
  · exact canonical_issueMem hc

theorem canonical_readSources {s : State} {o : Op} {sel : Access → Bool} (hc : s.canonical = true) :
    (readSources s o sel).canonical = true :=
  canonical_updOp hc

/-! ## The words of the sequencer -/

theorem canonical_execBra {f : Fields} {s : State} (hc : s.canonical = true) : canonicalNext (execBra f s) = true :=
  canonical_issueWith hc (fun _ => canonical_branchTo hc)

theorem canonical_execBraFar {f : Fields} {s : State} (hc : s.canonical = true) : canonicalNext (execBraFar f s) = true :=
  canonical_issue hc (fun _ => keeps_ite hc (canonical_jumpTo hc))

theorem canonical_toOffset {e : Env} {v : Word} {go : Nat → Verdict} (hg : ∀ n, (go n).canonical = true) :
    (toOffset e v go).canonical = true :=
  keeps_ite rfl (hg _)

theorem canonical_execBrx {f : Fields} {s : State} (hc : s.canonical = true) : canonicalNext (execBrx f s) = true :=
  canonical_issueWith hc (fun _ => keeps_ite hc (canonical_toOffset (fun _ => canonical_branchTo hc)))

theorem canonical_execLoop {f : Fields} {s : State} (hc : s.canonical = true) : canonicalNext (execLoop f s) = true :=
  canonical_issue hc (fun _ => keeps_ite hc (keeps_ite (canonical_setScalar hc) (canonical_jumpTo (canonical_setScalar hc))))

theorem canonical_execCall {f : Fields} {s : State} (hc : s.canonical = true) : canonicalNext (execCall f s) = true :=
  canonical_issueWith hc (fun _ => keeps_ite hc (canonical_jumpTo (canonical_setScalar (canonical_updCur hc))))

theorem canonical_execIcall {f : Fields} {s : State} (hc : s.canonical = true) : canonicalNext (execIcall f s) = true := by
  refine canonical_issueWith hc (fun _ => ?_)
  refine keeps_ite hc ?_
  split
  · exact canonical_updPath (canonical_setScalar (canonical_updCur hc))
  split
  · exact hc
  · exact canonical_updCur (canonical_pushLevel (State.canonical_of_eq hc rfl rfl rfl))

theorem canonical_execRet {f : Fields} {s : State} (hc : s.canonical = true) : canonicalNext (execRet f s) = true := by
  refine canonical_issueWith hc (fun _ => ?_)
  refine canonical_toOffset (fun _ => ?_)
  split
  · exact keeps_ite (canonical_updCur hc) (canonical_jumpTo hc)
  · exact canonical_jumpTo hc

theorem canonical_joinCont {s : State} {e : Env} {l : Nat} (hc : s.canonical = true) : (joinCont s e l).canonical = true := by
  unfold joinCont
  split
  · exact hc
  split
  · exact hc
  · exact keeps_ite (canonical_updCur hc) hc

theorem canonical_joinMain {s : State} {e : Env} (hc : s.canonical = true) : (joinMain s e).canonical = true := by
  unfold joinMain
  split
  · exact hc
  refine keeps_ite ?_ hc
  split
  · exact canonical_updCur hc
  · exact canonical_waitAs hc

theorem canonical_execJoin {f : Fields} {s : State} (hc : s.canonical = true) : canonicalNext (execJoin f s) = true := by
  refine canonical_issueWith hc (fun _ => ?_)
  split
  · exact canonical_joinCont hc
  · exact canonical_joinMain hc

theorem canonical_execEject {f : Fields} {s : State} (hc : s.canonical = true) : canonicalNext (execEject f s) = true :=
  canonical_issueWith hc (fun _ => keeps_ite hc (canonical_updCur (canonical_pushLevel (State.canonical_of_eq hc rfl rfl rfl))))

theorem canonical_finishWait {s : State} {a : AgentRef} (hc : s.canonical = true) : (finishWait s a).canonical = true := by
  unfold finishWait
  dsimp only
  split
  · exact canonical_retire (canonical_updCur hc)
  · exact canonical_retireMoved (canonical_updPath (canonical_updCur hc))

theorem canonical_arriveAt {s : State} {e : Env} {id : Nat} {n : Option Nat} (hc : s.canonical = true) :
    (arriveAt s e id n).canonical = true := by
  refine keeps_ite (canonical_quantumStop hc) ?_
  exact keeps_ite (canonical_tryAgain hc) (keeps_ite (canonical_tryAgain hc) (canonical_waitAs (canonical_updTeam hc)))

theorem canonical_execBar {f : Fields} {s : State} (hc : s.canonical = true) : canonicalNext (execBar f s) = true :=
  canonical_issueWith hc (fun _ => canonical_arriveAt hc)

theorem canonical_execBarc {f : Fields} {s : State} (hc : s.canonical = true) : canonicalNext (execBarc f s) = true :=
  canonical_issueWith hc (fun _ => canonical_arriveAt hc)

theorem canonical_releaseWave {tid id : Nat} {s : State} {ix : Nat} (hc : s.canonical = true) :
    (releaseWave tid id s ix).canonical = true := by
  unfold releaseWave
  split
  · exact hc
  refine keeps_ite hc ?_
  refine keeps_ite (keeps_ite (canonical_makeReady (canonical_finishWait hc)) (canonical_finishWait hc)) ?_
  exact canonical_updWave hc

theorem canonical_execBarrierRelease {tid id : Nat} {s : State} (hc : s.canonical = true) :
    canonicalNext (execBarrierRelease tid id s) = true := by
  unfold execBarrierRelease
  split
  · rfl
  · exact keeps_ite rfl (canonical_foldl (fun _ _ h => canonical_releaseWave h) (canonical_updTeam hc))

theorem canonical_execJoinRelease {tid wave : Nat} {s : State} (hc : s.canonical = true) :
    canonicalNext (execJoinRelease tid wave s) = true := by
  unfold execJoinRelease
  split
  · split
    · exact keeps_ite rfl (canonical_updWave (canonical_retireMoved (canonical_updCur (canonical_updWave hc))))
    · rfl
  · rfl

theorem canonical_execWaitf {f : Fields} {s : State} (hc : s.canonical = true) : canonicalNext (execWaitf f s) = true :=
  canonical_issueWith hc (fun _ => keeps_ite hc (canonical_tryAgain hc))

theorem canonical_execSleep {f : Fields} {s : State} (hc : s.canonical = true) : canonicalNext (execSleep f s) = true :=
  canonical_issue hc (fun _ => keeps_ite hc (canonical_waitAs hc))

theorem canonical_execSleepWake {tid wave : Nat} {s : State} (hc : s.canonical = true) :
    canonicalNext (execSleepWake tid wave s) = true := by
  unfold execSleepWake
  split
  · rfl
  split
  · exact keeps_ite (canonical_makeReady (canonical_finishWait hc)) rfl
  · rfl

theorem canonical_execYield {f : Fields} {s : State} (hc : s.canonical = true) : canonicalNext (execYield f s) = true :=
  canonical_issue hc (fun _ => keeps_ite (canonical_updCur hc) hc)

theorem canonical_execExit {f : Fields} {s : State} (hc : s.canonical = true) : canonicalNext (execExit f s) = true := by
  refine canonical_issueWith hc (fun _ => ?_)
  refine keeps_ite canonical_faulting ?_
  refine keeps_ite hc ?_
  refine keeps_ite (canonical_endWave hc) ?_
  refine keeps_ite (canonical_checkTeamEnd (canonical_breakGangs (canonical_endWave (canonical_updCur hc)))) ?_
  exact keeps_ite (canonical_updCur hc) (canonical_updCur (State.canonical_of_eq hc rfl rfl rfl))

theorem canonical_execRegget {f : Fields} {s : State} (hc : s.canonical = true) : canonicalNext (execRegget f s) = true :=
  canonical_issueWith hc (fun _ => canonical_waitAs hc)

theorem canonical_execReggetGrant {tid wave : Nat} {s : State} (hc : s.canonical = true) :
    canonicalNext (execReggetGrant tid wave s) = true := by
  unfold execReggetGrant
  split
  · split
    · exact keeps_ite rfl (canonical_makeReady (canonical_finishWait (canonical_updWave hc)))
    · rfl
  · rfl

theorem canonical_execRegput {f : Fields} {s : State} (hc : s.canonical = true) : canonicalNext (execRegput f s) = true :=
  canonical_issueWith hc (fun _ => keeps_ite hc (keeps_ite (canonical_tryAgain hc) (canonical_updCur hc)))

theorem canonical_execTbegin {f : Fields} {s : State} (hc : s.canonical = true) : canonicalNext (execTbegin f s) = true :=
  canonical_issueWith hc (fun _ => keeps_ite canonical_faulting (keeps_ite (canonical_quantumStop hc) (canonical_updCur hc)))

theorem canonical_leaveForAtomics {s : State} {tid : Nat} {k : Task} (hc : s.canonical = true) :
    (leaveForAtomics s tid k).canonical = true := by
  unfold leaveForAtomics
  split
  · exact hc
  refine canonical_foldl (fun _ _ h => ?_) hc
  split
  · exact h
  split
  · exact canonical_leaveAt h
  · exact h

theorem canonical_commitTask {s : State} {tid wave : Nat} {k : Task} {c : Nat} (hc : s.canonical = true) :
    (commitTask s tid wave k c).canonical = true := by
  refine canonical_settle (canonical_updWave (canonical_withOps (canonical_foldl (fun _ _ h => canonical_withLineT h) ?_)))
  refine canonical_foldl (fun _ _ h => canonical_withHomeStores h) ?_
  exact canonical_foldl (fun _ _ h => canonical_updAcc h) (canonical_leaveForAtomics hc)

theorem canonical_execTend {f : Fields} {s : State} (hc : s.canonical = true) : canonicalNext (execTend f s) = true := by
  refine canonical_issue hc (fun _ => ?_)
  split
  · exact canonical_faulting
  split
  · exact keeps_ite (canonical_tryAgain hc) (canonical_updCur hc)
  refine keeps_ite (canonical_tryAgain hc) ?_
  exact keeps_ite (canonical_quantumStop hc) (canonical_tryAgain (canonical_commitTask hc))

theorem canonical_execTabort {f : Fields} {s : State} (hc : s.canonical = true) : canonicalNext (execTabort f s) = true := by
  refine canonical_issue hc (fun _ => ?_)
  split
  · exact canonical_faulting
  · exact keeps_ite (canonical_quantumStop hc) (canonical_updCur (canonical_discardTask hc))

theorem canonical_execDiehops {f : Fields} {s : State} (hc : s.canonical = true) : canonicalNext (execDiehops f s) = true :=
  canonical_issue hc (fun _ => canonical_writeScalar hc)

theorem canonical_execSignal {f : Fields} {s : State} (hc : s.canonical = true) : canonicalNext (execSignal f s) = true := by
  refine canonical_issue hc (fun _ => ?_)
  refine keeps_ite hc ?_
  refine keeps_ite canonical_faulting ?_
  exact keeps_ite (canonical_quantumStop hc) (keeps_ite (canonical_tryAgain hc) (canonical_issueMem hc))

theorem canonical_execWaits {f : Fields} {s : State} (hc : s.canonical = true) : canonicalNext (execWaits f s) = true :=
  canonical_issue hc (fun _ => keeps_ite hc (keeps_ite canonical_faulting (canonical_waitAs hc)))

theorem canonical_waitFault {s : State} {e : Env} {va : Int} {n : Nat} {r : AccRes} (hc : s.canonical = true) :
    (waitFault s e va n r).canonical = true := by
  unfold waitFault
  split
  · exact hc
  · exact canonical_updCur (canonical_noteFault hc)
  · exact canonical_deliver hc

theorem canonical_execWaitsReload {tid wave : Nat} {s : State} (hc : s.canonical = true) :
    canonicalNext (execWaitsReload tid wave s) = true := by
  unfold execWaitsReload
  split
  · split
    · refine keeps_ite rfl ?_
      refine keeps_ite (keeps_ite (canonical_makeReady (canonical_finishWait hc)) rfl) ?_
      split
      · refine keeps_ite (canonical_updCur (canonical_setScalar (canonical_grantCopies (canonical_noteAccess hc)))) ?_
        exact canonical_updCur (canonical_grantCopies (canonical_noteAccess hc))
      · exact canonical_waitFault hc
    · rfl
  · rfl

end Sys2Proof.Machine
end

section
/-!
PROOF. Storage stays canonical: queues and packets, rows and refreshes, sweeps and placement.
-/

namespace Sys2Proof.Machine

/-! ## Queues and packets -/

theorem canonical_pageWait {s : State} {q : Queue} {va kind : Nat} {r : AccRes} {w : Waiter} (hc : s.canonical = true) :
    (pageWait s q va kind r w).canonical = true := by
  unfold pageWait
  split
  · exact canonical_noteFault hc
  · exact hc

theorem canonical_updGraph {s : State} {q : QRef} {seq : Nat} {g : Graph → Graph} (hc : s.canonical = true) :
    (updGraph s q seq g).canonical = true :=
  State.canonical_of_eq hc rfl rfl rfl

theorem canonical_updNode {s : State} {q : QRef} {seq k : Nat} {g : GraphNode → GraphNode} (hc : s.canonical = true) :
    (updNode s q seq k g).canonical = true :=
  canonical_updGraph hc

theorem canonical_countDone {q : QRef} {seq n : Nat} {p : Option Nat} {s : State} (hc : s.canonical = true) :
    (countDone q seq n p s).canonical = true := by
  induction n generalizing seq p s with
  | zero =>
    cases p with
    | none => exact canonical_updQueue hc
    | some p => exact hc
  | succ n ih =>
    cases p with
    | none => exact canonical_updQueue hc
    | some p =>
      unfold countDone
      dsimp only
      split
      · split
        · exact canonical_updQueue hc
        · exact ih (canonical_updQueue (canonical_updQueue hc))
      · exact canonical_updQueue hc

theorem canonical_completePkt {s : State} {p : PktRef} (hc : s.canonical = true) : (completePkt s p).canonical = true := by
  unfold completePkt
  split
  · exact hc
  split
  · exact hc
  split
  all_goals
    split
    all_goals
      split
      · exact canonical_updNode (canonical_updQueue hc)
      · exact canonical_countDone (canonical_updQueue hc)

theorem canonical_failPkt {s : State} {p : PktRef} {code sub xaddr : Nat} (hc : s.canonical = true) :
    (failPkt s p code sub xaddr).canonical = true :=
  canonical_completePkt (canonical_postError hc)

theorem canonical_takePkt {s : State} {r : RawPkt} (hc : s.canonical = true) : (takePkt s r).canonical = true := by
  unfold takePkt
  split
  · exact canonical_updQueue hc
  · exact canonical_updNode hc

theorem canonical_refuseWith {s : State} {r : RawPkt} {code sub xaddr : Nat} (hc : s.canonical = true) :
    (refuseWith s r code sub xaddr).canonical = true := by
  unfold refuseWith
  split
  · exact canonical_countDone (canonical_takePkt (canonical_postError hc))
  · exact canonical_updGraph (canonical_updNode (canonical_takePkt (canonical_postError hc)))

theorem canonical_refusePkt {s : State} {r : RawPkt} {sub : Nat} (hc : s.canonical = true) : (refusePkt s r sub).canonical = true :=
  canonical_refuseWith hc

theorem canonical_logPacket {s : State} {q : Queue} {r : RawPkt} {tag : Nat} {plain : Bool} (hc : s.canonical = true) :
    (logPacket s q r tag plain).canonical = true :=
  canonical_logAppend hc

theorem canonical_logBody {s : State} {q : Queue} {r : RawPkt} {k tag : Nat} {plain : Bool} (hc : s.canonical = true) :
    (logBody s q r k tag plain).canonical = true :=
  keeps_ite hc (canonical_logAppend hc)

theorem canonical_startPkt {s : State} {q : Queue} {r : RawPkt} {tag : Nat} {plain : Bool} (hc : s.canonical = true) :
    (startPkt s q r tag plain).canonical = true := by
  refine canonical_updQueue ?_
  split
  · exact keeps_ite (canonical_takePkt hc) (canonical_logPacket (canonical_takePkt hc))
  · exact canonical_logBody (canonical_updNode (canonical_takePkt hc))

theorem canonical_updStarted {s : State} {p : PktRef} {g : StartedPkt → StartedPkt} (hc : s.canonical = true) :
    (updStarted s p g).canonical = true :=
  canonical_updQueue hc

theorem canonical_failHead {s : State} {q : Queue} {r : RawPkt} {code sub xaddr : Nat} (hc : s.canonical = true) :
    (failHead s q r code sub xaddr).canonical = true :=
  canonical_failPkt (canonical_startPkt hc)

theorem canonical_logStops {s : State} {q : Queue} {r : RawPkt} {va : Nat} {x : AccRes} (hc : s.canonical = true) :
    (logStops s q r va x).canonical = true := by
  unfold logStops
  split
  · exact canonical_pageWait hc
  · exact canonical_failHead (canonical_updQueue hc)
  · exact hc

theorem canonical_onPacket {i : Instr} {p : PktRef} {s : State} {body : Queue → RawPkt → State} (hc : s.canonical = true)
    (hb : ∀ q r, (body q r).canonical = true) : canonicalNext (onPacket i p s body) = true := by
  unfold onPacket
  split
  · rfl
  refine keeps_ite ?_ rfl
  split
  · exact canonical_logStops hc
  · exact hb _ _

theorem canonical_execNopPacket {p : PktRef} {s : State} (hc : s.canonical = true) : canonicalNext (execNopPacket p s) = true :=
  canonical_onPacket hc (fun _ _ => canonical_completePkt (canonical_startPkt hc))

theorem canonical_withRecord {s : State} {q : Queue} {go : Queue → Nat → State} (hc : s.canonical = true)
    (hg : ∀ q u, (go q u).canonical = true) : (withRecord s q go).canonical = true := by
  unfold withRecord
  split
  · refine keeps_ite hc ?_
    refine keeps_ite (canonical_postAdmin (State.canonical_of_eq hc rfl rfl rfl)) ?_
    exact canonical_postError (canonical_updQueue hc)
  · exact canonical_pageWait hc
  · exact keeps_ite hc (canonical_haltQueue (canonical_updQueue hc))
  · exact canonical_queueNoted (hg _ _)

theorem canonical_acceptPkt {s : State} {q : Queue} {va : Nat} {bs : List Byte} {parent tag : Option Nat} {inner : Bool} (hc : s.canonical = true) :
    (acceptPkt s q va bs parent tag inner).canonical = true := by
  unfold acceptPkt
  split
  all_goals
    dsimp only
    split
    · exact canonical_refusePkt (canonical_updQueue hc)
    · exact canonical_updQueue hc

theorem canonical_readRingPkt {s : State} {q0 : Queue} (hc : s.canonical = true) : canonicalSome (readRingPkt s q0) = true := by
  refine keeps_ite rfl ?_
  refine canonical_withRecord hc (fun _ _ => ?_)
  dsimp only
  split
  · exact canonical_pageWait hc
  · exact canonical_haltQueue hc
  refine keeps_ite hc ?_
  split
  · exact canonical_haltQueue hc
  · exact canonical_acceptPkt (canonical_storeAfter (canonical_updQueue (canonical_queueNoted hc)))

theorem canonical_dropReader {s : State} {q : Queue} {r : Reader} (hc : s.canonical = true) : (dropReader s q r).canonical = true :=
  canonical_countDone (canonical_updQueue hc)

theorem canonical_updReader {s : State} {q : Queue} {r : Reader} {g : Reader → Reader} (hc : s.canonical = true) :
    (updReader s q r g).canonical = true :=
  canonical_updQueue hc

theorem canonical_takeFromLine {s : State} {q : Queue} {r : Reader} {line : List Byte} (hc : s.canonical = true) :
    (takeFromLine s q r line).canonical = true :=
  canonical_acceptPkt (canonical_updReader hc)

theorem canonical_readBuffer {s : State} {q0 : Queue} {r : Reader} (hc : s.canonical = true) : (readBuffer s q0 r).canonical = true := by
  refine canonical_withRecord hc (fun _ _ => ?_)
  refine keeps_ite (canonical_takeFromLine hc) ?_
  dsimp only
  split
  · exact canonical_pageWait hc
  · exact canonical_haltQueue hc
  · exact canonical_takeFromLine (canonical_queueNoted hc)

theorem canonical_logFails {s : State} {q : Queue} {r : Reader} {va : Nat} {x : AccRes} (hc : s.canonical = true) :
    (logFails s q r va x).canonical = true := by
  unfold logFails
  split
  · exact canonical_dropReader hc
  split
  · exact canonical_pageWait hc
  · exact canonical_failPkt hc
  · exact hc

theorem canonical_readLogged {s : State} {q0 : Queue} {r : Reader} (hc : s.canonical = true) : (readLogged s q0 r).canonical = true := by
  refine canonical_withRecord hc (fun _ _ => ?_)
  split
  · exact canonical_logFails hc
  split
  · exact canonical_dropReader hc
  split
  · exact canonical_dropReader (canonical_queueNoted hc)
  · exact canonical_dropReader (canonical_queueNoted hc)
  · exact canonical_updReader (canonical_queueNoted hc)
  · exact canonical_updReader (canonical_queueNoted hc)
  · exact canonical_updReader (canonical_queueNoted hc)
  · exact canonical_updReader (canonical_queueNoted hc)
  dsimp only
  split
  · exact canonical_logFails (canonical_queueNoted hc)
  refine keeps_ite (canonical_updReader (canonical_queueNoted hc)) ?_
  exact canonical_acceptPkt (canonical_updReader (canonical_queueNoted hc))

theorem canonical_readOne {s : State} {q : Queue} (hc : s.canonical = true) : canonicalSome (readOne s q) = true := by
  unfold readOne
  split
  · exact keeps_ite (canonical_dropReader hc) (keeps_ite (canonical_readLogged hc) (canonical_readBuffer hc))
  · exact canonical_readRingPkt hc

theorem canonical_readAhead {ref : QRef} {n : Nat} {s : State} (hc : s.canonical = true) : (readAhead ref n s).canonical = true := by
  induction n generalizing s with
  | zero => exact hc
  | succ n ih =>
    unfold readAhead
    split
    · exact hc
    · split
      · split
        · exact ih (canonical_of_some (canonical_readOne hc) ‹_›)
        · exact hc
      · exact hc

theorem canonical_serveWake {s : State} {q : Queue} (hc : s.canonical = true) : (serveWake s q).canonical = true := by
  refine keeps_ite (canonical_updQueue hc) ?_
  refine canonical_withRecord hc (fun _ _ => ?_)
  dsimp only
  split
  · exact canonical_readAhead (canonical_updQueue hc)
  · exact canonical_updQueue hc

theorem canonical_wakeQueue {s : State} {q : Queue} (hc : s.canonical = true) : (wakeQueue s q).canonical = true :=
  keeps_ite (canonical_updQueue hc) (canonical_updQueue hc)

theorem canonical_execWakeWrite {r : QRef} {s : State} (hc : s.canonical = true) : canonicalNext (execWakeWrite r s) = true := by
  unfold execWakeWrite
  split
  · rfl
  · exact keeps_ite (canonical_updQueue hc) (keeps_ite (canonical_updQueue hc) (canonical_serveWake (canonical_updQueue hc)))

theorem canonical_noteWake {h : HomeStore} {s : State} {q : Queue} (hc : s.canonical = true) : (noteWake h s q).canonical = true := by
  unfold noteWake
  split
  · refine keeps_ite ?_ hc
    refine canonical_wakeQueue ?_
    split
    · exact canonical_updQueue hc
    · exact hc
  · exact hc

theorem canonical_noteWakes {s : State} {due : List HomeStore} (hc : s.canonical = true) : (noteWakes s due).canonical = true :=
  canonical_foldl (fun _ _ h => canonical_foldl (fun _ _ h1 => canonical_noteWake h1) h) hc

theorem canonical_testWord {s : State} {p : PktRef} {v : Word} {x : Nat} (hc : s.canonical = true) :
    (testWord s p v x).canonical = true :=
  keeps_ite (canonical_completePkt hc) hc

theorem canonical_reloadWord {s : State} {q : Queue} {e : StartedPkt} (hc : s.canonical = true) : (reloadWord s q e).canonical = true := by
  unfold reloadWord
  split
  · exact canonical_testWord (canonical_updStarted (canonical_queueNoted hc))
  · exact canonical_pageWait hc
  · exact canonical_failPkt hc

theorem canonical_signalWord {s : State} {pa : Nat} (hc : s.canonical = true) : (signalWord s pa).canonical = true :=
  canonical_foldl (fun _ _ h => keeps_ite h (keeps_ite (canonical_updQueue h) (canonical_foldl (fun _ _ h1 => canonical_reloadWord h1) h))) hc

theorem canonical_dropSweep {s : State} {r : SweepRef} (hc : s.canonical = true) : (dropSweep s r).canonical = true :=
  State.canonical_of_eq hc rfl rfl rfl

theorem canonical_finishSweeps {s : State} (hc : s.canonical = true) : (finishSweeps s).canonical = true :=
  canonical_foldl (fun _ _ h => keeps_ite (canonical_completePkt (canonical_dropSweep h)) h) hc

theorem canonical_finishDue {s : State} (hc : s.canonical = true) : (finishDue s).canonical = true := by
  refine canonical_foldl (fun _ _ h => ?_) hc
  refine canonical_foldl (fun _ _ h1 => ?_) h
  split
  · refine keeps_ite ?_ h1
    refine canonical_completePkt ?_
    refine keeps_ite ?_ h1
    split
    · exact canonical_signalWord h1
    · exact h1
  · exact h1

theorem canonical_flushErrors {s : State} {q : Queue} (hc : s.canonical = true) : (flushErrors s q).canonical = true := by
  refine keeps_ite hc ?_
  dsimp only
  split
  · exact canonical_sendRecords (canonical_updQueue hc)
  refine keeps_ite (canonical_foldl (fun _ _ h => canonical_postAdmin h) (canonical_updQueue (canonical_sendRecords (canonical_updQueue hc)))) ?_
  split
  · exact canonical_pageWait (canonical_sendRecords (canonical_updQueue hc))
  · exact canonical_sendRecords (canonical_updQueue hc)

theorem canonical_writeDone {s : State} {q : Queue} (hc : s.canonical = true) : (writeDone s q).canonical = true := by
  refine keeps_ite hc ?_
  split
  · exact canonical_updQueue (canonical_storeAfter (canonical_queueNoted hc))
  · exact keeps_ite (canonical_updQueue hc) (canonical_pageWait hc)
  · exact canonical_haltQueue (canonical_updQueue hc)

theorem canonical_writeFlags {s : State} {q : Queue} (hc : s.canonical = true) : (writeFlags s q).canonical = true :=
  keeps_ite hc (canonical_writeNow hc)

/-- Work on a queue that is there. -/
theorem canonical_onQueue {s : State} {r : QRef} {g : State → Queue → State} (hg : ∀ q, (g s q).canonical = true) (hc : s.canonical = true) :
    (match findQueue s r with | some q => g s q | none => s).canonical = true := by
  split
  · exact hg _
  · exact hc

theorem canonical_settleQueue {s : State} {r : QRef} (hc : s.canonical = true) : (settleQueue s r).canonical = true := by
  have hflushed := canonical_onQueue (r := r) (fun _ => canonical_flushErrors hc) hc
  have hdone := canonical_onQueue (r := r) (fun _ => canonical_writeDone hflushed) hflushed
  have hflags := canonical_onQueue (r := r) (fun _ => canonical_writeFlags hdone) hdone
  exact canonical_onQueue (g := fun s q => readAhead r (readFuel q) s) (fun _ => canonical_readAhead hflags) hflags

theorem canonical_settleQueues {s : State} (hc : s.canonical = true) : (settleQueues s).canonical = true :=
  canonical_foldl (fun _ _ h => canonical_settleQueue h) (canonical_finishDue (canonical_finishSweeps hc))

theorem canonical_enqNoted {s : State} {e : Env} {va n : Nat} (hc : s.canonical = true) : (enqNoted s e va n).canonical = true := by
  refine canonical_foldl (fun _ _ h => ?_) hc
  split
  · exact canonical_noteAlias h
  · exact h

theorem canonical_ringNoted {s : State} {q : Queue} {rbase rsize w n : Nat} (hc : s.canonical = true) :
    (ringNoted s q rbase rsize w n).canonical = true :=
  canonical_foldl (fun _ _ h => canonical_queueNoted h) (canonical_queueNoted hc)

theorem canonical_enqWrite {s : State} {e : Env} {u w : Nat} {slots : List Nat} {data : List Byte} (hc : s.canonical = true) :
    (enqWrite s e u w slots data).canonical = true := by
  refine canonical_storeAs (canonical_takeFree (canonical_storeAfter ?_))
  refine canonical_fst_foldl (a := (s, s.now)) (fun acc x h => ?_) hc
  exact canonical_storeAfter h

theorem canonical_submit {s : State} {e : Env} {num : Nat} {data : List Byte} (hc : s.canonical = true) :
    (submit s e num data).2.canonical = true := by
  unfold submit
  split
  · exact hc
  dsimp only
  split
  · exact hc
  split
  · exact hc
  split
  · exact hc
  split
  · exact canonical_pageWait hc
  · exact canonical_haltQueue hc
  split
  all_goals
    split
    · exact hc
    split
    · exact canonical_pageWait hc
    · exact canonical_haltQueue hc
    · exact hc
    · exact canonical_enqWrite (canonical_ringNoted hc)

theorem canonical_execEnq {f : Fields} {s : State} (hc : s.canonical = true) : canonicalNext (execEnq f s) = true := by
  refine canonical_issue hc fun e => ?_
  refine keeps_ite hc (keeps_ite canonical_faulting (keeps_ite (canonical_quantumStop hc) (keeps_ite (canonical_tryAgain hc) ?_)))
  split
  · exact canonical_waitFault hc
  · have hsub := fun k n data => canonical_submit (e := e) (num := n) (data := data) (canonical_enqNoted (e := e) (va := baseOf e) (n := k) hc)
    split
    next h => exact canonical_tryAgain (canonical_of_snd (hsub _ _ _) h)
    next h => exact canonical_writeScalar (canonical_of_snd (hsub _ _ _) h)

/-! ## Events of the memory system -/

theorem canonical_setRefresh {s : State} {r : RefreshState} (hc : s.canonical = true) : (setRefresh s r).canonical = true :=
  State.canonical_of_eq hc rfl rfl rfl

theorem canonical_openRows {s : State} {socket tr : Nat} (hc : s.canonical = true) : (openRows s socket tr).canonical = true :=
  canonical_foldl (fun _ _ h => canonical_setRefresh h) (State.canonical_of_eq hc rfl rfl rfl)

theorem canonical_clearTriad {s : State} {pa : Nat} (hc : s.canonical = true) : (clearTriad s pa).canonical = true :=
  canonical_cleanLines (canonical_evictHome hc)

theorem canonical_takeSlot {s s1 : State} {cid triad pa n : Nat} {isOpen : Bool} (hc : s.canonical = true)
    (h : takeSlot s cid triad pa isOpen = some (n, s1)) : s1.canonical = true := by
  unfold takeSlot at h
  dsimp only at h
  split at h
  · cases h
  · split at h
    · cases h
      exact hc
    · split at h
      · cases h
      · cases h
        exact State.canonical_of_eq (canonical_clearTriad hc) rfl rfl rfl

theorem canonical_updEntry {s : State} {tid k : Nat} {g : TriadEntry → TriadEntry} (hc : s.canonical = true) :
    (updEntry s tid k g).canonical = true :=
  canonical_updTeam hc

theorem canonical_refuseRow {s : State} {o : Op} (hc : s.canonical = true) : (refuseRow s o).canonical = true := by
  unfold refuseRow
  split
  · exact State.canonical_of_eq hc rfl rfl rfl
  · exact canonical_deliver (canonical_updWave (State.canonical_of_eq hc rfl rfl rfl))

theorem canonical_finishRow {s : State} {o : Op} (hc : s.canonical = true) : (finishRow s o).canonical = true := by
  unfold finishRow
  split
  · split
    · exact hc
    · exact canonical_lower (canonical_updOp (canonical_updWave hc))
  · exact hc

theorem canonical_openRow {s : State} {o : Op} (hc : s.canonical = true) : canonicalSome (openRow s o) = true := by
  unfold openRow
  split
  · refine keeps_ite rfl ?_
    dsimp only
    split
    · refine keeps_ite (canonical_markFault hc) ?_
      refine keeps_ite (canonical_finishRow (canonical_updWave (canonical_updOp (canonical_noteAlias hc)))) ?_
      split
      · exact canonical_refuseRow (canonical_updOp (canonical_noteAlias hc))
      · have htaken := canonical_takeSlot (canonical_updOp (canonical_noteAlias hc)) ‹_›
        exact canonical_updWave (canonical_updOp (canonical_updEntry htaken))
    · exact canonical_failAccess hc
  · rfl

theorem canonical_openHeld {s : State} {so tr pa : Nat} (hc : s.canonical = true) : (openHeld s so tr pa).canonical = true := by
  unfold openHeld
  split
  · exact hc
  · exact keeps_ite hc (keeps_ite rfl (canonical_openRows hc))

theorem canonical_readyRow {s : State} {o : Op} {x : Access} (hc : s.canonical = true) : (readyRow s o x).canonical = true := by
  refine keeps_ite hc ?_
  split
  · exact hc
  dsimp only
  split
  · exact hc
  split
  · refine keeps_ite hc (keeps_ite (canonical_openHeld hc) (keeps_ite hc ?_))
    split
    · exact hc
    have htaken := canonical_takeSlot hc ‹_›
    split
    · exact canonical_updEntry htaken
    · exact canonical_openHeld (canonical_updEntry htaken)
  · exact hc

theorem canonical_withRow {one : State → Op → Access → Option State} {s : State} {o : Op} {x : Access} (hc : s.canonical = true)
    (ho : ∀ s o x, s.canonical = true → canonicalSome (one s o x) = true) : canonicalSome (withRow one s o x) = true := by
  unfold withRow
  split
  · rfl
  · exact canonical_of_slotTaken (canonical_readyRow hc) ‹_›
  · exact ho _ _ _ (canonical_of_ready (canonical_readyRow hc) ‹_›)

theorem canonical_orNotEnabled {r : Option State} (hr : canonicalSome r = true) : canonicalNext (orNotEnabled r) = true := by
  unfold orNotEnabled
  split
  · exact hr
  · rfl

theorem canonical_performLoads {op : Nat} {lanes : W32} {s : State} (hc : s.canonical = true) :
    canonicalNext (performLoads op lanes s) = true := by
  unfold performLoads
  split
  · rfl
  refine keeps_ite (canonical_readSources hc) ?_
  split
  · exact canonical_orNotEnabled (canonical_openRow hc)
  refine keeps_ite (canonical_orNotEnabled (canonical_performEach hc (fun _ _ _ h => canonical_withRow h
      (fun _ _ _ h1 => canonical_performLoad h1)))) ?_
  rfl

theorem canonical_execStoreAtHome {op : Nat} {lanes : W32} {s : State} (hc : s.canonical = true) :
    canonicalNext (execStoreAtHome op lanes s) = true := by
  unfold execStoreAtHome
  split
  · rfl
  refine keeps_ite (canonical_orNotEnabled (canonical_performEach hc (fun _ _ _ h => canonical_withRow h
      (fun _ _ _ h1 => canonical_performStore h1)))) ?_
  rfl

theorem canonical_execAtomicPerform {op : Nat} {lanes : W32} {s : State} (hc : s.canonical = true) :
    canonicalNext (execAtomicPerform op lanes s) = true := by
  unfold execAtomicPerform
  split
  · rfl
  split
  · split
    · exact canonical_of_some (canonical_performEach hc (fun _ _ _ h => canonical_performAtomic h)) ‹_›
    · exact keeps_ite (canonical_writeAtomLanes hc) rfl
  · rfl

theorem canonical_cleanRange {s : State} {o : Op} (hc : s.canonical = true) : (cleanRange s o).canonical = true := by
  unfold cleanRange
  split
  · exact canonical_cleanLines hc
  · exact hc

theorem canonical_execStoreCompletion {op : Nat} {s : State} (hc : s.canonical = true) :
    canonicalNext (execStoreCompletion op s) = true := by
  unfold execStoreCompletion
  split
  · rfl
  · exact keeps_ite (canonical_completeOp (canonical_cleanRange hc)) rfl

theorem canonical_execLeaseExpiry {op : Nat} {s : State} (hc : s.canonical = true) : canonicalNext (execLeaseExpiry op s) = true := by
  unfold execLeaseExpiry
  split
  · rfl
  split
  · split
    · exact keeps_ite (canonical_finishRow (canonical_openRows hc)) (keeps_ite (canonical_finishRow hc) rfl)
    · exact keeps_ite (canonical_finishRow hc) rfl
  · rfl

/-! ## Rows, refreshes and extents -/

theorem canonical_closeTriads {s : State} {p : HoldSlot → Bool} (hc : s.canonical = true) : (closeTriads s p).canonical = true :=
  State.canonical_of_eq (State.canonical_of_eq hc rfl rfl rfl) rfl rfl rfl

theorem canonical_dropTriads {s : State} {p : HoldSlot → Bool} (hc : s.canonical = true) : (dropTriads s p).canonical = true :=
  State.canonical_of_eq (State.canonical_of_eq hc rfl rfl rfl) rfl rfl rfl

theorem canonical_execHoldYield {socket channel bank : Nat} {s : State} (hc : s.canonical = true) :
    canonicalNext (execHoldYield socket channel bank s) = true :=
  keeps_ite (canonical_closeTriads hc) rfl

theorem canonical_execRefreshDue {socket channel : Nat} {s : State} (hc : s.canonical = true) :
    canonicalNext (execRefreshDue socket channel s) = true := by
  refine keeps_ite rfl ?_
  split
  · exact hc
  · exact keeps_ite (canonical_setRefresh hc) (canonical_closeTriads (canonical_setRefresh hc))

theorem canonical_execRefreshPerformed {socket channel : Nat} {s : State} (hc : s.canonical = true) :
    canonicalNext (execRefreshPerformed socket channel s) = true := by
  unfold execRefreshPerformed
  split
  · rfl
  · exact keeps_ite (canonical_setRefresh hc) rfl

theorem canonical_dropExtent {s : State} {port base count : Nat} {forced : Bool} (hc : s.canonical = true) :
    (dropExtent s port base count forced).canonical = true :=
  have hdropped := canonical_dropTriads (p := fun h => inExtent port base count h.pgn) hc
  State.canonical_of_eq hdropped rfl rfl rfl

theorem canonical_execExtentRelease {port base count : Nat} {s : State} (hc : s.canonical = true) :
    canonicalNext (execExtentRelease port base count s) = true :=
  keeps_ite rfl (canonical_dropExtent hc)

theorem canonical_execForcedExtentRelease {port base count : Nat} {s : State} (hc : s.canonical = true) :
    canonicalNext (execForcedExtentRelease port base count s) = true :=
  keeps_ite rfl (canonical_dropExtent (State.canonical_of_eq hc rfl rfl rfl))

/-! ## Packets that copy, wait, signal, capture and migrate -/

theorem canonical_spanNoted {s : State} {q : Queue} {va n : Nat} {k : AccKind} (hc : s.canonical = true) :
    (spanNoted s q va n k).canonical = true :=
  canonical_foldl (fun _ _ h => canonical_queueNoted h) hc

theorem canonical_putSpan {s : State} {q : Queue} {va : Nat} {bs : List Byte} {t0 : Nat} (hc : s.canonical = true) :
    (putSpan s q va bs t0).1.canonical = true := by
  refine canonical_fst_foldl (fun _ _ h => ?_) hc
  split
  · exact canonical_storeAfter (canonical_noteQueueAlias h)
  · exact h

theorem canonical_onSpan {s : State} {q : Queue} {r : RawPkt} {va n : Nat} {k : AccKind} {kind : Nat} {go : State} (hc : s.canonical = true)
    (hgo : go.canonical = true) :
    (onSpan s q r va n k kind go).canonical = true := by
  unfold onSpan
  split
  · exact canonical_spanNoted hgo
  · exact canonical_pageWait hc
  · exact canonical_failHead hc

theorem canonical_dueAt {s : State} {p : PktRef} {t : Nat} (hc : s.canonical = true) : (dueAt s p t).canonical = true := canonical_updStarted hc

theorem canonical_moveCopy {s : State} {q : Queue} {r : RawPkt} {dst src n : Nat} (hc : s.canonical = true) :
    (moveCopy s q r dst src n).canonical = true :=
  canonical_dueAt (canonical_putSpan (canonical_startPkt hc))

theorem canonical_execCopyPacket {p : PktRef} {b : CopyBody} {s : State} (hc : s.canonical = true) :
    canonicalNext (execCopyPacket p b s) = true := by
  refine canonical_onPacket hc (fun _ _ => ?_)
  refine keeps_ite (canonical_refusePkt hc) ?_
  refine keeps_ite (canonical_completePkt (canonical_startPkt hc)) ?_
  exact canonical_onSpan hc (canonical_onSpan hc (canonical_moveCopy hc))

theorem canonical_startWait {s : State} {q : Queue} {r : RawPkt} {b : WordBody} (hc : s.canonical = true) :
    (startWait s q r b).canonical = true := by
  unfold startWait
  split
  · exact canonical_testWord (canonical_updStarted (canonical_startPkt (canonical_queueNoted hc)))
  · exact canonical_pageWait hc
  · exact canonical_failHead hc

theorem canonical_execWaitPacket {p : PktRef} {b : WordBody} {s : State} (hc : s.canonical = true) :
    canonicalNext (execWaitPacket p b s) = true :=
  canonical_onPacket hc (fun _ _ => keeps_ite (canonical_refusePkt hc) (canonical_startWait hc))

theorem canonical_execFencePacket {p : PktRef} {b : WordBody} {s : State} (hc : s.canonical = true) :
    canonicalNext (execFencePacket p b s) = true := by
  refine canonical_onPacket hc (fun _ _ => ?_)
  refine keeps_ite (canonical_refusePkt hc) ?_
  exact keeps_ite (canonical_completePkt (canonical_startPkt hc)) (canonical_startWait hc)

theorem canonical_execWaitWordReload {p : PktRef} {s : State} (hc : s.canonical = true) : canonicalNext (execWaitWordReload p s) = true := by
  unfold execWaitWordReload
  split
  · rfl
  · exact keeps_ite rfl (canonical_reloadWord hc)

theorem canonical_queueLeave {s : State} {q : Queue} {va pa pte : Nat} (hc : s.canonical = true) :
    (queueLeave s q va pa pte).canonical = true := by
  unfold queueLeave
  split
  · exact canonical_leaveHome hc
  · exact hc

theorem canonical_execSignalPacket {p : PktRef} {b : WordBody} {s : State} (hc : s.canonical = true) :
    canonicalNext (execSignalPacket p b s) = true := by
  refine canonical_onPacket hc (fun _ _ => ?_)
  refine keeps_ite (canonical_refusePkt hc) ?_
  split
  · exact canonical_pageWait hc
  · exact canonical_failHead hc
  · exact canonical_updStarted (canonical_storeAfter (canonical_queueLeave (canonical_noteQueueAlias (canonical_startPkt hc))))

theorem canonical_execIndirect {p : PktRef} {b : IndirectBody} {s : State} (hc : s.canonical = true) :
    canonicalNext (execIndirect p b s) = true :=
  canonical_onPacket hc (fun _ _ => keeps_ite (canonical_refusePkt hc) (canonical_updQueue (canonical_startPkt hc)))

theorem canonical_startCapture {s : State} {q : Queue} {r : RawPkt} {b : CaptureBody} {regions : List (Nat × Nat)} (hc : s.canonical = true) :
    (startCapture s q r b regions).canonical = true := by
  refine canonical_dueAt ?_
  split
  · exact canonical_logAppend (canonical_updQueue (canonical_startPkt hc))
  · exact canonical_updQueue (canonical_startPkt hc)

theorem canonical_stopCapture {s : State} {q : Queue} {r : RawPkt} {va used : Nat} (hc : s.canonical = true) :
    (stopCapture s q r va used).canonical = true :=
  canonical_dueAt (canonical_putSector (canonical_updQueue (canonical_startPkt hc)))

theorem canonical_execCapture {p : PktRef} {b : CaptureBody} {s : State} (hc : s.canonical = true) :
    canonicalNext (execCapture p b s) = true := by
  refine canonical_onPacket hc (fun _ _ => ?_)
  refine keeps_ite (canonical_refusePkt hc) ?_
  split
  · exact canonical_refusePkt hc
  · refine canonical_onSpan hc ?_
    dsimp only
    split
    · exact canonical_pageWait hc
    · exact canonical_failHead hc
    · exact canonical_onSpan hc (canonical_startCapture hc)
  · exact canonical_refusePkt hc
  · exact canonical_onSpan hc (canonical_stopCapture hc)

theorem canonical_startReplay {s : State} {q : Queue} {r : RawPkt} {va size : Nat} (hc : s.canonical = true) :
    (startReplay s q r va size).canonical = true :=
  canonical_updQueue (canonical_startPkt hc)

theorem canonical_execReplay {p : PktRef} {b : ReplayBody} {s : State} (hc : s.canonical = true) :
    canonicalNext (execReplay p b s) = true := by
  refine canonical_onPacket hc (fun _ _ => ?_)
  refine keeps_ite (canonical_refusePkt hc) ?_
  split
  · exact canonical_pageWait hc
  · exact canonical_failHead hc
  split
  · exact canonical_pageWait hc
  · exact canonical_failHead hc
  split
  · exact canonical_refuseWith hc
  · exact keeps_ite (canonical_refusePkt hc) (canonical_startReplay hc)

theorem canonical_sendMigrate {s : State} {q : Queue} {r : RawPkt} {b : MigrateBody} (hc : s.canonical = true) :
    (sendMigrate s q r b).canonical = true :=
  canonical_updStarted (canonical_startPkt hc)

theorem canonical_execMigrate {p : PktRef} {b : MigrateBody} {s : State} (hc : s.canonical = true) :
    canonicalNext (execMigrate p b s) = true := by
  refine canonical_onPacket hc (fun _ _ => ?_)
  split
  · exact canonical_refusePkt hc
  refine keeps_ite (canonical_refusePkt hc) ?_
  split
  · exact canonical_failHead hc
  · exact canonical_pageWait hc
  · exact canonical_failHead hc
  · exact canonical_failHead hc
  · exact keeps_ite (canonical_failHead hc) (canonical_sendMigrate hc)
  · exact keeps_ite (canonical_failHead hc) (canonical_sendMigrate hc)

theorem canonical_writeFt {s : State} {entry ft : Nat} (hc : s.canonical = true) : (writeFt s entry ft).canonical = true := canonical_writeNow hc

theorem canonical_startMigrate {s : State} {c : Context} {pgn entry : Nat} {r : FaultRecord} (hc : s.canonical = true) :
    (startMigrate s c pgn entry r).canonical = true :=
  canonical_writeRecords (canonical_updCtx (canonical_cleanLines (canonical_evictHome (canonical_dropTriads (canonical_writeFt hc)))))

theorem canonical_arriveMigrate {s : State} {q : Queue} {e : StartedPkt} (hc : s.canonical = true) :
    (arriveMigrate s q e).canonical = true := by
  unfold arriveMigrate
  split
  · exact hc
  split
  all_goals
    dsimp only
    split
    · exact canonical_failPkt (canonical_updStarted hc)
    · exact canonical_failPkt (canonical_updStarted hc)
    · exact canonical_failPkt (canonical_updStarted hc)
    · exact canonical_failPkt (canonical_updStarted hc)
    refine keeps_ite (canonical_failPkt (canonical_updStarted hc)) ?_
    refine keeps_ite (keeps_ite hc (canonical_startMigrate (canonical_updStarted hc))) ?_
    exact keeps_ite (canonical_updCtx (canonical_updStarted hc)) (canonical_failPkt (canonical_updStarted hc))

theorem canonical_settleMigrations {s : State} (hc : s.canonical = true) : (settleMigrations s).canonical = true :=
  canonical_foldl (fun _ _ h => canonical_arriveMigrate h) hc

/-! ## Graphs and postings -/

theorem canonical_refuseNode {s : State} {g : Graph} {k : Nat} {code sub xaddr : Nat} (hc : s.canonical = true) :
    (refuseNode s g k code sub xaddr).canonical = true :=
  canonical_updGraph (canonical_updNode (canonical_postError hc))

theorem canonical_readBody {s : State} {g : Graph} {k : Nat} {n : GraphNode} (hc : s.canonical = true) :
    (readBody s g k n).canonical = true := by
  unfold readBody
  split
  · exact hc
  dsimp only
  split
  · exact canonical_pageWait hc
  · exact canonical_refuseNode hc
  refine keeps_ite (canonical_refuseWith (canonical_updNode hc)) ?_
  split
  · exact canonical_refuseWith (canonical_updNode hc)
  · exact canonical_updNode (canonical_queueNoted hc)

theorem canonical_startNode {q : QRef} {seq : Nat} {s : State} {k : Nat} (hc : s.canonical = true) :
    (startNode q seq s k).canonical = true := by
  unfold startNode
  split
  · exact hc
  split
  · exact canonical_refuseNode (canonical_updNode hc)
  · exact keeps_ite (canonical_updNode hc) (canonical_readBody (canonical_updNode hc))

theorem canonical_lowerNode {q : QRef} {seq : Nat} {s : State} {k : Nat} (hc : s.canonical = true) :
    (lowerNode q seq s k).canonical = true := by
  unfold lowerNode
  dsimp only
  split
  · exact keeps_ite (canonical_startNode (canonical_updNode hc)) (canonical_updNode hc)
  · exact canonical_updNode hc

theorem canonical_beginIteration {s : State} {q : QRef} {seq : Nat} (hc : s.canonical = true) :
    (beginIteration s q seq).canonical = true := by
  unfold beginIteration
  dsimp only
  split
  · exact canonical_updGraph hc
  · exact canonical_foldl (fun _ _ h => canonical_startNode h) (canonical_updGraph hc)

theorem canonical_endGraph {s : State} {q : Queue} {g : Graph} {reason : Nat} (hc : s.canonical = true) :
    (endGraph s q g reason).canonical = true := by
  refine keeps_ite (canonical_completePkt (State.canonical_of_eq hc rfl rfl rfl)) ?_
  split
  · exact canonical_dueAt (canonical_putSpan (State.canonical_of_eq hc rfl rfl rfl))
  · exact canonical_pageWait hc
  · exact canonical_completePkt (State.canonical_of_eq hc rfl rfl rfl)

theorem canonical_settleGraph {s : State} {g : Graph} (hc : s.canonical = true) : (settleGraph s g).canonical = true := by
  unfold settleGraph
  split
  · exact hc
  refine keeps_ite hc ?_
  split
  · exact canonical_endGraph hc
  · exact canonical_beginIteration (canonical_updGraph hc)

theorem canonical_settleGraphs {s : State} (hc : s.canonical = true) : (settleGraphs s).canonical = true :=
  canonical_foldl (fun _ _ h => canonical_settleGraph h) hc

theorem canonical_readTable {q : Queue} {r : RawPkt} {nnode n : Nat} {s : State} (hc : s.canonical = true) :
    (readTable q r nnode n s).2.canonical = true := by
  induction n generalizing s with
  | zero => exact hc
  | succ n ih =>
    unfold readTable
    split
    · exact hc
    · dsimp only
      split
      · exact hc
      · split
        · exact canonical_pageWait hc
        · exact ih (canonical_updGraph hc)
        · exact ih (canonical_updGraph (canonical_queueNoted hc))

theorem canonical_startGraph {s : State} {q : Queue} {r : RawPkt} (hc : s.canonical = true) : (startGraph s q r).canonical = true := by
  unfold startGraph
  split
  · exact hc
  refine keeps_ite (canonical_refusePkt (State.canonical_of_eq hc rfl rfl rfl)) ?_
  exact canonical_beginIteration (canonical_updGraph (canonical_startPkt hc))

theorem canonical_execGraph {p : PktRef} {b : GraphBody} {s : State} (hc : s.canonical = true) : canonicalNext (execGraph p b s) = true := by
  refine canonical_onPacket hc (fun _ _ => ?_)
  refine keeps_ite (canonical_refusePkt hc) ?_
  refine keeps_ite ?_ ?_
  · refine canonical_readTable ?_
    split
    · exact hc
    · exact State.canonical_of_eq hc rfl rfl rfl
  · refine canonical_startGraph (canonical_readTable ?_)
    split
    · exact hc
    · exact State.canonical_of_eq hc rfl rfl rfl

theorem canonical_finishCond {s : State} {g : Graph} {k : Nat} {n : GraphNode} {x : Word} (hc : s.canonical = true) :
    (finishCond s g k n x).canonical = true := by
  unfold finishCond
  dsimp only
  split
  · exact canonical_updGraph (canonical_updNode hc)
  · exact canonical_lowerNode (canonical_updNode hc)
  · exact canonical_updGraph (canonical_updNode hc)

theorem canonical_execGraphNodeFinish {p : PktRef} {node : Nat} {s : State} (hc : s.canonical = true) :
    canonicalNext (execGraphNodeFinish p node s) = true := by
  unfold execGraphNodeFinish
  split
  · rfl
  refine keeps_ite rfl ?_
  refine keeps_ite (canonical_foldl (fun _ _ h => canonical_lowerNode h) (canonical_updNode hc)) ?_
  refine keeps_ite ?_ rfl
  split
  · exact canonical_pageWait hc
  · exact canonical_refuseNode hc
  · exact canonical_finishCond (canonical_queueNoted hc)

theorem canonical_updPosting {s : State} {p : PktRef} {g : Posting → Posting} (hc : s.canonical = true) :
    (updPosting s p g).canonical = true :=
  State.canonical_of_eq hc rfl rfl rfl

theorem canonical_dropPosting {s : State} {p : PktRef} (hc : s.canonical = true) : (dropPosting s p).canonical = true :=
  State.canonical_of_eq hc rfl rfl rfl

theorem canonical_postSpan {s : State} {q : Queue} {x : Posting} {va n : Nat} {k : AccKind} {kind : Nat} {go : State × Bool}
    (hc : s.canonical = true) (hg : go.1.canonical = true) : (postSpan s q x va n k kind go).1.canonical = true := by
  unfold postSpan
  split
  · exact hg
  · exact canonical_pageWait hc
  · exact canonical_failPkt (canonical_dropPosting hc)

theorem canonical_writeHead {s : State} {q : Queue} {x : Posting} {stage : Nat} (hc : s.canonical = true) :
    (writeHead s q x stage).1.canonical = true :=
  canonical_postSpan hc (canonical_updPosting (canonical_putSpan (canonical_putSpan hc)))

theorem canonical_postEntry {s : State} {q : Queue} {x : Posting} (hc : s.canonical = true) : (postEntry s q x).1.canonical = true := by
  refine canonical_postSpan hc ?_
  dsimp only
  split
  · exact canonical_updPosting hc
  refine canonical_postSpan hc (canonical_postSpan hc ?_)
  split
  · split
    · exact canonical_writeHead (canonical_updPosting (canonical_putSpan hc))
    · exact canonical_updPosting (canonical_putSpan hc)
  · exact canonical_updPosting (canonical_putSpan hc)

theorem canonical_stepPosting {s : State} {q : Queue} {x : Posting} (hc : s.canonical = true) : (stepPosting s q x).1.canonical = true := by
  unfold stepPosting
  split
  · split
    · exact canonical_postSpan hc (canonical_updPosting hc)
    split
    · split
      · exact hc
      · exact canonical_postEntry hc
    · split <;> exact canonical_writeHead hc
  · split
    · exact hc
    · exact canonical_updPosting (State.canonical_of_eq hc rfl rfl rfl)
  · split
    · exact hc
    · exact canonical_completePkt (canonical_dropPosting hc)

theorem canonical_runPosting {p : PktRef} {n : Nat} {s : State} (hc : s.canonical = true) : (runPosting p n s).canonical = true := by
  induction n generalizing s with
  | zero => exact hc
  | succ n ih =>
    unfold runPosting
    split
    · split
      · exact hc
      · dsimp only
        split
        · exact ih (canonical_stepPosting hc)
        · exact canonical_stepPosting hc
    · exact hc

theorem canonical_settlePostings {s : State} (hc : s.canonical = true) : (settlePostings s).canonical = true :=
  canonical_foldl (fun _ _ h => canonical_runPosting h) hc

theorem canonical_startPosting {s : State} {q : Queue} {r : RawPkt} {b : NotifyBody} {n : Nat} (hc : s.canonical = true) :
    (startPosting s q r b n).canonical = true := by
  refine keeps_ite (canonical_failHead hc) ?_
  exact canonical_runPosting (State.canonical_of_eq (canonical_startPkt hc) rfl rfl rfl)

theorem canonical_execNotify {p : PktRef} {b : NotifyBody} {s : State} (hc : s.canonical = true) :
    canonicalNext (execNotify p b s) = true := by
  refine canonical_onPacket hc (fun _ _ => ?_)
  refine keeps_ite (canonical_refusePkt hc) ?_
  refine keeps_ite (keeps_ite (canonical_failHead hc) (canonical_onSpan hc (canonical_startPosting hc))) ?_
  exact canonical_onSpan hc (keeps_ite (canonical_failHead hc) (canonical_onSpan hc (canonical_startPosting hc)))

theorem canonical_execHostRingTailReload {p : PktRef} {s : State} (hc : s.canonical = true) :
    canonicalNext (execHostRingTailReload p s) = true := by
  unfold execHostRingTailReload
  split
  · rfl
  · exact keeps_ite (canonical_runPosting (canonical_updPosting hc)) rfl

/-! ## Sweeps, rakes and placement -/

theorem canonical_takeTag {s : State} {c : Context} {tag : W32} (hc : s.canonical = true) : (takeTag s c tag).2.canonical = true := by
  unfold takeTag
  split
  · exact canonical_updCtx hc
  · exact hc

theorem canonical_admitSweep {s : State} {q : Queue} {r : RawPkt} {c : Context} {b : SweepBody} {det : Bool} {k : KInfo} {d : TensorDesc}
    (hc : s.canonical = true) : (admitSweep s q r c b det k d).canonical = true :=
  State.canonical_of_eq (canonical_startPkt (canonical_takeTag hc)) rfl rfl rfl

theorem canonical_checkSweep {s : State} {q : Queue} {r : RawPkt} {c : Context} {b : SweepBody} {ki di : List Byte} (hc : s.canonical = true) :
    (checkSweep s q r c b ki di).canonical = true := by
  refine keeps_ite (canonical_refusePkt hc) ?_
  refine keeps_ite (canonical_refusePkt hc) ?_
  exact keeps_ite (canonical_refuseWith hc) (keeps_ite (canonical_refusePkt hc) (canonical_admitSweep hc))

theorem canonical_execSweep {p : PktRef} {b : SweepBody} {s : State} (hc : s.canonical = true) : canonicalNext (execSweep p b s) = true := by
  refine canonical_onPacket hc (fun _ _ => ?_)
  split
  · exact canonical_refusePkt hc
  refine keeps_ite (canonical_refusePkt hc) ?_
  refine keeps_ite (canonical_refusePkt hc) ?_
  refine keeps_ite (canonical_refusePkt hc) ?_
  split
  · exact canonical_pageWait hc
  · exact canonical_refuseWith hc
  · exact canonical_pageWait hc
  · exact canonical_refuseWith hc
  · exact canonical_checkSweep (canonical_queueNoted (canonical_queueNoted hc))

theorem canonical_updRake {s : State} {ref : SweepRef} {vdie : Nat} {g : Rake → Rake} (hc : s.canonical = true) :
    (updRake s ref vdie g).canonical = true :=
  canonical_updSweep hc

theorem canonical_execChunkTake {ref : SweepRef} {vdie : Nat} {s : State} (hc : s.canonical = true) :
    canonicalNext (execChunkTake ref vdie s) = true := by
  unfold execChunkTake
  split
  · rfl
  split
  · rfl
  · exact keeps_ite rfl (canonical_updRake (canonical_updSweep hc))

theorem canonical_closeChunk {s : State} {ref : SweepRef} {vdie : Nat} (hc : s.canonical = true) :
    (closeChunk s ref vdie).canonical = true := by
  unfold closeChunk
  split
  · exact hc
  · exact keeps_ite (canonical_updSweep (canonical_updRake hc)) hc

theorem canonical_stopRake {s : State} {w : Sweep} {vdie i cause gen tick : Nat} (hc : s.canonical = true) :
    (stopRake s w vdie i cause gen tick).canonical = true :=
  canonical_postError (canonical_updRake (canonical_updSweep hc))

theorem canonical_execClaim {ref : SweepRef} {vdie : Nat} {s : State} (hc : s.canonical = true) :
    canonicalNext (execClaim ref vdie s) = true := by
  unfold execClaim
  split
  · rfl
  split
  · rfl
  refine keeps_ite rfl ?_
  dsimp only
  split
  · exact canonical_noteFault (canonical_updRake (canonical_updRake hc))
  · exact canonical_stopRake (canonical_updRake hc)
  refine keeps_ite (canonical_stopRake (canonical_updRake hc)) ?_
  exact canonical_updRake (canonical_atomicHome (canonical_leaveHome (canonical_noteAccess (canonical_updRake hc))))

theorem canonical_execClaimReturn {ref : SweepRef} {vdie : Nat} {s : State} (hc : s.canonical = true) :
    canonicalNext (execClaimReturn ref vdie s) = true := by
  unfold execClaimReturn
  split
  · rfl
  split
  · rfl
  refine keeps_ite rfl ?_
  refine keeps_ite ?_ ?_
  · refine keeps_ite rfl ?_
    refine canonical_closeChunk (keeps_ite (canonical_endTeam (canonical_updSweep (State.canonical_of_eq hc rfl rfl rfl))) ?_)
    exact canonical_updSweep (State.canonical_of_eq hc rfl rfl rfl)
  · refine keeps_ite (canonical_stopRake (canonical_updRake hc)) ?_
    exact canonical_closeChunk (canonical_updSweep (canonical_updRake hc))

theorem canonical_placeTeam {s : State} {t : Team} {shut : List Nat} (hc : s.canonical = true) :
    canonicalSome (placeTeam s t shut) = true := by
  unfold placeTeam
  split
  next w c _ _ =>
    split
    next core p0 _ _ _ =>
      have hzeroed := canonical_zeroAllocation (die := t.die) (core := core) (p0 := p0) (n := footprint t.k w.det) hc
      exact State.canonical_of_eq hzeroed rfl rfl rfl
    next => rfl
  next => rfl

theorem canonical_placePass {may : Team → Bool} {ts : List Team} {stop : List SweepRef} {shut : List Nat} {s : State} (hc : s.canonical = true) :
    (placePass may ts stop shut s).canonical = true := by
  induction ts generalizing stop shut s with
  | nil => exact hc
  | cons t r ih =>
    unfold placePass
    split
    · exact ih hc
    · split
      · exact ih hc
      · split
        · exact ih (canonical_of_some (canonical_placeTeam hc) ‹_›)
        · exact ih hc

theorem canonical_execDibberPlacement {die : Nat} {s : State} (hc : s.canonical = true) :
    canonicalNext (execDibberPlacement die s) = true :=
  keeps_ite (canonical_placePass hc) rfl

theorem canonical_execTeamGraft {tid : Nat} {s : State} (hc : s.canonical = true) : canonicalNext (execTeamGraft tid s) = true := by
  unfold execTeamGraft
  split
  · rfl
  split
  · exact keeps_ite rfl (canonical_updTeam hc)
  · rfl

theorem canonical_execResume {p : PktRef} {b : ResumeBody} {s : State} (hc : s.canonical = true) :
    canonicalNext (execResume p b s) = true := by
  refine canonical_onPacket hc (fun _ _ => ?_)
  refine keeps_ite (canonical_refusePkt hc) ?_
  refine keeps_ite (canonical_refusePkt hc) ?_
  exact canonical_completePkt (State.canonical_of_eq (canonical_startPkt hc) rfl rfl rfl)

/-! ## Admin packets -/

theorem canonical_adminDone {s : State} {q : Queue} {r : RawPkt} {go : State → State} (hc : s.canonical = true)
    (hg : ∀ s, s.canonical = true → (go s).canonical = true) : (adminDone s q r go).canonical = true :=
  canonical_completePkt (hg _ (canonical_startPkt hc))

theorem canonical_adminFail {s : State} {q : Queue} {r : RawPkt} {sub : Nat} (hc : s.canonical = true) :
    (adminFail s q r sub).canonical = true :=
  canonical_failHead hc

theorem canonical_execCtxCreate {p : PktRef} {b : AddrBody} {s : State} (hc : s.canonical = true) :
    canonicalNext (execCtxCreate p b s) = true := by
  refine canonical_onPacket hc (fun _ _ => ?_)
  refine keeps_ite (canonical_adminFail hc) ?_
  refine canonical_onSpan hc (keeps_ite (canonical_adminFail hc) ?_)
  split
  · exact canonical_adminFail hc
  · exact canonical_adminDone hc (fun _ h1 => canonical_addContext h1)

theorem canonical_abortTeam {s : State} {t : Team} (hc : s.canonical = true) : (abortTeam s t).canonical = true := by
  unfold abortTeam
  split
  · exact hc
  · exact State.canonical_of_eq hc rfl rfl rfl
  · exact canonical_endTeam hc

theorem canonical_abandonJars {s : State} {cid : Nat} (hc : s.canonical = true) : (abandonJars s cid).canonical = true := by
  unfold abandonJars
  split
  · exact hc
  · exact canonical_foldl (fun _ _ h => canonical_setJar h) hc

theorem canonical_closeContext {s : State} {cid : Nat} (hc : s.canonical = true) : (closeContext s cid).canonical = true :=
  canonical_foldl (fun _ _ h => canonical_abortTeam h) (State.canonical_of_eq (canonical_abandonJars (cid := cid) hc) rfl rfl rfl)

theorem canonical_removeContext {s : State} {cid : Nat} (hc : s.canonical = true) : (removeContext s cid).canonical = true :=
  State.canonical_of_eq hc rfl rfl rfl

theorem canonical_execCtxDestroy {p : PktRef} {b : CidBody} {s : State} (hc : s.canonical = true) :
    canonicalNext (execCtxDestroy p b s) = true := by
  refine canonical_onPacket hc (fun _ _ => ?_)
  refine keeps_ite (canonical_adminFail hc) ?_
  exact keeps_ite (canonical_adminFail hc) (canonical_closeContext (canonical_updStarted (canonical_startPkt hc)))

theorem canonical_settleDestroys {s : State} (hc : s.canonical = true) : (settleDestroys s).canonical = true :=
  canonical_foldl (fun _ _ h => canonical_foldl (fun _ _ h1 => keeps_ite (canonical_completePkt (canonical_removeContext h1)) h1) h) hc

theorem canonical_retestQueue {s : State} {ref : QRef} (hc : s.canonical = true) : (retestQueue s ref).canonical = true := by
  unfold retestQueue
  split
  · exact hc
  refine canonical_foldl (fun _ _ h => ?_) hc
  split
  · exact canonical_of_next (canonical_execWaitWordReload h) ‹_›
  · exact h

theorem canonical_mapQueue {s : State} {ref : QRef} {shadow : Nat} {admin : Bool} (hc : s.canonical = true) :
    (mapQueue s ref shadow admin).canonical = true := by
  unfold mapQueue
  split
  · exact State.canonical_of_eq hc rfl rfl rfl
  dsimp only
  split
  · exact canonical_updQueue hc
  refine keeps_ite (canonical_retestQueue (canonical_updQueue (canonical_withRecord (canonical_updQueue hc) (fun _ _ => canonical_updQueue
      (canonical_updQueue hc))))) ?_
  exact canonical_withRecord (canonical_updQueue hc) (fun _ _ => canonical_updQueue (canonical_updQueue hc))

theorem canonical_execQMap {p : PktRef} {b : AddrBody} {s : State} (hc : s.canonical = true) : canonicalNext (execQMap p b s) = true := by
  refine canonical_onPacket hc (fun _ _ => ?_)
  refine keeps_ite (canonical_adminFail hc) ?_
  refine canonical_onSpan hc (keeps_ite (canonical_adminFail hc) ?_)
  exact keeps_ite (canonical_adminFail hc) (canonical_adminDone hc (fun _ h1 => canonical_mapQueue h1))

theorem canonical_execQUnmap {p : PktRef} {b : CidBody} {s : State} (hc : s.canonical = true) : canonicalNext (execQUnmap p b s) = true := by
  refine canonical_onPacket hc (fun _ _ => ?_)
  refine keeps_ite (canonical_adminFail hc) ?_
  split
  · exact canonical_adminFail hc
  refine keeps_ite (canonical_adminFail hc) ?_
  exact canonical_adminDone hc (fun _ h1 => canonical_updQueue (keeps_ite (canonical_serveWake h1) h1))

theorem canonical_updGuest {s : State} {k : Nat} {g : Guest → Guest} (hc : s.canonical = true) : (updGuest s k g).canonical = true :=
  keeps_ite (State.canonical_of_eq hc rfl rfl rfl) (State.canonical_of_eq hc rfl rfl rfl)

theorem canonical_execBudget {p : PktRef} {b : BudgetBody} {s : State} (hc : s.canonical = true) :
    canonicalNext (execBudget p b s) = true :=
  canonical_onPacket hc (fun _ _ => keeps_ite (canonical_adminFail hc) (canonical_adminDone hc (fun _ h1 => canonical_updGuest h1)))

theorem canonical_execBken {p : PktRef} {b : CidBody} {s : State} (hc : s.canonical = true) : canonicalNext (execBken p b s) = true := by
  refine canonical_onPacket hc (fun _ _ => ?_)
  refine keeps_ite (canonical_adminFail hc) ?_
  exact keeps_ite (canonical_adminFail hc) (canonical_adminDone hc (fun _ h1 => canonical_updCtx h1))

theorem canonical_execRelease {p : PktRef} {b : CidBody} {s : State} (hc : s.canonical = true) :
    canonicalNext (execRelease p b s) = true := by
  refine canonical_onPacket hc (fun _ _ => ?_)
  refine keeps_ite (canonical_adminFail hc) ?_
  exact keeps_ite (canonical_adminFail hc) (canonical_adminDone hc (fun _ h1 => State.canonical_of_eq h1 rfl rfl rfl))

theorem canonical_bootFails {s : State} {k : Nat} (hc : s.canonical = true) : (bootFails s k).canonical = true := State.canonical_of_eq hc rfl rfl rfl

theorem canonical_execFwupdate {p : PktRef} {b : FwBody} {s : State} (hc : s.canonical = true) :
    canonicalNext (execFwupdate p b s) = true := by
  refine canonical_onPacket hc (fun _ _ => ?_)
  refine keeps_ite (canonical_adminFail hc) ?_
  refine canonical_onSpan hc (keeps_ite (canonical_completePkt (canonical_postError (canonical_startPkt hc))) ?_)
  refine keeps_ite (canonical_completePkt (canonical_postError (State.canonical_of_eq (canonical_startPkt hc) rfl rfl rfl))) ?_
  exact State.canonical_of_eq (State.canonical_of_eq (canonical_startPkt hc) rfl rfl rfl) rfl rfl rfl

theorem canonical_resumeQueues {s : State} (hc : s.canonical = true) : (resumeQueues s).canonical = true :=
  canonical_foldl (fun _ _ h => keeps_ite (canonical_retestQueue (canonical_updQueue h)) h) hc

theorem canonical_execFirmwareHeartbeat {s : State} (hc : s.canonical = true) : canonicalNext (execFirmwareHeartbeat s) = true := by
  unfold execFirmwareHeartbeat
  split
  · exact keeps_ite rfl (State.canonical_of_eq hc rfl rfl rfl)
  · exact keeps_ite rfl (canonical_resumeQueues (canonical_completePkt (State.canonical_of_eq hc rfl rfl rfl)))

theorem canonical_execHeartbeatTimeout {s : State} (hc : s.canonical = true) : canonicalNext (execHeartbeatTimeout s) = true := by
  unfold execHeartbeatTimeout
  split
  · rfl
  refine keeps_ite (canonical_resumeQueues (canonical_completePkt (canonical_postError (State.canonical_of_eq hc rfl rfl rfl)))) ?_
  rfl

theorem canonical_execBudgetWindow {s : State} (hc : s.canonical = true) : canonicalNext (execBudgetWindow s) = true :=
  keeps_ite rfl (State.canonical_of_eq hc rfl rfl rfl)

theorem canonical_execGuestOutOfBudget {guest : Nat} {s : State} (hc : s.canonical = true) :
    canonicalNext (execGuestOutOfBudget guest s) = true :=
  keeps_ite (canonical_updGuest hc) rfl

theorem canonical_chargeGuests {s : State} {dt : Nat} (hc : s.canonical = true) : (chargeGuests s dt).canonical = true :=
  canonical_foldl (fun _ _ h => canonical_updGuest h) hc

theorem canonical_execFeatgo {value : W32} {s : State} (hc : s.canonical = true) : canonicalNext (execFeatgo value s) = true := by
  refine keeps_ite hc ?_
  refine keeps_ite (State.canonical_of_eq hc rfl rfl rfl) ?_
  exact keeps_ite (State.canonical_of_eq hc rfl rfl rfl) (State.canonical_of_eq hc rfl rfl rfl)

theorem canonical_execAdmingo {value : W32} {s : State} (hc : s.canonical = true) : canonicalNext (execAdmingo value s) = true :=
  keeps_ite hc (keeps_ite (canonical_bootFails hc) (canonical_mapQueue (State.canonical_of_eq hc rfl rfl rfl)))

end Sys2Proof.Machine
end

section
/-!
PROOF. Storage stays canonical: the words of the vector unit.
-/

namespace Sys2Proof.Machine

/-! ## Floating-point flags -/

theorem canonical_finishFlags {e : Env} {s : State} {flags : Nat} {write : State → State} (hw : (write s).canonical = true) :
    (finishFlags e s flags write).canonical = true :=
  keeps_ite rfl (canonical_updCur hw)

theorem canonical_writeResults {e : Env} {r sh : Nat} {rs : List (Nat × Nat × Nat)} {s : State} (hc : s.canonical = true) :
    (writeResults e r sh rs s).canonical = true :=
  canonical_updCur hc

theorem canonical_fpInstr {e : Env} {s : State} {wide : Bool} {g : Nat → Nat × Nat} (hc : s.canonical = true) :
    (fpInstr e s wide g).canonical = true := by
  refine keeps_ite (keeps_ite hc (canonical_finishFlags (canonical_setScalar hc))) ?_
  exact canonical_finishFlags (keeps_ite (canonical_writeResults (canonical_writeResults hc)) (canonical_writeResults hc))

theorem canonical_fpCompare {e : Env} {s : State} {g : Nat → Bool × Nat} (hc : s.canonical = true) : (fpCompare e s g).canonical = true := by
  unfold fpCompare
  exact canonical_finishFlags (canonical_writePred hc)

/-! ## Integer words -/

theorem canonical_intBinary {e : Env} {s : State} {g : Nat → Nat → Nat → Nat} (hc : s.canonical = true) :
    (intBinary e s g).canonical = true :=
  canonical_laneOrScalar hc

theorem canonical_intUnary {e : Env} {s : State} {g : Nat → Nat → Nat} (hc : s.canonical = true) : (intUnary e s g).canonical = true :=
  canonical_laneOrScalar hc

theorem canonical_intTernary {e : Env} {s : State} {g : Nat → Nat → Nat → Nat → Nat} (hc : s.canonical = true) :
    (intTernary e s g).canonical = true :=
  canonical_laneOrScalar hc

theorem canonical_intShift {e : Env} {s : State} {g : Nat → Nat → Nat → Nat} (hc : s.canonical = true) :
    (intShift e s g).canonical = true :=
  canonical_laneOrScalar hc

theorem canonical_execNop {f : Fields} {s : State} (hc : s.canonical = true) : canonicalNext (execNop f s) = true := canonical_issue hc (fun _ => hc)

theorem canonical_execMov {f : Fields} {s : State} (hc : s.canonical = true) : canonicalNext (execMov f s) = true :=
  canonical_issue hc (fun _ => canonical_laneOrScalar hc)

theorem canonical_execMovi {f : Fields} {s : State} (hc : s.canonical = true) : canonicalNext (execMovi f s) = true :=
  canonical_issue hc (fun _ => canonical_laneOrScalar hc)

theorem canonical_execSel {f : Fields} {s : State} (hc : s.canonical = true) : canonicalNext (execSel f s) = true :=
  canonical_issue hc (fun _ => canonical_writeLanes hc)

theorem canonical_execIadd {f : Fields} {s : State} (hc : s.canonical = true) : canonicalNext (execIadd f s) = true :=
  canonical_issue hc (fun _ => canonical_intBinary hc)

theorem canonical_execIsub {f : Fields} {s : State} (hc : s.canonical = true) : canonicalNext (execIsub f s) = true :=
  canonical_issue hc (fun _ => canonical_intBinary hc)

theorem canonical_execImul {f : Fields} {s : State} (hc : s.canonical = true) : canonicalNext (execImul f s) = true :=
  canonical_issue hc (fun _ => canonical_intBinary hc)

theorem canonical_execImulh {f : Fields} {s : State} (hc : s.canonical = true) : canonicalNext (execImulh f s) = true :=
  canonical_issue hc (fun _ => canonical_intBinary hc)

theorem canonical_execImad {f : Fields} {s : State} (hc : s.canonical = true) : canonicalNext (execImad f s) = true :=
  canonical_issue hc (fun _ => canonical_intTernary hc)

theorem canonical_execImadw {f : Fields} {s : State} (hc : s.canonical = true) : canonicalNext (execImadw f s) = true :=
  canonical_issue hc (fun _ => canonical_writePair hc)

theorem canonical_execImin {f : Fields} {s : State} (hc : s.canonical = true) : canonicalNext (execImin f s) = true :=
  canonical_issue hc (fun _ => canonical_intBinary hc)

theorem canonical_execImax {f : Fields} {s : State} (hc : s.canonical = true) : canonicalNext (execImax f s) = true :=
  canonical_issue hc (fun _ => canonical_intBinary hc)

theorem canonical_execIabs {f : Fields} {s : State} (hc : s.canonical = true) : canonicalNext (execIabs f s) = true :=
  canonical_issue hc (fun _ => canonical_intUnary hc)

theorem canonical_execIaddc {f : Fields} {s : State} (hc : s.canonical = true) : canonicalNext (execIaddc f s) = true :=
  canonical_issue hc (fun _ => keeps_ite (canonical_writePred (canonical_writeScalar hc)) (canonical_writePred (canonical_writeLanes hc)))

theorem canonical_execIadds {f : Fields} {s : State} (hc : s.canonical = true) : canonicalNext (execIadds f s) = true :=
  canonical_issue hc (fun _ => canonical_intBinary hc)

theorem canonical_execIsubs {f : Fields} {s : State} (hc : s.canonical = true) : canonicalNext (execIsubs f s) = true :=
  canonical_issue hc (fun _ => canonical_intBinary hc)

theorem canonical_execAnd {f : Fields} {s : State} (hc : s.canonical = true) : canonicalNext (execAnd f s) = true :=
  canonical_issue hc (fun _ => canonical_intBinary hc)

theorem canonical_execOr {f : Fields} {s : State} (hc : s.canonical = true) : canonicalNext (execOr f s) = true :=
  canonical_issue hc (fun _ => canonical_intBinary hc)

theorem canonical_execXor {f : Fields} {s : State} (hc : s.canonical = true) : canonicalNext (execXor f s) = true :=
  canonical_issue hc (fun _ => canonical_intBinary hc)

theorem canonical_execNot {f : Fields} {s : State} (hc : s.canonical = true) : canonicalNext (execNot f s) = true :=
  canonical_issue hc (fun _ => canonical_intUnary hc)

theorem canonical_execShl {f : Fields} {s : State} (hc : s.canonical = true) : canonicalNext (execShl f s) = true :=
  canonical_issue hc (fun _ => canonical_intShift hc)

theorem canonical_execShr {f : Fields} {s : State} (hc : s.canonical = true) : canonicalNext (execShr f s) = true :=
  canonical_issue hc (fun _ => canonical_intShift hc)

theorem canonical_execSar {f : Fields} {s : State} (hc : s.canonical = true) : canonicalNext (execSar f s) = true :=
  canonical_issue hc (fun _ => canonical_intShift hc)

theorem canonical_execRol {f : Fields} {s : State} (hc : s.canonical = true) : canonicalNext (execRol f s) = true :=
  canonical_issue hc (fun _ => canonical_intShift hc)

theorem canonical_execBfx {f : Fields} {s : State} (hc : s.canonical = true) : canonicalNext (execBfx f s) = true :=
  canonical_issue hc (fun _ => canonical_intBinary hc)

theorem canonical_execBfi {f : Fields} {s : State} (hc : s.canonical = true) : canonicalNext (execBfi f s) = true :=
  canonical_issue hc (fun _ => canonical_intTernary hc)

theorem canonical_execPopc {f : Fields} {s : State} (hc : s.canonical = true) : canonicalNext (execPopc f s) = true :=
  canonical_issue hc (fun _ => canonical_intUnary hc)

theorem canonical_execClz {f : Fields} {s : State} (hc : s.canonical = true) : canonicalNext (execClz f s) = true :=
  canonical_issue hc (fun _ => canonical_intUnary hc)

theorem canonical_execBrev {f : Fields} {s : State} (hc : s.canonical = true) : canonicalNext (execBrev f s) = true :=
  canonical_issue hc (fun _ => canonical_intUnary hc)

theorem canonical_execPermb {f : Fields} {s : State} (hc : s.canonical = true) : canonicalNext (execPermb f s) = true :=
  canonical_issue hc (fun _ => canonical_writeLanes hc)

theorem canonical_execIcmp {f : Fields} {s : State} (hc : s.canonical = true) : canonicalNext (execIcmp f s) = true :=
  canonical_issue hc (fun _ => canonical_writePred hc)

theorem canonical_execPlop {f : Fields} {s : State} (hc : s.canonical = true) : canonicalNext (execPlop f s) = true :=
  canonical_issue hc (fun _ => canonical_writePred hc)

theorem canonical_execVote {f : Fields} {s : State} (hc : s.canonical = true) : canonicalNext (execVote f s) = true := by
  refine canonical_issue hc (fun _ => ?_)
  split
  · exact canonical_writePred hc
  · exact canonical_writePred hc
  · exact canonical_writePred hc
  · exact canonical_laneOrScalar hc

theorem canonical_execCvti {f : Fields} {s : State} (hc : s.canonical = true) : canonicalNext (execCvti f s) = true :=
  canonical_issue hc (fun _ => canonical_laneOrScalar hc)

theorem canonical_execPack {f : Fields} {s : State} (hc : s.canonical = true) : canonicalNext (execPack f s) = true :=
  canonical_issue hc (fun _ => canonical_writeLanes hc)

theorem canonical_execUnpk {f : Fields} {s : State} (hc : s.canonical = true) : canonicalNext (execUnpk f s) = true :=
  canonical_issue hc (fun _ => canonical_writeLanes hc)

theorem canonical_execShfl {f : Fields} {s : State} (hc : s.canonical = true) : canonicalNext (execShfl f s) = true :=
  canonical_issue hc (fun _ => canonical_writeLanes hc)

theorem canonical_execRds {f : Fields} {s : State} (hc : s.canonical = true) : canonicalNext (execRds f s) = true :=
  canonical_issue hc (fun _ => canonical_laneOrScalar hc)

theorem canonical_execWrs {f : Fields} {s : State} (hc : s.canonical = true) : canonicalNext (execWrs f s) = true :=
  canonical_issueWith hc (fun _ => keeps_ite hc (canonical_updCur hc))

theorem canonical_execMovem {f : Fields} {s : State} (hc : s.canonical = true) : canonicalNext (execMovem f s) = true :=
  canonical_issueWith hc (fun _ => canonical_updPath hc)

theorem canonical_execLea {f : Fields} {s : State} (hc : s.canonical = true) : canonicalNext (execLea f s) = true :=
  canonical_issue hc (fun _ => canonical_laneOrScalar hc)

/-! ## Floating-point words -/

theorem canonical_fp32Binary {e : Env} {s : State} {g : FVal → FVal → FVal × Nat} (hc : s.canonical = true) :
    (fp32Binary e s g).canonical = true :=
  canonical_fpInstr hc

theorem canonical_execFadd {f : Fields} {s : State} (hc : s.canonical = true) : canonicalNext (execFadd f s) = true :=
  canonical_issue hc (fun _ => canonical_fp32Binary hc)

theorem canonical_execFsub {f : Fields} {s : State} (hc : s.canonical = true) : canonicalNext (execFsub f s) = true :=
  canonical_issue hc (fun _ => canonical_fp32Binary hc)

theorem canonical_execFmul {f : Fields} {s : State} (hc : s.canonical = true) : canonicalNext (execFmul f s) = true :=
  canonical_issue hc (fun _ => canonical_fp32Binary hc)

theorem canonical_execFfma {f : Fields} {s : State} (hc : s.canonical = true) : canonicalNext (execFfma f s) = true :=
  canonical_issue hc (fun _ => canonical_fpInstr hc)

theorem canonical_fpMinMax {e : Env} {s : State} {hi : Bool} (hc : s.canonical = true) : (fpMinMax e s hi).canonical = true := canonical_fpInstr hc

theorem canonical_execFmin {f : Fields} {s : State} (hc : s.canonical = true) : canonicalNext (execFmin f s) = true :=
  canonical_issue hc (fun _ => canonical_fpMinMax hc)

theorem canonical_execFmax {f : Fields} {s : State} (hc : s.canonical = true) : canonicalNext (execFmax f s) = true :=
  canonical_issue hc (fun _ => canonical_fpMinMax hc)

theorem canonical_execFcmp {f : Fields} {s : State} (hc : s.canonical = true) : canonicalNext (execFcmp f s) = true :=
  canonical_issue hc (fun _ => canonical_fpCompare hc)

theorem canonical_execDcmp {f : Fields} {s : State} (hc : s.canonical = true) : canonicalNext (execDcmp f s) = true :=
  canonical_issue hc (fun _ => canonical_fpCompare hc)

theorem canonical_execFclass {f : Fields} {s : State} (hc : s.canonical = true) : canonicalNext (execFclass f s) = true :=
  canonical_issue hc (fun _ => canonical_fpInstr hc)

theorem canonical_execDadd {f : Fields} {s : State} (hc : s.canonical = true) : canonicalNext (execDadd f s) = true :=
  canonical_issue hc (fun _ => canonical_fpInstr hc)

theorem canonical_execDmul {f : Fields} {s : State} (hc : s.canonical = true) : canonicalNext (execDmul f s) = true :=
  canonical_issue hc (fun _ => canonical_fpInstr hc)

theorem canonical_execDfma {f : Fields} {s : State} (hc : s.canonical = true) : canonicalNext (execDfma f s) = true :=
  canonical_issue hc (fun _ => canonical_fpInstr hc)

theorem canonical_packedFloat {e : Env} {s : State} {g : FVal → FVal → FVal → FVal × Nat} (hc : s.canonical = true) :
    (packedFloat e s g).canonical = true :=
  canonical_fpInstr hc

theorem canonical_execPkadd {f : Fields} {s : State} (hc : s.canonical = true) : canonicalNext (execPkadd f s) = true :=
  canonical_issue hc (fun _ => canonical_packedFloat hc)

theorem canonical_execPkmul {f : Fields} {s : State} (hc : s.canonical = true) : canonicalNext (execPkmul f s) = true :=
  canonical_issue hc (fun _ => canonical_packedFloat hc)

theorem canonical_execPkfma {f : Fields} {s : State} (hc : s.canonical = true) : canonicalNext (execPkfma f s) = true :=
  canonical_issue hc (fun _ => canonical_packedFloat hc)

theorem canonical_dotProduct {e : Env} {s : State} {n : Nat} (hc : s.canonical = true) : (dotProduct e s n).canonical = true := canonical_fpInstr hc

theorem canonical_execDot4 {f : Fields} {s : State} (hc : s.canonical = true) : canonicalNext (execDot4 f s) = true :=
  canonical_issue hc (fun _ => canonical_dotProduct hc)

theorem canonical_execDot8 {f : Fields} {s : State} (hc : s.canonical = true) : canonicalNext (execDot8 f s) = true :=
  canonical_issue hc (fun _ => canonical_dotProduct hc)

theorem canonical_execDot2 {f : Fields} {s : State} (hc : s.canonical = true) : canonicalNext (execDot2 f s) = true :=
  canonical_issue hc (fun _ => canonical_dotProduct hc)

theorem canonical_execRedw {f : Fields} {s : State} (hc : s.canonical = true) : canonicalNext (execRedw f s) = true :=
  canonical_issue hc (fun _ => keeps_ite hc (canonical_finishFlags (keeps_ite (canonical_setScalar hc) (canonical_writeLanes hc))))

end Sys2Proof.Machine
end

section
/-!
PROOF. Storage stays canonical: the copy engine, jars and collectives, matrix words and gangs.
-/

namespace Sys2Proof.Machine

/-! ## The copy engine -/

theorem canonical_issueCopy {s : State} {e : Env} {kind : OpKind} {regWork memory : Bool} {accs : List Access} (hc : s.canonical = true) :
    (issueCopy s e kind regWork memory accs).canonical = true :=
  keeps_ite (canonical_tryAgain hc) (keeps_ite (canonical_updCur (canonical_pushOp hc)) (canonical_pushOp hc))

theorem canonical_issueIdle {s : State} {e : Env} (hc : s.canonical = true) : (issueIdle s e).canonical = true :=
  keeps_ite (canonical_tryAgain hc) (canonical_lower (canonical_pushOp hc))

theorem canonical_execCpy {f : Fields} {s : State} (hc : s.canonical = true) : canonicalNext (execCpy f s) = true := by
  refine canonical_issue hc (fun _ => ?_)
  refine keeps_ite (canonical_issueIdle hc) ?_
  refine keeps_ite canonical_illegal ?_
  refine keeps_ite (canonical_issueIdle hc) ?_
  dsimp only
  split
  · rfl
  · exact canonical_issueCopy hc

theorem canonical_execCpyt {f : Fields} {s : State} (hc : s.canonical = true) : canonicalNext (execCpyt f s) = true := by
  refine canonical_issue hc (fun _ => ?_)
  refine keeps_ite (canonical_issueIdle hc) ?_
  refine keeps_ite canonical_illegal ?_
  refine keeps_ite (canonical_issueIdle hc) ?_
  dsimp only
  split
  · rfl
  · exact canonical_issueCopy hc

theorem canonical_issueGather {s : State} {e : Env} {scatter : Bool} (hc : s.canonical = true) :
    (issueGather s e scatter).canonical = true := by
  refine keeps_ite (canonical_issueIdle hc) ?_
  refine keeps_ite canonical_illegal ?_
  refine keeps_ite canonical_faulting ?_
  split
  · rfl
  · exact keeps_ite (canonical_issueIdle hc) (canonical_issueCopy hc)

theorem canonical_execGath {f : Fields} {s : State} (hc : s.canonical = true) : canonicalNext (execGath f s) = true :=
  canonical_issue hc (fun _ => canonical_issueGather hc)

theorem canonical_execScat {f : Fields} {s : State} (hc : s.canonical = true) : canonicalNext (execScat f s) = true :=
  canonical_issue hc (fun _ => canonical_issueGather hc)

theorem canonical_failSide {s : State} {o : Op} {t : Team} {c : Context} {kind : Nat} {lev : Level} {bad : Int × Nat × AccRes}
    (hc : s.canonical = true) :
    (failSide s o t c kind lev bad).canonical = true := by
  refine keeps_ite (canonical_failAccess hc) ?_
  split
  · exact canonical_markFault hc
  · exact hc

theorem canonical_sideTouched {s : State} {t : Team} {c : Context} {lev : Level} {a : Int} {n : Nat} (hc : s.canonical = true) :
    (sideTouched s t c lev a n).canonical = true := by
  refine keeps_ite hc ?_
  refine canonical_foldl (fun _ _ h => ?_) hc
  split
  · exact canonical_grantCopies (canonical_noteAccess h)
  · exact h

theorem canonical_putPiece {s : State} {o : Op} {t : Team} {c : Context} {pa pte va : Nat} {bs : List Byte} (hc : s.canonical = true) :
    (putPiece s o t c pa pte va bs).canonical = true := by
  unfold putPiece
  split
  · exact canonical_enterVersion hc
  · exact keeps_ite (canonical_updSweep (canonical_updOp (canonical_storeHome (canonical_noteLine hc))))
      (canonical_updOp (canonical_storeHome (canonical_noteLine hc)))

theorem canonical_putSide {s : State} {o : Op} {t : Team} {c : Context} {lane : Nat} {lev : Level} {a : Int} {bs : List Byte}
    (hc : s.canonical = true) : (putSide s o t c lane lev a bs).1.canonical = true := by
  unfold putSide
  split
  · refine canonical_fst_fst_foldl (fun acc p h => ?_) hc
    dsimp only
    split
    · exact h
    split
    · split
      · exact canonical_markFault (canonical_noteAccess h)
      · exact canonical_putPiece (canonical_noteAccess h)
    · exact h
  · split
    · exact canonical_updOp (canonical_scrPuts hc)
    · exact hc

theorem canonical_noteMoved {s : State} {id : Nat} {glob : Bool} (hc : s.canonical = true) : (noteMoved s id glob).canonical = true :=
  canonical_updOp hc

/-- Data put piece by piece until a piece faults. -/
theorem canonical_putSides {s : State} {o : Op} {t : Team} {c : Context} {lane : Nat} {dl : Level} {data : List (Int × List Byte)}
    (hc : s.canonical = true) :
    (data.foldl (fun (acc : State × Bool) q => if acc.2 then acc else putSide acc.1 o t c lane dl q.1 q.2) (s, false)).1.canonical = true := by
  refine canonical_fst_foldl (fun acc q h => ?_) hc
  split
  · exact h
  · exact canonical_putSide h

theorem canonical_moveParts {s : State} {o : Op} {ordered : Bool} {dl sl : Level} {ps : List Part} (hc : s.canonical = true) :
    (moveParts s o ordered dl sl ps).canonical = true := by
  unfold moveParts
  split
  · exact hc
  refine keeps_ite (canonical_putSides (canonical_foldl (fun _ _ h => canonical_sideTouched h) hc)) ?_
  refine keeps_ite (canonical_noteMoved (canonical_putSides (canonical_foldl (fun _ _ h => canonical_sideTouched h) hc))) ?_
  split
  · exact canonical_updOp (canonical_putSides (canonical_foldl (fun _ _ h => canonical_sideTouched h) hc))
  · exact canonical_failSide (canonical_updOp (canonical_putSides (canonical_foldl (fun _ _ h => canonical_sideTouched h) hc)))

theorem canonical_moveGather {s : State} {o : Op} {scatter : Bool} {dl sl : Level} {dst src : Int} {e list k : Nat} (hc : s.canonical = true) :
    (moveGather s o scatter dl sl dst src e list k).canonical = true := by
  unfold moveGather
  split
  · exact hc
  split
  all_goals
    dsimp only
    split
    · exact canonical_markFault (canonical_updOp hc)
    · exact canonical_moveParts (canonical_updOp hc)

theorem canonical_issueSieve {s : State} {e : Env} {d : SieveDesc} (hc : s.canonical = true) : (issueSieve s e d).canonical = true := by
  refine keeps_ite canonical_illegal ?_
  refine keeps_ite canonical_faulting ?_
  refine keeps_ite canonical_faulting ?_
  refine keeps_ite canonical_faulting ?_
  refine keeps_ite canonical_faulting ?_
  split
  · exact canonical_faulting
  split
  · rfl
  · exact keeps_ite canonical_faulting (canonical_issueCopy hc)

theorem canonical_execQblk {f : Fields} {s : State} (hc : s.canonical = true) : canonicalNext (execQblk f s) = true := by
  refine canonical_issue hc (fun _ => ?_)
  refine keeps_ite (canonical_issueIdle hc) ?_
  refine keeps_ite (canonical_updCur hc) ?_
  refine keeps_ite canonical_faulting ?_
  split
  · rfl
  · exact keeps_ite (canonical_tryAgain hc) (canonical_issueSieve hc)
  · rfl

theorem canonical_writeSieve {s : State} {o : Op} {dst pid : Nat} {amax eps : W32} (hc : s.canonical = true) :
    (writeSieve s o dst pid amax eps).canonical = true := by
  unfold writeSieve
  split
  · exact hc
  refine canonical_noteMoved (canonical_updOp (canonical_updWave ?_))
  refine canonical_foldl (fun _ _ h => ?_) hc
  split
  · exact keeps_ite (canonical_scrPuts h) h
  · exact h

theorem canonical_putCore {s : State} {t : Team} {a : Nat} {bs : List Byte} (hc : s.canonical = true) :
    (putCore s t a bs).canonical = true := by
  unfold putCore
  split
  · exact canonical_scrPuts hc
  · exact hc

theorem canonical_withRing {s : State} {e : Env} {go : Nat → Ring → Verdict} (hg : ∀ k r, (go k r).canonical = true) :
    (withRing s e go).canonical = true := by
  refine keeps_ite canonical_illegal ?_
  refine keeps_ite canonical_faulting ?_
  split
  · exact canonical_faulting
  · exact keeps_ite canonical_illegal (hg _ _)

theorem canonical_execStgput {f : Fields} {s : State} (hc : s.canonical = true) : canonicalNext (execStgput f s) = true := by
  refine canonical_issue hc (fun _ => ?_)
  refine keeps_ite (canonical_issueIdle hc) ?_
  refine canonical_withRing (fun _ _ => ?_)
  split
  · rfl
  · exact keeps_ite (canonical_tryAgain hc) (canonical_issueCopy (canonical_putCore hc))

theorem canonical_execStgget {f : Fields} {s : State} (hc : s.canonical = true) : canonicalNext (execStgget f s) = true := by
  refine canonical_issue hc (fun _ => ?_)
  refine keeps_ite (canonical_issueIdle hc) ?_
  refine canonical_withRing (fun _ _ => ?_)
  split
  · rfl
  · exact keeps_ite (canonical_tryAgain hc) (canonical_issueCopy (canonical_putCore hc))

theorem canonical_execStgrel {f : Fields} {s : State} (hc : s.canonical = true) : canonicalNext (execStgrel f s) = true :=
  canonical_issue hc (fun _ => keeps_ite (canonical_issueIdle hc) (canonical_withRing (fun _ _ => canonical_issueCopy hc)))

theorem canonical_execStageSlotFree {op : Nat} {s : State} (hc : s.canonical = true) : canonicalNext (execStageSlotFree op s) = true := by
  unfold execStageSlotFree
  split
  · rfl
  split
  · split
    · exact keeps_ite (canonical_moveParts hc) rfl
    · rfl
  · rfl

theorem canonical_execStagePhaseReady {op : Nat} {s : State} (hc : s.canonical = true) :
    canonicalNext (execStagePhaseReady op s) = true := by
  unfold execStagePhaseReady
  split
  · rfl
  split
  · split
    · exact keeps_ite (canonical_moveParts hc) rfl
    · rfl
  · rfl

theorem canonical_invertPhase {s : State} {t : Team} {k n : Nat} (hc : s.canonical = true) : (invertPhase s t k n).canonical = true := by
  unfold invertPhase
  split
  · exact hc
  · exact canonical_putCore hc

theorem canonical_addFree {s : State} {t : Team} {k : Nat} (hc : s.canonical = true) : (addFree s t k).canonical = true := by
  unfold addFree
  split
  · exact hc
  · exact canonical_putCore hc

/-! ## Jars and collectives -/

theorem canonical_execTalloc {f : Fields} {s : State} (hc : s.canonical = true) : canonicalNext (execTalloc f s) = true := by
  refine canonical_issueWith hc (fun _ => ?_)
  refine keeps_ite (canonical_issueIdle hc) ?_
  exact keeps_ite canonical_illegal (keeps_ite canonical_faulting (canonical_issueCopy hc))

theorem canonical_putHandle {s : State} {tid wave k : Nat} {h : Word} (hc : s.canonical = true) :
    (putHandle s tid wave k h).canonical = true :=
  canonical_updWave hc

theorem canonical_startTalloc {s : State} {o : Op} {hd cd : Nat} {base control : Word} (hc : s.canonical = true) :
    (startTalloc s o hd cd base control).canonical = true := by
  unfold startTalloc
  split
  · exact hc
  split
  · exact canonical_noteMoved (canonical_updOp (canonical_putHandle (canonical_putHandle hc)))
  · exact canonical_noteMoved (canonical_updOp (canonical_putHandle (canonical_putHandle (canonical_setJar hc))))

theorem canonical_dropBoundary {e : Env} {s : State} (hc : s.canonical = true) : (dropBoundary e s).canonical = true :=
  keeps_ite (canonical_updCur hc) hc

theorem canonical_andThen {v : Verdict} {g : State → State} (hv : v.canonical = true)
    (hg : ∀ s, s.canonical = true → (g s).canonical = true) : (v.andThen g).canonical = true := by
  unfold Verdict.andThen
  split
  · exact hg _ hv
  · exact hv

theorem canonical_nullHandle {e : Env} {k : Nat} {s : State} (hc : s.canonical = true) : (nullHandle e k s).canonical = true := canonical_updCur hc

theorem canonical_dropHandle {s : State} {e : Env} {k : Nat} {h : Word} (hc : s.canonical = true) :
    (dropHandle s e k h).canonical = true := by
  refine keeps_ite (canonical_andThen (canonical_issueIdle hc) (fun _ h => canonical_dropBoundary h)) ?_
  refine keeps_ite (canonical_andThen (canonical_issueIdle hc) (fun _ h => canonical_dropBoundary (canonical_nullHandle h))) ?_
  refine keeps_ite canonical_handleFault ?_
  split
  · exact canonical_handleFault
  · exact canonical_andThen (canonical_issueCopy hc) (fun _ h => canonical_updCur h)

theorem canonical_retireHandle {s : State} {e : Env} {k : Nat} {h : Word} (hc : s.canonical = true) :
    (retireHandle s e k h).canonical = true := by
  unfold retireHandle
  split
  · exact canonical_handleFault
  refine keeps_ite canonical_handleFault ?_
  exact keeps_ite canonical_handleFault (canonical_andThen (canonical_issueCopy hc) (fun _ h => canonical_nullHandle h))

theorem canonical_execTdrop {f : Fields} {s : State} (hc : s.canonical = true) : canonicalNext (execTdrop f s) = true := by
  refine canonical_issueWith hc (fun _ => ?_)
  refine keeps_ite (canonical_issueIdle hc) ?_
  exact keeps_ite (canonical_tryAgain hc) (keeps_ite (canonical_retireHandle hc) (canonical_dropHandle hc))

theorem canonical_retireJar {s : State} {o : Op} {h : Word} (hc : s.canonical = true) : (retireJar s o h).canonical = true := by
  unfold retireJar
  split
  · exact hc
  · exact canonical_noteMoved (canonical_updOp (keeps_ite (canonical_setJar hc) hc))

theorem canonical_finishCopy {s : State} {id : Nat} (hc : s.canonical = true) : (finishCopy s id).canonical = true :=
  canonical_lower (canonical_updOp hc)

theorem canonical_publishJar {s : State} {o : Op} {h : Word} (hc : s.canonical = true) : (publishJar s o h).canonical = true := by
  unfold publishJar
  split
  · exact canonical_finishCopy hc
  · exact canonical_finishCopy (canonical_raiseHorizon (keeps_ite (canonical_setJar hc) hc))

theorem canonical_putCopy {s : State} {e : Env} {w : Wave} {h : Word} (hc : s.canonical = true) : (putCopy s e w h).canonical = true :=
  keeps_ite (canonical_updWave hc) (canonical_setScalar hc)

theorem canonical_copyHandle {s : State} {e : Env} {w : Wave} {h : Word} (hc : s.canonical = true) :
    (copyHandle s e w h).canonical = true := by
  refine keeps_ite (canonical_putCopy hc) ?_
  refine keeps_ite canonical_handleFault ?_
  refine keeps_ite (canonical_tryAgain hc) ?_
  split
  · exact canonical_handleFault
  refine keeps_ite ?_ (keeps_ite canonical_handleFault (keeps_ite canonical_handleFault (canonical_putCopy hc)))
  refine keeps_ite canonical_handleFault ?_
  exact keeps_ite canonical_illegal (keeps_ite (canonical_putCopy hc) (canonical_nullHandle (canonical_putCopy hc)))

theorem canonical_execTcopy {f : Fields} {s : State} (hc : s.canonical = true) : canonicalNext (execTcopy f s) = true := by
  refine canonical_issue hc (fun _ => ?_)
  refine keeps_ite hc ?_
  split
  · exact canonical_illegal
  · exact keeps_ite canonical_illegal (canonical_copyHandle hc)

theorem canonical_execTstat {f : Fields} {s : State} (hc : s.canonical = true) : canonicalNext (execTstat f s) = true :=
  canonical_issue hc (fun _ => keeps_ite hc (keeps_ite canonical_handleFault (keeps_ite (canonical_tryAgain hc) (canonical_setScalar hc))))

theorem canonical_execTsend {f : Fields} {s : State} (hc : s.canonical = true) : canonicalNext (execTsend f s) = true := by
  refine canonical_issueWith hc (fun _ => ?_)
  refine keeps_ite (canonical_issueIdle hc) ?_
  refine keeps_ite canonical_illegal ?_
  refine keeps_ite (canonical_tryAgain hc) ?_
  split
  · exact canonical_handleFault
  refine keeps_ite canonical_handleFault ?_
  refine keeps_ite (canonical_tryAgain hc) ?_
  exact canonical_andThen (canonical_issueCopy hc) (fun _ h1 => keeps_ite (canonical_nullHandle h1) h1)

theorem canonical_execTrecv {f : Fields} {s : State} (hc : s.canonical = true) : canonicalNext (execTrecv f s) = true :=
  canonical_issueWith hc (fun _ => keeps_ite (canonical_issueIdle hc) (keeps_ite canonical_illegal (canonical_issueCopy hc)))

theorem canonical_startTrecv {s : State} {o : Op} {hd : Nat} (hc : s.canonical = true) : (startTrecv s o hd).canonical = true := by
  unfold startTrecv
  split
  · exact hc
  · exact canonical_noteMoved (canonical_updOp (canonical_putHandle (keeps_ite (canonical_setJar (canonical_updCtx hc)) (canonical_updCtx hc))))

theorem canonical_opRecord {s : State} {o : Op} {type : Nat} {xaddr : Word} (hc : s.canonical = true) :
    (opRecord s o type xaddr).canonical = true := by
  unfold opRecord
  split
  · exact hc
  split
  · exact hc
  · exact canonical_postError (canonical_updSweep hc)

theorem canonical_sentAway {s : State} {c : Context} {h : Word} {dev : Nat} (hc : s.canonical = true) :
    (sentAway s c h dev).canonical = true :=
  keeps_ite (canonical_setJar hc) hc

theorem canonical_leaveJar {s : State} {o : Op} {c : Context} {h : Word} {dev : Nat} (hc : s.canonical = true) :
    (leaveJar s o c h dev).canonical = true :=
  keeps_ite (canonical_updOp (canonical_sentAway hc)) hc

theorem canonical_failSend {s : State} {o : Op} {c : Context} {h : Word} {dev : Nat} (hc : s.canonical = true) :
    (failSend s o c h dev).canonical = true :=
  canonical_finishCopy (canonical_opRecord (keeps_ite (canonical_setJar (canonical_leaveJar hc)) (canonical_leaveJar hc)))

theorem canonical_stillAway {s : State} {o : Op} {c : Context} {h : Word} {dev : Nat} (hc : s.canonical = true) :
    canonicalNext (stillAway s o c h dev) = true :=
  keeps_ite (canonical_leaveJar hc) rfl

theorem canonical_deposit {s : State} {o : Op} {c : Context} {h : Word} {dev : Nat} (hc : s.canonical = true) :
    (deposit s o c h dev).canonical = true :=
  canonical_finishCopy (canonical_updCtx (canonical_leaveJar hc))

theorem canonical_execMailboxDeposit {op : Nat} {s : State} (hc : s.canonical = true) : canonicalNext (execMailboxDeposit op s) = true := by
  unfold execMailboxDeposit
  split
  · rfl
  split
  · refine keeps_ite rfl ?_
    refine keeps_ite ?_ (keeps_ite (canonical_stillAway hc) (canonical_deposit hc))
    split
    · exact canonical_finishCopy (canonical_leaveJar hc)
    · exact canonical_failSend hc
    · exact canonical_stillAway hc
  · rfl

theorem canonical_takeAway {s : State} {x : Nat × Word × AwayAct} (hc : s.canonical = true) : (takeAway s x).canonical = true := by
  unfold takeAway
  split
  · exact hc
  refine keeps_ite hc ?_
  split <;> exact keeps_ite (canonical_setJar hc) hc

theorem canonical_execColl {f : Fields} {s : State} (hc : s.canonical = true) : canonicalNext (execColl f s) = true :=
  canonical_issueWith hc (fun _ => keeps_ite (canonical_issueIdle hc) (keeps_ite canonical_faulting (canonical_issueCopy hc)))

theorem canonical_failColl {s : State} {o : Op} (hc : s.canonical = true) : (failColl s o).canonical = true :=
  canonical_noteMoved (canonical_opRecord (canonical_updOp hc))

theorem canonical_keepBytes {s : State} {id : Nat} {bs : List Byte} (hc : s.canonical = true) : (keepBytes s id bs).canonical = true :=
  canonical_updOp hc

theorem canonical_readGroup {s : State} {o : Op} {t : Team} {c : Context} {dst src rec_ : Nat} (hc : s.canonical = true) :
    (readGroup s o t c dst src rec_).canonical = true := by
  unfold readGroup
  split
  · exact canonical_failSide hc
  · exact canonical_updOp (canonical_keepBytes (canonical_updCtx (canonical_sideTouched hc)))

theorem canonical_readMembers {s : State} {o : Op} {t : Team} {c : Context} {dst src : Nat} (hc : s.canonical = true) :
    (readMembers s o t c dst src).canonical = true := by
  refine keeps_ite (canonical_failColl hc) ?_
  split
  · exact canonical_failSide hc
  refine keeps_ite (canonical_failColl (canonical_sideTouched hc)) ?_
  split
  · exact canonical_markFault (canonical_sideTouched hc)
  · exact canonical_keepBytes (canonical_sideTouched hc)

theorem canonical_startColl {s : State} {o : Op} {dst src rec_ : Nat} (hc : s.canonical = true) :
    (startColl s o dst src rec_).canonical = true := by
  unfold startColl
  split
  · exact hc
  refine keeps_ite (canonical_failColl hc) ?_
  split
  · dsimp only
    split
    · exact keeps_ite (canonical_readMembers (canonical_readGroup hc)) (canonical_readGroup hc)
    · exact canonical_readGroup hc
  · dsimp only
    split
    · exact keeps_ite (canonical_readMembers hc) hc
    · exact hc

theorem canonical_runRound {s : State} {o : Op} {w : Wave} {t : Team} {c : Context} {dst src : Nat} {g : GroupRec} {peers : List CollPeer} {rank :
    Nat} (hc : s.canonical = true) :
    (runRound s o w t c dst src g peers rank).canonical = true := by
  unfold runRound
  split
  · exact canonical_failSide hc
  split
  · exact canonical_failSide hc
  · exact canonical_noteMoved (canonical_putSide (canonical_sideTouched hc))

theorem canonical_execCollRound {op : Nat} {peers : List CollPeer} {s : State} (hc : s.canonical = true) :
    canonicalNext (execCollRound op peers s) = true := by
  unfold execCollRound
  split
  · rfl
  split
  · split
    · rfl
    · exact keeps_ite rfl (keeps_ite (canonical_failColl hc) (canonical_runRound hc))
  · rfl

theorem canonical_startOp {s : State} {op : Op} (hc : s.canonical = true) : (startOp s op).canonical = true := by
  unfold startOp
  dsimp only
  split
  · exact canonical_moveParts (canonical_updOp hc)
  · exact canonical_moveGather (canonical_updOp hc)
  · exact canonical_writeSieve (canonical_updOp hc)
  · exact canonical_noteMoved (canonical_updOp hc)
  · exact canonical_startTalloc (canonical_updOp hc)
  · exact canonical_retireJar (canonical_updOp hc)
  · exact canonical_noteMoved (canonical_updOp hc)
  · exact canonical_startTrecv (canonical_updOp hc)
  · exact canonical_startColl (canonical_updOp hc)
  · exact canonical_updOp hc

theorem canonical_execCopyOperationStart {op : Nat} {s : State} (hc : s.canonical = true) :
    canonicalNext (execCopyOperationStart op s) = true := by
  unfold execCopyOperationStart
  split
  · rfl
  · exact keeps_ite (canonical_startOp hc) rfl

theorem canonical_completeCopy {s : State} {o : Op} (hc : s.canonical = true) : canonicalSome (completeCopy s o) = true := by
  unfold completeCopy
  split
  all_goals
    split
    · rfl
    · exact keeps_ite (canonical_publishJar hc) rfl
    · exact keeps_ite (canonical_finishCopy (canonical_invertPhase hc)) rfl
    · exact keeps_ite (canonical_finishCopy (canonical_addFree hc)) rfl
    · exact keeps_ite (canonical_finishCopy hc) rfl

theorem canonical_execCopyOperationComplete {op : Nat} {s : State} (hc : s.canonical = true) :
    canonicalNext (execCopyOperationComplete op s) = true := by
  unfold execCopyOperationComplete
  split
  · rfl
  · exact keeps_ite (canonical_orNotEnabled (canonical_completeCopy hc)) rfl

/-! ## Matrix words and gangs -/

theorem canonical_whenTile {s : State} {e : Env} {ks : List Nat} {v : Unit → Verdict} (hc : s.canonical = true)
    (hv : (v ()).canonical = true) : (whenTile s e ks v).canonical = true :=
  keeps_ite (canonical_tryAgain hc) hv

theorem canonical_pushMat {s : State} {e : Env} {cn : Option Nat} {k : Nat} {store : Bool} {lanes : W32} {kept : List Nat} {accs : List Access}
    (hc : s.canonical = true) :
    (pushMat s e cn k store lanes kept accs).canonical = true :=
  canonical_pushOp hc

theorem canonical_matEffect {s : State} {e : Env} {k : Nat} {regs : Bool} {lanes : W32} {kept : List Nat} {now : Wave → Wave}
    (hc : s.canonical = true) :
    (matEffect s e k regs lanes kept now).canonical = true :=
  keeps_ite (canonical_pushMat hc) (canonical_updCur hc)

theorem canonical_execAccz {f : Fields} {s : State} (hc : s.canonical = true) : canonicalNext (execAccz f s) = true :=
  canonical_issue hc (fun _ => canonical_matEffect hc)

theorem canonical_execAccmode {f : Fields} {s : State} (hc : s.canonical = true) : canonicalNext (execAccmode f s) = true :=
  canonical_issue hc (fun _ => canonical_matEffect hc)

theorem canonical_execBndset {f : Fields} {s : State} (hc : s.canonical = true) : canonicalNext (execBndset f s) = true :=
  canonical_issue hc (fun _ => keeps_ite canonical_illegal (canonical_matEffect hc))

theorem canonical_execBndrd {f : Fields} {s : State} (hc : s.canonical = true) : canonicalNext (execBndrd f s) = true :=
  canonical_issue hc (fun _ => keeps_ite hc (canonical_matEffect hc))

theorem canonical_execAccrd {f : Fields} {s : State} (hc : s.canonical = true) : canonicalNext (execAccrd f s) = true :=
  canonical_issue hc (fun _ => keeps_ite canonical_illegal (canonical_matEffect hc))

theorem canonical_execAccop {f : Fields} {s : State} (hc : s.canonical = true) : canonicalNext (execAccop f s) = true :=
  canonical_issue hc (fun _ => canonical_whenTile hc (keeps_ite canonical_faulting (canonical_updCur hc)))

theorem canonical_issueTile {s : State} {e : Env} {k : Nat} {kind : OpKind} {regWork : Bool} {accs : List Access} (hc : s.canonical = true) :
    (issueTile s e k kind regWork accs).canonical = true :=
  keeps_ite (canonical_tryAgain hc) (keeps_ite (canonical_pushMat hc) (canonical_pushOp hc))

theorem canonical_issueNoRows {s : State} {e : Env} (hc : s.canonical = true) : (issueNoRows s e).canonical = true :=
  keeps_ite (canonical_tryAgain hc) (canonical_lower (canonical_pushOp hc))

theorem canonical_execAccld {f : Fields} {s : State} (hc : s.canonical = true) : canonicalNext (execAccld f s) = true := by
  refine canonical_issue hc (fun _ => ?_)
  split
  · exact canonical_faulting
  refine keeps_ite canonical_illegal ?_
  refine keeps_ite (canonical_issueNoRows hc) ?_
  dsimp only
  split
  · rfl
  · exact canonical_issueTile hc

theorem canonical_execAccst {f : Fields} {s : State} (hc : s.canonical = true) : canonicalNext (execAccst f s) = true := by
  refine canonical_issue hc (fun _ => ?_)
  split
  · exact canonical_faulting
  refine keeps_ite (canonical_issueNoRows hc) ?_
  split
  · rfl
  · exact canonical_issueTile hc

theorem canonical_matTurn {s : State} {o : Op} {lanes : W32} (hc : s.canonical = true) : (matTurn s o lanes).canonical = true := by
  unfold matTurn
  split
  · exact canonical_completeOp hc
  split
  · exact canonical_completeOp (canonical_updWave hc)
  · exact canonical_completeOp (canonical_updWave hc)
  · exact canonical_completeOp (canonical_updWave hc)
  · exact canonical_completeOp (canonical_updWave hc)
  · exact keeps_ite (canonical_completeOp (canonical_updWave hc)) (canonical_updOp (canonical_updWave hc))
  · exact canonical_updOp hc
  · dsimp only
    split
    · exact canonical_completeOp hc
    · exact canonical_updOp hc
  · exact canonical_completeOp hc

theorem canonical_execLoadPerform {op : Nat} {lanes : W32} {s : State} (hc : s.canonical = true) :
    canonicalNext (execLoadPerform op lanes s) = true := by
  unfold execLoadPerform
  split
  · rfl
  split
  · exact keeps_ite (canonical_matTurn hc) rfl
  · exact canonical_performLoads hc

theorem canonical_execGangset {f : Fields} {s : State} (hc : s.canonical = true) : canonicalNext (execGangset f s) = true :=
  canonical_issue hc (fun _ => keeps_ite canonical_illegal (keeps_ite canonical_illegal (canonical_updCur hc)))

theorem canonical_execGangrel {f : Fields} {s : State} (hc : s.canonical = true) : canonicalNext (execGangrel f s) = true :=
  canonical_issue hc (fun _ => keeps_ite hc (canonical_breakGangs (canonical_updCur hc)))

theorem canonical_faultAll {s : State} {tid : Nat} {ks : List Nat} {fi : FaultInfo} (hc : s.canonical = true) :
    (faultAll s tid ks fi).canonical = true := by
  refine canonical_foldl (fun _ _ h => ?_) hc
  split
  · exact keeps_ite h (canonical_deliver (canonical_updWave h))
  · exact h

theorem canonical_arriveLatch {s : State} {e : Env} (hc : s.canonical = true) : (arriveLatch s e).canonical = true := by
  unfold arriveLatch
  dsimp only
  split
  · exact canonical_waitAs (canonical_updTeam hc)
  · exact keeps_ite (canonical_waitAs (canonical_updTeam hc)) (canonical_faultAll (canonical_updTeam hc))

theorem canonical_issueMma {s : State} {e : Env} {quarters : Bool} (hc : s.canonical = true) : (issueMma s e quarters).canonical = true := by
  refine keeps_ite canonical_illegal ?_
  refine keeps_ite canonical_illegal ?_
  refine keeps_ite canonical_illegal ?_
  refine keeps_ite (canonical_tryAgain hc) ?_
  exact keeps_ite (canonical_deliver (canonical_updCur hc)) (keeps_ite hc (canonical_arriveLatch hc))

theorem canonical_execMma {f : Fields} {s : State} (hc : s.canonical = true) : canonicalNext (execMma f s) = true :=
  canonical_issue hc (fun _ => canonical_issueMma hc)

theorem canonical_execMmar {f : Fields} {s : State} (hc : s.canonical = true) : canonicalNext (execMmar f s) = true :=
  canonical_issue hc (fun _ => canonical_issueMma hc)

theorem canonical_releaseMember {tid : Nat} {s : State} {k : Nat} (hc : s.canonical = true) : (releaseMember tid s k).canonical = true := by
  unfold releaseMember
  split
  · refine keeps_ite ?_ ?_
    · refine canonical_makeReady ?_
      split
      · exact canonical_retire (canonical_updCur hc)
      · exact canonical_updCur (canonical_updCur hc)
    · split
      · exact canonical_retire (canonical_updCur hc)
      · exact canonical_updCur (canonical_updCur hc)
  · dsimp only
    split
    · exact canonical_retire (canonical_updCur hc)
    · exact canonical_updCur (canonical_updCur hc)

theorem canonical_execRendezvousLatchExit {tid leader : Nat} {s : State} (hc : s.canonical = true) :
    canonicalNext (execRendezvousLatchExit tid leader s) = true := by
  unfold execRendezvousLatchExit
  split
  · rfl
  split
  · rfl
  refine keeps_ite rfl ?_
  split
  · rfl
  split
  · exact canonical_faultAll (canonical_updTeam hc)
  · exact canonical_foldl (fun _ _ h => canonical_releaseMember h) (canonical_updWave (canonical_updTeam hc))

theorem canonical_stopOther {s : State} {w : Wave} (hc : s.canonical = true) : (stopOther s w).canonical = true := keeps_ite hc (canonical_updWave hc)

theorem canonical_endMember {s : State} {tid k : Nat} (hc : s.canonical = true) : (endMember s tid k).canonical = true := by
  unfold endMember
  split
  · exact canonical_endWave (canonical_discardTask hc)
  · exact hc

theorem canonical_loseMember {s : State} {w : Wave} (hc : s.canonical = true) : (loseMember s w).canonical = true := by
  refine canonical_foldl (fun _ _ h => ?_) (canonical_foldl (fun _ _ h => canonical_stopOther h) (canonical_endMember (canonical_updTeam hc)))
  refine keeps_ite h ?_
  split
  · exact h
  · exact keeps_ite h (keeps_ite (canonical_endMember h) (canonical_deliver (canonical_updWave h)))

theorem canonical_execGangLostHandlerLimit {tid : Nat} {s : State} (hc : s.canonical = true) :
    canonicalNext (execGangLostHandlerLimit tid s) = true := by
  unfold execGangLostHandlerLimit
  split
  · rfl
  · exact keeps_ite (canonical_endTeam (canonical_updTeam hc)) rfl

end Sys2Proof.Machine
end

section
/-!
PROOF. Storage stays canonical: traps, saves and commits, answers to faults, and the words of the transcendental unit.
-/

namespace Sys2Proof.Machine

/-! ## Replay, pre-emption and imprecise faults -/

theorem canonical_rephase {s : State} {id : Nat} (hc : s.canonical = true) : (rephase s id).canonical = true := canonical_lower (canonical_updOp hc)
theorem canonical_reopen {s : State} {id : Nat} (hc : s.canonical = true) : (reopen s id).canonical = true := canonical_rephase (canonical_updOp hc)

theorem canonical_setAccesses {s : State} {id : Nat} {k : OpKind} {kept : List Nat} {xs : List Access} (hc : s.canonical = true) :
    (setAccesses s id k kept xs).canonical = true :=
  canonical_lower (canonical_updOp hc)

theorem canonical_replayReported {s : State} {id : Nat} {mask : W32} (hc : s.canonical = true) :
    (replayReported s id mask).canonical = true := by
  unfold replayReported
  split
  · exact hc
  split
  · exact canonical_setAccesses hc
  · exact canonical_rephase (canonical_updOp hc)

theorem canonical_awaitJar {s : State} {tid wave : Nat} (hc : s.canonical = true) : (awaitJar s tid wave).canonical = true := by
  unfold awaitJar
  split
  · exact hc
  split
  · exact hc
  · exact canonical_updWave hc

theorem canonical_releaseReplayed {s : State} {o : Op} (hc : s.canonical = true) : (releaseReplayed s o).canonical = true := by
  unfold releaseReplayed
  dsimp only
  split
  · exact canonical_setAccesses hc
  · exact canonical_rephase hc

theorem canonical_execLdtRelease {tid wave : Nat} {s : State} (hc : s.canonical = true) :
    canonicalNext (execLdtRelease tid wave s) = true := by
  unfold execLdtRelease
  split
  · split
    · split
      · rfl
      refine keeps_ite rfl ?_
      refine canonical_makeReady ?_
      split
      · exact canonical_releaseReplayed hc
      · exact hc
    · rfl
  · rfl

theorem canonical_awaitRow {s : State} {tid wave : Nat} (hc : s.canonical = true) : (awaitRow s tid wave).canonical = true := by
  unfold awaitRow
  split
  · exact canonical_updWave hc
  · exact hc

theorem canonical_replaySet {a : AgentRef} {s : State} {ids : List Nat} {mask : W32} (hc : s.canonical = true) :
    (replaySet a s ids mask).canonical = true :=
  canonical_awaitJar (canonical_awaitRow (canonical_foldl (fun _ _ h => keeps_ite (canonical_replayReported h) (canonical_reopen h)) hc))

theorem canonical_resumeParked {s : State} {tid wave : Nat} (hc : s.canonical = true) : (resumeParked s tid wave).canonical = true := by
  unfold resumeParked
  split
  · exact hc
  refine keeps_ite hc ?_
  refine keeps_ite (canonical_foldl (fun _ _ h => canonical_rephase h) hc) ?_
  refine keeps_ite (canonical_awaitRow (canonical_makeReady (canonical_foldl (fun _ _ h => canonical_rephase h) (canonical_foldl
      (fun _ _ h => canonical_rephase h) hc)))) ?_
  exact canonical_foldl (fun _ _ h => canonical_rephase h) (canonical_foldl (fun _ _ h => canonical_rephase h) hc)

theorem canonical_deliverFaults {s : State} {w : Wave} {fs : List Op} (hc : s.canonical = true) :
    canonicalSome (deliverFaults s w fs) = true := by
  unfold deliverFaults
  split
  · rfl
  · exact State.canonical_of_eq (canonical_deliver (canonical_leaveRounds hc)) rfl rfl rfl

theorem canonical_execImpreciseFaultDelivery {tid wave : Nat} {s : State} (hc : s.canonical = true) :
    canonicalNext (execImpreciseFaultDelivery tid wave s) = true := by
  unfold execImpreciseFaultDelivery
  split
  · rfl
  dsimp only
  split
  · exact keeps_ite (canonical_recallLane hc) rfl
  refine keeps_ite rfl (keeps_ite (keeps_ite (canonical_updWave hc) rfl) (keeps_ite ?_ rfl))
  split
  · exact canonical_of_some (canonical_deliverFaults hc) ‹_›
  · rfl

theorem canonical_execPreemptRequest {tid : Nat} {abort : Bool} {s : State} (hc : s.canonical = true) :
    canonicalNext (execPreemptRequest tid abort s) = true := by
  unfold execPreemptRequest
  split
  · rfl
  split
  · rfl
  · exact keeps_ite rfl (State.canonical_of_eq hc rfl rfl rfl)

theorem canonical_stopWave {s : State} {tid wave : Nat} (hc : s.canonical = true) : (stopWave s tid wave).canonical = true := canonical_updWave hc

theorem canonical_execPreemptDeadline {tid wave : Nat} {s : State} (hc : s.canonical = true) :
    canonicalNext (execPreemptDeadline tid wave s) = true := by
  unfold execPreemptDeadline
  split
  · rfl
  · exact keeps_ite (canonical_stopWave hc) rfl

theorem canonical_execHandlerAllowance {tid wave : Nat} {s : State} (hc : s.canonical = true) :
    canonicalNext (execHandlerAllowance tid wave s) = true := by
  unfold execHandlerAllowance
  split
  · rfl
  · exact keeps_ite (canonical_stopWave hc) rfl

/-! ## System words -/

theorem canonical_execTrap {f : Fields} {s : State} (hc : s.canonical = true) : canonicalNext (execTrap f s) = true :=
  canonical_issue hc (fun _ => canonical_faulting)

theorem canonical_writeFinished {s : State} {ids : List Nat} (hc : s.canonical = true) : (writeFinished s ids).canonical = true := by
  refine canonical_foldl (fun _ _ h => ?_) hc
  split
  · exact keeps_ite (canonical_writeAtomLanes h) h
  · exact h

theorem canonical_execRtt {f : Fields} {s : State} (hc : s.canonical = true) : canonicalNext (execRtt f s) = true := by
  refine canonical_issueWith hc (fun _ => ?_)
  split
  · exact canonical_illegal
  refine keeps_ite (canonical_endWave hc) ?_
  refine keeps_ite (keeps_ite (canonical_returnFrom hc (fun _ _ _ h1 => canonical_replaySet h1)) (canonical_tryAgain hc)) ?_
  refine keeps_ite rfl ?_
  split
  · rfl
  · exact canonical_returnFrom (canonical_writeFinished hc) (fun _ _ _ h1 => canonical_replaySet h1)

theorem canonical_execTmask {f : Fields} {s : State} (hc : s.canonical = true) : canonicalNext (execTmask f s) = true :=
  canonical_issueWith hc (fun _ => canonical_updCur (canonical_writeScalar hc))

theorem canonical_execBkpt {f : Fields} {s : State} (hc : s.canonical = true) : canonicalNext (execBkpt f s) = true :=
  canonical_issue hc (fun _ => keeps_ite hc (keeps_ite (canonical_updCur hc) canonical_faulting))

theorem canonical_execStopw {f : Fields} {s : State} (hc : s.canonical = true) : canonicalNext (execStopw f s) = true :=
  canonical_issue hc (fun _ => keeps_ite (canonical_updSweep hc) hc)

theorem canonical_noteDiverged {s : State} {e : Env} (hc : s.canonical = true) : (noteDiverged s e).canonical = true :=
  keeps_ite hc (canonical_postError hc)

theorem canonical_stampOf {s : State} {e : Env} (hc : s.canonical = true) : (stampOf s e).2.canonical = true := by
  unfold stampOf
  split
  · dsimp only
    split
    · exact hc
    · exact canonical_noteDiverged hc
  · exact canonical_logAppend hc
  · exact hc

theorem canonical_stampLog {s : State} {e : Env} (hc : s.canonical = true) : (stampLog s e).1.canonical = true := by
  unfold stampLog
  split
  · split
    · exact hc
    · exact keeps_ite hc (canonical_pageWait hc)
    · exact canonical_postError (canonical_updQueue hc)
    · exact hc
  · exact hc

theorem canonical_execTstamp {f : Fields} {s : State} (hc : s.canonical = true) : canonicalNext (execTstamp f s) = true := by
  refine canonical_issue hc (fun _ => ?_)
  refine keeps_ite hc ?_
  refine keeps_ite (canonical_tryAgain (canonical_stampLog hc)) ?_
  exact canonical_writeScalar (canonical_stampOf (canonical_stampLog hc))

theorem canonical_execRdsys {f : Fields} {s : State} (hc : s.canonical = true) : canonicalNext (execRdsys f s) = true := by
  refine canonical_issueWith hc (fun _ => ?_)
  split
  · exact canonical_writeScalar hc
  · exact canonical_illegal

theorem canonical_execWrsys {f : Fields} {s : State} (hc : s.canonical = true) : canonicalNext (execWrsys f s) = true :=
  canonical_issueWith hc (fun _ => canonical_updCur hc)

theorem canonical_execPerf {f : Fields} {s : State} (hc : s.canonical = true) : canonicalNext (execPerf f s) = true :=
  canonical_issueWith hc (fun _ => canonical_writeScalar hc)

theorem canonical_discardCopies {s : State} {cid : Nat} {va n : Nat} (hc : s.canonical = true) :
    (discardCopies s cid va n).canonical = true :=
  canonical_evictHome (State.canonical_of_eq hc rfl rfl rfl)

theorem canonical_discardCode {s : State} {cid : Nat} {va n : Nat} (hc : s.canonical = true) :
    (discardCode s cid va n).canonical = true :=
  State.canonical_of_eq hc rfl rfl rfl

theorem canonical_execVcinv {f : Fields} {s : State} (hc : s.canonical = true) : canonicalNext (execVcinv f s) = true := by
  refine canonical_issue hc (fun _ => ?_)
  refine keeps_ite hc ?_
  split
  · exact canonical_faulting
  · exact keeps_ite (canonical_discardCode hc) (keeps_ite (canonical_tryAgain hc) (canonical_discardCopies hc))

/-! ## Saves, restores and commits -/

theorem canonical_writeOpen {c : Context} {s : State} {p : Nat × Nat} (hc : s.canonical = true) : (writeOpen c s p).canonical = true := by
  unfold writeOpen
  split
  · exact State.canonical_of_eq (canonical_writeNow (canonical_noteAlias hc)) rfl rfl rfl
  · exact hc

theorem canonical_writeArena {s : State} {c : Context} {a n : Nat} (hc : s.canonical = true) : (writeArena s c a n).canonical = true :=
  canonical_foldl (fun _ _ h => canonical_writeOpen h) hc

theorem canonical_saveWave {code : Nat} {s : State} {w : Wave} (hc : s.canonical = true) : (saveWave code s w).canonical = true :=
  canonical_updWave (keeps_ite (canonical_discardTask hc) hc)

theorem canonical_closeForSave {s : State} {t : Team} (hc : s.canonical = true) : (closeForSave s t).canonical = true :=
  canonical_updTeam (canonical_foldl (fun _ _ h => keeps_ite (canonical_returnSlot h) h) hc)

theorem canonical_saveTeam {s : State} {t : Team} {sw : Sweep} {c : Context} {a : Nat} (hc : s.canonical = true) :
    (saveTeam s t sw c a).canonical = true :=
  canonical_updTeam (canonical_writeArena (canonical_closeForSave (State.canonical_of_eq (canonical_foldl
      (fun _ _ h => canonical_saveWave h) hc) rfl rfl rfl)))

theorem canonical_execTeamSave {tid : Nat} {s : State} (hc : s.canonical = true) : canonicalNext (execTeamSave tid s) = true := by
  unfold execTeamSave
  split
  · rfl
  split
  · refine keeps_ite rfl ?_
    split
    · rfl
    split
    · exact canonical_saveTeam hc
    · exact canonical_noteFault hc
    · rfl
  · rfl

theorem canonical_reopenEntry {c : Context} {acc : State × List TriadEntry} {e : TriadEntry} (h : acc.1.canonical = true) :
    (reopenEntry c acc e).1.canonical = true := by
  unfold reopenEntry
  split
  · exact h
  · dsimp only
    split
    · split
      · have htaken := canonical_takeSlot h ‹_›
        exact keeps_ite htaken (canonical_openRows htaken)
      · exact h
    · exact h

theorem canonical_reopenTriads {s : State} {c : Context} {tid : Nat} (hc : s.canonical = true) :
    (reopenTriads s c tid).canonical = true := by
  unfold reopenTriads
  split
  · exact hc
  · exact canonical_updTeam (canonical_fst_foldl (fun _ _ h => canonical_reopenEntry h) hc)

theorem canonical_resumeSaved {s : State} {w : Wave} (hc : s.canonical = true) : (resumeSaved s w).canonical = true := by
  refine keeps_ite hc ?_
  refine keeps_ite (canonical_updWave hc) ?_
  dsimp only
  split
  · refine canonical_awaitJar (keeps_ite (canonical_makeReady (canonical_resumeParked (canonical_updWave hc))) ?_)
    exact canonical_resumeParked (canonical_updWave hc)
  · exact canonical_resumeParked (canonical_updWave hc)

theorem canonical_noteReload {s : State} {t : Team} (hc : s.canonical = true) : (noteReload s t).canonical = true :=
  keeps_ite (canonical_updSweep hc) hc

theorem canonical_execTeamRestore {tid : Nat} {s : State} (hc : s.canonical = true) : canonicalNext (execTeamRestore tid s) = true := by
  unfold execTeamRestore
  split
  · rfl
  split
  · refine keeps_ite rfl ?_
    refine keeps_ite (keeps_ite rfl (canonical_updTeam hc)) ?_
    refine canonical_foldl (fun _ _ h => canonical_resumeSaved h) ?_
    refine canonical_noteReload (keeps_ite (canonical_updTeam (State.canonical_of_eq (canonical_reloadBytes hc) rfl rfl rfl)) ?_)
    exact canonical_reopenTriads (canonical_updTeam (State.canonical_of_eq (canonical_reloadBytes hc) rfl rfl rfl))
  · rfl

theorem canonical_execPreemptAbort {tid : Nat} {s : State} (hc : s.canonical = true) : canonicalNext (execPreemptAbort tid s) = true := by
  unfold execPreemptAbort
  split
  · rfl
  split
  · exact keeps_ite (canonical_endTeam hc) rfl
  · exact keeps_ite (canonical_endTeam hc) rfl
  · rfl

theorem canonical_snapPut {s : State} {ref : SweepRef} {pa : Nat} {bs : List Byte} (hc : s.canonical = true) :
    (snapPut s ref pa bs).canonical = true :=
  canonical_updSweep hc

theorem canonical_atomicDone {s : State} {o : Op} {x : Access} {old t : Nat} (hc : s.canonical = true) :
    (atomicDone s o x old t).canonical = true :=
  canonical_settleOp (canonical_updAcc (canonical_updOp hc))

theorem canonical_commitScratch {s : State} {t : Team} {o : Op} {e : DetEntry} (hc : s.canonical = true) :
    (commitScratch s t o e).canonical = true := by
  unfold commitScratch
  split
  · exact hc
  next ps _ =>
    have hput : ∀ r : Option (List Byte), (match r with | some bs => scrPuts s ps bs | none => s).canonical = true := by
      rintro (_ | bs)
      · exact hc
      · exact canonical_scrPuts hc
    have hraised := fun r t => keeps_ite (P := State.canonical) (c := o.kind.isLsu = true) (canonical_raiseHorizon (tid := o.tid)
        (wave := o.wave) (t := t) (hput r)) (hput r)
    exact keeps_ite (canonical_atomicDone (hraised _ _)) (canonical_updOp (hraised _ _))

theorem canonical_commitInTask {s : State} {w : Wave} {k : Task} {c : Context} {o : Op} {e : DetEntry} (hc : s.canonical = true) :
    (commitInTask s w k c o e).canonical = true := by
  unfold commitInTask
  split
  · dsimp only
    split
    · exact canonical_markFault (canonical_updAcc hc)
    · exact canonical_settleOp (canonical_updAcc (canonical_enterAtomic hc))
  · dsimp only
    split
    · exact canonical_markFault (canonical_updAcc hc)
    · exact canonical_enterVersion hc

theorem canonical_commitLine {s : State} {c : Context} {o : Op} {e : DetEntry} (hc : s.canonical = true) :
    (commitLine s c o e).canonical = true := by
  unfold commitLine
  split
  · exact keeps_ite (canonical_leaveHome hc) (canonical_noteLine hc)
  · exact hc

theorem canonical_commitGlobal {s : State} {t : Team} {c : Context} {o : Op} {e : DetEntry} (hc : s.canonical = true) :
    (commitGlobal s t c o e).canonical = true := by
  have hstored : ∀ leased new, (atomicHome (commitLine s c o e) o.id leased e.pa e.acc.n new).1.canonical = true :=
    fun _ _ => canonical_atomicHome (canonical_commitLine hc)
  refine keeps_ite (canonical_atomicDone ?_) (canonical_updOp ?_)
  all_goals
    split
    · exact canonical_snapPut (keeps_ite (canonical_raiseHorizon (hstored _ _)) (hstored _ _))
    · exact keeps_ite (canonical_raiseHorizon (hstored _ _)) (hstored _ _)

theorem canonical_commitEntry {t : Team} {s : State} {e : DetEntry} (hc : s.canonical = true) : (commitEntry t s e).canonical = true := by
  unfold commitEntry
  split
  · refine keeps_ite (keeps_ite (canonical_commitScratch hc) hc) ?_
    split
    · exact canonical_commitInTask hc
    · exact canonical_commitGlobal hc
  · exact hc

theorem canonical_commitTeam {s : State} {t : Team} (hc : s.canonical = true) : (commitTeam s t).canonical = true :=
  canonical_foldl (fun _ _ h => canonical_settleOp h) (canonical_foldl (fun _ _ h => canonical_commitEntry h) (canonical_updTeam hc))

theorem canonical_armCopies {s : State} {ref : SweepRef} {n : Nat} (hc : s.canonical = true) : (armCopies s ref n).canonical = true :=
  State.canonical_of_eq hc rfl rfl rfl

theorem canonical_runSieve {s : State} {w : Wave} (hc : s.canonical = true) : (runSieve s w).canonical = true := by
  unfold runSieve
  split
  · dsimp only
    split
    next s2 hs2 =>
      have hsieved := canonical_of_next (canonical_execQblk (canonical_withCur (canonical_updWave hc))) hs2
      exact State.canonical_of_eq hsieved rfl rfl rfl
    next => exact hc
  · exact hc

theorem canonical_commitVersions {s : State} {t : Team} (hc : s.canonical = true) : (commitVersions s t).canonical = true := by
  refine canonical_foldl (fun _ _ h => ?_) hc
  split
  · exact canonical_commitTask (canonical_foldl (fun _ _ h1 => canonical_snapPut h1) h)
  · exact h

theorem canonical_passBoundary {s : State} {t : Team} (hc : s.canonical = true) : (passBoundary s t).canonical = true :=
  State.canonical_of_eq hc rfl rfl rfl

theorem canonical_placeAtCommit {s : State} {ref : SweepRef} (hc : s.canonical = true) : (placeAtCommit s ref).canonical = true :=
  canonical_foldl (fun _ _ h => canonical_placePass h) hc

theorem canonical_applyCommit {s : State} {ref : SweepRef} (hc : s.canonical = true) : (applyCommit s ref).canonical = true :=
  canonical_foldl (fun _ _ h => canonical_commitVersions h) (canonical_foldl (fun _ _ h => canonical_commitTeam h) (canonical_updSweep hc))

theorem canonical_closeQuantum {s : State} {ref : SweepRef} (hc : s.canonical = true) : (closeQuantum s ref).canonical = true := canonical_updSweep hc

theorem canonical_execQuantumCommit {ref : SweepRef} {s : State} (hc : s.canonical = true) :
    canonicalNext (execQuantumCommit ref s) = true := by
  unfold execQuantumCommit
  split
  · rfl
  refine keeps_ite rfl ?_
  dsimp only
  split
  · exact canonical_runSieve (canonical_armCopies (canonical_applyCommit hc))
  refine keeps_ite (canonical_armCopies (canonical_applyCommit hc)) ?_
  exact canonical_closeQuantum (canonical_placeAtCommit (canonical_foldl (fun _ _ h => canonical_passBoundary h) (canonical_armCopies
      (canonical_applyCommit hc))))

/-! ## Answers to faults -/

theorem canonical_execFaultRingSlotFree {cid : Nat} {s : State} (hc : s.canonical = true) :
    canonicalNext (execFaultRingSlotFree cid s) = true := by
  unfold execFaultRingSlotFree
  split
  · rfl
  · exact keeps_ite (canonical_writeRecords hc) rfl

theorem canonical_answerOp {s : State} {r : FaultRecord} {ok : Bool} {id : Nat} (hc : s.canonical = true) :
    (answerOp s r ok id).canonical = true := by
  unfold answerOp
  split
  · exact hc
  refine keeps_ite (canonical_updOp hc) ?_
  refine keeps_ite (keeps_ite (canonical_rephase (canonical_updOp hc)) (canonical_lower (State.canonical_of_eq hc rfl rfl rfl))) ?_
  refine keeps_ite (keeps_ite (canonical_rephase (canonical_updOp hc)) (canonical_updOp hc)) ?_
  exact canonical_resumeParked (canonical_updOp hc)

theorem canonical_answerSave {s : State} {ok : Bool} {tid : Nat} (hc : s.canonical = true) : (answerSave s ok tid).canonical = true :=
  keeps_ite hc (canonical_updTeam hc)

theorem canonical_answerWave {s : State} {r : FaultRecord} {ok : Bool} {tid wave va : Nat} (hc : s.canonical = true) :
    (answerWave s r ok tid wave va).canonical = true := by
  unfold answerWave
  split
  · exact hc
  refine keeps_ite hc ?_
  refine keeps_ite (keeps_ite (canonical_makeReady hc) hc) ?_
  exact keeps_ite (canonical_updWave (canonical_deliver hc)) (canonical_deliver hc)

theorem canonical_answerRake {s : State} {ok : Bool} {ref : SweepRef} {vdie va : Nat} (hc : s.canonical = true) :
    (answerRake s ok ref vdie va).canonical = true := by
  unfold answerRake
  split
  · dsimp only
    split <;> exact canonical_updRake hc
  · dsimp only
    split
    · exact canonical_updRake hc
    · exact canonical_stopRake (canonical_updRake hc)

theorem canonical_answerNode {s : State} {f : Code × Nat} {ok : Bool} {p : PktRef} {g : Graph} {k va : Nat} {n : GraphNode}
    (hc : s.canonical = true) :
    (answerNode s f ok p g k va n).canonical = true := by
  unfold answerNode
  split
  · exact keeps_ite (keeps_ite hc (canonical_readBody hc)) (canonical_refuseNode hc)
  · split
    · exact hc
    · exact keeps_ite (canonical_refuseWith hc) (canonical_failHead hc)
    · exact hc
  · exact keeps_ite hc (canonical_failPkt (canonical_dropPosting hc))

theorem canonical_failWaiting {s : State} {q : Queue} {raw : RawPkt} {f : Code × Nat} {va : Nat} (hc : s.canonical = true) :
    (failWaiting s q raw f va).canonical = true :=
  keeps_ite (canonical_refuseWith hc) (keeps_ite (canonical_updGraph hc) (canonical_failHead hc))

theorem canonical_failStarted {s : State} {p : PktRef} {kind : Nat} {f : Code × Nat} {va : Nat} (hc : s.canonical = true) :
    (failStarted s p kind f va).canonical = true := by
  refine keeps_ite (canonical_completePkt (State.canonical_of_eq hc rfl rfl rfl)) ?_
  exact canonical_failPkt (canonical_dropPosting hc)

theorem canonical_answerPacket {s : State} {r : FaultRecord} {ok : Bool} {p : PktRef} {va : Nat} (hc : s.canonical = true) :
    (answerPacket s r ok p va).canonical = true := by
  unfold answerPacket
  split
  · exact canonical_answerNode hc
  · exact hc
  refine keeps_ite hc ?_
  split
  · exact canonical_failWaiting hc
  split
  · exact canonical_failStarted hc
  · exact hc

theorem canonical_answerQueue {s : State} {r : FaultRecord} {ok : Bool} {ref : QRef} {va : Nat} (hc : s.canonical = true) :
    (answerQueue s r ok ref va).canonical = true := by
  unfold answerQueue
  split
  · exact canonical_haltQueue (canonical_foldl (fun _ _ h => canonical_postAdmin h) (canonical_updQueue hc))
  · exact hc

theorem canonical_followMove {s : State} {p : PktRef} {g : Nat} (hc : s.canonical = true) : (followMove s p g).canonical = true := by
  unfold followMove
  split
  · exact hc
  split
  · exact canonical_rebaseGranule hc
  · exact hc

theorem canonical_answerMigrate {s : State} {r : FaultRecord} {ok : Bool} {p : PktRef} {va : Nat} (hc : s.canonical = true) :
    (answerMigrate s r ok p va).canonical = true :=
  keeps_ite (canonical_completePkt (canonical_followMove hc)) (canonical_failPkt hc)

theorem canonical_answerWaiter {r : FaultRecord} {ok : Bool} {s : State} {w : Waiter × Nat} (hc : s.canonical = true) :
    (answerWaiter r ok s w).canonical = true := by
  unfold answerWaiter
  split
  · exact canonical_answerOp hc
  · exact canonical_answerWave hc
  · exact canonical_answerRake hc
  · exact canonical_answerPacket hc
  · exact canonical_answerQueue hc
  · exact canonical_answerMigrate hc
  · exact canonical_answerSave hc

theorem canonical_clearFt {s : State} {c : Context} {r : FaultRecord} (hc : s.canonical = true) : (clearFt s c r).canonical = true := by
  unfold clearFt
  split
  · exact canonical_writeFt hc
  · exact hc

theorem canonical_finishRecord {cid : Nat} {s : State} {r : FaultRecord} (hc : s.canonical = true) :
    (finishRecord cid s r).canonical = true := by
  unfold finishRecord
  split
  · refine keeps_ite hc ?_
    split
    · exact canonical_writeRecords (canonical_storeAfter (canonical_updCtx hc))
    · exact canonical_updCtx hc
  · exact hc

theorem canonical_finishAnswers {s : State} (hc : s.canonical = true) : (finishAnswers s).canonical = true :=
  canonical_foldl (fun _ _ h => canonical_foldl (fun _ _ h1 => canonical_finishRecord h1) h) hc

theorem canonical_answerRecord {s : State} {c : Context} {r : FaultRecord} {resolved : Bool} (hc : s.canonical = true) :
    (answerRecord s c r resolved).canonical = true :=
  canonical_foldl (fun _ _ h => canonical_answerWaiter h) (keeps_ite (canonical_clearFt (canonical_updCtx hc)) (canonical_updCtx hc))

theorem canonical_execFaultReply {cid seq : Nat} {s : State} (hc : s.canonical = true) :
    canonicalNext (execFaultReply cid seq s) = true := by
  unfold execFaultReply
  split
  · rfl
  · exact keeps_ite rfl (canonical_finishAnswers (canonical_answerRecord hc))

theorem canonical_execSecondStageResolution {cid granule : Nat} {resolved : Bool} {s : State} (hc : s.canonical = true) :
    canonicalNext (execSecondStageResolution cid granule resolved s) = true := by
  unfold execSecondStageResolution
  split
  · rfl
  · exact canonical_finishAnswers (canonical_answerRecord hc)

/-! ## Words of the transcendental unit -/

theorem canonical_fp32Unary {e : Env} {s : State} {g : FVal → FVal × Nat} (hc : s.canonical = true) :
    (fp32Unary e s g).canonical = true :=
  canonical_fpInstr hc

theorem canonical_execRcp {f : Fields} {s : State} (hc : s.canonical = true) : canonicalNext (execRcp f s) = true :=
  canonical_issue hc (fun _ => canonical_fp32Unary hc)

theorem canonical_execRsq {f : Fields} {s : State} (hc : s.canonical = true) : canonicalNext (execRsq f s) = true :=
  canonical_issue hc (fun _ => canonical_fp32Unary hc)

theorem canonical_execSqrt {f : Fields} {s : State} (hc : s.canonical = true) : canonicalNext (execSqrt f s) = true :=
  canonical_issue hc (fun _ => canonical_fp32Unary hc)

theorem canonical_execDivf {f : Fields} {s : State} (hc : s.canonical = true) : canonicalNext (execDivf f s) = true :=
  canonical_issue hc (fun _ => canonical_fp32Binary hc)

theorem canonical_execDdiv {f : Fields} {s : State} (hc : s.canonical = true) : canonicalNext (execDdiv f s) = true :=
  canonical_issue hc (fun _ => canonical_fpInstr hc)

theorem canonical_fnInstr {e : Env} {s : State} {zero : Bool → FVal × Nat} {infinite : Bool → FVal × Nat} {rule : Bool → Nat → Int → Except Nat
    FnVal} (hc : s.canonical = true) :
    (fnInstr e s zero infinite rule).canonical = true :=
  canonical_fpInstr hc

theorem canonical_execExp2 {f : Fields} {s : State} (hc : s.canonical = true) : canonicalNext (execExp2 f s) = true :=
  canonical_issue hc (fun _ => canonical_fnInstr hc)

theorem canonical_execLog2 {f : Fields} {s : State} (hc : s.canonical = true) : canonicalNext (execLog2 f s) = true :=
  canonical_issue hc (fun _ => canonical_fnInstr hc)

theorem canonical_execSin {f : Fields} {s : State} (hc : s.canonical = true) : canonicalNext (execSin f s) = true :=
  canonical_issue hc (fun _ => canonical_fnInstr hc)

theorem canonical_execCos {f : Fields} {s : State} (hc : s.canonical = true) : canonicalNext (execCos f s) = true :=
  canonical_issue hc (fun _ => canonical_fnInstr hc)

theorem canonical_execTanh {f : Fields} {s : State} (hc : s.canonical = true) : canonicalNext (execTanh f s) = true :=
  canonical_issue hc (fun _ => canonical_fnInstr hc)

theorem canonical_execCvt {f : Fields} {s : State} (hc : s.canonical = true) : canonicalNext (execCvt f s) = true :=
  canonical_issue hc (fun _ => canonical_fpInstr hc)

theorem canonical_execCvtfi {f : Fields} {s : State} (hc : s.canonical = true) : canonicalNext (execCvtfi f s) = true :=
  canonical_issue hc (fun _ => canonical_fpInstr hc)

theorem canonical_execCvtif {f : Fields} {s : State} (hc : s.canonical = true) : canonicalNext (execCvtif f s) = true :=
  canonical_issue hc (fun _ => canonical_fpInstr hc)

end Sys2Proof.Machine
end

section
/-!
PROOF. Storage stays canonical over every step (R78, R191 to R195): the helper, resets and errors, every instruction, and the passing of time.
-/

namespace Sys2Proof.Machine

/-! ## The helper -/

theorem canonical_helperExec {i : Instr} {s : State} (hc : s.canonical = true) : canonicalNext (helperExec i s) = true := by
  unfold helperExec
  split
  · exact canonical_execNop hc
  · exact canonical_execMov hc
  · exact canonical_execMovi hc
  · exact canonical_execSel hc
  · exact canonical_execIadd hc
  · exact canonical_execIsub hc
  · exact canonical_execImul hc
  · exact canonical_execImulh hc
  · exact canonical_execImad hc
  · exact canonical_execImadw hc
  · exact canonical_execImin hc
  · exact canonical_execImax hc
  · exact canonical_execIabs hc
  · exact canonical_execIaddc hc
  · exact canonical_execIadds hc
  · exact canonical_execIsubs hc
  · exact canonical_execAnd hc
  · exact canonical_execOr hc
  · exact canonical_execXor hc
  · exact canonical_execNot hc
  · exact canonical_execShl hc
  · exact canonical_execShr hc
  · exact canonical_execSar hc
  · exact canonical_execRol hc
  · exact canonical_execBfx hc
  · exact canonical_execBfi hc
  · exact canonical_execPopc hc
  · exact canonical_execClz hc
  · exact canonical_execBrev hc
  · exact canonical_execPermb hc
  · exact canonical_execIcmp hc
  · exact canonical_execFcmp hc
  · exact canonical_execFadd hc
  · exact canonical_execFsub hc
  · exact canonical_execFmul hc
  · exact canonical_execFfma hc
  · exact canonical_execFmin hc
  · exact canonical_execFmax hc
  · exact canonical_execFclass hc
  · exact canonical_execDadd hc
  · exact canonical_execDmul hc
  · exact canonical_execDfma hc
  · exact canonical_execPkadd hc
  · exact canonical_execPkmul hc
  · exact canonical_execPkfma hc
  · exact canonical_execDot4 hc
  · exact canonical_execDot8 hc
  · exact canonical_execDot2 hc
  · exact canonical_execShfl hc
  · exact canonical_execVote hc
  · exact canonical_execRedw hc
  · exact canonical_execRds hc
  · exact canonical_execWrs hc
  · exact canonical_execLea hc
  · exact canonical_execMovem hc
  · exact canonical_execPlop hc
  · exact canonical_execCvti hc
  · exact canonical_execPack hc
  · exact canonical_execUnpk hc
  · exact canonical_execDcmp hc
  · exact canonical_execRcp hc
  · exact canonical_execRsq hc
  · exact canonical_execSqrt hc
  · exact canonical_execExp2 hc
  · exact canonical_execLog2 hc
  · exact canonical_execSin hc
  · exact canonical_execCos hc
  · exact canonical_execTanh hc
  · exact canonical_execCvt hc
  · exact canonical_execCvtfi hc
  · exact canonical_execCvtif hc
  · exact canonical_execDivf hc
  · exact canonical_execDdiv hc
  · exact canonical_execLd hc
  · exact canonical_execSt hc
  · exact canonical_execLds hc
  · exact canonical_execSts hc
  · exact canonical_execAtom hc
  · exact canonical_execAcas hc
  · exact canonical_execAtoms hc
  · exact canonical_execLdu hc
  · exact canonical_execFence hc
  · exact canonical_execWaitc hc
  · exact canonical_execPref hc
  · exact canonical_execRowopen hc
  · exact canonical_execRowld hc
  · exact canonical_execRowst hc
  · exact canonical_execRowrel hc
  · exact canonical_execRowq hc
  · exact canonical_execLdt hc
  · exact canonical_execStf hc
  · exact canonical_execAmaxu hc
  · exact canonical_execAmaxswap hc
  · exact canonical_execLdb hc
  · exact canonical_execStb hc
  · exact canonical_execLnwb hc
  · exact canonical_execBra hc
  · exact canonical_execBraFar hc
  · exact canonical_execBrx hc
  · exact canonical_execCall hc
  · exact canonical_execIcall hc
  · exact canonical_execRet hc
  · exact canonical_execJoin hc
  split
  · exact canonical_recallLane hc
  · rfl

theorem canonical_helperOne {tid : Nat} {s : State} {q : Nat × Nat} (hc : s.canonical = true) :
    canonicalNext (helperOne tid s q) = true := by
  unfold helperOne
  split
  · rfl
  refine keeps_ite rfl ?_
  split
  · exact canonical_execClauseHeader (State.canonical_of_eq hc rfl rfl rfl)
  split
  · rfl
  split
  · exact canonical_helperExec (State.canonical_of_eq hc rfl rfl rfl)
  · exact canonical_recallLane (State.canonical_of_eq hc rfl rfl rfl)

theorem canonical_helperAll {tid : Nat} {group : List (Nat × Nat)} {s : State} (hc : s.canonical = true) :
    canonicalNext (helperAll tid group s) = true := by
  induction group generalizing s with
  | nil => exact hc
  | cons q r ih =>
    unfold helperAll
    split
    · exact ih (canonical_of_next (canonical_helperOne hc) ‹_›)
    · exact canonical_helperOne hc

theorem canonical_served {tid : Nat} {group : List (Nat × Nat)} {s : State} (hc : s.canonical = true) :
    (served tid group s).canonical = true :=
  canonical_foldl (fun _ _ h => canonical_updWave h) hc

theorem canonical_execHelperIssue {tid : Nat} {group : List (Nat × Nat)} {s : State} (hc : s.canonical = true) :
    canonicalNext (execHelperIssue tid group s) = true := by
  refine keeps_ite rfl ?_
  split
  · exact State.canonical_of_eq (canonical_served (canonical_of_next (canonical_helperAll hc) ‹_›)) rfl rfl rfl
  · exact canonical_helperAll hc

/-! ## Resets, errors and unmap -/

theorem canonical_execRegisterWrite {port offset : Nat} {value : BitVec 128} {s : State} (hc : s.canonical = true) :
    canonicalNext (execRegisterWrite port offset value s) = true := by
  refine keeps_ite rfl ?_
  refine keeps_ite (keeps_ite hc (State.canonical_of_eq hc rfl rfl rfl)) ?_
  exact keeps_ite (State.canonical_of_eq hc rfl rfl rfl) hc

theorem canonical_execIslandLevel {island : Nat} {value : Word} {s : State} (hc : s.canonical = true) :
    canonicalNext (execIslandLevel island value s) = true :=
  keeps_ite rfl (State.canonical_of_eq hc rfl rfl rfl)

theorem canonical_execPowerLimit {island : Nat} {s : State} (hc : s.canonical = true) : canonicalNext (execPowerLimit island s) = true :=
  keeps_ite (State.canonical_of_eq hc rfl rfl rfl) rfl

theorem canonical_execPowerLimitClear {island : Nat} {s : State} (hc : s.canonical = true) :
    canonicalNext (execPowerLimitClear island s) = true :=
  keeps_ite (State.canonical_of_eq hc rfl rfl rfl) rfl

theorem canonical_execThermalLimit {island : Nat} {held : Bool} {s : State} (hc : s.canonical = true) :
    canonicalNext (execThermalLimit island held s) = true :=
  keeps_ite rfl (State.canonical_of_eq hc rfl rfl rfl)

theorem canonical_spdmAnswer {s : State} {port : Nat} {go : State → SpdmAnswer × State} (hg : (go s).2.canonical = true) :
    canonicalNext (spdmAnswer s port go) = true :=
  keeps_ite rfl (State.canonical_of_eq hg rfl rfl rfl)

theorem canonical_spdmPlain {request : SpdmRequest} {s : State} (hc : s.canonical = true) : (spdmPlain request s).2.canonical = true := hc

theorem canonical_spdmSigned {request : SpdmRequest} {s : State} {answer : Nat → SpdmAnswer} (hc : s.canonical = true) :
    (spdmSigned request s answer).2.canonical = true := by
  unfold spdmSigned
  split
  · exact hc
  split
  · exact hc
  · exact State.canonical_of_eq hc rfl rfl rfl

theorem canonical_execGetVersion {port : Nat} {s : State} (hc : s.canonical = true) : canonicalNext (execGetVersion port s) = true :=
  canonical_spdmAnswer (canonical_spdmPlain hc)

theorem canonical_execGetCapabilities {port : Nat} {s : State} (hc : s.canonical = true) :
    canonicalNext (execGetCapabilities port s) = true :=
  canonical_spdmAnswer (canonical_spdmPlain hc)

theorem canonical_execNegotiateAlgorithms {port : Nat} {s : State} (hc : s.canonical = true) :
    canonicalNext (execNegotiateAlgorithms port s) = true :=
  canonical_spdmAnswer hc

theorem canonical_execGetDigests {port : Nat} {s : State} (hc : s.canonical = true) : canonicalNext (execGetDigests port s) = true :=
  canonical_spdmAnswer (canonical_spdmPlain hc)

theorem canonical_execGetCertificate {port : Nat} {s : State} (hc : s.canonical = true) :
    canonicalNext (execGetCertificate port s) = true :=
  canonical_spdmAnswer (canonical_spdmPlain hc)

theorem canonical_execChallenge {port : Nat} {s : State} (hc : s.canonical = true) : canonicalNext (execChallenge port s) = true :=
  canonical_spdmAnswer (canonical_spdmSigned hc)

theorem canonical_execGetMeasurements {port : Nat} {signed : Bool} {s : State} (hc : s.canonical = true) :
    canonicalNext (execGetMeasurements port signed s) = true := by
  refine canonical_spdmAnswer ?_
  split
  · exact canonical_spdmSigned hc
  · exact hc

theorem canonical_bootFirmware {s : State} {slot : Nat} (hc : s.canonical = true) : (bootFirmware s slot).canonical = true := by
  refine keeps_ite (State.canonical_of_eq (State.canonical_of_eq hc rfl rfl rfl) rfl rfl rfl) ?_
  exact State.canonical_of_eq hc rfl rfl rfl

theorem canonical_trainLinks {s : State} {b : BringUp} (hc : s.canonical = true) : (trainLinks s b).canonical = true :=
  State.canonical_of_eq hc rfl rfl rfl

theorem canonical_bringUp {s : State} {b : BringUp} (hc : s.canonical = true) : (bringUp s b).canonical = true := by
  unfold bringUp
  split
  · exact canonical_bootFails hc
  next slot _ =>
    have htrained := canonical_trainLinks (b := b) (canonical_bootFirmware (slot := slot) hc)
    split
    · exact canonical_bootFails hc
    · split
      · exact canonical_bootFails htrained
      · exact State.canonical_of_eq htrained rfl rfl rfl

theorem canonical_execColdReset {b : BringUp} {s : State} (hc : s.canonical = true) : canonicalNext (execColdReset b s) = true :=
  keeps_ite (canonical_bringUp (canonical_resetState hc)) rfl

theorem canonical_destroyContext {s : State} {cid : Nat} (hc : s.canonical = true) : (destroyContext s cid).canonical = true :=
  canonical_removeContext (canonical_foldl (fun _ _ h => canonical_endTeam h) (canonical_closeContext hc))

theorem canonical_execPortReset {port : Nat} {s : State} (hc : s.canonical = true) : canonicalNext (execPortReset port s) = true := by
  refine keeps_ite rfl ?_
  exact keeps_ite hc (State.canonical_of_eq (canonical_foldl (fun _ _ h => canonical_destroyContext h) hc) rfl rfl rfl)

theorem canonical_execDeviceNumberWrite {number : Byte} {s : State} (hc : s.canonical = true) :
    canonicalNext (execDeviceNumberWrite number s) = true :=
  keeps_ite (P := State.canonical) (State.canonical_of_eq hc rfl rfl rfl) hc

theorem canonical_failLostColls {s : State} (hc : s.canonical = true) : (failLostColls s).canonical = true := by
  refine canonical_foldl (fun _ _ h => ?_) hc
  split
  · exact keeps_ite (canonical_failColl h) h
  · exact h

theorem canonical_execSpanPortDown {port : Nat} {unreachable : List Nat} {s : State} (hc : s.canonical = true) :
    canonicalNext (execSpanPortDown port unreachable s) = true := by
  refine keeps_ite rfl (canonical_failLostColls (canonical_foldl (fun s d h => ?_) (State.canonical_of_eq hc rfl rfl rfl)))
  exact canonical_postAdmin (s := { s with errors := s.errors ++ [routeRecord s d] }) h

theorem canonical_fenceContext {d : Nat} {s : State} {c : Context} (hc : s.canonical = true) : (fenceContext d s c).canonical = true :=
  keeps_ite hc (State.canonical_of_eq hc rfl rfl rfl)

theorem canonical_execDieFence {die : Nat} {s : State} (hc : s.canonical = true) : canonicalNext (execDieFence die s) = true := by
  refine keeps_ite rfl ?_
  exact canonical_foldl (fun _ _ h => canonical_endTeam h) (canonical_foldl (fun _ _ h => canonical_fenceContext h)
      (State.canonical_of_eq hc rfl rfl rfl))

theorem canonical_spoilCopy {s : State} {p : CopyPlace} {pa : Nat} (hc : s.canonical = true) : canonicalSome (spoilCopy s p pa) = true :=
  keeps_ite (State.canonical_of_eq hc rfl rfl rfl) rfl

theorem canonical_execUncorrectableError {site : ErrorSite} {s : State} (hc : s.canonical = true) :
    canonicalNext (execUncorrectableError site s) = true := by
  have hmember : ∀ r : Option Wave, canonicalNext (orNotEnabled (r.map (loseMember s))) = true := by
    rintro (_ | w)
    · rfl
    · exact canonical_loseMember hc
  unfold execUncorrectableError
  split
  · exact keeps_ite (State.canonical_of_eq hc rfl rfl rfl) rfl
  · exact canonical_orNotEnabled (canonical_spoilCopy hc)
  · exact canonical_orNotEnabled (canonical_spoilCopy hc)
  · exact keeps_ite (State.canonical_of_eq hc rfl rfl rfl) rfl
  · exact keeps_ite (State.canonical_of_eq hc rfl rfl rfl) rfl
  · exact keeps_ite (State.canonical_of_eq hc rfl rfl rfl) rfl
  · split
    · exact keeps_ite rfl (canonical_endTeam hc)
    · rfl
  · exact hmember _
  · exact hmember _

theorem canonical_execSoftErrorSummary {s : State} (hc : s.canonical = true) : canonicalNext (execSoftErrorSummary s) = true := by
  have hposted := canonical_postAdmin (r := softRecord s) (s := { s with errors := s.errors ++ [softRecord s] }) hc
  exact keeps_ite rfl (State.canonical_of_eq (keeps_ite (c := s.corrected = 0) hc hposted) rfl rfl rfl)

theorem canonical_execPatrolScrub {line : Nat} {s : State} (hc : s.canonical = true) : canonicalNext (execPatrolScrub line s) = true :=
  keeps_ite (keeps_ite (P := State.canonical) (State.canonical_of_eq hc rfl rfl rfl) (State.canonical_of_eq hc rfl rfl rfl)) rfl

theorem canonical_dropAliases {s : State} {c : Context} {base count : Nat} (hc : s.canonical = true) :
    (dropAliases s c base count).canonical = true :=
  State.canonical_of_eq hc rfl rfl rfl

theorem canonical_unmapGranule {c : Context} {perm : UnmapPerm} {s : State} {g : Nat} (hc : s.canonical = true) :
    (unmapGranule c perm s g).canonical = true := by
  unfold unmapGranule
  split
  · exact hc
  · exact canonical_writeNow hc

theorem canonical_execUnmap {cid base count : Nat} {perm : UnmapPerm} {s : State} (hc : s.canonical = true) :
    canonicalNext (execUnmap cid base count perm s) = true := by
  unfold execUnmap
  split
  · rfl
  refine keeps_ite rfl ?_
  refine keeps_ite (canonical_dropTriads (canonical_discardCopies (canonical_foldl (fun _ _ h => canonical_unmapGranule h) (keeps_ite
      (canonical_dropAliases hc) hc)))) ?_
  exact canonical_discardCopies (canonical_foldl (fun _ _ h => canonical_unmapGranule h) (keeps_ite (canonical_dropAliases hc) hc))

/-! ## Every instruction -/

theorem canonical_exec {i : Instr} {s : State} (hc : s.canonical = true) :
    canonicalNext (exec i s) = true := by
  cases i with
  | nop => exact canonical_execNop hc
  | mov => exact canonical_execMov hc
  | movi => exact canonical_execMovi hc
  | sel => exact canonical_execSel hc
  | iadd => exact canonical_execIadd hc
  | isub => exact canonical_execIsub hc
  | imul => exact canonical_execImul hc
  | imulh => exact canonical_execImulh hc
  | imad => exact canonical_execImad hc
  | imadw => exact canonical_execImadw hc
  | imin => exact canonical_execImin hc
  | imax => exact canonical_execImax hc
  | iabs => exact canonical_execIabs hc
  | iaddc => exact canonical_execIaddc hc
  | iadds => exact canonical_execIadds hc
  | isubs => exact canonical_execIsubs hc
  | and => exact canonical_execAnd hc
  | or => exact canonical_execOr hc
  | xor => exact canonical_execXor hc
  | not => exact canonical_execNot hc
  | shl => exact canonical_execShl hc
  | shr => exact canonical_execShr hc
  | sar => exact canonical_execSar hc
  | rol => exact canonical_execRol hc
  | bfx => exact canonical_execBfx hc
  | bfi => exact canonical_execBfi hc
  | popc => exact canonical_execPopc hc
  | clz => exact canonical_execClz hc
  | brev => exact canonical_execBrev hc
  | permb => exact canonical_execPermb hc
  | icmp => exact canonical_execIcmp hc
  | fcmp => exact canonical_execFcmp hc
  | fadd => exact canonical_execFadd hc
  | fsub => exact canonical_execFsub hc
  | fmul => exact canonical_execFmul hc
  | ffma => exact canonical_execFfma hc
  | fmin => exact canonical_execFmin hc
  | fmax => exact canonical_execFmax hc
  | fclass => exact canonical_execFclass hc
  | dadd => exact canonical_execDadd hc
  | dmul => exact canonical_execDmul hc
  | dfma => exact canonical_execDfma hc
  | pkadd => exact canonical_execPkadd hc
  | pkmul => exact canonical_execPkmul hc
  | pkfma => exact canonical_execPkfma hc
  | dot4 => exact canonical_execDot4 hc
  | dot8 => exact canonical_execDot8 hc
  | dot2 => exact canonical_execDot2 hc
  | shfl => exact canonical_execShfl hc
  | vote => exact canonical_execVote hc
  | redw => exact canonical_execRedw hc
  | rds => exact canonical_execRds hc
  | wrs => exact canonical_execWrs hc
  | lea => exact canonical_execLea hc
  | movem => exact canonical_execMovem hc
  | plop => exact canonical_execPlop hc
  | cvti => exact canonical_execCvti hc
  | pack => exact canonical_execPack hc
  | unpk => exact canonical_execUnpk hc
  | dcmp => exact canonical_execDcmp hc
  | rcp => exact canonical_execRcp hc
  | rsq => exact canonical_execRsq hc
  | sqrt => exact canonical_execSqrt hc
  | exp2 => exact canonical_execExp2 hc
  | log2 => exact canonical_execLog2 hc
  | sin => exact canonical_execSin hc
  | cos => exact canonical_execCos hc
  | tanh => exact canonical_execTanh hc
  | cvt => exact canonical_execCvt hc
  | cvtfi => exact canonical_execCvtfi hc
  | cvtif => exact canonical_execCvtif hc
  | divf => exact canonical_execDivf hc
  | ddiv => exact canonical_execDdiv hc
  | ld => exact canonical_execLd hc
  | st => exact canonical_execSt hc
  | lds => exact canonical_execLds hc
  | sts => exact canonical_execSts hc
  | atom => exact canonical_execAtom hc
  | acas => exact canonical_execAcas hc
  | atoms => exact canonical_execAtoms hc
  | ldu => exact canonical_execLdu hc
  | fence => exact canonical_execFence hc
  | waitc => exact canonical_execWaitc hc
  | pref => exact canonical_execPref hc
  | rowopen => exact canonical_execRowopen hc
  | rowld => exact canonical_execRowld hc
  | rowst => exact canonical_execRowst hc
  | rowrel => exact canonical_execRowrel hc
  | rowq => exact canonical_execRowq hc
  | ldt => exact canonical_execLdt hc
  | stf => exact canonical_execStf hc
  | amaxu => exact canonical_execAmaxu hc
  | amaxswap => exact canonical_execAmaxswap hc
  | ldb => exact canonical_execLdb hc
  | stb => exact canonical_execStb hc
  | lnwb => exact canonical_execLnwb hc
  | mma => exact canonical_execMma hc
  | mmar => exact canonical_execMmar hc
  | accz => exact canonical_execAccz hc
  | accld => exact canonical_execAccld hc
  | accst => exact canonical_execAccst hc
  | accrd => exact canonical_execAccrd hc
  | accop => exact canonical_execAccop hc
  | bndset => exact canonical_execBndset hc
  | bndrd => exact canonical_execBndrd hc
  | gangset => exact canonical_execGangset hc
  | gangrel => exact canonical_execGangrel hc
  | accmode => exact canonical_execAccmode hc
  | cpy => exact canonical_execCpy hc
  | cpyt => exact canonical_execCpyt hc
  | gath => exact canonical_execGath hc
  | scat => exact canonical_execScat hc
  | qblk => exact canonical_execQblk hc
  | stgput => exact canonical_execStgput hc
  | stgget => exact canonical_execStgget hc
  | stgrel => exact canonical_execStgrel hc
  | talloc => exact canonical_execTalloc hc
  | tdrop => exact canonical_execTdrop hc
  | tcopy => exact canonical_execTcopy hc
  | tsend => exact canonical_execTsend hc
  | trecv => exact canonical_execTrecv hc
  | tstat => exact canonical_execTstat hc
  | coll => exact canonical_execColl hc
  | bra => exact canonical_execBra hc
  | braFar => exact canonical_execBraFar hc
  | brx => exact canonical_execBrx hc
  | call => exact canonical_execCall hc
  | icall => exact canonical_execIcall hc
  | ret => exact canonical_execRet hc
  | join => exact canonical_execJoin hc
  | bar => exact canonical_execBar hc
  | barc => exact canonical_execBarc hc
  | yield => exact canonical_execYield hc
  | exit => exact canonical_execExit hc
  | waitf => exact canonical_execWaitf hc
  | regget => exact canonical_execRegget hc
  | regput => exact canonical_execRegput hc
  | tbegin => exact canonical_execTbegin hc
  | tend => exact canonical_execTend hc
  | tabort => exact canonical_execTabort hc
  | loop => exact canonical_execLoop hc
  | sleep => exact canonical_execSleep hc
  | diehops => exact canonical_execDiehops hc
  | enq => exact canonical_execEnq hc
  | signal => exact canonical_execSignal hc
  | waits => exact canonical_execWaits hc
  | eject => exact canonical_execEject hc
  | trap => exact canonical_execTrap hc
  | rtt => exact canonical_execRtt hc
  | tstamp => exact canonical_execTstamp hc
  | rdsys => exact canonical_execRdsys hc
  | wrsys => exact canonical_execWrsys hc
  | vcinv => exact canonical_execVcinv hc
  | bkpt => exact canonical_execBkpt hc
  | stopw => exact canonical_execStopw hc
  | perf => exact canonical_execPerf hc
  | tmask => exact canonical_execTmask hc
  | clauseHeader => exact canonical_execClauseHeader hc
  | clauseWaitRelease => exact canonical_execClauseWaitRelease hc
  | helperIssue => exact canonical_execHelperIssue hc
  | loadPerform => exact canonical_execLoadPerform hc
  | storeAtHome => exact canonical_execStoreAtHome hc
  | storeCompletion => exact canonical_execStoreCompletion hc
  | atomicPerform => exact canonical_execAtomicPerform hc
  | copyOperationStart => exact canonical_execCopyOperationStart hc
  | copyOperationComplete => exact canonical_execCopyOperationComplete hc
  | stageSlotFree => exact canonical_execStageSlotFree hc
  | stagePhaseReady => exact canonical_execStagePhaseReady hc
  | mailboxDeposit => exact canonical_execMailboxDeposit hc
  | collRound => exact canonical_execCollRound hc
  | ldtRelease => exact canonical_execLdtRelease hc
  | barrierRelease => exact canonical_execBarrierRelease hc
  | joinRelease => exact canonical_execJoinRelease hc
  | reggetGrant => exact canonical_execReggetGrant hc
  | sleepWake => exact canonical_execSleepWake hc
  | waitsReload => exact canonical_execWaitsReload hc
  | rendezvousLatchExit => exact canonical_execRendezvousLatchExit hc
  | impreciseFaultDelivery => exact canonical_execImpreciseFaultDelivery hc
  | faultRingSlotFree => exact canonical_execFaultRingSlotFree hc
  | faultReply => exact canonical_execFaultReply hc
  | secondStageResolution => exact canonical_execSecondStageResolution hc
  | preemptRequest => exact canonical_execPreemptRequest hc
  | preemptDeadline => exact canonical_execPreemptDeadline hc
  | handlerAllowance => exact canonical_execHandlerAllowance hc
  | teamSave => exact canonical_execTeamSave hc
  | teamRestore => exact canonical_execTeamRestore hc
  | preemptAbort => exact canonical_execPreemptAbort hc
  | quantumCommit => exact canonical_execQuantumCommit hc
  | holdYield => exact canonical_execHoldYield hc
  | refreshDue => exact canonical_execRefreshDue hc
  | extentRelease => exact canonical_execExtentRelease hc
  | forcedExtentRelease => exact canonical_execForcedExtentRelease hc
  | chunkTake => exact canonical_execChunkTake hc
  | claim => exact canonical_execClaim hc
  | claimReturn => exact canonical_execClaimReturn hc
  | dibberPlacement => exact canonical_execDibberPlacement hc
  | teamGraft => exact canonical_execTeamGraft hc
  | wakeWrite => exact canonical_execWakeWrite hc
  | nopPacket => exact canonical_execNopPacket hc
  | sweep => exact canonical_execSweep hc
  | resume => exact canonical_execResume hc
  | copyPacket => exact canonical_execCopyPacket hc
  | waitPacket => exact canonical_execWaitPacket hc
  | waitWordReload => exact canonical_execWaitWordReload hc
  | signalPacket => exact canonical_execSignalPacket hc
  | fencePacket => exact canonical_execFencePacket hc
  | indirect => exact canonical_execIndirect hc
  | graph => exact canonical_execGraph hc
  | graphNodeFinish => exact canonical_execGraphNodeFinish hc
  | notify => exact canonical_execNotify hc
  | hostRingTailReload => exact canonical_execHostRingTailReload hc
  | capture => exact canonical_execCapture hc
  | replay => exact canonical_execReplay hc
  | migrate => exact canonical_execMigrate hc
  | ctxCreate => exact canonical_execCtxCreate hc
  | ctxDestroy => exact canonical_execCtxDestroy hc
  | qMap => exact canonical_execQMap hc
  | qUnmap => exact canonical_execQUnmap hc
  | budget => exact canonical_execBudget hc
  | bken => exact canonical_execBken hc
  | release => exact canonical_execRelease hc
  | fwupdate => exact canonical_execFwupdate hc
  | firmwareHeartbeat => exact canonical_execFirmwareHeartbeat hc
  | heartbeatTimeout => exact canonical_execHeartbeatTimeout hc
  | budgetWindow => exact canonical_execBudgetWindow hc
  | featgo => exact canonical_execFeatgo hc
  | admingo => exact canonical_execAdmingo hc
  | islandLevel => exact canonical_execIslandLevel hc
  | registerWrite => exact canonical_execRegisterWrite hc
  | powerLimit => exact canonical_execPowerLimit hc
  | powerLimitClear => exact canonical_execPowerLimitClear hc
  | getVersion => exact canonical_execGetVersion hc
  | getCapabilities => exact canonical_execGetCapabilities hc
  | negotiateAlgorithms => exact canonical_execNegotiateAlgorithms hc
  | getDigests => exact canonical_execGetDigests hc
  | getCertificate => exact canonical_execGetCertificate hc
  | challenge => exact canonical_execChallenge hc
  | getMeasurements => exact canonical_execGetMeasurements hc
  | coldReset => exact canonical_execColdReset hc
  | portReset => exact canonical_execPortReset hc
  | deviceNumberWrite => exact canonical_execDeviceNumberWrite hc
  | spanPortDown => exact canonical_execSpanPortDown hc
  | dieFence => exact canonical_execDieFence hc
  | uncorrectableError => exact canonical_execUncorrectableError hc
  | softErrorSummary => exact canonical_execSoftErrorSummary hc
  | patrolScrub => exact canonical_execPatrolScrub hc
  | leaseExpiry => exact canonical_execLeaseExpiry hc
  | refreshPerformed => exact canonical_execRefreshPerformed hc
  | thermalLimit => exact canonical_execThermalLimit hc
  | gangLostHandlerLimit => exact canonical_execGangLostHandlerLimit hc
  | guestOutOfBudget => exact canonical_execGuestOutOfBudget hc
  | unmap => exact canonical_execUnmap hc

/-! ## The passing of time -/

theorem canonical_passTime {s : State} {dt : Nat} (hc : s.canonical = true) : (passTime s dt).canonical = true :=
  State.canonical_of_eq (canonical_chargeGuests hc) rfl rfl rfl

theorem canonical_arrivals {s : State} (hc : s.canonical = true) : (arrivals s).canonical = true :=
  canonical_settleDestroys (canonical_settlePostings (canonical_settleGraphs (canonical_settleQueues (canonical_foldl
      (fun _ _ h => canonical_signalWord h) (canonical_noteWakes (canonical_settle hc))))))

theorem canonical_receiveMail {s : State} {x : Nat × Word} (hc : s.canonical = true) : (receiveMail s x).canonical = true := canonical_updCtx hc

theorem canonical_endTick {s : State} {dt : Nat} (hc : s.canonical = true) : (endTick s dt).canonical = true :=
  keeps_ite hc (canonical_settleMigrations hc)

theorem canonical_advance {s : State} {dt : Nat} {stores : List (Nat × Nat × List Byte)} {inp : Inputs} (hc : s.canonical = true) :
    (advance s dt stores inp).canonical = true := by
  refine canonical_arrivals (canonical_withCorrected (canonical_foldl (fun _ _ h => canonical_takeAway h) ?_))
  refine canonical_foldl (fun _ _ h => canonical_receiveMail h) (canonical_foldl (fun _ _ h => canonical_grantDevice h) ?_)
  exact canonical_foldl (fun _ _ h => canonical_hostStore h) (canonical_passTime (State.canonical_of_eq (canonical_endTick hc) rfl rfl rfl))

theorem canonical_rejectWord {s : State} (hc : s.canonical = true) : (rejectWord s).canonical = true := by
  unfold rejectWord
  split
  · exact hc
  split
  · exact hc
  · exact canonical_deliver hc

theorem canonical_eventTodo {s : State} {i : Instr} (hc : s.canonical = true) : (eventTodo s i).1.canonical = true := by
  unfold eventTodo
  split
  · split
    · exact State.canonical_of_eq hc rfl rfl rfl
    · exact hc
  · split <;> exact hc

/-- What the machine does by default plays no part here: the event is made opaque, so that no check of the proof evaluates it. -/
theorem canonical_schedule {s : State} (hc : s.canonical = true) : (schedule s).1.canonical = true := by
  unfold schedule
  obtain ⟨event, hevent⟩ : ∃ f, f = defaultEvent := ⟨_, rfl⟩
  rw [← hevent]
  split
  next slot rest _ =>
    have hs1 := canonical_advance (dt := slot.dt) (stores := slot.stores) (inp := slot.inp) (s := { s with agenda := rest }) hc
    dsimp only
    split
    · exact canonical_eventTodo (canonical_withCur hs1)
    · exact canonical_eventTodo hs1
    · exact canonical_withCur hs1
    · exact canonical_withCur hs1
  next =>
    have hs1 := canonical_advance (dt := 1) (stores := []) (inp := .quiet) hc
    dsimp only
    split
    · exact canonical_eventTodo hs1
    · exact canonical_withCur hs1

/-! ## A step -/

theorem canonical_afterStep {o : Host.Outcome State Fault Refusal} (ho : canonicalNext o = true) : canonicalNext (afterStep o) = true := by
  unfold afterStep
  split
  · exact canonical_finishAnswers ho
  · exact ho

theorem canonical_step {s : State} (hc : s.canonical = true) : canonicalNext (step s) = true := by
  have hsched := canonical_schedule hc
  unfold step
  split
  next h => exact canonical_afterStep (canonical_exec (canonical_of_fst hsched h))
  next h => exact canonical_afterStep (canonical_rejectWord (canonical_of_fst hsched h))
  next h => exact canonical_afterStep (o := .next _) (canonical_of_fst hsched h)
  next => rfl

/-- Settles O5: the instruction that a step runs leaves storage canonical whatever it is, and so does what the step adds before and after it. -/
theorem everyStepKeepsStorageCanonical : Obligations.EveryStepKeepsStorageCanonical :=
  fun _ _ hc ht => canonical_of_next (canonical_step hc) ht

end Sys2Proof.Machine
end

section
/-!
PROOF. The completion of operations (R85, R243) and the end of a wait for leases (R211, R235).
-/

namespace Sys2Proof.Machine

section Completion
variable {s : State} {id : Nat} {o : Op}

/-- A storing operation, an atomic or an LNWB completes once it can. -/
theorem execStoreCompletion_of_canComplete (ho : findOp s id = some o) (hk : (o.kind.stores || o.kind.isAtomic || o.kind = .lnwb) = true)
    (hcan : canComplete s o = true) : exec (.storeCompletion id) s = .next (completeOp (cleanRange s o) o) := by
  simp only [exec, execStoreCompletion, ho, hk, hcan, Bool.and_self, if_true]

/-- An operation whose largest completion time has not come cannot complete. -/
theorem canComplete_of_now_lt (h : s.now < o.last) : canComplete s o = false := by
  have : ¬ o.last ≤ s.now := Nat.not_le_of_lt h
  simp [canComplete, this]

/-- Only an LNWB cleans lines. -/
theorem cleanRange_of_ne_lnwb (h : o.kind ≠ .lnwb) : cleanRange s o = s := by
  unfold cleanRange
  split
  next hk _ _ => exact absurd hk h
  next => rfl

/-- The lines that an LNWB has written back are clean. -/
theorem dirty_of_mem_cleanRange {x : Access} {w : Wave} {t : Team} {c : Context} (hk : o.kind = .lnwb) (hx : o.accs.head? = some x)
    (he : opEnv s o = some (w, t, c)) {y : HomeLine} (hy : y ∈ (cleanRange s o).homeLines)
    (hback : writtenBack s c x.addr.toNat x.n y.pline = true) : y.dirty = false := by
  simp only [cleanRange, hk, hx, he, cleanLines, List.mem_map] at hy
  obtain ⟨z, -, rfl⟩ := hy
  by_cases hz : writtenBack s c x.addr.toNat x.n z.pline = true
  · rw [if_pos hz]
  · rw [if_neg hz] at hback
    exact absurd hback hz

end Completion

/-- The rows of a triad are open in every hold slot of it, and in no other slot anything changes. -/
theorem openRows_holds (s : State) (socket tr : Nat) : (openRows s socket tr).holds = s.holds.map fun h =>
    if h.socket == socket && h.stackTriad == tr then { h with isOpen := true } else h := by
  unfold openRows
  generalize triadChannels tr = chs
  refine List.foldlRecOn (motive := fun t : State => t.holds = _) chs _ rfl fun t ht ch _ => ?_
  exact ht

/-- Settles O46: a completion's guards are what the statement names, and so are those of a lease's expiry. -/
theorem operationsCompleteInTime : Obligations.OperationsCompleteInTime := by
  intro s id o ho
  refine ⟨fun hk hcan => ?_, fun hk hcan => ⟨?_, fun x w t c hx he y hy hback => ?_⟩, fun hlast => ?_, ?_⟩
  · rw [execStoreCompletion_of_canComplete ho (by simpa using Or.inl hk) hcan, cleanRange_of_ne_lnwb]
    intro hlnwb
    rcases hk with hk | hk <;> simp [hlnwb, OpKind.stores, OpKind.isAtomic] at hk
  · exact execStoreCompletion_of_canComplete ho (by simp [hk]) hcan
  · exact dirty_of_mem_cleanRange hk hx he hy hback
  · simp [exec, execStoreCompletion, ho, canComplete_of_now_lt hlast]
  · intro dst pid k x w t c y pa pte hk hx he hy hpa hphase hlast hslot hbusy
    refine ⟨?_, openRows_holds s y.socket (stackTriadOf pa)⟩
    simp [exec, execLeaseExpiry, ho, hk, hx, he, hy, hpa, hphase, hlast, hslot, hbusy]

end Sys2Proof.Machine
end

section
/-!
PROOF. FENCE, WAITC and PREF (R83, R85, R227, R234). A prefetch touches where lines lie and which translations are known (R93, R202), and no more.
-/

namespace Sys2Proof.Machine

/-! ## What a taken line may change -/

/-- The state `t` with the copies of lines, the lines held, their times and the translations as they are in `s`. -/
def withLinesOf (s t : State) : State :=
  { t with copies := s.copies, homeLines := s.homeLines, mscLines := s.mscLines, lineT := s.lineT, tlb := s.tlb, aliases := s.aliases }

/-- A copy of a line, wherever the line now lies (R93). -/
def LineCopy.anywhere (y : LineCopy) : LineCopy := { y with pline := 0 }

/-- From `s` to `t` only lines and translations were noted: every copy that stood stays, with its lease, and so does every record of `aliases`. -/
structure LinesFrame (s t : State) : Prop where
  rest : withLinesOf s t = s
  copies : s.copies.map LineCopy.anywhere <:+ t.copies.map LineCopy.anywhere
  aliases : s.aliases <:+ t.aliases

namespace LinesFrame
variable {s t u : State}

theorem refl (s : State) : LinesFrame s s := ⟨rfl, List.suffix_refl _, List.suffix_refl _⟩

theorem trans (h : LinesFrame s t) (h' : LinesFrame t u) : LinesFrame s u where
  rest := (congrArg (withLinesOf s) h'.rest).trans h.rest
  copies := h.copies.trans h'.copies
  aliases := h.aliases.trans h'.aliases

/-- A change of the lines held, their times and the translations alone. -/
theorem of_lines (h : withLinesOf s t = s) (hcopies : t.copies = s.copies) (haliases : t.aliases = s.aliases) : LinesFrame s t :=
  ⟨h, hcopies ▸ List.suffix_refl _, haliases ▸ List.suffix_refl _⟩

theorem foldl {β : Type} {f : State → β → State} (hf : ∀ s b, LinesFrame s (f s b)) (l : List β) (s : State) : LinesFrame s (l.foldl f s) := by
  induction l generalizing s with
  | nil => exact refl s
  | cons b r ih => exact (hf s b).trans (ih (f s b))

theorem ite {c : Prop} [Decidable c] (ht : LinesFrame s t) (hu : LinesFrame s u) : LinesFrame s (if c then t else u) := by
  split
  · exact ht
  · exact hu

/-- A copy more. -/
theorem cons_copy (h : LinesFrame s t) (y : LineCopy) : LinesFrame s { t with copies := y :: t.copies } where
  rest := h.rest
  copies := h.copies.trans (List.suffix_cons _ _)
  aliases := h.aliases

/-- Other lines held at home. -/
theorem homeLines (h : LinesFrame s t) (l : List HomeLine) : LinesFrame s { t with homeLines := l } := ⟨h.rest, h.copies, h.aliases⟩

end LinesFrame

/-! ## Translations and lines -/

theorem linesFrame_noteTlb (s : State) (c : Context) (g : Nat) : LinesFrame s (noteTlb s c g) := by
  unfold noteTlb
  split
  · exact .of_lines rfl rfl rfl
  · exact .refl s

theorem linesFrame_noteAlias (s : State) (c : Context) (pte pgn vgn : Nat) : LinesFrame s (noteAlias s c pte pgn vgn) := by
  have h := linesFrame_noteTlb s c vgn
  exact .ite ⟨h.rest, h.copies, h.aliases.trans (List.suffix_cons _ _)⟩ h

theorem linesFrame_noteAccess (s : State) (c : Context) (seat va pa pte : Nat) (k : AccKind) : LinesFrame s (noteAccess s c seat va pa pte k) := by
  unfold noteAccess
  split
  · exact .refl s
  · exact linesFrame_noteAlias s c pte (pa / 49152) (va / 49152)

theorem linesFrame_fillMsc (s : State) (pline : Nat) (dirty : Bool) : LinesFrame s (fillMsc s pline dirty) :=
  .ite (.refl s) (.of_lines rfl rfl rfl)

theorem linesFrame_evictHome (s : State) (p : HomeLine → Bool) : LinesFrame s (evictHome s p) := by
  refine .trans (t := { s with homeLines := s.homeLines.filter fun y => !p y }) (.of_lines rfl rfl rfl) (.foldl (fun s y => ?_) _ _)
  exact .ite (linesFrame_fillMsc s y.pline true) (.refl s)

theorem linesFrame_carryT (s : State) (new old : Nat) : LinesFrame s (carryT s new old) := .of_lines rfl rfl rfl

theorem linesFrame_rebaseLine (s : State) (c : Context) (vline pline : Nat) : LinesFrame s (rebaseLine s c vline pline) := by
  refine .trans ?_ (.foldl (fun s o => linesFrame_carryT s pline o) _ _)
  refine ⟨rfl, ?_, List.suffix_refl _⟩
  -- a copy moves to another physical line and is otherwise the same
  rw [List.map_map]
  refine (List.map_congr_left fun y _ => ?_) ▸ List.suffix_refl _
  dsimp only [Function.comp]
  split <;> rfl

theorem linesFrame_noteHome (s : State) (c : Context) (va pa pte : Nat) (dirty : Bool) : LinesFrame s (noteHome s c va pa pte dirty) := by
  refine .ite (.refl s) (.homeLines ?_ _)
  refine .trans (.ite (.refl s) ?_) (linesFrame_rebaseLine _ _ _ _)
  exact (linesFrame_evictHome s _).trans (linesFrame_fillMsc _ _ _)

theorem linesFrame_noteLine (s : State) (c : Context) (va pa pte : Nat) (dirty : Bool) : LinesFrame s (noteLine s c va pa pte dirty) :=
  .ite (linesFrame_fillMsc s _ _) (linesFrame_noteHome s c va pa pte dirty)

/-! ## Copies -/

theorem linesFrame_grantL2 (s : State) (c : Context) (die va pa pte : Nat) : LinesFrame s (grantL2 s c die va pa pte).1 := by
  unfold grantL2
  split
  · exact .refl s
  · split
    · exact linesFrame_noteHome s c va pa pte false
    · split
      · exact .refl s
      · exact (linesFrame_noteHome s c va pa pte false).cons_copy _

theorem linesFrame_grantCopies (s : State) (c : Context) (die core va pa pte : Nat) : LinesFrame s (grantCopies s c die core va pa pte) :=
  .ite (.refl s) (.ite (linesFrame_noteLine s c va pa pte false) ((linesFrame_grantL2 s c die va pa pte).cons_copy _))

theorem linesFrame_prefetch (e : Env) (lvl : Nat) (s : State) (l : Nat) : LinesFrame s (prefetch e lvl s l) := by
  unfold prefetch
  split
  next pa pte _ =>
    have hnoted := linesFrame_noteAccess s e.c (seatOf e.t) (addrOf e l).toNat pa pte .load
    dsimp only
    split
    · exact hnoted.trans (linesFrame_grantCopies _ _ _ _ _ _ _)
    · split
      · exact hnoted.trans (linesFrame_grantL2 _ _ _ _ _ _)
      · exact hnoted.trans (linesFrame_noteHome _ _ _ _ _ _)
  next => exact .refl s

/-! ## The words -/

theorem execFence_of_boundary_false {s : State} {f : Fields} {e : Env} (h : wordAtTurn s (.fence f) f e) (hboundary : atBoundary s e = false) :
    exec (.fence f) s = .next (conclude s e (if fenceDone s e f.bmod.toNat then .ok s else tryAgain s e)) := by
  refine outcome_atTurn (rfl : _ = execFence f s) h ?_
  simp only [hboundary, Bool.false_eq_true, if_false]

theorem execWaitc_atTurn {s : State} {f : Fields} {e : Env} (h : wordAtTurn s (.waitc f) f e) :
    exec (.waitc f) s
      = .next (conclude s e (if counterOf s e.who.tid e.who.wave f.amod.toNat ≤ waitLimit e then .ok s else tryAgain s e)) :=
  outcome_atTurn (rfl : _ = execWaitc f s) h rfl

theorem execPref_atTurn {s : State} {f : Fields} {e : Env} (h : wordAtTurn s (.pref f) f e) :
    exec (.pref f) s = .next (retired ((lanesOf e.act).foldl (prefetch e f.bmod.toNat) s) e) :=
  outcome_atTurn (rfl : _ = execPref f s) h rfl

/-- Settles O21: FENCE and WAITC retire or stand still by one test each, and PREF notes a line for each active lane. -/
theorem fencesRetireWhenCovered : Obligations.FencesRetireWhenCovered := by
  intro s f
  refine ⟨?fence, ?fenceWaits, ?waitc, ?waitcWaits, ?pref⟩
  case fence =>
    rintro e h ⟨hboundary, hdone⟩
    rw [execFence_of_boundary_false h hboundary, if_pos hdone, conclude_ok]
  case fenceWaits =>
    rintro e h ⟨hboundary, hdone⟩
    rw [execFence_of_boundary_false h hboundary, if_neg (by simp [hdone]), tryAgain, conclude_stall]
  case waitc =>
    intro e h hle
    rw [execWaitc_atTurn h, if_pos hle, conclude_ok]
  case waitcWaits =>
    intro e h hlt
    rw [execWaitc_atTurn h, if_neg (Nat.not_le_of_lt hlt), tryAgain, conclude_stall]
  case pref =>
    intro e h
    have hframe := LinesFrame.foldl (linesFrame_prefetch e f.bmod.toNat) (lanesOf e.act) s
    exact ⟨_, execPref_atTurn h, hframe.rest, hframe.copies, hframe.aliases⟩

end Sys2Proof.Machine
end

section
/-!
PROOF. Loads, stores and atomics performed (R77 to R81, R87, R222 to R231): one selected access is performed alone, an access inside one line is one
piece, and what reaches home waits there until a time that the line's earlier stores and its live copies bound.
-/

namespace Sys2Proof.Machine

/-! ## One access performed -/

theorem id_of_findOp {s : State} {id : Nat} {o : Op} (h : findOp s id = some o) : o.id = id := eq_of_beq (List.find?_some h :)

/-- The access found by the lane of the only one selected. -/
theorem find_lane_of_filter_single {accs : List Access} {sel : Access → Bool} {x : Access} (hlane : ∀ y z : Access, y.lane = z.lane → sel y = sel z)
    (hsel : accs.filter sel = [x]) : (accs.find? fun y => y.lane == x.lane) = some x := by
  obtain ⟨l, r, rfl, hbefore, hx, -⟩ := List.filter_eq_cons_iff.1 hsel
  have hnone : (l.find? fun y => y.lane == x.lane) = none := by
    refine List.find?_eq_none.2 fun y hy hyx => hbefore y hy ?_
    rw [hlane y x (eq_of_beq hyx), hx]
  rw [List.find?_append, hnone, Option.none_or]
  exact List.find?_cons_of_pos (beq_self_eq_true x.lane)

/-- Where the lanes select one access, that access is performed and nothing else. -/
theorem performEach_single {s : State} {id : Nat} {o : Op} {x : Access} {sel : Access → Bool} (one : State → Op → Access → Option State)
    (ho : findOp s id = some o) (hlane : ∀ y z : Access, y.lane = z.lane → sel y = sel z) (hsel : o.accs.filter sel = [x]) :
    performEach s id sel one = one s o x := by
  simp only [performEach, ho, Bool.not_eq_true', ← Bool.not_eq_true, ite_not]
  rw [← List.foldl_filter, hsel]
  simp only [List.foldl_cons, List.foldl_nil, Option.getD_none, ho, find_lane_of_filter_single hlane hsel]
  cases one s o x <;> rfl

theorem selects_of_isTile_false {o : Op} (m : W32) (h : o.kind.isTile = false) : selects o m = fun x => m.getLsbD x.lane := by
  funext x
  unfold selects
  split
  next hk => simp [hk, OpKind.isTile] at h
  next hk => simp [hk, OpKind.isTile] at h
  next => rfl

theorem performEach_selects {s : State} {id : Nat} {o : Op} {x : Access} {lanes : W32} (one : State → Op → Access → Option State)
    (ho : findOp s id = some o) (htile : o.kind.isTile = false) (hsel : (o.accs.filter fun y => lanes.getLsbD y.lane) = [x]) :
    performEach s id (selects o lanes) one = one s o x := by
  rw [selects_of_isTile_false lanes htile]
  exact performEach_single one ho (fun y z h => congrArg lanes.getLsbD h) hsel

/-- Only ROWLD and ROWST ask for their row. -/
theorem withRow_of_not_row {one : State → Op → Access → Option State} {s : State} {o : Op} {x : Access} (hld : (opOfWord o.word).toNat ≠ 0x5C)
    (hst : (opOfWord o.word).toNat ≠ 0x5D) : withRow one s o x = one s o x := by
  have hready : readyRow s o x = .ready s := by simp [readyRow, hld, hst]
  rw [withRow, hready]

theorem mayPerform_reads {o : Op} {x : Access} (h : mayPerform o x = true) : o.unreads x.lane = false := by
  simp only [mayPerform, Bool.and_eq_true, Bool.not_eq_true'] at h
  exact h.1.2

/-- The load that is performed alone. -/
theorem exec_loadPerform_single {s : State} {id dst sz : Nat} {lanes : W32} {o : Op} {x : Access} (ho : findOp s id = some o)
    (hkind : o.kind = .load dst sz) (hsel : (o.accs.filter fun y => lanes.getLsbD y.lane) = [x]) (hmay : mayPerform o x = true)
    (hld : (opOfWord o.word).toNat ≠ 0x5C) (hst : (opOfWord o.word).toNat ≠ 0x5D) :
    exec (.loadPerform id lanes) s = orNotEnabled (performLoad s o x) := by
  have htile : o.kind.isTile = false := by rw [hkind]; rfl
  have hread : (o.accs.any fun y => selects o lanes y && o.unreads y.lane) = false := by
    rw [selects_of_isTile_false lanes htile, ← List.any_filter, hsel]
    simp [mayPerform_reads hmay]
  change execLoadPerform id lanes s = _
  simp only [execLoadPerform, performLoads, ho, hread, hkind, OpKind.loads, Bool.false_and, Bool.false_eq_true, if_false, if_true]
  rw [performEach_selects _ ho htile hsel, withRow_of_not_row hld hst]

/-- The store that is performed alone. -/
theorem exec_storeAtHome_single {s : State} {id : Nat} {lanes : W32} {o : Op} {x : Access} (ho : findOp s id = some o)
    (hstores : o.kind.stores = true) (htile : o.kind.isTile = false) (hsel : (o.accs.filter fun y => lanes.getLsbD y.lane) = [x])
    (hld : (opOfWord o.word).toNat ≠ 0x5C) (hst : (opOfWord o.word).toNat ≠ 0x5D) :
    exec (.storeAtHome id lanes) s = orNotEnabled (performStore s o x) := by
  change execStoreAtHome id lanes s = _
  simp only [execStoreAtHome, ho, hstores, if_true]
  rw [performEach_selects _ ho htile hsel, withRow_of_not_row hld hst]

/-- The atomic that is performed alone. -/
theorem exec_atomicPerform_single {s s' : State} {id : Nat} {lanes : W32} {o : Op} {x : Access} {fn : AtomFn} {dst : Option Nat}
    (ho : findOp s id = some o) (hkind : o.kind = .atomic fn dst) (hsel : (o.accs.filter fun y => lanes.getLsbD y.lane) = [x])
    (h : performAtomic s o fn x = some s') : exec (.atomicPerform id lanes) s = .next s' := by
  have htile : o.kind.isTile = false := by rw [hkind]; rfl
  change execAtomicPerform id lanes s = _
  simp only [execAtomicPerform, ho, hkind]
  rw [performEach_selects (fun s o x => performAtomic s o fn x) ho htile hsel, h]

/-! ## The records of the operation and of its wave -/

/-- From `s` to `t` only waves and operations changed. -/
structure AgentsFrame (s t : State) : Prop where
  rest : { t with waves := s.waves, ops := s.ops } = s

namespace AgentsFrame
variable {s t u : State}

theorem trans (h : AgentsFrame s t) (h' : AgentsFrame t u) : AgentsFrame s u :=
  ⟨(congrArg (fun v : State => { v with waves := s.waves, ops := s.ops }) h'.rest).trans h.rest⟩

theorem ite {c : Prop} [Decidable c] (ht : AgentsFrame s t) (hu : AgentsFrame s u) : AgentsFrame s (if c then t else u) := by
  split
  · exact ht
  · exact hu

theorem mem_eq (h : AgentsFrame s t) : t.mem = s.mem := (congrArg State.mem h.rest :)
theorem scratch_eq (h : AgentsFrame s t) : t.scratch = s.scratch := (congrArg State.scratch h.rest :)
theorem diePad_eq (h : AgentsFrame s t) : t.diePad = s.diePad := (congrArg State.diePad h.rest :)
theorem homeStores_eq (h : AgentsFrame s t) : t.homeStores = s.homeStores := (congrArg State.homeStores h.rest :)

end AgentsFrame

theorem agentsFrame_refl (s : State) : AgentsFrame s s := ⟨rfl⟩
theorem agentsFrame_updWave (s : State) (tid ix : Nat) (g : Wave → Wave) : AgentsFrame s (updWave s tid ix g) := ⟨rfl⟩
theorem agentsFrame_updOp (s : State) (id : Nat) (g : Op → Op) : AgentsFrame s (updOp s id g) := ⟨rfl⟩
theorem agentsFrame_updAcc (s : State) (id lane : Nat) (g : Access → Access) : AgentsFrame s (updAcc s id lane g) := ⟨rfl⟩
theorem agentsFrame_raiseHorizon (s : State) (tid wave t : Nat) : AgentsFrame s (raiseHorizon s tid wave t) := ⟨rfl⟩
theorem agentsFrame_lower (s : State) : AgentsFrame s (lower s) := ⟨rfl⟩
theorem agentsFrame_writeLoaded (s : State) (o : Op) (lane v : Nat) : AgentsFrame s (writeLoaded s o lane v) := ⟨rfl⟩

theorem agentsFrame_writeTile (s : State) (o : Op) : AgentsFrame s (writeTile s o) := by
  unfold writeTile
  split
  · split <;> exact ⟨rfl⟩
  · exact ⟨rfl⟩

theorem agentsFrame_settleOp (s : State) (id : Nat) : AgentsFrame s (settleOp s id) := by
  unfold settleOp
  split
  · exact agentsFrame_refl s
  next o _ =>
    refine .ite (agentsFrame_refl s) (.ite ?_ (agentsFrame_updOp s id _))
    exact ((agentsFrame_writeTile s o).trans (agentsFrame_updOp _ id _)).trans (agentsFrame_lower _)

/-- The closing steps of a performed access: it is marked done and its operation settles. -/
theorem agentsFrame_settle_updAcc (s : State) (id lane : Nat) (g : Access → Access) : AgentsFrame s (settleOp (updAcc s id lane g) id) :=
  (agentsFrame_updAcc s id lane g).trans (agentsFrame_settleOp _ id)

/-- The waves stand as they are where an operation that loads no tile settles. -/
theorem waves_settleOp {s : State} {id : Nat} (h : ∀ o, findOp s id = some o → ∀ k code, o.kind ≠ .accLoad k code) : (settleOp s id).waves = s.waves := by
  unfold settleOp
  split
  · rfl
  next o ho =>
    have hno : writeTile s o = s := by
      unfold writeTile
      split
      next k code hk => exact absurd hk (h o ho k code)
      next => rfl
    rw [hno]
    split
    · rfl
    · split <;> rfl

theorem findOp_updAcc (s : State) (id lane : Nat) (g : Access → Access) : findOp (updAcc s id lane g) id
    = (findOp s id).map fun o => { o with accs := o.accs.map fun x => if x.lane == lane then g x else x } :=
  findOp_updOp s id _ fun _ => rfl

theorem findWave_of_opEnv {s : State} {o : Op} {w : Wave} {t : Team} {c : Context} (h : opEnv s o = some (w, t, c)) :
    findWave s o.tid o.wave = some w := by
  unfold opEnv at h
  split at h
  next w' t' hw _ =>
    obtain ⟨c', -, hc⟩ := Option.map_eq_some_iff.1 h
    rw [hw, (Prod.mk.inj hc).1]
  next => exact absurd h (by simp)

/-! ## Registers of one lane -/

/-- A load's write to registers leaves every other file of the wave as it is, and what it leaves in the registers depends on no other file. -/
theorem setRegs_frame (w : Wave) (r lane : Nat) (xs : List W32) : ∃ l, ∀ p, setRegs { w with perf := p } r lane xs = { w with perf := p, lanes := l } := by
  induction xs generalizing w r with
  | nil => exact ⟨w.lanes, fun _ => rfl⟩
  | cons x xs ih => exact ih (w.setV r lane x) (r + 1)

theorem writeLoaded_of_load {s : State} {o : Op} {dst sz : Nat} (lane v : Nat) (h : o.kind = .load dst sz) : writeLoaded s o lane v
    = updWave s o.tid o.wave fun w => if w.status = .ended then w else setRegs w dst lane (extendLoad sz v) := by
  simp only [writeLoaded, h]

theorem setRegs_key (w : Wave) (r lane : Nat) (xs : List W32) : (setRegs w r lane xs).tid = w.tid ∧ (setRegs w r lane xs).ix = w.ix := by
  obtain ⟨l, hl⟩ := setRegs_frame w r lane xs
  rw [hl w.perf]
  exact ⟨rfl, rfl⟩

/-- The wave of a load after its write, whose performance counters alone moved before. -/
theorem findWave_writeLoaded {s : State} {o : Op} {dst sz lane v : Nat} {w : Wave} {p : Sparse Nat} (hkind : o.kind = .load dst sz)
    (hw : findWave s o.tid o.wave = some { w with perf := p }) (hlive : w.status ≠ .ended) :
    ∃ w', findWave (writeLoaded s o lane v) o.tid o.wave = some w' ∧ w'.lanes = (setRegs w dst lane (extendLoad sz v)).lanes ∧ w'.preds = w.preds
      ∧ w'.path = w.path := by
  obtain ⟨l, hl⟩ := setRegs_frame w dst lane (extendLoad sz v)
  have hkey (w : Wave) : (if w.status = .ended then w else setRegs w dst lane (extendLoad sz v)).tid = w.tid
      ∧ (if w.status = .ended then w else setRegs w dst lane (extendLoad sz v)).ix = w.ix := by
    split
    · exact ⟨rfl, rfl⟩
    · exact setRegs_key ..
  refine ⟨{ w with perf := p, lanes := l }, ?_, ?_, rfl, rfl⟩
  · rw [writeLoaded_of_load lane v hkind, findWave_updWave_of_find hkey hw, if_neg hlive, hl p]
  · exact (congrArg Wave.lanes (hl w.perf)).symm

/-! ## An access inside one line -/

theorem pieceLen_of_inside {va n : Nat} (h : va % 48 + n ≤ 48) : pieceLen va 0 n = n := by
  unfold pieceLen
  omega

theorem withBytes_zero (bs : List Byte) : withBytes 0 0 bs = leNat bs := by simp [withBytes, Nat.mod_one]

theorem bytesOf_zero (v k : Nat) : bytesOf v 0 k = leBytes k v := by simp [bytesOf]

theorem linePieces_of_inside {fuel pa : Nat} {bs : List Byte} (hne : bs ≠ []) (h : pa % 192 + bs.length ≤ 192) :
    linePieces (fuel + 2) pa bs = [(pa, bs)] := by
  have hlen : bs.length ≤ 192 - pa % 192 := by omega
  simp [linePieces, hne, List.take_of_length_le hlen, List.drop_eq_nil_of_le hlen]

/-- A store inside one line waits at home as one entry. -/
theorem storeHome_of_inside (s : State) (op : Nat) (core : Option Nat) (leased : Bool) {pa : Nat} {bs : List Byte} (hne : bs ≠ [])
    (h : pa % 192 + bs.length ≤ 192) : storeHome s op core leased pa bs
      = ({ s with
            homeStores := s.homeStores ++ [⟨op, core, none, completionTime s (pa / 192) leased, pa, bs⟩]
            lineT := Sparse.set 0 s.lineT (pa / 192) (completionTime s (pa / 192) leased + 1) }, completionTime s (pa / 192) leased) := by
  rw [storeHome, linePieces_of_inside hne h]
  simp [homePiece]

theorem leBytes_ne_nil {n : Nat} (v : Nat) (h : 0 < n) : leBytes n v ≠ [] :=
  List.ne_nil_of_length_pos (by rwa [length_leBytes])

theorem reach_mod {s : State} {c : Context} {va n pa pte : Nat} {k : AccKind} (h : reach s c va n k = .ok pa pte) : pa % 192 = va % 192 := by
  unfold reach at h
  split at h
  case h_6 =>
    -- every test on the way answers a fault, and the address that is left is the walk's
    dsimp only at h
    split at h
    · cases h
    split at h
    · cases h
    split at h
    · cases h
    split at h
    · cases h
    split at h
    · cases h
    split at h
    · cases h
    generalize (if k = .store then none else firstPoison s _ n) = poison at h
    cases poison
    · cases h
      omega
    · cases h
  all_goals cases h

/-- An access keeps its place in its line. -/
theorem accessFrom_mod {s : State} {c : Context} {seat n k pa pte : Nat} {va : Int} {kind : AccKind}
    (h : accessFrom s c seat va n 0 k kind = .ok pa pte) : pa % 192 = va.toNat % 192 := by
  unfold accessFrom at h
  split at h
  · exact absurd h (by simp)
  · dsimp only at h
    split at h
    · exact reach_mod h
    · split at h
      · exact absurd h (by simp)
      · split at h
        · exact absurd h (by simp)
        · obtain ⟨rfl, -⟩ := AccRes.ok.inj h
          omega

/-! ## The time of a store at home (R78) -/

theorem le_foldl_expiry (l : List LineCopy) (m : Nat) : m ≤ l.foldl (fun m c => max m c.expiry) m := by
  induction l generalizing m with
  | nil => exact Nat.le_refl m
  | cons c r ih => exact (Nat.le_max_left m c.expiry).trans (ih _)

theorem expiry_le_foldl {l : List LineCopy} {y : LineCopy} (hy : y ∈ l) (m : Nat) : y.expiry ≤ l.foldl (fun m c => max m c.expiry) m := by
  induction l generalizing m with
  | nil => exact absurd hy (by simp)
  | cons c r ih =>
    obtain rfl | hr := List.mem_cons.1 hy
    · exact (Nat.le_max_right m y.expiry).trans (le_foldl_expiry r _)
    · exact ih hr _

theorem after_le_completionTime (s : State) (pline : Nat) (leased : Bool) : max s.now (Sparse.get 0 s.lineT pline) ≤ completionTime s pline leased := by
  unfold completionTime
  dsimp only
  split
  · exact le_foldl_expiry _ _
  · exact Nat.le_refl _

theorem now_le_completionTime (s : State) (pline : Nat) (leased : Bool) : s.now ≤ completionTime s pline leased :=
  (Nat.le_max_left _ _).trans (after_le_completionTime s pline leased)

theorem lineT_le_completionTime (s : State) (pline : Nat) (leased : Bool) : Sparse.get 0 s.lineT pline ≤ completionTime s pline leased :=
  (Nat.le_max_right _ _).trans (after_le_completionTime s pline leased)

theorem expiry_le_completionTime {s : State} {pline : Nat} {y : LineCopy} (hheld : isHeld s (192 * pline) = false) (hy : y ∈ s.copies)
    (hline : y.pline = pline) (hlive : s.now < y.expiry) : y.expiry ≤ completionTime s pline true := by
  simp only [completionTime, hheld, Bool.not_false, Bool.and_true, if_true]
  exact expiry_le_foldl (List.mem_filter.2 ⟨hy, by simp [hline, hlive]⟩) _

/-! ## What a taken line keeps of its own time and copies -/

/-- From `s` to `t` the time of line `p` did not go back, and its copies are copies of it still. -/
structure LineKept (p : Nat) (s t : State) : Prop where
  time : Sparse.get 0 s.lineT p ≤ Sparse.get 0 t.lineT p
  copies : ∀ y ∈ s.copies, y.pline = p → y ∈ t.copies

namespace LineKept
variable {p : Nat} {s t u : State}

theorem of_eq (htime : t.lineT = s.lineT) (hcopies : t.copies = s.copies) : LineKept p s t :=
  ⟨htime ▸ Nat.le_refl _, fun _ hy _ => hcopies ▸ hy⟩

theorem refl (s : State) : LineKept p s s := of_eq rfl rfl

theorem trans (h : LineKept p s t) (h' : LineKept p t u) : LineKept p s u :=
  ⟨h.time.trans h'.time, fun y hy hp => h'.copies y (h.copies y hy hp) hp⟩

theorem foldl {β : Type} {f : State → β → State} (hf : ∀ s b, LineKept p s (f s b)) (l : List β) (s : State) : LineKept p s (l.foldl f s) := by
  induction l generalizing s with
  | nil => exact refl s
  | cons b r ih => exact (hf s b).trans (ih (f s b))

theorem ite {c : Prop} [Decidable c] (ht : LineKept p s t) (hu : LineKept p s u) : LineKept p s (if c then t else u) := by
  split
  · exact ht
  · exact hu

end LineKept

/-- Also in a map that is not well-formed, what a key reads after a write is no less than what was written. -/
theorem le_get_set (m : Sparse Nat) (k v : Nat) : v ≤ Sparse.get 0 (Sparse.set 0 m k v) k := by
  induction m with
  | nil =>
    unfold Sparse.set
    split
    next hv => simp [hv]
    next => simp [Sparse.get]
  | cons e r ih =>
    obtain ⟨j, x⟩ := e
    unfold Sparse.set
    split
    · split
      next hv => simp [hv]
      next => simp [Sparse.get]
    · split
      · split
        next hv => simp [hv]
        next => simp [Sparse.get]
      next hlt hne => simpa [Sparse.get, Ne.symm hne, hlt] using ih

theorem lineKept_carryT (s : State) (p old : Nat) : LineKept p s (carryT s p old) :=
  ⟨(Nat.le_max_left _ _).trans (le_get_set s.lineT p _), fun _ hy _ => hy⟩

theorem lineKept_rebaseLine (s : State) (c : Context) (vline p : Nat) : LineKept p s (rebaseLine s c vline p) := by
  refine .trans ?_ (.foldl (fun s o => lineKept_carryT s p o) _ _)
  refine ⟨Nat.le_refl _, fun y hy hp => ?_⟩
  -- a copy that is of line `p` already is not moved
  exact List.mem_map.2 ⟨y, hy, by simp [hp]⟩

theorem lineKept_fillMsc (p : Nat) (s : State) (pline : Nat) (dirty : Bool) : LineKept p s (fillMsc s pline dirty) := .ite (.refl s) (.of_eq rfl rfl)

theorem lineKept_evictHome (p : Nat) (s : State) (g : HomeLine → Bool) : LineKept p s (evictHome s g) := by
  refine .trans (t := { s with homeLines := s.homeLines.filter fun y => !g y }) (.of_eq rfl rfl) (.foldl (fun s y => ?_) _ _)
  exact .ite (lineKept_fillMsc p s y.pline true) (.refl s)

theorem lineKept_noteHome (s : State) (c : Context) (va pa pte : Nat) (dirty : Bool) : LineKept (pa / 192) s (noteHome s c va pa pte dirty) := by
  refine .ite (.refl s) (.trans (.trans (.ite (.refl s) ?_) (lineKept_rebaseLine _ _ _ _)) (.of_eq rfl rfl))
  exact (lineKept_evictHome _ s _).trans (lineKept_fillMsc _ _ _ _)

theorem lineKept_noteLine (s : State) (c : Context) (va pa pte : Nat) (dirty : Bool) : LineKept (pa / 192) s (noteLine s c va pa pte dirty) :=
  .ite (lineKept_fillMsc _ s _ _) (lineKept_noteHome s c va pa pte dirty)

theorem lineKept_noteTlb (p : Nat) (s : State) (c : Context) (g : Nat) : LineKept p s (noteTlb s c g) := by
  unfold noteTlb
  split
  · exact .of_eq rfl rfl
  · exact .refl s

theorem lineKept_noteAccess (p : Nat) (s : State) (c : Context) (seat va pa pte : Nat) (k : AccKind) :
    LineKept p s (noteAccess s c seat va pa pte k) := by
  have hnoted := lineKept_noteTlb p s c (va / 49152)
  exact .ite (.refl s) (.ite (hnoted.trans (.of_eq rfl rfl)) hnoted)

namespace LinesFrame
variable {s t : State}

theorem now_eq (h : LinesFrame s t) : t.now = s.now := (congrArg State.now h.rest :)
theorem mem_eq (h : LinesFrame s t) : t.mem = s.mem := (congrArg State.mem h.rest :)
theorem homeStores_eq (h : LinesFrame s t) : t.homeStores = s.homeStores := (congrArg State.homeStores h.rest :)
theorem findOp_eq (h : LinesFrame s t) (id : Nat) : findOp t id = findOp s id := (congrArg (fun u => findOp u id) h.rest :)
theorem findWave_eq (h : LinesFrame s t) (tid ix : Nat) : findWave t tid ix = findWave s tid ix := (congrArg (fun u => findWave u tid ix) h.rest :)
theorem isHeld_eq (h : LinesFrame s t) (pa : Nat) : isHeld t pa = isHeld s pa := (congrArg (fun u => isHeld u pa) h.rest :)

end LinesFrame

theorem linesFrame_leaveHome (s : State) (c : Context) (va pa pte : Nat) : LinesFrame s (leaveHome s c va pa pte) := by
  have hgone := linesFrame_evictHome s fun y => y.pline == pa / 192
  exact .ite (.refl s) (.ite hgone (hgone.trans (.of_lines rfl rfl rfl)))

/-! ## Loads (R202, R222, R224) -/

/-- A load inside one sector: its line is noted and copied, a hit or miss is counted, and its lane is written. -/
def loadedState (s : State) (o : Op) (t : Team) (c : Context) (x : Access) (pa pte v : Nat) : State :=
  let s1 := grantCopies (noteAccess s c (seatOf t) x.addr.toNat pa pte .load) c t.die t.core x.addr.toNat pa pte
  let hit := s.inputs.hits && (copyFor s c (.l1 (seatOf t)) (x.addr.toNat / 192) .load).isSome
  let s2 := if isNormal pte (pa / 49152) then updWave s1 o.tid o.wave fun w => w.count (if hit then 5 else 6) 1 else s1
  settleOp (updAcc (writeLoaded s2 o x.lane v) o.id x.lane fun x => { x with done := true, data := v }) o.id

theorem performLoad_of_inside {s : State} {o : Op} {w : Wave} {t : Team} {c : Context} {x : Access} {pa pte : Nat} (henv : opEnv s o = some (w, t, c))
    (hmay : mayPerform o x = true) (hwait : mustWait s o t c x = false) (hlevel : x.level = .g)
    (hacc : accessFrom s c (seatOf t) x.addr x.n 0 x.n .load = .ok pa pte) (hdata : x.data = 0) (hgot : x.data2 = 0)
    (hin : x.addr.toNat % 48 + x.n ≤ 48) : performLoad s o x = some (loadedState s o t c x pa pte
      (leNat ((upto x.n).map fun i => loadByte s o w t x (x.addr.toNat + i) (pa + i) (isNormal pte (pa / 49152))))) := by
  simp only [performLoad, henv, hmay, hwait, hlevel, hgot, hdata, pieceLen_of_inside hin, hacc, withBytes_zero, loadedState, Nat.add_zero, Nat.zero_add,
    Nat.lt_irrefl, Bool.not_true, Bool.or_false, Bool.false_eq_true, ne_eq, not_true_eq_false, if_false]

theorem mem_loadedState (s : State) (o : Op) (t : Team) (c : Context) (x : Access) (pa pte v : Nat) : (loadedState s o t c x pa pte v).mem = s.mem := by
  have hlines := (linesFrame_noteAccess s c (seatOf t) x.addr.toNat pa pte .load).trans (linesFrame_grantCopies _ c t.die t.core x.addr.toNat pa pte)
  refine ((agentsFrame_settle_updAcc _ o.id x.lane _).mem_eq.trans (agentsFrame_writeLoaded _ o x.lane v).mem_eq).trans ?_
  exact ((AgentsFrame.ite (agentsFrame_updWave _ _ _ _) (agentsFrame_refl _)).mem_eq).trans hlines.mem_eq

theorem findWave_loadedState {s : State} {id dst sz : Nat} {o : Op} {w : Wave} {t : Team} {c : Context} {x : Access} (pa pte v : Nat)
    (ho : findOp s id = some o) (hkind : o.kind = .load dst sz) (henv : opEnv s o = some (w, t, c)) (hlive : w.status ≠ .ended) :
    ∃ w', findWave (loadedState s o t c x pa pte v) o.tid o.wave = some w' ∧ w'.lanes = (setRegs w dst x.lane (extendLoad sz v)).lanes
      ∧ w'.preds = w.preds ∧ w'.path = w.path := by
  have hlines := (linesFrame_noteAccess s c (seatOf t) x.addr.toNat pa pte .load).trans (linesFrame_grantCopies _ c t.die t.core x.addr.toNat pa pte)
  unfold loadedState
  dsimp only
  generalize grantCopies (noteAccess s c (seatOf t) x.addr.toNat pa pte .load) c t.die t.core x.addr.toNat pa pte = s1 at hlines
  generalize (if (s.inputs.hits && (copyFor s c (.l1 (seatOf t)) (x.addr.toNat / 192) .load).isSome) = true then 5 else 6) = k
  generalize hs2 : (if isNormal pte (pa / 49152) = true then updWave s1 o.tid o.wave fun w => w.count k 1 else s1) = s2
  have hw1 : findWave s1 o.tid o.wave = some w := (hlines.findWave_eq ..).trans (findWave_of_opEnv henv)
  have ho1 : findOp s1 o.id = some o := by rw [hlines.findOp_eq, id_of_findOp ho, ho]
  have hw2 : ∃ p, findWave s2 o.tid o.wave = some { w with perf := p } := by
    rw [← hs2]
    split
    · exact ⟨_, findWave_updWave_of_find (fun _ => ⟨rfl, rfl⟩) hw1⟩
    · exact ⟨w.perf, hw1⟩
  have ho2 : findOp s2 o.id = some o := by
    rw [← hs2]
    split
    · exact ho1
    · exact ho1
  obtain ⟨p, hp⟩ := hw2
  have hwaves : (settleOp (updAcc (writeLoaded s2 o x.lane v) o.id x.lane fun x => { x with done := true, data := v }) o.id).waves
      = (writeLoaded s2 o x.lane v).waves := by
    refine waves_settleOp fun o' ho' k code => ?_
    rw [findOp_updAcc, show findOp (writeLoaded s2 o x.lane v) o.id = some o from ho2] at ho'
    rw [← Option.some.inj ho']
    simp [hkind]
  rw [findWave, hwaves]
  exact findWave_writeLoaded hkind hp hlive

/-- Settles O43: the one access selected is performed in one piece, and neither noting its line nor settling the operation touches the registers. -/
theorem loadWritesItsLane : Obligations.LoadWritesItsLane := by
  intro s id dst sz lanes o w t c x pa pte ho hkind henv hsel hmay hwait hlevel hld hst hacc hdata hgot hin hlive v
  refine ⟨loadedState s o t c x pa pte v, ?_, mem_loadedState s o t c x pa pte v, fun w' hw' => ?_⟩
  · rw [exec_loadPerform_single ho hkind hsel hmay hld hst, performLoad_of_inside henv hmay hwait hlevel hacc hdata hgot hin]
    rfl
  · obtain ⟨w1, hw1, hfiles⟩ := findWave_loadedState (x := x) pa pte v ho hkind henv hlive
    rw [Option.some.inj (hw'.symm.trans hw1)]
    exact hfiles

/-! ## Stores (R225, R228) -/

theorem mem_scrPuts (s : State) (ps : List ScrPlace) (bs : List Byte) : (scrPuts s ps bs).mem = s.mem := by
  change (scrBytes s ps bs).mem = s.mem
  induction ps generalizing s bs with
  | nil => rfl
  | cons p ps ih =>
    cases bs with
    | nil => rfl
    | cons b bs =>
      refine (ih (scrPut s p b) bs).trans ?_
      cases p <;> rfl

/-- A scratchpad store outside a DET sweep puts its bytes into the storage at once. -/
theorem performStore_of_scratch {s : State} {o : Op} {w : Wave} {t : Team} {c : Context} {x : Access} {ps : List ScrPlace}
    (henv : opEnv s o = some (w, t, c)) (hmay : mayPerform o x = true) (hwait : mustWait s o t c x = false) (hdet : isDet s t = false)
    (hlevel : x.level ≠ .g) (hplaces : levelBytes s t o.wave x.lane x.level x.addr x.n = .ok ps) :
    ∃ s', performStore s o x = some s' ∧ AgentsFrame (scrPuts s ps (leBytes x.n x.data)) s' := by
  simp only [performStore, henv, hmay, hwait, hdet, hplaces, Bool.not_true, Bool.or_false, Bool.false_eq_true, if_false, ne_eq, hlevel, not_false_eq_true,
    if_true]
  refine ⟨_, rfl, (agentsFrame_updOp _ _ _).trans (.trans (.ite ?_ (agentsFrame_refl _)) (agentsFrame_settle_updAcc _ _ _ _))⟩
  exact agentsFrame_raiseHorizon _ _ _ _

/-- What a store inside one sector leaves: one entry more at home, and memory as it was. -/
theorem storePiece_of_inside (s : State) (o : Op) (t : Team) (c : Context) {x : Access} {pa pte : Nat} (hgot : x.data2 = 0) (hpos : 0 < x.n)
    (hin : x.addr.toNat % 48 + x.n ≤ 48) (hpa : pa % 192 = x.addr.toNat % 192) :
    let s1 := noteLine s c x.addr.toNat pa pte true
    let core : Option Nat := if isNormal pte (pa / 49152) then some (seatOf t) else none
    (storePiece s o t c x pa pte).mem = s.mem ∧ (storePiece s o t c x pa pte).homeStores
      = s.homeStores ++ [⟨o.id, core, none, completionTime s1 (pa / 192) (isNormal pte (pa / 49152)), pa, leBytes x.n x.data⟩] := by
  intro s1 core
  have hlines : LinesFrame s s1 := linesFrame_noteLine s c x.addr.toNat pa pte true
  have hline : pa % 192 + (leBytes x.n x.data).length ≤ 192 := by rw [length_leBytes]; omega
  obtain ⟨s2, hs2, hframe⟩ : ∃ s2, storePiece s o t c x pa pte = s2
      ∧ AgentsFrame (storeHome s1 o.id core (isNormal pte (pa / 49152)) pa (leBytes x.n x.data)).1 s2 := by
    simp only [storePiece, hgot, pieceLen_of_inside hin, bytesOf_zero, Nat.add_zero, Nat.zero_add, Nat.lt_irrefl, if_false]
    refine ⟨_, rfl, .trans (.trans (.ite ?_ (agentsFrame_refl _)) (agentsFrame_updOp _ _ _)) (agentsFrame_settle_updAcc _ _ _ _)⟩
    exact agentsFrame_raiseHorizon _ _ _ _
  rw [storeHome_of_inside s1 o.id core _ (leBytes_ne_nil x.data hpos) hline] at hframe
  rw [hs2, hframe.mem_eq, hframe.homeStores_eq]
  exact ⟨hlines.mem_eq, congrArg (· ++ _) hlines.homeStores_eq⟩

/-- A store to memory outside a task and a DET sweep is sent home. -/
theorem performStore_of_inside {s : State} {o : Op} {w : Wave} {t : Team} {c : Context} {x : Access} {pa pte : Nat}
    (henv : opEnv s o = some (w, t, c)) (hmay : mayPerform o x = true) (hwait : mustWait s o t c x = false) (hdet : isDet s t = false)
    (hlevel : x.level = .g) (hacc : accessFrom s c (seatOf t) x.addr x.n 0 x.n .store = .ok pa pte) (htask : o.inTask = false) (hgot : x.data2 = 0)
    (hin : x.addr.toNat % 48 + x.n ≤ 48) (hahead : isNormal pte (pa / 49152) = true → l1Ahead s o t x = false) :
    performStore s o x = some (storePiece (noteAccess s c (seatOf t) x.addr.toNat pa pte .store) o t c x pa pte) := by
  have hgo : (isNormal pte (pa / 49152) && l1Ahead s o t x) = false := by
    cases hn : isNormal pte (pa / 49152)
    · rfl
    · exact hahead hn
  simp only [performStore, henv, hmay, hwait, hdet, hlevel, htask, hgot, pieceLen_of_inside hin, hacc, hgo, Bool.not_true, Bool.or_false,
    Bool.false_eq_true, ne_eq, not_true_eq_false, if_false, ite_self]

/-- Settles O44: noting the line of a store keeps its time and its copies, which bound the time of its entry at home. -/
theorem storesReachTheirHome : Obligations.StoresReachTheirHome := by
  intro s id lanes o w t c x ho henv hsel hmay hwait hld hst hdet
  refine ⟨?memory, ?scratch⟩
  case memory =>
    intro pa pte jar hkind hlevel hacc htask hgot hpos hin hahead core
    have hexec := exec_storeAtHome_single ho (by rw [hkind]; rfl) (by rw [hkind]; rfl) hsel hld hst
    rw [performStore_of_inside henv hmay hwait hdet hlevel hacc htask hgot hin hahead] at hexec
    have hnoted := linesFrame_noteAccess s c (seatOf t) x.addr.toNat pa pte .store
    have hkept := lineKept_noteAccess (pa / 192) s c (seatOf t) x.addr.toNat pa pte .store
    generalize noteAccess s c (seatOf t) x.addr.toNat pa pte .store = s0 at hexec hnoted hkept
    replace hkept := hkept.trans (lineKept_noteLine s0 c x.addr.toNat pa pte true)
    have hlines := hnoted.trans (linesFrame_noteLine s0 c x.addr.toNat pa pte true)
    obtain ⟨hmem, hhome⟩ := storePiece_of_inside s0 o t c hgot hpos hin (accessFrom_mod hacc)
    refine ⟨_, _, hexec, hmem.trans hnoted.mem_eq, hhome.trans (congrArg (· ++ _) hnoted.homeStores_eq), ?_, ?_, ?_⟩
    · exact hlines.now_eq ▸ now_le_completionTime _ (pa / 192) _
    · exact hkept.time.trans (lineT_le_completionTime _ (pa / 192) _)
    · intro hnormal hheld y hy hline hlive
      rw [hnormal]
      exact expiry_le_completionTime (by rw [hlines.isHeld_eq, hheld]) (hkept.copies y hy hline) hline (by rwa [hlines.now_eq])
  case scratch =>
    intro ps hkind hlevel hplaces
    obtain ⟨s', hs', hframe⟩ := performStore_of_scratch henv hmay hwait hdet hlevel hplaces
    have hexec := exec_storeAtHome_single ho (by rw [hkind]; rfl) (by rw [hkind]; rfl) hsel hld hst
    rw [hs'] at hexec
    exact ⟨s', hexec, hframe.mem_eq.trans (mem_scrPuts ..), hframe.scratch_eq, hframe.diePad_eq⟩

/-! ## Atomics (R87, R229 to R231) -/

/-- An atomic outside a task and a DET sweep sends the new value that it makes of the bytes at home. -/
theorem performAtomic_of_plain {s : State} {o : Op} {w : Wave} {t : Team} {c : Context} {x : Access} {pa pte : Nat} {fn : AtomFn}
    (henv : opEnv s o = some (w, t, c)) (hmay : mayPerform o x = true) (hheld : detHolds t o x.lane = false) (hwait : mustWait s o t c x = false)
    (hahead : l1Ahead s o t x = false) (hlevel : x.level = .g) (hacc : accessFrom s c (seatOf t) x.addr x.n 0 x.n .atomic = .ok pa pte)
    (hhost : pgnHost (pa / 49152) = true → hostAtom fn x.n = true) (hdet : isDet s t = false) (htask : o.inTask = false) :
    ∃ s', performAtomic s o fn x = some s'
      ∧ AgentsFrame (atomicHome (leaveHome (noteAccess s c (seatOf t) x.addr.toNat pa pte .atomic) c x.addr.toNat pa pte) o.id (isNormal pte (pa / 49152))
          pa x.n (atomNew fn x.n (leNat ((upto x.n).map fun i => homeByte s (pa + i))) x.data x.data2)).1 s' := by
  have hserves : (pgnHost (pa / 49152) && !hostAtom fn x.n) = false := by
    cases hp : pgnHost (pa / 49152)
    · rfl
    · simp [hhost hp]
  simp only [performAtomic, henv, hmay, hheld, hwait, hahead, hlevel, hacc, hserves, hdet, htask, Bool.not_true, Bool.or_false, Bool.false_eq_true, ne_eq,
    not_true_eq_false, if_false]
  exact ⟨_, rfl, ((agentsFrame_raiseHorizon _ _ _ _).trans (agentsFrame_updOp _ _ _)).trans (agentsFrame_settle_updAcc _ _ _ _)⟩

theorem mem_atomicHome (s : State) (op : Nat) (leased : Bool) (pa n : Nat) (new : Option Nat) : (atomicHome s op leased pa n new).1.mem = s.mem := by
  cases new with
  | none => rfl
  | some v => exact (storeHome_storage s op none leased pa (leBytes n v)).1

/-- Settles O45: leaving the caches keeps the stores at home, and the new value is one entry more among them. -/
theorem atomicsReadAndStoreInOneStep : Obligations.AtomicsReadAndStoreInOneStep := by
  intro s id lanes o w t c x pa pte fn dst ho hkind henv hsel hmay hheld hwait hahead hlevel hacc hhost hdet htask hpos hin old
  obtain ⟨s', hs', hframe⟩ := performAtomic_of_plain henv hmay hheld hwait hahead hlevel hacc hhost hdet htask
  have hlines := (linesFrame_noteAccess s c (seatOf t) x.addr.toNat pa pte .atomic).trans (linesFrame_leaveHome _ c x.addr.toNat pa pte)
  generalize leaveHome (noteAccess s c (seatOf t) x.addr.toNat pa pte .atomic) c x.addr.toNat pa pte = s0 at hframe hlines
  refine ⟨s', exec_atomicPerform_single ho hkind hsel hs', ?_, fun v hv => ?_, fun hnone => ?_⟩
  · exact hframe.mem_eq.trans ((mem_atomicHome ..).trans hlines.mem_eq)
  · have hline : pa % 192 + (leBytes x.n v).length ≤ 192 := by rw [length_leBytes]; omega
    rw [hv, atomicHome, storeHome_of_inside s0 o.id none _ (leBytes_ne_nil v hpos) hline] at hframe
    exact ⟨_, hlines.now_eq ▸ now_le_completionTime s0 (pa / 192) _, hframe.homeStores_eq.trans (congrArg (· ++ _) hlines.homeStores_eq)⟩
  · rw [hnone] at hframe
    exact hframe.homeStores_eq.trans hlines.homeStores_eq

end Sys2Proof.Machine
end

section
/-!
PROOF. Divergence (R125 to R129, R139, R144, R146, R147): what a word sees of its wave, the level that a split pushes, and the arrival of paths at
the reconvergence.
-/

namespace Sys2Proof.Machine

/-! ## What a word sees -/

/-- The records that a word sees are those of the current agent, which stands inside a clause. -/
structure SeesRecords (s : State) (e : Env) : Prop where
  cur : s.cur = some e.who
  wave : findWave s e.who.tid e.who.wave = some e.w
  team : findTeam s e.who.tid = some e.t
  path : e.w.pathOf e.who.lane = some e.p

theorem seesRecords_of_envOf {s : State} {i : Instr} {f : Fields} {e : Env} (h : envOf s i f = some e) : SeesRecords s e := by
  unfold envOf at h
  split at h
  · cases h
  next a hcur =>
    split at h
    next w t hw ht =>
      split at h
      next p c sw hp _ _ =>
        split at h
        · cases h
          exact ⟨hcur, hw, ht, hp⟩
        · cases h
      next => cases h
    next => cases h

theorem wordAtTurn.sees {s : State} {i : Instr} {f : Fields} {e : Env} (h : wordAtTurn s i f e) : SeesRecords s e :=
  seesRecords_of_envOf h.2.1

/-- At its turn, and if its own checks find nothing, a word ends as its body does. -/
theorem outcomeWith_atTurn {s : State} {i : Instr} {f : Fields} {e : Env} {extra : Extra} {body : Env → State → Verdict} {v : Verdict}
    {o : Host.Outcome State Fault Refusal} (ho : o = issueWith i extra s body) (h : wordAtTurn s i f e) (hx : extra e s = [])
    (hbody : body e s = v) : o = .next (conclude s e v) := by
  rw [ho, issueWith_atTurn body h hx, hbody]

/-! ## The level that a split pushes (R125, R127) -/

/-- From `s` to `t` the issuing wave has got one more level, `d`, on top of those it had, and memory has stayed as it was. -/
structure Pushes (s : State) (e : Env) (d : DivLevel) (t : State) : Prop where
  mem : t.mem = s.mem
  stack : ∀ w, findWave t e.who.tid e.who.wave = some w → w.stack = d :: e.w.stack

theorem waves_scrPuts (s : State) (ps : List ScrPlace) (bs : List Byte) : (scrPuts s ps bs).waves = s.waves := by
  change (scrBytes s ps bs).waves = s.waves
  induction ps generalizing s bs with
  | nil => rfl
  | cons p ps ih =>
    cases bs with
    | nil => rfl
    | cons b bs =>
      refine (ih (scrPut s p b) bs).trans ?_
      cases p <;> rfl

/-- A spill writes scratchpads alone: memory and the waves are those of the push. -/
theorem pushLevel_mem_waves (s : State) (e : Env) (d : DivLevel) :
    (pushLevel s e d).mem = s.mem ∧ (pushLevel s e d).waves = (updCur s e.who fun w => { w with stack := d :: w.stack }).waves := by
  unfold pushLevel
  extract_lets s1 n
  split
  · exact ⟨rfl, rfl⟩
  · split
    · exact ⟨rfl, rfl⟩
    · split
      split
      · exact ⟨mem_scrPuts _ _ _, waves_scrPuts _ _ _⟩
      · exact ⟨rfl, rfl⟩

/-- What a word makes of its wave after the push leaves the level on top, where it leaves the stack alone. -/
theorem pushes_updCur_pushLevel {s s0 : State} {e : Env} {d : DivLevel} {g : Wave → Wave} (hw : findWave s e.who.tid e.who.wave = some e.w)
    (hmem : s0.mem = s.mem) (hwaves : s0.waves = s.waves) (hkey : ∀ w, (g w).tid = w.tid ∧ (g w).ix = w.ix) (hstack : ∀ w, (g w).stack = w.stack) :
    Pushes s e d (updCur (pushLevel s0 e d) e.who g) where
  mem := (pushLevel_mem_waves s0 e d).1.trans hmem
  stack w h := by
    have hpush : findWave (pushLevel s0 e d) e.who.tid e.who.wave = some { e.w with stack := d :: e.w.stack } := by
      have h0 : findWave s0 e.who.tid e.who.wave = some e.w := by rw [findWave, hwaves, ← findWave, hw]
      rw [findWave, (pushLevel_mem_waves s0 e d).2, ← findWave]
      exact findWave_updWave_of_find (fun _ => ⟨rfl, rfl⟩) h0
    have := findWave_updWave_of_find hkey hpush
    rw [updCur_eq, this, Option.some.injEq] at h
    rw [← h, hstack]

/-- A split pushes a level of kind JOIN, whichever of its sets runs first and whether the other is ejected or waits its turn. -/
theorem split_pushes {s : State} {e : Env} (hw : findWave s e.who.tid e.who.wave = some e.w) (t : W32) (tVa : Nat) (f : W32) (fVa recon : Nat) :
    ∃ u n ps, split s e t tVa f fVa recon = .moved u ∧ Pushes s e (newLevel s e .join recon n ps) u := by
  unfold split
  extract_lets tMin tFirst
  split
  extract_lets n
  split
  · exact ⟨_, _, _, rfl, pushes_updCur_pushLevel hw rfl rfl (fun _ => ⟨rfl, rfl⟩) fun _ => rfl⟩
  · split
    exact ⟨_, _, _, rfl, pushes_updCur_pushLevel hw rfl rfl (fun _ => ⟨rfl, rfl⟩) fun _ => rfl⟩

/-! ## The groups of an ICALL (R144) -/

theorem insertUp_ne_nil (x : Nat) (l : List Nat) : insertUp x l ≠ [] := by
  cases l with
  | nil => simp [insertUp]
  | cons y r =>
    unfold insertUp
    split
    · simp
    · split <;> simp

theorem lanesOf_ne_nil {m : W32} (h : m ≠ 0) : lanesOf m ≠ [] := by
  intro hnil
  refine h (BitVec.eq_of_getLsbD_eq fun l hl => ?_)
  have hout : l ∉ lanesOf m := by rw [hnil]; exact List.not_mem_nil
  simpa [mem_lanesOf, hl] using hout

/-- With an active lane there is a group. -/
theorem groupPaths_ne_nil {e : Env} (hact : e.act ≠ 0) (ro pid : Nat) : groupPaths e ro pid ≠ [] := by
  have htargets : callTargets e ≠ [] := by
    rw [callTargets, ← List.dropLast_append_getLast (lanesOf_ne_nil hact), List.foldl_append]
    exact insertUp_ne_nil _ _
  intro hnil
  rw [groupPaths, List.map_eq_nil_iff] at hnil
  exact htargets (by simpa using hnil)

/-- The start of a path changes the path of the wave, and of a group's wave a lane register. -/
theorem startPath_frame (w : Wave) (d : DivLevel) (p : Path) (code : Nat) :
    ∃ l, startPath w d p code = { w with lanes := l, path := p } := by
  obtain ⟨l, hl⟩ := w.setLanes_frame 58 p.em fun _ => BitVec.ofNat 32 (d.recon - code)
  unfold startPath
  rw [hl]
  split
  · split
    · exact ⟨l, rfl⟩
    · exact ⟨w.lanes, rfl⟩
  · exact ⟨w.lanes, rfl⟩

theorem startPath_key (w : Wave) (d : DivLevel) (p : Path) (code : Nat) :
    (startPath w d p code).tid = w.tid ∧ (startPath w d p code).ix = w.ix := by
  obtain ⟨l, hl⟩ := startPath_frame w d p code
  rw [hl]
  exact ⟨rfl, rfl⟩

theorem startPath_stack (w : Wave) (d : DivLevel) (p : Path) (code : Nat) : (startPath w d p code).stack = w.stack := by
  obtain ⟨l, hl⟩ := startPath_frame w d p code
  rw [hl]

/-! ## The words that split -/

section Splits
variable {s : State} {f : Fields} {e : Env}

/-- A wave whose stack can spill may push a level (R127). -/
theorem spillErrors_eq_nil (hspill : spillFails e.t e.w.stack.length = false) : spillErrors e = [] := by
  simp [spillErrors, hspill]

/-- A split that names a join breaks no check (R139). -/
theorem splitErrors_eq_nil (hspill : spillFails e.t e.w.stack.length = false) {join : Int} (hjoin : join ≠ 0) : splitErrors e join = [] := by
  simp [splitErrors, hjoin, spillErrors_eq_nil hspill]

/-- A transfer of some of the enabled lanes splits. -/
theorem branchTo_of_remaining (hact : e.act ≠ 0) (hrest : remaining e ≠ 0) (va : Nat) (join : Int) :
    branchTo s e va join = split s e e.act va (remaining e) (nextHeader e) (codeVa (e.k.hdrVa + 8 * join)) := by
  rw [branchTo, if_neg hact, if_neg hrest]

/-- A diverging transfer of a word at its turn pushes one level, which reconverges at the join that it names. -/
theorem branchTo_pushes (hw : findWave s e.who.tid e.who.wave = some e.w) (hact : e.act ≠ 0) (hrest : remaining e ≠ 0) (va : Nat) (join : Int) :
    ∃ u n ps, branchTo s e va join = .moved u ∧ Pushes s e (newLevel s e .join (codeVa (e.k.hdrVa + 8 * join)) n ps) u := by
  rw [branchTo_of_remaining hact hrest]
  exact split_pushes hw _ _ _ _ _

/-- BRA at its turn, where its join and the spill are in order. -/
theorem exec_bra_atTurn (h : wordAtTurn s (.bra f) f e) (hspill : spillFails e.t e.w.stack.length = false) (hjoin : joinOfDA f ≠ 0) :
    exec (.bra f) s = .next (conclude s e (branchTo s e (nearVa e) (joinOfDA f))) :=
  outcomeWith_atTurn (rfl : _ = execBra f s) h (splitErrors_eq_nil hspill hjoin) rfl

/-- BRX at its turn, where besides its offset is one of a word (R138). -/
theorem exec_brx_atTurn (h : wordAtTurn s (.brx f) f e) (hact : e.act ≠ 0) (hspill : spillFails e.t e.w.stack.length = false)
    (hjoin : nearOffset f ≠ 0) (hlow : (e.p.s f.a.toNat).toNat < 2 ^ 32) (halign : (e.p.s f.a.toNat).toNat % 8 = 0) :
    exec (.brx f) s = .next (conclude s e (branchTo s e (e.sw.code + (e.p.s f.a.toNat).toNat) (nearOffset f))) := by
  have hoffset : offsetErrors (e.p.s f.a.toNat) = [] := if_neg (Nat.not_le.2 hlow)
  have hnone : (splitErrors e (nearOffset f) ++ if e.act = 0 || !scalarAt f.asp f.a then [] else offsetErrors (e.p.s f.a.toNat)) = [] := by
    rw [splitErrors_eq_nil hspill hjoin, hoffset, ite_self, List.append_nil]
  refine outcomeWith_atTurn (rfl : _ = execBrx f s) h hnone ?_
  rw [if_neg hact, toOffset, if_neg (not_not.2 halign)]

/-- ICALL of the wave itself at its turn: the first group runs and the others wait in the level that it opens (R144). -/
theorem exec_icall_atTurn (h : wordAtTurn s (.icall f) f e) (hmain : e.who.lane = none) (hact : e.act ≠ 0)
    (hspill : spillFails e.t e.w.stack.length = false) (hret : returnOffset e < 2 ^ 32) {p : Path} {more : List Path}
    (hgroups : groupPaths e (returnOffset e) (s.fresh + 1) = p :: more) :
    exec (.icall f) s = .next (retiredMoved
      (updCur (pushLevel { s with fresh := s.fresh + 2 + more.length } e (newLevel s e .call (nextHeader e) 0 more)) e.who
        fun w => startPath w (newLevel s e .call (nextHeader e) 0 more) p e.sw.code) e) := by
  have hlow : ¬ (e.act ≠ 0 ∧ returnOffset e ≥ 2 ^ 32) := fun hc => Nat.not_le.2 hret hc.2
  have hnone : icallErrors e = [] := by
    rw [icallErrors, returnErrors, if_neg hlow, spillErrors_eq_nil hspill, ite_self, List.append_nil]
  refine outcomeWith_atTurn (v := .moved _) (rfl : _ = execIcall f s) h hnone ?_
  simp only [if_neg hact, hmain, hgroups]

/-- EJECT at its turn: the active lanes are ejected and the others go on (R147). -/
theorem exec_eject_atTurn (h : wordAtTurn s (.eject f) f e) (hact : e.act ≠ 0) (hspill : spillFails e.t e.w.stack.length = false)
    (hjoin : nearOffset f ≠ 0) :
    exec (.eject f) s = .next (retiredMoved
      (updCur (pushLevel { s with fresh := s.fresh + countLanes e.act + 2 } e
          (newLevel s e .join (codeVa (e.k.hdrVa + 8 * nearOffset f)) (countLanes e.act) [])) e.who
        fun w => { w with
          conts := w.conts ++ ejectLanes e.p s.fresh (nextHeader e) (s.fresh + 2) e.act s.now
          path := forkPath e.p (s.fresh + 1) (if remaining e = 0 then codeVa (e.k.hdrVa + 8 * nearOffset f) else nextHeader e) (remaining e) }) e) := by
  have hnone : (if nearOffset f = 0 then [subField] else if e.act = 0 then [] else spillErrors e) = [] := by
    rw [if_neg hjoin, if_neg hact, spillErrors_eq_nil hspill]
  exact outcomeWith_atTurn (v := .moved _) (rfl : _ = execEject f s) h hnone (if_neg hact)

end Splits

/-- Settles O25: the checks of each word pass, and what it makes of its wave after the push leaves the stack alone. -/
theorem splitsPushOneLevel : Obligations.SplitsPushOneLevel := by
  intro s f e hmain hspill pushed
  have of_moved : ∀ {i kind recon u n ps}, exec i s = .next (retiredMoved u e) → Pushes s e (newLevel s e kind recon n ps) u →
      pushed i kind recon := fun hexec hpush => ⟨_, hexec, hpush.mem, fun w hw => ⟨_, hpush.stack w hw, rfl, rfl, rfl, rfl⟩⟩
  refine ⟨fun h hact hrest hjoin => ?bra, fun h hact hrest hjoin hlow halign => ?brx, fun h hact hret => ?icall, fun h hact hjoin => ?eject⟩
  case bra =>
    obtain ⟨u, n, ps, hmoved, hpush⟩ := branchTo_pushes h.sees.wave hact hrest (nearVa e) (joinOfDA f)
    have hexec := exec_bra_atTurn h hspill hjoin
    rw [hmoved] at hexec
    exact of_moved hexec hpush
  case brx =>
    obtain ⟨u, n, ps, hmoved, hpush⟩ := branchTo_pushes h.sees.wave hact hrest (e.sw.code + (e.p.s f.a.toNat).toNat) (nearOffset f)
    have hexec := exec_brx_atTurn h hact hspill hjoin hlow halign
    rw [hmoved] at hexec
    exact of_moved hexec hpush
  case icall =>
    obtain ⟨p, more, hgroups⟩ := List.exists_cons_of_ne_nil (groupPaths_ne_nil hact (returnOffset e) (s.fresh + 1))
    exact of_moved (exec_icall_atTurn h hmain hact hspill hret hgroups)
      (pushes_updCur_pushLevel h.sees.wave rfl rfl (fun w => startPath_key w _ p e.sw.code) fun w => startPath_stack w _ p e.sw.code)
  case eject =>
    exact of_moved (exec_eject_atTurn h hact hspill hjoin)
      (pushes_updCur_pushLevel h.sees.wave rfl rfl (fun _ => ⟨rfl, rfl⟩) fun _ => rfl)

end Sys2Proof.Machine
end

section
/-!
PROOF. Special registers, the mask and cluster addresses (R132, R266 to R268): the form of a word fixes the spaces that its own checks look at.
-/

namespace Sys2Proof.Machine

/-! ## A word's own checks at its turn -/

/-- A word whose own checks find one subcode of R33 raises it with `%xaddr` 0. -/
theorem outcomeWith_refused {s : State} {i : Instr} {f : Fields} {e : Env} {extra : Extra} {body : Env → State → Verdict} {sub : Nat}
    {o : Host.Outcome State Fault Refusal} (ho : o = issueWith i extra s body) (h : wordAtTurn s i f e) (hx : extra e s = [sub])
    (hsub : sub < 256) : o = .next (deliver s e.who ⟨.illegalOp, sub, 0⟩ (preciseAt e.va)) := by
  obtain ⟨hf, he, hissue, hlane, hskid, hrow, hnone⟩ := h
  have hskid' : (endsSkid i && faultPending s e.w e.who.lane) = false := by
    cases hi : endsSkid i
    · rfl
    · exact hskid hi
  have hrep : reported e [sub] = some ⟨.illegalOp, sub, 0⟩ := by simp [reported, Nat.mod_eq_of_lt hsub]
  rw [ho]
  rcases hlane with hlane | hlane
  · rw [hlane] at hissue hskid'
    simp [issueWith, hf, he, hlane, hissue, hskid', hrow, hnone, hx, hrep]
  · simp [issueWith, hf, he, hissue, hlane, hskid', hrow, hnone, hx, hrep]

/-- A word at its turn breaks nothing by its form. -/
theorem wordAtTurn.errors_eq_nil {s : State} {i : Instr} {f : Fields} {e : Env} (h : wordAtTurn s i f e) (heng : (formOf i).eng ≠ .mat) :
    (formOf i).errors f = [] := by
  have hfields := h.fields
  obtain ⟨-, -, -, -, -, -, hnone⟩ := h
  rw [firstError, if_neg heng, List.min?_eq_none_iff, issueErrors] at hnone
  simp only [List.append_eq_nil_iff] at hnone
  obtain ⟨⟨⟨hform, -⟩, -⟩, -⟩ := hnone
  rwa [hfields] at hform

/-- A form in order has its destination and its first operand in order. -/
theorem slotErrors_of_errors {fm : Form} {f : Fields} (h : fm.errors f = []) :
    slotErrors fm.d f.dsp f.d.toNat false = [] ∧ slotErrors fm.a f.asp f.a.toNat (immA fm) = [] := by
  unfold Form.errors at h
  simp only [List.append_eq_nil_iff] at h
  obtain ⟨⟨⟨⟨⟨⟨⟨⟨⟨⟨⟨⟨hd, ha⟩, -⟩, -⟩, -⟩, -⟩, -⟩, -⟩, -⟩, -⟩, -⟩, -⟩, -⟩ := h
  exact ⟨hd, ha⟩

theorem space_cases (sp : BitVec 2) : sp = 0 ∨ sp = 1 ∨ sp = 2 ∨ sp = 3 := by decide +revert

/-- A scalar operand in order stands in space 01, below s64 (R34). -/
theorem scalarAt_of_slotErrors {sp : BitVec 2} {ix : BitVec 8} (h : slotErrors sS sp ix.toNat false = []) : scalarAt sp ix = true := by
  by_contra hbad
  rcases space_cases sp with rfl | rfl | rfl | rfl
  case inr.inl =>
    have hout : ¬ ix.toNat < 64 := by simpa [scalarAt] using hbad
    simp [slotErrors, SlotForm.codeErrors, SlotForm.spaceErrors, SlotForm.unused, sS, sSn, sU, hout] at h
  all_goals simp [slotErrors, SlotForm.codeErrors, SlotForm.spaceErrors, SlotForm.unused, sS, sSn, sU] at h

/-- An operand of a register file in order stands in space 11 (R35). -/
theorem space_of_slotErrors_file {r : RegFile} {sp : BitVec 2} {ix : Nat} (h : slotErrors (sFile r) sp ix false = []) : sp = 3 := by
  rcases space_cases sp with rfl | rfl | rfl | rfl
  case inr.inr.inr => rfl
  all_goals simp [slotErrors, SlotForm.codeErrors, SlotForm.spaceErrors, SlotForm.unused, sFile, sU] at h

/-! ## The words -/

section Words
variable {s : State} {f : Fields} {e : Env}

/-- WRS at its turn names a special register and a scalar. -/
theorem wrs_operands (h : wordAtTurn s (.wrs f) f e) : f.dsp = 3 ∧ scalarAt f.asp f.a = true :=
  have hslots := slotErrors_of_errors (h.errors_eq_nil nofun)
  ⟨space_of_slotErrors_file hslots.1, scalarAt_of_slotErrors hslots.2⟩

/-- MOVEM at its turn names a scalar. -/
theorem movem_operand (h : wordAtTurn s (.movem f) f e) : scalarAt f.asp f.a = true :=
  scalarAt_of_slotErrors (slotErrors_of_errors (h.errors_eq_nil nofun)).2

/-- The mask that MOVEM leaves, by its fields. -/
theorem movemMask_atTurn (h : wordAtTurn s (.movem f) f e) : movemMask e = (raw64 e (srcA f)).truncate 32 &&& e.p.mask := by
  rw [movemMask, h.fields]

/-- A word with a lane or scalar destination, written as a result. -/
theorem laneOrScalar_eq (e : Env) (s : State) (uni : Word) (lane : Nat → W32) : laneOrScalar e s uni lane = .ok (resultD e s uni lane) := by
  simp only [laneOrScalar, resultD, uniformD, beq_iff_eq]

end Words

/-- Settles O15: RDS and LEA have no checks of their own, and those of WRS and MOVEM find FIELD exactly where the statement says. -/
theorem specialRegistersAndMask : Obligations.SpecialRegistersAndMask := by
  intro s f
  refine ⟨fun e h => ?rds, fun e h hclear => ?wrs, ?wrsReserved, fun e h hmask => ?movem, fun e h hmask => ?movemEmpty, fun e h => ?lea⟩
  case rds => exact outcome_atTurn (rfl : _ = execRds f s) h (laneOrScalar_eq e s _ _)
  case wrs =>
    refine outcomeWith_atTurn (v := .ok _) (rfl : _ = execWrs f s) h (if_neg ?_) rfl
    rcases hclear with hnone | hzero
    · simp [hnone]
    · simp [hzero]
  case wrsReserved =>
    rintro e h ⟨hact, hres⟩
    obtain ⟨hd, ha⟩ := wrs_operands h
    refine outcomeWith_refused (rfl : _ = execWrs f s) h (if_pos ?_) (by decide)
    simp only [Bool.and_eq_true, decide_eq_true_eq]
    exact ⟨⟨⟨hd, ha⟩, hact⟩, hres⟩
  case movem =>
    have hleft : ¬ movemMask e = 0 := by rw [movemMask_atTurn h]; exact hmask
    refine outcomeWith_atTurn (v := .ok _) (rfl : _ = execMovem f s) h (if_neg fun hc => ?_) ?_
    · simp only [Bool.and_eq_true, decide_eq_true_eq] at hc
      exact hleft hc.2
    · simp only [movemMask_atTurn h]
  case movemEmpty =>
    have hnone : movemMask e = 0 := (movemMask_atTurn h).trans hmask
    refine outcomeWith_refused (rfl : _ = execMovem f s) h (if_pos ?_) (by decide)
    simp only [Bool.and_eq_true, decide_eq_true_eq]
    exact ⟨movem_operand h, hnone⟩
  case lea =>
    obtain rfl : e.f = f := h.fields
    exact outcome_atTurn (rfl : _ = execLea e.f s) h (laneOrScalar_eq e s _ _)

end Sys2Proof.Machine
end

section
/-!
PROOF. JOIN (R126, R128, R146): what the levels of the issuing path decide, and what the arrival of the main path does.
-/

namespace Sys2Proof.Machine

section Join
variable {s : State} {f : Fields} {e : Env} {d : DivLevel} {r : List DivLevel}

/-- A JOIN in order ends as its path's part says: a continuation's or the main one's. -/
theorem execJoin_atTurn (h : wordAtTurn s (.join f) f e) (hnone : joinErrors e = []) :
    exec (.join f) s = .next (conclude s e (match e.who.lane with | some l => joinCont s e l | none => joinMain s e)) :=
  outcomeWith_atTurn (rfl : _ = execJoin f s) h hnone rfl

theorem levelsOf_main (hmain : e.who.lane = none) : levelsOf e = e.w.stack := by simp only [levelsOf, hmain]

/-- At the reconvergence of its own level a path breaks nothing. -/
theorem joinErrors_of_own (hlevels : levelsOf e = d :: r) (hown : d.recon = e.k.hdrVa) : joinErrors e = [] := by
  simp [joinErrors, hlevels, hown]

/-- Where no level reconverges a path breaks nothing. -/
theorem joinErrors_of_outside (hout : ∀ d ∈ levelsOf e, d.recon ≠ e.k.hdrVa) : joinErrors e = [] := by
  unfold joinErrors
  split
  · rfl
  next d outer hlevels =>
    have houter : ¬ (outer.any fun x => decide (x.recon = e.k.hdrVa)) = true := by
      simp only [List.any_eq_true, decide_eq_true_eq, not_exists, not_and]
      exact fun x hx => hout x (hlevels ▸ List.mem_cons_of_mem d hx)
    exact if_neg fun hc => houter hc.2

/-- At the reconvergence of a deeper level alone a path breaks R146. -/
theorem joinErrors_of_deeper (hlevels : levelsOf e = d :: r) (hown : d.recon ≠ e.k.hdrVa) (hdeep : ∃ x ∈ r, x.recon = e.k.hdrVa) :
    joinErrors e = [subField] := by
  have hany : (r.any fun x => decide (x.recon = e.k.hdrVa)) = true := by simpa using hdeep
  simp only [joinErrors, hlevels]
  exact if_pos ⟨hown, hany⟩

/-- The main path at its level's reconvergence, where it arrives. -/
theorem joinMain_of_arrive (hstack : e.w.stack = d :: r) (hown : d.recon = e.k.hdrVa) {w' : Wave}
    (harrive : arrive e.w e.sw.code (nextHeader e) = some w') :
    joinMain s e = .moved (updCur s e.who fun w => (arrive w e.sw.code (nextHeader e)).getD w) := by
  simp only [joinMain, hstack, hown, harrive, if_true]

/-- The main path at its level's reconvergence waits for the continuations that are out. -/
theorem joinMain_of_out (hstack : e.w.stack = d :: r) (hown : d.recon = e.k.hdrVa) (hout : arrive e.w e.sw.code (nextHeader e) = none) :
    joinMain s e = waitAs s e .join := by
  simp only [joinMain, hstack, hown, hout, if_true]

/-- The main path goes on where its level does not reconverge. -/
theorem joinMain_of_outside (hout : ∀ d ∈ e.w.stack, d.recon ≠ e.k.hdrVa) : joinMain s e = .ok s := by
  unfold joinMain
  split
  · rfl
  next d _ hstack => exact if_neg (hout d (hstack ▸ List.mem_cons_self))

/-! ## The arrival of the main path -/

variable {w : Wave} {code va : Nat}

/-- While a serial path of its level waits, the arrival starts it. -/
theorem arrive_of_pending {p : Path} {more : List Path} (hstack : w.stack = d :: r) (hpending : d.pending = p :: more) :
    arrive w code va = some (startPath { w with stack := { d with pending := more, done := d.done ++ [donePath w.path] } :: r } d p code) := by
  simp only [arrive, hstack, hpending]

/-- With every other path there, the arrival pops the level. -/
theorem arrive_of_last (hstack : w.stack = d :: r) (hpending : d.pending = []) (hcount : d.joinCount = 0) :
    arrive w code va = some (popLevel w d r (d.done ++ [donePath w.path]) va) := by
  simp only [arrive, hstack, hpending, hcount, if_true]

/-- While continuations are out, there is no arrival. -/
theorem arrive_of_out (hstack : w.stack = d :: r) (hpending : d.pending = []) (hcount : d.joinCount ≠ 0) : arrive w code va = none := by
  simp only [arrive, hstack, hpending, hcount, if_false]

/-- A JOIN of the main path at its level's reconvergence, where the path arrives. -/
theorem execJoin_arrives (h : wordAtTurn s (.join f) f e) (hmain : e.who.lane = none) (hstack : e.w.stack = d :: r) (hown : d.recon = e.k.hdrVa)
    {w' : Wave} (harrive : arrive e.w e.sw.code (nextHeader e) = some w') :
    exec (.join f) s = .next (retiredMoved (updCur s e.who fun w => (arrive w e.sw.code (nextHeader e)).getD w) e) := by
  rw [execJoin_atTurn h (joinErrors_of_own ((levelsOf_main hmain).trans hstack) hown), hmain]
  simp only [joinMain_of_arrive hstack hown harrive, conclude_moved]

end Join

/-- Settles O26: a JOIN is decided by the levels of its path, and the outcomes exclude each other. -/
theorem joinReconverges : Obligations.JoinReconverges := by
  intro s f
  refine ⟨?outside, ?deeper, fun e d r p more h hmain hstack hown hpending => ?serial, fun e l c d r h hlane hcont hlevels hown => ?continuation,
    fun e d r h hmain hstack hown hpending hcount => ?last, ?waits⟩
  case outside =>
    rintro e h ⟨hmain, hout⟩
    rw [execJoin_atTurn h (joinErrors_of_outside (by rwa [levelsOf_main hmain])), hmain]
    simp only [joinMain_of_outside hout, conclude_ok]
  case deeper =>
    rintro e h ⟨hmain, d, r, hstack, hown, hdeep⟩
    exact outcomeWith_refused (rfl : _ = execJoin f s) h (joinErrors_of_deeper ((levelsOf_main hmain).trans hstack) hown hdeep) (by decide)
  case serial =>
    have harrive := arrive_of_pending (code := e.sw.code) (va := nextHeader e) hstack hpending
    refine ⟨execJoin_arrives h hmain hstack hown harrive, _, harrive, ?_, startPath_stack ..⟩
    obtain ⟨l, hl⟩ := startPath_frame { e.w with stack := { d with pending := more, done := d.done ++ [donePath e.w.path] } :: r } d p e.sw.code
    rw [hl]
  case continuation =>
    have hl : c.lane = l := by simpa using List.find?_some hcont
    have hown' : levelsOf e = d :: r := by simp only [levelsOf, hlane, hcont, hlevels]
    rw [execJoin_atTurn h (joinErrors_of_own hown' hown), hlane]
    simp only [joinCont, hcont, hlevels, hown, if_true, conclude_moved, rejoin, hl]
  case last =>
    have harrive := arrive_of_last (code := e.sw.code) (va := nextHeader e) hstack hpending hcount
    exact ⟨execJoin_arrives h hmain hstack hown harrive, _, harrive, rfl, rfl, rfl⟩
  case waits =>
    rintro e h ⟨hmain, d, r, hstack, hown, hpending, hcount⟩
    rw [execJoin_atTurn h (joinErrors_of_own ((levelsOf_main hmain).trans hstack) hown), hmain]
    simp only [joinMain_of_out hstack hown (arrive_of_out hstack hpending hcount), waitAs, hmain, conclude_stall]

end Sys2Proof.Machine
end

section
/-!
PROOF. EXIT (R129, R153, R306): what it leaves of the path, of the wave and of the team.
-/

namespace Sys2Proof.Machine

/-! ## The end of a wave -/

theorem setJar_waves_teams (s : State) (cid k : Nat) (r : JarRec) : (setJar s cid k r).waves = s.waves ∧ (setJar s cid k r).teams = s.teams := by
  unfold setJar
  split
  · exact ⟨rfl, rfl⟩
  · simp only [writeNow, updCtx, and_self]

/-- A jar that takes its exit policy is no matter of waves and teams. -/
theorem exitHandle_waves_teams (cid : Nat) (a : AgentRef) (s : State) (h : Word) :
    (exitHandle cid a s h).waves = s.waves ∧ (exitHandle cid a s h).teams = s.teams := by
  unfold exitHandle
  split
  · dsimp only
    split
    · split
      · exact setJar_waves_teams ..
      · exact ⟨rfl, rfl⟩
    · exact ⟨rfl, rfl⟩
  · exact ⟨rfl, rfl⟩

theorem exitHandles_waves_teams (s : State) (cid : Nat) (w : Wave) :
    (exitHandles s cid w).waves = s.waves ∧ (exitHandles s cid w).teams = s.teams := by
  unfold exitHandles
  refine List.foldlRecOn (motive := fun t : State => t.waves = s.waves ∧ t.teams = s.teams) w.handles _ ⟨rfl, rfl⟩ fun t ht e _ => ?_
  have hstep := exitHandle_waves_teams cid ⟨w.tid, w.ix, none⟩ t e.2
  exact ⟨hstep.1.trans ht.1, hstep.2.trans ht.2⟩

/-- The wave as its end leaves it (R153). -/
def Wave.over (w : Wave) : Wave :=
  { w with status := .ended, blocks := 0, conts := [], stack := [], task := none, handles := [], path := { w.path with em := 0, clause := none } }

/-- The team as the end of its wave `ix` leaves it. -/
def Team.without (t : Team) (ix slot : Nat) : Team := { t with slots := t.slots.erase slot, barriers := leaveBarriers ix t.barriers }

section EndWave
variable {s : State} {tid ix : Nat} {w : Wave} {t : Team}

/-- The end of a wave touches waves and teams at that wave and its team alone. -/
theorem endWave_waves_teams (hw : findWave s tid ix = some w) (ht : findTeam s tid = some t) (hlive : w.status ≠ .ended) :
    (endWave s tid ix).waves = (updWave s tid ix Wave.over).waves ∧ (endWave s tid ix).teams = (updTeam s tid fun t => t.without ix w.slot).teams := by
  simp only [endWave, hw, ht, if_neg hlive]
  exact exitHandles_waves_teams ..

theorem findWave_endWave (hw : findWave s tid ix = some w) (ht : findTeam s tid = some t) (hlive : w.status ≠ .ended) :
    findWave (endWave s tid ix) tid ix = some w.over := by
  rw [findWave, (endWave_waves_teams hw ht hlive).1, ← findWave]
  exact findWave_updWave_of_find (fun _ => ⟨rfl, rfl⟩) hw

theorem findTeam_endWave (hw : findWave s tid ix = some w) (ht : findTeam s tid = some t) (hlive : w.status ≠ .ended) :
    findTeam (endWave s tid ix) tid = some (t.without ix w.slot) := by
  rw [findTeam, (endWave_waves_teams hw ht hlive).2, ← findTeam]
  exact (findTeam_updTeam s tid (fun t => t.without ix w.slot) fun _ => rfl).trans (congrArg _ ht)

end EndWave

/-! ## The end of a team -/

theorem returnSlot_teams_sweeps (s : State) (cid : Nat) (e : TriadEntry) (tid : Nat) :
    (returnSlot s cid e tid).teams = s.teams ∧ (returnSlot s cid e tid).sweeps = s.sweeps := by
  unfold returnSlot
  split
  · exact ⟨rfl, rfl⟩
  · split <;> exact ⟨rfl, rfl⟩

/-- The team as the release of its held triads leaves it. -/
def Team.released (t : Team) : Team := { t with triads := t.triads.map fun e => { e with used := false, slot := none } }

/-- The release of a team's held triads touches its own record among teams, and no sweep. -/
theorem releaseTriads_teams_sweeps (s : State) (t : Team) :
    (releaseTriads s t).teams = (updTeam s t.tid Team.released).teams ∧ (releaseTriads s t).sweeps = s.sweeps := by
  have hslots : ∀ u : State, u = t.triads.foldl (fun s e => if e.used then returnSlot s t.sweep.cid e t.tid else s) s →
      u.teams = s.teams ∧ u.sweeps = s.sweeps := by
    rintro u rfl
    refine List.foldlRecOn (motive := fun u : State => u.teams = s.teams ∧ u.sweeps = s.sweeps) t.triads _ ⟨rfl, rfl⟩ fun u hu e _ => ?_
    have hstep := returnSlot_teams_sweeps u t.sweep.cid e t.tid
    split
    · exact ⟨hstep.1.trans hu.1, hstep.2.trans hu.2⟩
    · exact hu
  obtain ⟨hteams, hsweeps⟩ := hslots _ rfl
  refine ⟨?_, hsweeps⟩
  simp only [releaseTriads, updTeam, hteams]
  rfl

/-- A sweep found by its number after a change that keeps the number. -/
theorem sweepOf_updSweep (s : State) (t : Team) {g : Sweep → Sweep} (hg : ∀ w, (g w).ref = w.ref) :
    sweepOf (updSweep s t.sweep g) t = (sweepOf s t).map g := by
  unfold sweepOf updSweep
  simp only
  rw [find_map_key (g := fun w => if w.ref = t.sweep then g w else w)]
  · cases hfind : s.sweeps.find? fun w => w.ref = t.sweep with
    | none => rfl
    | some w =>
      have href : w.ref = t.sweep := by simpa using List.find?_some hfind
      simp only [Option.map_some, href, if_true]
  · intro w
    split
    · rw [hg]
    · rfl

theorem noteFinish_ended (w : Sweep) : (noteFinish w).ended = w.ended := by
  unfold noteFinish
  split <;> rfl

theorem noteFinish_ref (w : Sweep) : (noteFinish w).ref = w.ref := by
  unfold noteFinish
  split <;> rfl

/-- The sweep as the end of one of its teams leaves it (R388). -/
def Sweep.counted (w : Sweep) : Sweep := noteFinish { w with ended := w.ended + 1 }

/-- The team as its own end leaves it. -/
def Team.over (t : Team) : Team := { t with status := .ended, slots := [], preempt := none }

section TeamEnd
variable {s : State} {tid : Nat} {t : Team}

/-- A team none of whose waves lives ends, and its sweep counts it. -/
theorem checkTeamEnd_of_ended (ht : findTeam s tid = some t) (hlive : t.status ≠ .ended) (hlost : t.lost = none)
    (hwaves : ∀ w ∈ s.waves, w.tid = tid → w.status = .ended) :
    checkTeamEnd s tid = updSweep (updTeam (releaseTriads s t) tid Team.over) t.sweep Sweep.counted := by
  have hnone : (s.waves.any fun w => w.tid == tid && decide (w.status ≠ .ended)) = false := by
    rw [List.any_eq_false]
    intro w hw hc
    simp only [Bool.and_eq_true, beq_iff_eq, decide_eq_true_eq] at hc
    exact hc.2 (hwaves w hw hc.1)
  simp only [checkTeamEnd, ht, hlost, hnone, decide_eq_false hlive, Option.isSome_none, Bool.or_false, Bool.false_eq_true, if_false]
  rfl

theorem findTeam_tid (ht : findTeam s tid = some t) : t.tid = tid := by simpa using List.find?_some ht

theorem findTeam_checkTeamEnd (ht : findTeam s tid = some t) (hlive : t.status ≠ .ended) (hlost : t.lost = none)
    (hwaves : ∀ w ∈ s.waves, w.tid = tid → w.status = .ended) : findTeam (checkTeamEnd s tid) tid = some t.released.over := by
  have hreleased : findTeam (releaseTriads s t) tid = some t.released := by
    rw [findTeam, (releaseTriads_teams_sweeps s t).1, ← findTeam, findTeam_tid ht, findTeam_updTeam s tid Team.released fun _ => rfl, ht, Option.map_some]
  rw [checkTeamEnd_of_ended ht hlive hlost hwaves]
  exact (findTeam_updTeam _ tid Team.over fun _ => rfl).trans (congrArg _ hreleased)

theorem sweepOf_checkTeamEnd (ht : findTeam s tid = some t) (hlive : t.status ≠ .ended) (hlost : t.lost = none)
    (hwaves : ∀ w ∈ s.waves, w.tid = tid → w.status = .ended) : sweepOf (checkTeamEnd s tid) t = (sweepOf s t).map Sweep.counted := by
  rw [checkTeamEnd_of_ended ht hlive hlost hwaves, sweepOf_updSweep (g := Sweep.counted) _ _ fun _ => noteFinish_ref _]
  congr 1
  rw [sweepOf, updTeam_sweeps, (releaseTriads_teams_sweeps s t).2, ← sweepOf]

end TeamEnd

/-! ## A path whose lanes have ended -/

/-- The next serial path of the level runs. -/
theorem afterEnd_of_pending (w : Wave) (code pid : Nat) {d : DivLevel} (r : List DivLevel) {p : Path} {more : List Path}
    (hpending : d.pending = p :: more) : (afterEnd w code pid (d :: r)).path = p := by
  obtain ⟨l, hl⟩ := startPath_frame { w with stack := { d with pending := more, done := d.done ++ [donePath w.path] } :: r } d p code
  simp only [afterEnd, hpending, hl]

/-- With no serial path left, an empty path goes to the reconvergence of a level that somebody is left of. -/
theorem afterEnd_of_join (w : Wave) (code pid : Nat) {d : DivLevel} (r : List DivLevel) (hpending : d.pending = []) (hkind : d.kind = .join)
    (hleft : ¬(d.outerMask = 0 ∧ d.joinCount = 0)) :
    (afterEnd w code pid (d :: r)).path = ⟨pid, d.recon, false, false, none, 0, 0, d.scal, 0, w.path.hist ++ [w.path.pid]⟩ := by
  have hleft' : ¬ (decide (d.outerMask = 0) && decide (d.joinCount = 0)) = true := by simpa only [Bool.and_eq_true, decide_eq_true_eq] using hleft
  simp only [afterEnd, hpending, hkind, if_neg hleft']

/-! ## The word -/

section Exit
variable {s : State} {f : Fields} {e : Env}

/-- The state in which the active lanes have left the wave. -/
def lanesDropped (s : State) (e : Env) : State := updCur s e.who fun w => dropLanes w e.act

/-- EXIT of a wave in no gang. -/
theorem execExit_atTurn (h : wordAtTurn s (.exit f) f e) (hgang : e.w.gr = 0) :
    exec (.exit f) s = .next (conclude s e (
      if e.w.task.isSome then faulting .taskNest 3 0
      else if e.act = 0 then .ok s
      else if e.t.lost.isSome && e.w.frame.isSome then .moved (endWave s e.who.tid e.who.wave)
      else if e.w.alive &&& ~~~e.act = 0 then
        .moved (checkTeamEnd (breakGangs (endWave (lanesDropped s e) e.who.tid e.who.wave) e.who.tid e.who.wave) e.who.tid)
      else if e.w.path.mask &&& ~~~e.act ≠ 0 then .ok (lanesDropped s e)
      else .moved (updCur { lanesDropped s e with fresh := s.fresh + 1 } e.who fun w => afterEnd w e.sw.code s.fresh w.stack))) :=
  outcomeWith_atTurn (rfl : _ = execExit f s) h (if_neg (not_not.2 hgang)) rfl

/-- EXIT with active lanes outside gang and task, in a team that is not lost or a wave that runs no handler. -/
theorem execExit_drops (h : wordAtTurn s (.exit f) f e) (hgang : e.w.gr = 0) (htask : e.w.task = none) (hact : e.act ≠ 0)
    (hlost : e.t.lost = none ∨ e.w.frame = none) :
    exec (.exit f) s = .next (conclude s e (
      if e.w.alive &&& ~~~e.act = 0 then
        .moved (checkTeamEnd (breakGangs (endWave (lanesDropped s e) e.who.tid e.who.wave) e.who.tid e.who.wave) e.who.tid)
      else if e.w.path.mask &&& ~~~e.act ≠ 0 then .ok (lanesDropped s e)
      else .moved (updCur { lanesDropped s e with fresh := s.fresh + 1 } e.who fun w => afterEnd w e.sw.code s.fresh w.stack))) := by
  have hstays : (e.t.lost.isSome && e.w.frame.isSome) = false := by
    rcases hlost with hlost | hlost <;> simp [hlost]
  rw [execExit_atTurn h hgang, htask, hstays, if_neg hact]
  simp only [Option.isSome_none, Bool.false_eq_true, if_false]

end Exit

/-- Settles O28: the branches of EXIT, then what each of its ends leaves. -/
theorem exitDropsItsLanes : Obligations.ExitDropsItsLanes := by
  intro s f free ends dropped
  refine ⟨?none, ?path, ?next, ?wave, ?task, fun w code pid d r => ⟨fun p more => afterEnd_of_pending w code pid r, ?join⟩,
    fun tid ix w t hw ht hlive => ⟨?waveEnds, ?slot⟩, fun a w c h hw hc hkind hdev hstate hgen => ?handle,
    fun tid t ht hlive hlost hwaves => ⟨?teamEnds, fun sw hsw => ?counted⟩⟩
  case none =>
    rintro e h ⟨⟨hgang, htask⟩, hact⟩
    rw [execExit_atTurn h hgang, htask, if_pos hact]
    simp only [Option.isSome_none, Bool.false_eq_true, if_false, conclude_ok]
  case path =>
    rintro e h ⟨⟨⟨hgang, htask⟩, hact, hlost⟩, halive, hmask⟩
    rw [execExit_drops h hgang htask hact hlost, if_neg halive, if_pos hmask]
    rfl
  case next =>
    rintro e h ⟨⟨⟨hgang, htask⟩, hact, hlost⟩, halive, hmask⟩
    rw [execExit_drops h hgang htask hact hlost, if_neg halive, if_neg (not_not.2 hmask)]
    rfl
  case wave =>
    rintro e h ⟨⟨⟨hgang, htask⟩, hact, hlost⟩, halive⟩
    rw [execExit_drops h hgang htask hact hlost, if_pos halive]
    rfl
  case task =>
    rintro e h ⟨hgang, htask⟩
    rw [execExit_atTurn h hgang, if_pos htask]
    rfl
  case join =>
    intro hpending hkind hleft
    rw [afterEnd_of_join w code pid r hpending hkind hleft]
    exact ⟨rfl, rfl⟩
  case waveEnds => rw [findWave_endWave hw ht hlive]; rfl
  case slot => rw [findTeam_endWave hw ht hlive]; rfl
  case handle => simp [exitHandle, hc, hw, hkind, hdev, hstate, hgen]
  case teamEnds =>
    have hfree : (t.released.over.triads.any (·.used)) = false := by simp [Team.over, Team.released]
    rw [findTeam_checkTeamEnd ht hlive hlost hwaves, Option.map_some, hfree]
    rfl
  case counted =>
    rw [sweepOf_checkTeamEnd ht hlive hlost hwaves, hsw]
    exact congrArg some (noteFinish_ended _)

end Sys2Proof.Machine
end

section
/-!
PROOF. The ends of waits (R118, R128, R148, R149, R151, R155, R163, R183, R305) and the delivery of imprecise faults (R126, R170, R175 to R177): the
guard of each event, and what it leaves once the guard holds; and a state in which O48 asks for another barrier record.
-/

namespace Sys2Proof.Machine

/-! ## A request to stop (R183) -/

/-- Where nobody asks the wave to stop, nothing holds it at its wait. -/
theorem heldAtYield_of_free {w : Wave} (hpreq : w.preq = false) : heldAtYield w = false := by simp [heldAtYield, hpreq]

/-- A wave that is asked to stop is held where its wait is a yield point. -/
theorem heldAtYield_of_asked {w : Wave} (hpreq : w.preq = true) (hyield : atYield w = true) : heldAtYield w = true := by
  simp [heldAtYield, hpreq, hyield]

section Waits
variable {s : State} {tid ix : Nat} {w : Wave} {t : Team}

/-! ## SLEEP (R151) -/

theorem execSleepWake_of_sleep {tk : Nat} (hw : findWave s tid ix = some w) (ht : findTeam s tid = some t) (hst : w.status = .sleep tk) :
    exec (.sleepWake tid ix) s = if tk ≤ s.now ∧ t.status = .placed ∧ heldAtYield w = false then
      .next (makeReady (finishWait s ⟨tid, ix, none⟩) tid ix) else .fault .notEnabled := by
  change execSleepWake tid ix s = _
  simp only [execSleepWake, hw, hst, isPlaced, ht, Bool.and_eq_true, decide_eq_true_eq, Bool.not_eq_true', and_assoc]

/-! ## LDT (R305) -/

theorem execLdtRelease_goes {j d st : Nat} {c : Context} (hw : findWave s tid ix = some w) (ht : findTeam s tid = some t)
    (hst : w.status = .ldt j d) (hc : teamCtx s t = some c) (hjar : jarState s c d j = some st) (hne : st ≠ 1) (hpreq : w.preq = false)
    (hnone : waitingLdt s tid ix = none) : exec (.ldtRelease tid ix) s = .next (makeReady s tid ix) := by
  change execLdtRelease tid ix s = _
  simp only [execLdtRelease, hw, ht, hst, hc, hjar, hne, heldAtYield_of_free hpreq, hnone, decide_false, Bool.or_self, Bool.false_eq_true, if_false]

theorem execLdtRelease_waits {j d st : Nat} {c : Context} (hw : findWave s tid ix = some w) (ht : findTeam s tid = some t)
    (hst : w.status = .ldt j d) (hc : teamCtx s t = some c) (hjar : jarState s c d j = some st) (hno : st = 1 ∨ w.preq = true) :
    exec (.ldtRelease tid ix) s = .fault .notEnabled := by
  have hguard : (decide (st = 1) || heldAtYield w) = true := by
    rcases hno with hfilling | hpreq
    · simp [hfilling]
    · simp [heldAtYield_of_asked hpreq (show atYield w = true by simp only [atYield, hst])]
  change execLdtRelease tid ix s = _
  simp only [execLdtRelease, hw, ht, hst, hc, hjar, hguard, if_true]

/-! ## REGGET (R155) -/

theorem execReggetGrant_of_first {n : Nat} (hw : findWave s tid ix = some w) (ht : findTeam s tid = some t) (hst : w.status = .regget n)
    (hpreq : w.preq = false) (hfirst : ∀ x ∈ s.waves, grantedFirst s t w x = false) :
    exec (.reggetGrant tid ix) s = .next (makeReady (finishWait
      (updWave s tid ix fun w => { w with blocks := n, lanes := Sparse.clear w.lanes 2048 6144 }) ⟨tid, ix, none⟩) tid ix) := by
  have hnone : s.waves.any (grantedFirst s t w) = false := List.any_eq_false.2 fun x hx => by simp [hfirst x hx]
  change execReggetGrant tid ix s = _
  simp only [execReggetGrant, hw, ht, hst, hnone, heldAtYield_of_free hpreq, Bool.or_false, Bool.false_eq_true, if_false]

/-! ## JOIN (R128) -/

theorem execJoinRelease_of_arrive {e : Env} {w' : Wave} (hw : findWave s tid ix = some w) (hst : w.status = .join) (hpreq : w.preq = false)
    (he : waitEnv s tid ix = some e) (harrive : arrive w e.sw.code (nextHeader e) = some w') :
    exec (.joinRelease tid ix) s = .next (updWave (retireMoved
      (updCur (updWave s tid ix fun _ => { w' with status := .running }) e.who fun w => w.count 2 1) e.who) tid ix fun w => { w with favoured := true }) := by
  change execJoinRelease tid ix s = _
  simp only [execJoinRelease, hw, he, hst, harrive, heldAtYield_of_free hpreq, Bool.false_eq_true, if_false]

/-! ## WAITS (R163) -/

/-- The word of a WAITS as a load of the waiting wave reads it. -/
def waitWord (s : State) (e : Env) (w : Wave) (va pa pte : Nat) : Nat :=
  leNat ((upto 8).map fun i => loadByte s (mkOp s e.who w (.load 0 5) none e.va 0 0 [] false .issued) w e.t (accOf 0 .g va 8 0 0) (va + i) (pa + i)
    (isNormal pte (pa / 49152)))

/-- The state in which the load of a WAITS has taken its line. -/
def waitLoaded (s : State) (e : Env) (va pa pte : Nat) : State :=
  grantCopies (noteAccess s e.c (seatOf e.t) va pa pte .load) e.c e.t.die e.t.core va pa pte

theorem execWaitsReload_of_ok {e : Env} {va dst last pa pte : Nat} {v : Word} (hw : findWave s tid ix = some w)
    (hst : w.status = .waits va v dst last) (hpreq : w.preq = false) (he : waitEnv s tid ix = some e) (hdst : dst ≠ 64)
    (hpa : accessFrom s e.c (seatOf e.t) va 8 0 8 .load = .ok pa pte) :
    exec (.waitsReload tid ix) s =
      if v.toNat ≤ waitWord s e w va pa pte then
        .next (updCur (setScalar (waitLoaded s e va pa pte) e.who dst (BitVec.ofNat 64 (waitWord s e w va pa pte))) e.who
          fun w => { w with status := .waits va v 64 s.now })
      else .next (updCur (waitLoaded s e va pa pte) e.who fun w => { w with status := .waits va v dst s.now }) := by
  change execWaitsReload tid ix s = _
  simp only [execWaitsReload, hw, he, hst, heldAtYield_of_free hpreq, if_neg hdst, hpa, Bool.false_eq_true, if_false]
  rfl

/-! ## Barriers (R148, R149) -/

theorem execBarrierRelease_of_team (ht : findTeam s tid = some t) (id : Nat) :
    exec (.barrierRelease tid id) s = if barrierFull s t (barrierOf t id) = false ∨ t.preempt.isSome = true then .fault .notEnabled
      else .next ((barrierOf t id).arrived.foldl (releaseWave tid id)
        (updTeam s tid fun t' => setBarrier t' { barrierOf t id with arrived := [], n := none, gen := (barrierOf t id).gen + 1, closed := false })) := by
  change execBarrierRelease tid id s = _
  simp only [execBarrierRelease, ht, Bool.or_eq_true, Bool.not_eq_true']

/-- What O48 asks of each wait, with the barrier record that a release takes from the team it finds. -/
theorem waits_end_when_condition_holds (hw : findWave s tid ix = some w) (ht : findTeam s tid = some t) :
    (∀ tk, w.status = .sleep tk →
      (tk ≤ s.now → t.status = .placed → w.preq = false → exec (.sleepWake tid ix) s = .next (makeReady (finishWait s ⟨tid, ix, none⟩) tid ix))
      ∧ (s.now < tk ∨ w.preq = true → exec (.sleepWake tid ix) s = .fault .notEnabled))
    ∧ (∀ j d c st, w.status = .ldt j d → teamCtx s t = some c → jarState s c d j = some st →
      (st ≠ 1 → w.preq = false → waitingLdt s tid ix = none → exec (.ldtRelease tid ix) s = .next (makeReady s tid ix))
      ∧ (st = 1 ∨ w.preq = true → exec (.ldtRelease tid ix) s = .fault .notEnabled))
    ∧ (∀ j c, jarState s c (ownDev s) j = some (jarOf c j).state)
    ∧ (∀ n, w.status = .regget n → w.preq = false → (∀ x ∈ s.waves, grantedFirst s t w x = false) →
      exec (.reggetGrant tid ix) s = .next (makeReady (finishWait
        (updWave s tid ix fun w => { w with blocks := n, lanes := Sparse.clear w.lanes 2048 6144 }) ⟨tid, ix, none⟩) tid ix))
    ∧ (∀ e w', w.status = .join → w.preq = false → waitEnv s tid ix = some e → arrive w e.sw.code (nextHeader e) = some w' →
      exec (.joinRelease tid ix) s = .next (updWave (retireMoved
        (updCur (updWave s tid ix fun _ => { w' with status := .running }) e.who fun w => w.count 2 1) e.who) tid ix
          fun w => { w with favoured := true }))
    ∧ (∀ e va v dst last pa pte, w.status = .waits va v dst last → w.preq = false → waitEnv s tid ix = some e → dst ≠ 64 →
      accessFrom s e.c (seatOf e.t) va 8 0 8 .load = .ok pa pte →
      (v.toNat ≤ waitWord s e w va pa pte → exec (.waitsReload tid ix) s = .next (updCur
          (setScalar (waitLoaded s e va pa pte) e.who dst (BitVec.ofNat 64 (waitWord s e w va pa pte))) e.who
          fun w => { w with status := .waits va v 64 s.now }))
      ∧ (waitWord s e w va pa pte < v.toNat → exec (.waitsReload tid ix) s = .next (updCur (waitLoaded s e va pa pte) e.who
          fun w => { w with status := .waits va v dst s.now })))
    ∧ (∀ id, let b := barrierOf t id
      (barrierFull s t b = true → t.preempt = none → exec (.barrierRelease tid id) s = .next (b.arrived.foldl (releaseWave tid id)
        (updTeam s tid fun t => setBarrier t { b with arrived := [], n := none, gen := b.gen + 1, closed := false })))
      ∧ (barrierFull s t b = false ∨ t.preempt.isSome = true → exec (.barrierRelease tid id) s = .fault .notEnabled)) := by
  refine ⟨fun tk hst => ?sleep,
    fun j d c st hst hc hjar => ⟨execLdtRelease_goes hw ht hst hc hjar, execLdtRelease_waits hw ht hst hc hjar⟩, fun j c => if_pos rfl,
    fun n hst hpreq hfirst => execReggetGrant_of_first hw ht hst hpreq hfirst,
    fun e w' hst hpreq he harrive => execJoinRelease_of_arrive hw hst hpreq he harrive,
    fun e va v dst last pa pte hst hpreq he hdst hpa => ?waits, fun id => ⟨fun hfull hfree => ?barrier, fun hno => ?barrierWaits⟩⟩
  case sleep =>
    rw [execSleepWake_of_sleep hw ht hst]
    refine ⟨fun htk hplaced hpreq => if_pos ⟨htk, hplaced, heldAtYield_of_free hpreq⟩, fun hno => if_neg ?_⟩
    rintro ⟨htk, -, hfree⟩
    rcases hno with hlt | hpreq
    · exact Nat.not_le.2 hlt htk
    · exact Bool.false_ne_true (hfree.symm.trans (heldAtYield_of_asked hpreq (by simp only [atYield, hst])))
  case waits =>
    have hexec := execWaitsReload_of_ok hw hst hpreq he hdst hpa
    exact ⟨fun hmet => hexec.trans (if_pos hmet), fun hlt => hexec.trans (if_neg (Nat.not_le.2 hlt))⟩
  case barrier => rw [execBarrierRelease_of_team ht, if_neg (by simp [hfull, hfree])]
  case barrierWaits => rw [execBarrierRelease_of_team ht, if_pos hno]

end Waits

/-- A wave that has arrived at barrier 1 of team 1. -/
def arrivedWave : Wave := { placedWave 1 .vector (headerFor .seq) 0x970401010100001C with status := .barrier 1 }

/-- Team 1 with generation 5 of its barrier 1 complete. -/
def fullTeam : Team := { placedTeam 1 0 .vector with barriers := [⟨1, [0], some 1, 5, true⟩] }

/-- A state in which a second team, whose barriers are unused, has the number of the first. -/
def twinTeams : State := { State.reset with waves := [arrivedWave], teams := [fullTeam, placedTeam 1 0 .vector] }

/-- The generations of barrier 1 that an event leaves, team by team. -/
def generationsAfter : Host.Outcome State Fault Refusal → List Nat
  | .next s => s.teams.map fun t => (barrierOf t 1).gen
  | _ => []

/-- Refutes O48: its barrier clause has a release write into every team of the number `tid` that team's own record, while the release writes into all of
them the record of the team it finds. Where two teams have one number, as in `twinTeams`, these differ: the release leaves generation 6 in both teams
and the clause asks for 1 in the second. `waits_end_when_condition_holds` says what holds in every state. -/
theorem not_waitsEndWhenTheirConditionHolds : ¬ Obligations.WaitsEndWhenTheirConditionHolds := by
  intro h
  obtain ⟨-, -, -, -, -, -, hrelease, -⟩ := h twinTeams 1 0 arrivedWave fullTeam (by decide +kernel) (by decide +kernel)
  have hgen := congrArg generationsAfter (hrelease 1 (by decide +kernel) rfl)
  exact absurd hgen (by decide +kernel)

/-! ## Imprecise faults (R126, R170, R175 to R177) -/

section Faults
variable {s : State} {tid ix : Nat} {w : Wave} {all : List Op}

/-- A wave whose skid has ended is in a state in which its continuations can be recalled. -/
theorem mayRecall_of_mayTrap (h : mayTrap w = true) : mayRecall w = true := by
  unfold mayTrap at h
  unfold mayRecall
  split at h <;> simp_all

/-- The faulted operations of a wave that count: not those of the copy engine that wait alone for an answer (R294). -/
def faultedOps (s : State) (tid ix : Nat) : List Op :=
  (waveOps s tid ix).filter fun o => o.phase = .faulted && !(o.kind.parksAlone && opPending s o.id)

/-- A continuation whose operation faulted is recalled first (R126). -/
theorem execImpreciseFaultDelivery_recalls {l : Nat} (hw : findWave s tid ix = some w) (htrap : mayTrap w = true)
    (hlane : faultedLane w (faultedOps s tid ix) = some l) :
    exec (.impreciseFaultDelivery tid ix) s = .next (recallLane s ⟨tid, ix, none⟩ l) := by
  rw [faultedOps] at hlane
  change execImpreciseFaultDelivery tid ix s = _
  simp only [execImpreciseFaultDelivery, hw, hlane, mayRecall_of_mayTrap htrap, if_true]

section Own
variable {o : Op} {fs : List Op} (hw : findWave s tid ix = some w) (htrap : mayTrap w = true) (hlane : faultedLane w (faultedOps s tid ix) = none)
  (hfs : ((faultedOps s tid ix).filter fun o => !waitsItsTurn w o) = o :: fs)
include hw htrap hlane hfs

/-- While an answer is outstanding the wave parks (R177). -/
theorem execImpreciseFaultDelivery_parks (hpending : ((o :: fs).any fun o => opPending s o.id) = true) (hpark : mayPark w = true) :
    exec (.impreciseFaultDelivery tid ix) s = .next (updWave s tid ix fun w => parkFaulted w (o :: fs)) := by
  rw [faultedOps] at hlane hfs
  change execImpreciseFaultDelivery tid ix s = _
  simp only [execImpreciseFaultDelivery, hw, hlane, hfs, htrap, hpending, hpark, List.isEmpty_cons, Bool.true_or, Bool.not_true, Bool.or_self,
    Bool.false_eq_true, if_false, if_true]

/-- With none outstanding the wave traps once everything that it issued has settled (R175). -/
theorem execImpreciseFaultDelivery_traps (hnone : ((o :: fs).any fun o => opPending s o.id) = false)
    (hsettled : ((waveOps s tid ix).all fun o => waitsItsTurn w o || opSettled s o) = true) {u : State}
    (hdeliver : deliverFaults s w (o :: fs) = some u) : exec (.impreciseFaultDelivery tid ix) s = .next u := by
  rw [faultedOps] at hlane hfs
  change execImpreciseFaultDelivery tid ix s = _
  simp only [execImpreciseFaultDelivery, hw, hlane, hfs, htrap, hnone, hsettled, hdeliver, List.isEmpty_cons, Bool.true_or, Bool.not_true, Bool.or_self,
    Bool.false_eq_true, if_false, if_true]

end Own

/-- The oldest fault that no answer resolves is delivered, with the faulted operations as the replay set (R170). -/
theorem deliverFaults_waves {o : Op} {fs : List Op} {fi : FaultInfo} (hfi : (o.accs.find? fun x => x.fault.isSome).bind (·.fault) = some fi) :
    ∃ t, deliverFaults s w (o :: fs) = some t
      ∧ t.waves = (deliver (leaveRounds s w.tid w.ix) ⟨w.tid, w.ix, none⟩ fi
          ⟨o.xpc, w.retired - o.retiredAt, unfinished o, w.resumeVa, (o :: fs).map (·.id)⟩).waves := by
  simp only [deliverFaults, List.filterMap_cons, hfi, Option.map_some, List.head?_cons]
  exact ⟨_, rfl, rfl⟩

end Faults

/-- Settles O49: the first branch of the delivery whose guard holds. -/
theorem impreciseFaultsParkOrTrap : Obligations.ImpreciseFaultsParkOrTrap := by
  intro s tid ix w o fi all fs hw htrap hall
  obtain rfl : faultedOps s tid ix = all := hall
  refine ⟨fun l hlane => execImpreciseFaultDelivery_recalls hw htrap hlane, fun hlane hfs => ⟨fun hpending hpark => ?parks, fun hnone hsettled hfi => ?traps⟩⟩
  case parks => exact execImpreciseFaultDelivery_parks hw htrap hlane hfs (List.any_eq_true.2 hpending) hpark
  case traps =>
    have hquiet : ((o :: fs).any fun o => opPending s o.id) = false := List.any_eq_false.2 fun p hp => by simp [hnone p hp]
    have hall : ((waveOps s tid ix).all fun o => waitsItsTurn w o || opSettled s o) = true :=
      List.all_eq_true.2 fun p hp => Bool.or_eq_true _ _ ▸ hsettled p hp
    obtain ⟨t, hdeliver, hwaves⟩ := deliverFaults_waves (s := s) (w := w) (fs := fs) hfi
    exact ⟨t, execImpreciseFaultDelivery_traps hw htrap hlane hfs hquiet hall hdeliver, hwaves⟩

end Sys2Proof.Machine
end

section
/-!
PROOF. The helper (R126): what HELPER_ISSUE is for one continuation inside a clause, before its wave's deadline and after it.
-/

namespace Sys2Proof.Machine

section Helper
variable {s : State} {tid wave lane : Nat} {w : Wave} {p : Path} {c : Clause} {x : Word} {i : Instr}

/-- The words that the helper runs have the meanings that they have for a wave. -/
theorem helperExec_of_runs (h : helperRuns i = true) : helperExec i s = exec i s := by
  cases i with
  | nop | mov | movi | sel | iadd | isub | imul | imulh | imad | imadw | imin | imax | iabs | iaddc | iadds | isubs | and | or | xor | not | shl | shr | sar
  | rol | bfx | bfi | popc | clz | brev | permb | icmp | fcmp | fadd | fsub | fmul | ffma | fmin | fmax | fclass | dadd | dmul | dfma | pkadd | pkmul
  | pkfma | dot4 | dot8 | dot2 | shfl | vote | redw | rds | wrs | lea | movem | plop | cvti | pack | unpk | dcmp | rcp | rsq | sqrt | exp2 | log2 | sin
  | cos | tanh | cvt | cvtfi | cvtif | divf | ddiv | ld | st | lds | sts | atom | acas | atoms | ldu | fence | waitc | pref | rowopen | rowld | rowst
  | rowrel | rowq | ldt | stf | amaxu | amaxswap | ldb | stb | lnwb | bra | braFar | brx | call | icall | ret | join => rfl
  | _ => cases h

/-- At another word the helper recalls the lane. -/
theorem helperExec_of_not_runs (h : helperRuns i = false) (hcur : s.cur = some ⟨tid, wave, some lane⟩) :
    helperExec i s = .next (recallLane s ⟨tid, wave, none⟩ lane) := by
  unfold helperExec
  split
  any_goals exact Bool.noConfusion h
  rw [hcur]

/-- A wave whose deadline has come does not issue, and neither do its continuations (R184). -/
theorem helperOne_of_expired (hw : findWave s tid wave = some w) (hexp : expired w = true) : helperOne tid s (wave, lane) = .fault .notEnabled := by
  unfold helperOne
  split
  · rfl
  · rw [if_pos (by simp only [hw, Option.any_some, hexp])]

/-- Before its wave's deadline a continuation inside a clause issues the word at which it stands. -/
theorem helperOne_of_word (hw : findWave s tid wave = some w) (hexp : expired w = false) (hp : contPath s tid (wave, lane) = some p)
    (hc : p.clause = some c) (hx : c.words[c.idx]? = some x) (hi : decode x = .ok i) :
    helperOne tid s (wave, lane) = helperExec i { s with cur := some ⟨tid, wave, some lane⟩ } := by
  simp only [helperOne, hp, hw, Option.any_some, hexp, hc, hx, hi, Bool.false_eq_true, if_false]

theorem groupFits_singleton (s : State) (tid : Nat) (q : Nat × Nat) : groupFits s tid [q] = true := by
  simp [groupFits]

/-- HELPER_ISSUE of one continuation is what that continuation does. -/
theorem execHelperIssue_of_next {t : State} (hserves : helperServes s tid [(wave, lane)] = true) (hone : helperOne tid s (wave, lane) = .next t) :
    exec (.helperIssue tid [(wave, lane)]) s = .next { served tid [(wave, lane)] t with cur := s.cur } := by
  change execHelperIssue tid [(wave, lane)] s = _
  simp only [execHelperIssue, groupFits_singleton, hserves, helperAll, hone, Bool.not_true, Bool.or_self, Bool.false_eq_true, if_false]

theorem execHelperIssue_of_expired (hw : findWave s tid wave = some w) (hexp : expired w = true) :
    exec (.helperIssue tid [(wave, lane)]) s = .fault .notEnabled := by
  change execHelperIssue tid [(wave, lane)] s = _
  simp only [execHelperIssue, helperAll, helperOne_of_expired hw hexp, ite_self]

theorem exec_nop_atTurn {f : Fields} {e : Env} (h : wordAtTurn s (.nop f) f e) : exec (.nop f) s = .next (retired s e) := by
  rw [← conclude_ok s e s]
  exact outcome_atTurn (body := fun _ s => .ok s) (rfl : execNop f s = _) h rfl

/-- R126, R184: what O42 says of a continuation, where its wave's deadline has not come. -/
theorem helper_runs_word_before_deadline {f : Fields} {e : Env} (hw : findWave s tid wave = some w) (hexp : expired w = false)
    (hp : contPath s tid (wave, lane) = some p) (hc : p.clause = some c) (hx : c.words[c.idx]? = some x) (hi : decode x = .ok i)
    (hserves : helperServes s tid [(wave, lane)] = true) :
    let s1 := { s with cur := some ⟨tid, wave, some lane⟩ }
    let answers (t : State) : Prop := exec (.helperIssue tid [(wave, lane)]) s = .next { served tid [(wave, lane)] t with cur := s.cur }
    (∀ t, helperRuns i = true → exec i s1 = .next t → answers t)
    ∧ (helperRuns i = false → answers (recallLane s1 ⟨tid, wave, none⟩ lane))
    ∧ (i = .nop f → wordAtTurn s1 i f e → answers (retired s1 e)) := by
  intro s1 answers
  have hone : helperOne tid s (wave, lane) = helperExec i s1 := helperOne_of_word hw hexp hp hc hx hi
  have hruns : ∀ t, helperRuns i = true → exec i s1 = .next t → answers t := fun t hr ht =>
    execHelperIssue_of_next hserves (hone.trans ((helperExec_of_runs hr).trans ht))
  refine ⟨hruns, fun hr => execHelperIssue_of_next hserves (hone.trans (helperExec_of_not_runs hr rfl)), ?_⟩
  rintro rfl hturn
  exact hruns _ rfl (exec_nop_atTurn hturn)

end Helper

/-- Wave 0 of team 1 with a request to stop whose deadline has come, and a continuation of lane 3 in front of a NOP. -/
def expiredWave : Wave :=
  let w := placedWave 1 .vector (headerFor .vec) 0x1C
  { w with preq := true, deadline := some 0, conts := [⟨3, 9, 0, { w.path with em := 8, mask := 8 }⟩] }

/-- The machine with that wave. -/
def expiredState : State := updWave (State.reset.withFetchWord 64 0x1C) 1 0 fun _ => expiredWave

/-- What the continuation's NOP sees. -/
def expiredEnv : Option Env :=
  envOf { expiredState with cur := some ⟨1, 0, some 3⟩ } (.nop (fieldsOfWord 0x1C)) (fieldsOfWord 0x1C)

/-- Refutes O42: it does not ask that the wave's deadline has not come, and from then on HELPER_ISSUE is not enabled (R184), as in `expiredState`, where
lane 3 stands in front of a NOP that it may issue. `helper_runs_word_before_deadline` says what holds with that premise. -/
theorem not_helperRunsTheContinuationsWord : ¬ Obligations.HelperRunsTheContinuationsWord := by
  intro h
  have hsees : (expiredEnv.any fun e => mayIssue e.w (some 3)) = true := by decide +kernel
  obtain ⟨e, he, hmay⟩ := (Option.any_eq_true _ _).1 hsees
  obtain ⟨-, hruns, -⟩ := h expiredState 1 0 3 { expiredWave.path with em := 8, mask := 8 } ⟨0, headerFor .vec, [0x1C], 0⟩ 0x1C
    (.nop (fieldsOfWord 0x1C)) (fieldsOfWord 0x1C) e (by decide +kernel) (by decide +kernel) rfl (by decide +kernel) (by decide +kernel)
  obtain ⟨t, -, hanswers⟩ := hruns rfl rfl he hmay
  have hrefused : exec (.helperIssue 1 [(0, 3)]) expiredState = .fault .notEnabled :=
    execHelperIssue_of_expired (w := expiredWave) (by decide +kernel) (by decide +kernel)
  exact absurd (hrefused.symm.trans hanswers) (by simp)

end Sys2Proof.Machine
end

section
/-!
PROOF. A step (R115, R116, R186): what the current agent does next, what an event comes to, the step that each form of slot gives, and the step of a
placed word.
-/

namespace Sys2Proof.Machine

section Step
variable {s t : State} {i : Instr}

/-! ## What a schedule comes to -/

theorem step_of_run (h : schedule s = (t, .run i)) : step s = afterStep (exec i t) := by
  simp only [step, h]

theorem step_of_reserved (h : schedule s = (t, .reserved)) : step s = afterStep (.next (rejectWord t)) := by
  simp only [step, h]

theorem step_of_barred (h : schedule s = (t, .barred)) : step s = .fault .notEnabled := by
  simp only [step, h]

/-! ## What the current agent does next -/

/-- The current agent issues: its header does not wait for flags. -/
structure Issues (s : State) : Prop where
  cur : s.cur ≠ none
  flags : curWaitsForFlags s = false

section Agent
variable {w : Word} (h : Issues s)
include h

theorem agentTodo_of_decode (hw : curWord s = some w) (hi : decode w = .ok i) : agentTodo s = .run i := by
  obtain ⟨a, hcur⟩ := Option.ne_none_iff_exists'.1 h.cur
  simp only [agentTodo, hcur, h.flags, hw, hi, Bool.false_eq_true, if_false]

theorem agentTodo_of_unassigned (hw : curWord s = some w) (hi : ∀ i, decode w ≠ .ok i) : agentTodo s = .reserved := by
  obtain ⟨a, hcur⟩ := Option.ne_none_iff_exists'.1 h.cur
  cases hd : decode w with
  | ok i => exact absurd hd (hi i)
  | error x => simp only [agentTodo, hcur, h.flags, hw, hd, Bool.false_eq_true, if_false]

theorem agentTodo_of_header (hw : curWord s = none) : agentTodo s = .run .clauseHeader := by
  obtain ⟨a, hcur⟩ := Option.ne_none_iff_exists'.1 h.cur
  simp only [agentTodo, hcur, h.flags, hw, Bool.false_eq_true, if_false]

end Agent

/-- The step of `s` is the word or the header at which the current agent of `t` stands. -/
structure StepsAt (s t : State) : Prop where
  word : ∀ w i, curWord t = some w → decode w = .ok i → step s = afterStep (exec i t)
  unassigned : ∀ w, curWord t = some w → (∀ i, decode w ≠ .ok i) → step s = afterStep (.next (rejectWord t))
  header : curWord t = none → step s = afterStep (exec .clauseHeader t)

theorem stepsAt_of_schedule (h : schedule s = (t, agentTodo t)) (hissues : Issues t) : StepsAt s t where
  word _ _ hw hi := step_of_run (h.trans (by rw [agentTodo_of_decode hissues hw hi]))
  unassigned _ hw hi := step_of_reserved (h.trans (by rw [agentTodo_of_unassigned hissues hw hi]))
  header hw := step_of_run (h.trans (by rw [agentTodo_of_header hissues hw]))

/-! ## What an event comes to (R186) -/

theorem eventTodo_of_event (hdeadline : ∀ tid wave, i ≠ .preemptDeadline tid wave) (hword : isWord i = false) : eventTodo s i = (s, .run i) := by
  unfold eventTodo
  split
  · exact absurd rfl (hdeadline _ _)
  · rw [if_neg (by rw [hword]; exact Bool.false_ne_true)]

theorem eventTodo_of_word (hdeadline : ∀ tid wave, i ≠ .preemptDeadline tid wave) (hword : isWord i = true) : eventTodo s i = (s, .barred) := by
  unfold eventTodo
  split
  · exact absurd rfl (hdeadline _ _)
  · rw [if_pos hword]

theorem eventTodo_of_deadline {tid wave : Nat} (h : faultsNow s tid wave = false) :
    eventTodo s (.preemptDeadline tid wave) = (s, .run (.preemptDeadline tid wave)) := by
  simp only [eventTodo, h, Bool.false_eq_true, if_false]

theorem eventTodo_of_fault {tid wave : Nat} (h : faultsNow s tid wave = true) :
    eventTodo s (.preemptDeadline tid wave) = ({ s with cur := some ⟨tid, wave, none⟩ }, agentTodo { s with cur := some ⟨tid, wave, none⟩ }) := by
  simp only [eventTodo, h, if_true]

/-! ## What a slot comes to (log entry 1) -/

section Slot
variable {slot : Slot} {rest : List Slot} {a : AgentRef} (hs : s.agenda = slot :: rest)
  (ht : advance { s with agenda := rest } slot.dt slot.stores slot.inp = t)
include hs ht

theorem schedule_of_event (hev : slot.ev = some i) (hwho : slot.who = none) : schedule s = eventTodo t i := by
  simp only [schedule, hs, hev, hwho, ht]

theorem schedule_of_event_of_agent (hev : slot.ev = some i) (hwho : slot.who = some a) : schedule s = eventTodo { t with cur := some a } i := by
  simp only [schedule, hs, hev, hwho, ht]

theorem schedule_of_agent (hev : slot.ev = none) (hwho : slot.who = some a) (htake : mayTake t a = true) :
    schedule s = ({ t with cur := some a }, agentTodo { t with cur := some a }) := by
  simp only [schedule, hs, hev, hwho, ht, htake, if_true]

theorem schedule_of_barred_agent (hev : slot.ev = none) (hwho : slot.who = some a) (htake : mayTake t a = false) :
    schedule s = ({ t with cur := some a }, .barred) := by
  simp only [schedule, hs, hev, hwho, ht, htake, Bool.false_eq_true, if_false]

theorem schedule_of_pick (hev : slot.ev = none) (hwho : slot.who = none) :
    schedule s = ({ t with cur := pickAgent t }, agentTodo { t with cur := pickAgent t }) := by
  simp only [schedule, hs, hev, hwho, ht]

end Slot

/-! ## What the empty agenda comes to (log entry 2) -/

section Default
variable (hs : s.agenda = []) (ht : advance s 1 [] .quiet = t)
include hs ht

/-- The default event is made opaque here, so that no check of the proof evaluates it. -/
theorem schedule_of_empty_agenda : schedule s =
    (defaultEvent t).elim ({ t with cur := pickAgent t }, agentTodo { t with cur := pickAgent t }) (eventTodo t) := by
  unfold schedule
  obtain ⟨event, hevent⟩ : ∃ f, f = defaultEvent := ⟨_, rfl⟩
  rw [← hevent]
  split
  next h => cases hs.symm.trans h
  next =>
    rw [ht]
    dsimp only
    cases event t with
    | none => rfl
    | some i => rfl

theorem schedule_of_defaultEvent (hev : defaultEvent t = some i) : schedule s = eventTodo t i := by
  rw [schedule_of_empty_agenda hs ht, hev, Option.elim_some]

theorem schedule_of_no_defaultEvent (hev : defaultEvent t = none) :
    schedule s = ({ t with cur := pickAgent t }, agentTodo { t with cur := pickAgent t }) := by
  rw [schedule_of_empty_agenda hs ht, hev, Option.elim_none]

end Default

/-! ## A placed word (log entry 5) -/

/-- With nothing on its way and no queue, graph or posting, time brings nothing. -/
theorem arrivals_of_quiet (hstores : s.homeStores = []) (hqueues : s.queues = []) (hgraphs : s.graphs = []) (hpostings : s.postings = [])
    (hsweeps : finishSweeps s = s) : arrivals s = s := by
  have hsettle : settle s = s := by
    simp only [settle, hstores, List.filter_nil, List.foldl_nil]
    rw [← hstores]
  simp only [arrivals, hstores, List.filter_nil, List.foldl_nil, noteWakes, hsettle, settleQueues, hsweeps, finishDue, hqueues, settleGraphs, hgraphs,
    settlePostings, hpostings, settleDestroys]

end Step

/-- The reset machine with a word of engine `g` in front of a wave, its agenda taken. -/
def placedState (g : Engine) (x : Word) : State :=
  { State.reset with
    cur := some ⟨1, 0, none⟩
    fresh := 2
    nextOrder := State.reset.nextOrder + 1
    featAcc := State.reset.featAcc ||| Config.featOff
    contexts := [placedContext]
    sweeps := [placedSweep State.reset.nextOrder (roleFor g)]
    teams := [placedTeam 1 State.reset.nextOrder (roleFor g)]
    waves := [placedWave 1 (roleFor g) (headerFor g) x] }

theorem withFetchWord_reset (nbits w : Nat) : State.reset.withFetchWord nbits w =
    { placedState ((classOf (tableWord nbits w)).getD .vec) (tableWord nbits w) with agenda := [⟨0, [], some ⟨1, 0, none⟩, none, .quiet⟩] } := rfl

theorem allowedTicks_placedState (g : Engine) (x : Word) : allowedTicks (placedState g x) 0 = 0 := rfl

theorem passTime_placedState (g : Engine) (x : Word) : ∃ gs, passTime { placedState g x with inputs := .quiet } 0 =
    { placedState g x with inputs := .quiet, guests := gs } := ⟨(passTime { placedState g x with inputs := .quiet } 0).guests, rfl⟩

theorem finishSweeps_placedState (g : Engine) (x : Word) (gs : List Guest) :
    finishSweeps { placedState g x with inputs := .quiet, guests := gs } = { placedState g x with inputs := .quiet, guests := gs } := rfl

theorem mayTake_placedState (g : Engine) (x : Word) (gs : List Guest) :
    mayTake { placedState g x with inputs := .quiet, guests := gs } ⟨1, 0, none⟩ = true := rfl

/-- Its slot lets no tick pass, and changes nothing but the record of the guests. -/
theorem advance_placedState (g : Engine) (x : Word) :
    ∃ gs, advance (placedState g x) 0 [] .quiet = { placedState g x with inputs := .quiet, guests := gs } := by
  obtain ⟨gs, hpass⟩ := passTime_placedState g x
  have hquiet := arrivals_of_quiet (s := { placedState g x with inputs := .quiet, guests := gs }) rfl rfl rfl rfl (finishSweeps_placedState g x gs)
  refine ⟨gs, Eq.trans ?_ hquiet⟩
  rw [← hpass, advance, allowedTicks_placedState]
  rfl

/-- The first step from reset with a placed word runs that word. -/
theorem step_of_placed_word {nbits n : Nat} {i : Instr} (hi : decodeTableWord nbits n = some i) :
    ∃ t, step (State.reset.withFetchWord nbits n) = afterStep (exec i t) ∧ curWord t = some (BitVec.ofNat 64 (n % 2 ^ nbits)) ∧ t.now = 0 := by
  have hdecode : decode (tableWord nbits n) = .ok i := by
    unfold decodeTableWord at hi
    split at hi
    next h => exact h.trans (congrArg _ (Option.some.inj hi))
    next => cases hi
  rw [withFetchWord_reset]
  obtain ⟨gs, ht⟩ := advance_placedState ((classOf (tableWord nbits n)).getD .vec) (tableWord nbits n)
  generalize (classOf (tableWord nbits n)).getD .vec = g at ht ⊢
  have hsched := schedule_of_agent (s := { placedState g (tableWord nbits n) with agenda := [⟨0, [], some ⟨1, 0, none⟩, none, .quiet⟩] }) rfl ht rfl rfl
    (mayTake_placedState g (tableWord nbits n) gs)
  exact ⟨_, (stepsAt_of_schedule hsched ⟨Option.some_ne_none _, rfl⟩).word _ _ rfl hdecode, rfl, rfl⟩

/-- Settles O1: the schedule of each form of slot, and what the current agent or the event of that schedule comes to. -/
theorem stepRunsDecodedInstruction : Obligations.StepRunsDecodedInstruction := by
  unfold Obligations.StepRunsDecodedInstruction
  intro deadline runs
  have hnot : ∀ i, deadline i = false → ∀ tid wave, i ≠ .preemptDeadline tid wave := by
    rintro _ h tid wave rfl
    cases h
  have hruns : ∀ {s t : State}, schedule s = (t, agentTodo t) → t.cur ≠ none → curWaitsForFlags t = false → runs s t := fun h hcur hflags =>
    have hat := stepsAt_of_schedule h ⟨hcur, hflags⟩
    ⟨hat.word, hat.unassigned, hat.header⟩
  refine ⟨fun s slot rest hs => ?slot, fun s hs => ?empty, fun _ _ _ hi => step_of_placed_word hi⟩
  case slot =>
    intro s1 s2
    have ht : advance { s with agenda := rest } slot.dt slot.stores slot.inp = s1 := rfl
    have hevent : ∀ i, slot.ev = some i → schedule s = eventTodo s2 i := by
      intro i hev
      cases hwho : slot.who with
      | none =>
        have hs2 : s2 = s1 := by simp only [s2, hwho, hev, Option.isSome_some, if_true]
        rw [hs2, schedule_of_event hs ht hev hwho]
      | some a =>
        have hs2 : s2 = { s1 with cur := some a } := by simp only [s2, hwho]
        rw [hs2, schedule_of_event_of_agent hs ht hev hwho]
    have hagent : slot.ev = none → (∀ a, slot.who = some a → mayTake s1 a = true) → schedule s = (s2, agentTodo s2) := by
      intro hev htake
      cases hwho : slot.who with
      | none =>
        have hs2 : s2 = { s1 with cur := pickAgent s1 } := by simp only [s2, hwho, hev, Option.isSome_none, Bool.false_eq_true, if_false]
        rw [hs2, schedule_of_pick hs ht hev hwho]
      | some a =>
        have hs2 : s2 = { s1 with cur := some a } := by simp only [s2, hwho]
        rw [hs2, schedule_of_agent hs ht hev hwho (htake a hwho)]
    clear_value s2
    refine ⟨fun i hev hi hw => step_of_run ((hevent i hev).trans (eventTodo_of_event (hnot i hi) hw)),
      fun i hev hi hw => step_of_barred ((hevent i hev).trans (eventTodo_of_word (hnot i hi) hw)),
      fun tid wave hev => ⟨fun hno => step_of_run ((hevent _ hev).trans (eventTodo_of_deadline hno)),
        fun hfault hflags => hruns ((hevent _ hev).trans (eventTodo_of_fault hfault)) (Option.some_ne_none _) hflags⟩,
      fun a hev hwho htake => step_of_barred (schedule_of_barred_agent hs ht hev hwho htake), fun hev htake => hruns (hagent hev htake)⟩
  case empty =>
    intro s1 s2
    have ht : advance s 1 [] .quiet = s1 := rfl
    exact ⟨fun i hev hi hw => step_of_run ((schedule_of_defaultEvent hs ht hev).trans (eventTodo_of_event (hnot i hi) hw)),
      fun hev => hruns (schedule_of_no_defaultEvent hs ht hev)⟩

end Sys2Proof.Machine
end

section
/-!
PROOF. Transfers whose lanes all go (R138, R139, R141), loops (R142), calls and returns (R143, R145): the checks that each passes, and where its path
goes on.
-/

namespace Sys2Proof.Machine

section Transfers
variable {s : State} {f : Fields} {e : Env}

/-! ## Checks that a transfer passes -/

/-- A transfer of no lane, or of every enabled lane, splits nothing (R139). -/
theorem splitErrors_of_whole (hwhole : e.act = 0 ∨ remaining e = 0) (join : Int) : splitErrors e join = [] := if_pos hwhole

/-- An offset below 2^32 is in order (R138, R145). -/
theorem offsetErrors_of_lt {v : Word} (hlow : v.toNat < 2 ^ 32) : offsetErrors v = [] := if_neg (Nat.not_le.2 hlow)

/-- A call by no lane, or with a return offset below 2^32, is in order (R143). -/
theorem returnErrors_of_fits (hfits : e.act = 0 ∨ returnOffset e < 2 ^ 32) : returnErrors e = [] := by
  refine if_neg ?_
  rintro ⟨hact, hhigh⟩
  exact hfits.elim hact (Nat.not_lt.2 hhigh)

/-! ## Where a transfer goes on -/

/-- A transfer of no lane does nothing (R42). -/
theorem branchTo_of_idle (hact : e.act = 0) (va : Nat) (join : Int) : branchTo s e va join = .ok s := if_pos hact

/-- A transfer of every enabled lane moves the path. -/
theorem branchTo_of_all (hact : e.act ≠ 0) (hall : remaining e = 0) (va : Nat) (join : Int) :
    branchTo s e va join = .moved (jumpTo s e.who va) := by
  rw [branchTo, if_neg hact, if_pos hall]

/-- An offset that is a multiple of 8 is a place of the code (R138). -/
theorem toOffset_of_aligned {v : Word} (halign : v.toNat % 8 = 0) (go : Nat → Verdict) : toOffset e v go = go (e.sw.code + v.toNat) :=
  if_neg (not_not.2 halign)

/-- A transfer with no active lane completes and changes nothing: its checks ask nothing of it, but for the join of an EJECT (R42, R147). -/
theorem exec_transfer_of_idle {i : Instr}
    (hi : i = .bra f ∨ i = .braFar f ∨ i = .brx f ∨ i = .loop f ∨ i = .call f ∨ i = .icall f ∨ i = .eject f)
    (h : wordAtTurn s i f e) (hact : e.act = 0) (hjoin : i = .eject f → nearOffset f ≠ 0) : exec i s = .next (retired s e) := by
  have hsplit : ∀ join, splitErrors e join = [] := splitErrors_of_whole (.inl hact)
  have hreturn : returnErrors e = [] := returnErrors_of_fits (.inl hact)
  rcases hi with rfl | rfl | rfl | rfl | rfl | rfl | rfl
  · exact outcomeWith_atTurn (v := .ok s) (rfl : _ = execBra f s) h (hsplit _) (branchTo_of_idle hact _ _)
  · exact outcome_atTurn (v := .ok s) (rfl : _ = execBraFar f s) h (if_pos hact)
  · refine outcomeWith_atTurn (v := .ok s) (rfl : _ = execBrx f s) h ?_ (if_pos hact)
    simp [hsplit, hact]
  · exact outcome_atTurn (v := .ok s) (rfl : _ = execLoop f s) h (if_pos (by simp [hact]))
  · exact outcomeWith_atTurn (v := .ok s) (rfl : _ = execCall f s) h hreturn (if_pos hact)
  · refine outcomeWith_atTurn (v := .ok s) (rfl : _ = execIcall f s) h ?_ (if_pos hact)
    simp [icallErrors, hreturn, hact]
  · exact outcomeWith_atTurn (v := .ok s) (rfl : _ = execEject f s) h ((if_neg (hjoin rfl)).trans (if_pos hact)) (if_pos hact)

/-- LOOP with an active lane and something left counts down, and goes back while something is still left (R142). -/
theorem exec_loop_of_left (h : wordAtTurn s (.loop f) f e) (hact : e.act ≠ 0) (hleft : e.p.s f.d.toNat ≠ 0) :
    exec (.loop f) s = .next (conclude s e (
      if e.p.s f.d.toNat - 1 = 0 then .ok (setScalar s e.who f.d.toNat (e.p.s f.d.toNat - 1))
      else .moved (jumpTo (setScalar s e.who f.d.toNat (e.p.s f.d.toNat - 1)) e.who (nearVa e)))) := by
  refine outcome_atTurn (rfl : _ = execLoop f s) h (if_neg ?_)
  simp only [Bool.or_eq_true, decide_eq_true_eq]
  exact not_or.2 ⟨hact, hleft⟩

/-- RET transfers whatever lanes are active, but at the return point of the group of an ICALL (R145). -/
theorem exec_ret_atTurn (h : wordAtTurn s (.ret f) f e) (hlow : (e.p.s 62).toNat < 2 ^ 32) (halign : (e.p.s 62).toNat % 8 = 0)
    (hgroup : ∀ d r, e.w.stack = d :: r → ¬(d.kind = .call ∧ d.recon = e.sw.code + (e.p.s 62).toNat)) :
    exec (.ret f) s = .next (retiredMoved (jumpTo s e.who (e.sw.code + (e.p.s 62).toNat)) e) := by
  refine outcomeWith_atTurn (v := .moved _) (rfl : _ = execRet f s) h (offsetErrors_of_lt hlow) ?_
  rw [toOffset_of_aligned halign]
  split
  next d r _ hstack => exact if_neg (by simpa using hgroup d r hstack)
  next => rfl

end Transfers

/-- Settles O24: the checks of each word pass, and its body names the place where the path goes on. -/
theorem transfersOfAllLanes : Obligations.TransfersOfAllLanes := by
  intro s f all near far ret good
  refine ⟨?bra, ?braFar, ?brx, fun i hi e h hidle => exec_transfer_of_idle hi h hidle.1 hidle.2, ?again, ?last, ?done, ?call, ?ret⟩
  case bra =>
    rintro e h ⟨hact, hall⟩
    obtain rfl : e.f = f := h.fields
    exact outcomeWith_atTurn (v := .moved _) (rfl : _ = execBra e.f s) h (splitErrors_of_whole (.inr hall) _) (branchTo_of_all hact hall _ _)
  case braFar =>
    intro e h hact
    obtain rfl : e.f = f := h.fields
    exact outcome_atTurn (v := .moved _) (rfl : _ = execBraFar e.f s) h (if_neg hact)
  case brx =>
    rintro e h ⟨⟨hact, hall⟩, hlow, halign⟩
    refine outcomeWith_atTurn (v := .moved _) (rfl : _ = execBrx f s) h ?_ ?_
    · rw [splitErrors_of_whole (.inr hall), offsetErrors_of_lt hlow, ite_self, List.append_nil]
    · rw [if_neg hact, toOffset_of_aligned halign, branchTo_of_all hact hall]
  case again =>
    rintro e h ⟨hact, hmore⟩
    obtain rfl : e.f = f := h.fields
    have hleft : e.p.s e.f.d.toNat ≠ 0 := by bv_omega
    have hgoes : e.p.s e.f.d.toNat - 1 ≠ 0 := by bv_omega
    rw [exec_loop_of_left h hact hleft, if_neg hgoes]
    rfl
  case last =>
    rintro e h ⟨hact, hone⟩
    have hleft : e.p.s f.d.toNat ≠ 0 := by bv_omega
    have hends : e.p.s f.d.toNat - 1 = 0 := by bv_omega
    rw [exec_loop_of_left h hact hleft, if_pos hends, hends, conclude_ok]
  case done =>
    intro e h hzero
    exact outcome_atTurn (v := .ok _) (rfl : _ = execLoop f s) h (if_pos (by simp [hzero]))
  case call =>
    rintro e h ⟨hact, hfits⟩
    obtain rfl : e.f = f := h.fields
    exact outcomeWith_atTurn (v := .moved _) (rfl : _ = execCall e.f s) h (returnErrors_of_fits (.inr hfits)) (if_neg hact)
  case ret =>
    rintro e h ⟨⟨hlow, halign⟩, hgroup⟩
    exact exec_ret_atTurn h hlow halign hgroup

end Sys2Proof.Machine
end

section
/-!
PROOF. Words at which a wave waits (R148 to R152, R155, R163): the checks that each passes, and whether the wave stands there or goes on.
-/

namespace Sys2Proof.Machine

section Waiting
variable {s : State} {f : Fields} {e : Env}

/-- Control flow without levels and continuations is not split (R148). -/
theorem isSplit_of_whole {w : Wave} (hstack : w.stack = []) (hconts : w.conts = []) : isSplit w = false := by simp [isSplit, hstack, hconts]

/-- A wait of the wave itself takes its status. -/
theorem waitAs_of_main (hmain : e.who.lane = none) (st : Status) : waitAs s e st = .stall (updCur s e.who fun w => { w with status := st }) := by
  simp only [waitAs, hmain]

/-! ## Barriers (R148, R149) -/

/-- The generation of a barrier is closed without the wave, which belongs to the next. -/
def ArrivesLate (e : Env) (id : Nat) : Prop := (barrierOf e.t id).closed = true ∧ (barrierOf e.t id).arrived.contains e.who.wave = false

/-- Behind FENCE.team a wave tries again where the generation is closed without it, and else arrives and waits. -/
theorem arriveAt_of_covered (hboundary : atBoundary s e = false) (hfence : fenceDone s e 1 = true) (id : Nat) (n : Option Nat) :
    (ArrivesLate e id → arriveAt s e id n = tryAgain s e)
    ∧ (¬ArrivesLate e id → arriveAt s e id n
      = waitAs (updTeam s e.t.tid fun t => setBarrier t (arriving (barrierOf e.t id) e.who.wave n)) e (.barrier id)) := by
  have hguard : ((barrierOf e.t id).closed && !(barrierOf e.t id).arrived.contains e.who.wave) = true ↔ ArrivesLate e id := by
    rw [Bool.and_eq_true, Bool.not_eq_true', ArrivesLate]
  simp only [arriveAt, hboundary, hfence, Bool.not_true, Bool.false_eq_true, if_false]
  exact ⟨fun hlate => if_pos (hguard.2 hlate), fun hearly => if_neg (mt hguard.1 hearly)⟩

/-- The state in which the wave has arrived at a barrier, where it waits. -/
theorem arriveAt_of_early (hmain : e.who.lane = none) (hboundary : atBoundary s e = false) (hfence : fenceDone s e 1 = true) {id : Nat}
    (hearly : ¬ArrivesLate e id) (n : Option Nat) :
    arriveAt s e id n = .stall (updCur (updTeam s e.t.tid fun t => setBarrier t (arriving (barrierOf e.t id) e.who.wave n)) e.who
      fun w => { w with status := .barrier id }) := by
  rw [(arriveAt_of_covered hboundary hfence id n).2 hearly, waitAs_of_main hmain]

/-- A BARC of a whole wave at barrier 1 to 7 with a count of 1 to 16 is in order where no other count is fixed for its generation (R149). -/
theorem barcErrors_eq_nil (hwhole : isSplit e.w = false) (hid : 1 ≤ e.f.b.toNat ∧ e.f.b.toNat ≤ 7)
    (hcount : 1 ≤ (e.p.s e.f.a.toNat).toNat ∧ (e.p.s e.f.a.toNat).toNat ≤ 16)
    (hfixed : (barrierOf e.t e.f.b.toNat).arrived = [] ∨ (barrierOf e.t e.f.b.toNat).n = some (e.p.s e.f.a.toNat).toNat
      ∨ ArrivesLate e e.f.b.toNat) : barcErrors e = [] := by
  have hother : (!(barrierOf e.t e.f.b.toNat).arrived.isEmpty
      && !((barrierOf e.t e.f.b.toNat).closed && !(barrierOf e.t e.f.b.toNat).arrived.contains e.who.wave)
      && (barrierOf e.t e.f.b.toNat).n != some (e.p.s e.f.a.toNat).toNat) = false := by
    rcases hfixed with hfirst | hsame | ⟨hclosed, hout⟩
    · simp [hfirst]
    · simp [hsame]
    · simp only [hclosed, hout, Bool.not_false, Bool.and_self, Bool.not_true, Bool.and_false, Bool.false_and]
  refine if_neg ?_
  simp only [hwhole, hother, Nat.not_lt.2 hid.1, Nat.not_lt.2 hid.2, Nat.not_lt.2 hcount.1, Nat.not_lt.2 hcount.2, decide_false, Bool.or_self,
    Bool.and_false, Bool.false_eq_true, not_false_eq_true]

/-- BARC in order ends as its arrival does. -/
theorem exec_barc_atTurn (h : wordAtTurn s (.barc f) f e) (hwhole : e.w.stack = [] ∧ e.w.conts = []) (hid : 1 ≤ f.b.toNat ∧ f.b.toNat ≤ 7)
    (hcount : 1 ≤ (e.p.s f.a.toNat).toNat ∧ (e.p.s f.a.toNat).toNat ≤ 16)
    (hfixed : (barrierOf e.t f.b.toNat).arrived = [] ∨ (barrierOf e.t f.b.toNat).n = some (e.p.s f.a.toNat).toNat ∨ ArrivesLate e f.b.toNat) :
    exec (.barc f) s = .next (conclude s e (arriveAt s e f.b.toNat (some (e.p.s f.a.toNat).toNat))) := by
  obtain rfl : e.f = f := h.fields
  exact outcomeWith_atTurn (rfl : _ = execBarc e.f s) h (barcErrors_eq_nil (isSplit_of_whole hwhole.1 hwhole.2) hid hcount hfixed) rfl

/-! ## WAITF and SLEEP (R150, R151) -/

/-- WAITF of the twelve flags: it retires once they are clear and nothing holds the wave at it. -/
theorem exec_waitf_atTurn (h : wordAtTurn s (.waitf f) f e) (hflags : imm16u f < 4096) :
    exec (.waitf f) s = .next (conclude s e (
      if flagsAtWait s e &&& BitVec.ofNat 12 (imm16u f) = 0 ∧ (heldAtYield e.w && e.who.lane.isNone) = false then .ok s else tryAgain s e)) := by
  have hhigh : imm16u f / 4096 = 0 := Nat.div_eq_of_lt hflags
  refine outcomeWith_atTurn (rfl : _ = execWaitf f s) h (if_neg (not_not.2 hhigh)) (if_congr ?_ rfl rfl)
  rw [Bool.and_eq_true, decide_eq_true_eq, Bool.not_eq_true']

/-- SLEEP: it retires if its tick has come, and else waits for it. -/
theorem exec_sleep_atTurn (h : wordAtTurn s (.sleep f) f e) :
    exec (.sleep f) s = .next (conclude s e (if wakeTick s e ≤ s.now then .ok s else waitAs s e (.sleep (wakeTick s e)))) :=
  outcome_atTurn (rfl : _ = execSleep f s) h rfl

/-! ## Register blocks (R155) -/

/-- A REGGET of 1 to 3 blocks within the budget is in order for a whole wave that holds none. -/
theorem reggetErrors_eq_nil (hwhole : isSplit e.w = false) (hn : 1 ≤ e.f.b.toNat ∧ e.f.b.toNat ≤ 3) (hnone : e.w.blocks = 0)
    (hbudget : e.f.b.toNat ≤ blockBudget e.w e.t.k) : reggetErrors e = [] := by
  simp only [reggetErrors, hwhole, hnone, Nat.not_lt.2 hn.1, Nat.not_lt.2 hn.2, Nat.not_lt.2 hbudget, decide_false, Bool.or_self, ne_eq,
    not_true_eq_false, Bool.false_eq_true, if_false, List.append_nil]

/-- REGPUT of a whole wave: nothing to return, or blocks that an operation still uses, or blocks to return. -/
theorem exec_regput_atTurn (h : wordAtTurn s (.regput f) f e) (hwhole : e.w.stack = [] ∧ e.w.conts = []) :
    exec (.regput f) s = .next (conclude s e (
      if e.w.blocks = 0 then .ok s
      else if (waveOps s e.who.tid e.who.wave).any usesBlock then tryAgain s e
      else .ok (updCur s e.who fun w => { w with blocks := 0, lanes := Sparse.clear w.lanes 2048 6144 }))) := by
  have hnone : ¬ isSplit e.w = true := by simp [isSplit_of_whole hwhole.1 hwhole.2]
  exact outcomeWith_atTurn (rfl : _ = execRegput f s) h (if_neg hnone) rfl

/-- An operation uses an extended block where it has a register there to write, or one there to read. -/
theorem usesBlock_iff (o : Op) : usesBlock o = true ↔ writesBlock o = true ∨ (o.phase ≠ .complete ∧ o.unread ≠ 0 ∧ namesBlock o = true) := by
  simp only [usesBlock, Bool.or_eq_true, Bool.and_eq_true, bne_iff_ne, decide_eq_true_eq, and_assoc]

end Waiting

/-- Settles O27: each word passes its checks, and the condition that it waits for decides between its outcomes. -/
theorem waitingWordsStopTheirWave : Obligations.WaitingWordsStopTheirWave := by
  intro s f whole arrives next held goes covered count
  refine ⟨?bar, ?barc, ?barcLate, ?waitf, ?waitfHeld, ?sleep, ?sleepWaits, ?yield, ?yieldStops, ?regget, ?regputNone, ?regput, ?regputWaits,
    fun e h hmain hact halign => ?waits⟩
  case bar =>
    rintro e h ⟨hmain, hwhole, ⟨hboundary, hfence⟩, hearly⟩
    have hnone : ¬ isSplit e.w = true := by simp [isSplit_of_whole hwhole.1 hwhole.2]
    exact outcomeWith_atTurn (v := .stall _) (rfl : _ = execBar f s) h (if_neg hnone) (arriveAt_of_early hmain hboundary hfence hearly none)
  case barc =>
    rintro e h ⟨hmain, hwhole, ⟨hboundary, hfence⟩, hid, hid', hcount, hcount', hearly, hfixed⟩
    rw [exec_barc_atTurn h hwhole ⟨hid, hid'⟩ ⟨hcount, hcount'⟩ (hfixed.imp_right .inl), arriveAt_of_early hmain hboundary hfence hearly]
    rfl
  case barcLate =>
    rintro e h ⟨-, hwhole, ⟨hboundary, hfence⟩, hid, hid', hcount, hcount', hlate⟩
    rw [exec_barc_atTurn h hwhole ⟨hid, hid'⟩ ⟨hcount, hcount'⟩ (.inr (.inr hlate)), (arriveAt_of_covered hboundary hfence _ _).1 hlate]
    rfl
  case waitf =>
    rintro e h ⟨hflags, hgoes⟩
    rw [exec_waitf_atTurn h hflags, if_pos hgoes, conclude_ok]
  case waitfHeld =>
    rintro e h ⟨hflags, hwaits⟩
    rw [exec_waitf_atTurn h hflags, if_neg hwaits]
    rfl
  case sleep =>
    intro e h hcome
    rw [exec_sleep_atTurn h, if_pos hcome, conclude_ok]
  case sleepWaits =>
    rintro e h ⟨hmain, hlater⟩
    rw [exec_sleep_atTurn h, if_neg (Nat.not_le.2 hlater), waitAs_of_main hmain, conclude_stall]
  case yield =>
    intro e h hfree
    exact outcome_atTurn (v := .ok s) (rfl : _ = execYield f s) h (by simp [hfree])
  case yieldStops =>
    intro e h hasked
    exact outcome_atTurn (v := .ok _) (rfl : _ = execYield f s) h (congrArg _ (if_pos hasked))
  case regget =>
    rintro e h ⟨hmain, hwhole, hn, hn', hnone, hbudget⟩
    obtain rfl : e.f = f := h.fields
    exact outcomeWith_atTurn (v := .stall _) (rfl : _ = execRegget e.f s) h
      (reggetErrors_eq_nil (isSplit_of_whole hwhole.1 hwhole.2) ⟨hn, hn'⟩ hnone hbudget) (waitAs_of_main hmain _)
  case regputNone =>
    rintro e h ⟨hwhole, hnone⟩
    rw [exec_regput_atTurn h hwhole, if_pos hnone, conclude_ok]
  case regput =>
    rintro e h ⟨hwhole, hblocks, hfree⟩
    have hunused : ¬ (waveOps s e.who.tid e.who.wave).any usesBlock = true := by
      simpa only [List.any_eq_true, not_exists, not_and, Bool.not_eq_true] using hfree
    rw [exec_regput_atTurn h hwhole, if_neg hblocks, if_neg hunused, conclude_ok]
  case regputWaits =>
    rintro e h ⟨hwhole, hblocks, o, ho, huses⟩
    have hused : (waveOps s e.who.tid e.who.wave).any usesBlock = true := List.any_eq_true.2 ⟨o, ho, (usesBlock_iff o).2 huses⟩
    rw [exec_regput_atTurn h hwhole, if_neg hblocks, if_pos hused]
    rfl
  case waits =>
    obtain rfl : e.f = f := h.fields
    refine outcome_atTurn (v := .stall _) (rfl : _ = execWaits e.f s) h ?_
    have haligned : ¬ baseOf e % 8 ≠ 0 := not_not.2 halign
    rw [if_neg hact, if_neg haligned]
    exact waitAs_of_main hmain _

end Sys2Proof.Machine
end

section
/-!
PROOF. Tasks (R156, R158, R159): the checks that TBEGIN passes, and what each word makes of the task that it finds.
-/

namespace Sys2Proof.Machine

section Tasks
variable {s : State} {f : Fields} {e : Env}

/-- A TBEGIN inside a task leaves its fault to TASK_NEST (R158). -/
theorem tbeginErrors_of_task (htask : e.w.task.isSome = true) : tbeginErrors e s = [] := if_pos htask

/-- A TBEGIN of a whole wave outside a task, which names tiles that the wave has and asks for no re-issue that is not accepted, is in order. -/
theorem tbeginErrors_of_fits (htask : e.w.task = none) (hwhole : isSplit e.w = false) (hcode : e.f.b.toNat < 2)
    (htiles : (e.p.s e.f.a.toNat).toNat < 2 ^ e.t.k.acc) (hrole : (e.p.s e.f.a.toNat).toNat = 0 ∨ e.w.role = .matrix)
    (hfeature : e.f.b.getLsbD 0 = true → featOn s 5 = true) : tbeginErrors e s = [] := by
  have hfield : (decide ((e.p.s e.f.a.toNat).toNat ≠ 0) && decide (e.w.role ≠ .matrix)) = false := by
    rcases hrole with hzero | hmatrix
    · simp [hzero]
    · simp [hmatrix]
  have hreissue : (e.f.b.getLsbD 0 && !featOn s 5) = false := by
    cases hbit : e.f.b.getLsbD 0
    · rfl
    · rw [hfeature hbit]; rfl
  simp only [tbeginErrors, htask, hwhole, Nat.div_eq_of_lt hcode, Nat.div_eq_of_lt htiles, hfield, hreissue, Option.isSome_none,
    ne_eq, not_true_eq_false, decide_false, Bool.or_self, Bool.and_false, Bool.false_eq_true, if_false, List.append_nil]

/-- TEND and TABORT outside a task are TASK_NEST (R158). -/
theorem exec_taskEnd_of_none {i : Instr} (hi : i = .tend f ∨ i = .tabort f) (h : wordAtTurn s i f e) (htask : e.w.task = none) :
    exec i s = .next (deliver s e.who ⟨.taskNest, 2, 0⟩ (preciseAt e.va)) := by
  rcases hi with rfl | rfl
  · exact outcome_atTurn (v := .trap _) (rfl : _ = execTend f s) h (by simp only [htask]; rfl)
  · exact outcome_atTurn (v := .trap _) (rfl : _ = execTabort f s) h (by simp only [htask]; rfl)

end Tasks

/-- Settles O29: a task that is open, or none, decides between the outcomes of each word, and for TEND how far its commit has come. -/
theorem tasksBeginAndEnd : Obligations.TasksBeginAndEnd := by
  intro s f mask fits
  refine ⟨?begins, ?nested, fun i hi e h htask => exec_taskEnd_of_none hi h htask, fun e k c h htask hcommit hpassed => ?passed,
    fun e k h htask hopen hquiet hboundary => ?commits, fun e k h htask hboundary => ?givesUp⟩
  case begins =>
    rintro e h ⟨htask, ⟨hstack, hconts, hcode, htiles, hrole, hfeature⟩, hboundary⟩
    obtain rfl : e.f = f := h.fields
    refine outcomeWith_atTurn (v := .ok _) (rfl : _ = execTbegin e.f s) h
      (tbeginErrors_of_fits htask (isSplit_of_whole hstack hconts) hcode htiles hrole hfeature) ?_
    simp only [htask, hboundary, Option.isSome_none, Bool.false_eq_true, if_false]
    rfl
  case nested =>
    intro e h htask
    exact outcomeWith_atTurn (v := .trap _) (rfl : _ = execTbegin f s) h (tbeginErrors_of_task htask) (if_pos htask)
  case passed =>
    refine outcome_atTurn (v := .ok _) (rfl : _ = execTend f s) h ?_
    simp only [htask, hcommit, Nat.not_le.2 hpassed, if_false]
  case commits =>
    refine outcome_atTurn (v := .stall _) (rfl : _ = execTend f s) h ?_
    simp only [htask, hopen, hquiet, hboundary, Bool.not_true, Bool.false_eq_true, if_false]
    rfl
  case givesUp =>
    refine outcome_atTurn (v := .ok _) (rfl : _ = execTabort f s) h ?_
    simp only [htask, hboundary, Bool.false_eq_true, if_false]

end Sys2Proof.Machine
end

section
/-!
PROOF. Die distances and signals (R7, R160, R162): SIGNAL is its checks, its fence and the issue of its atomic.
-/

namespace Sys2Proof.Machine

section Signals
variable {s : State} {f : Fields} {e : Env}

/-- SIGNAL with an active lane: it checks its word, then issues its atomic behind FENCE.device (R162). -/
theorem exec_signal_atTurn (h : wordAtTurn s (.signal f) f e) (hact : e.act ≠ 0) :
    exec (.signal f) s = .next (conclude s e (
      if baseOf e % 8 ≠ 0 then faulting .align 3 (e.p.s f.a.toNat)
      else if atBoundary s e then quantumStop s e
      else if !fenceDone s e 5 then tryAgain s e
      else issueMem s e none (.atomic .add none)
        [⟨0, .g, baseOf e, 8, if f.bsp = 1 then (e.p.s f.b.toNat).toNat else f.b.toNat, 0, false, none, false⟩])) := by
  obtain rfl : e.f = f := h.fields
  exact outcome_atTurn (rfl : _ = execSignal e.f s) h (if_neg hact)

end Signals

/-- Settles O30: DIEHOPS writes the distance of R7 between the dies that it finds, and SIGNAL issues the one access of its plan. -/
theorem distancesAndSignals : Obligations.DistancesAndSignals := by
  intro s f b
  refine ⟨fun e h => ?diehops, ?signal, ?misaligned⟩
  case diehops => exact outcome_atTurn (v := .ok _) (rfl : _ = execDiehops f s) h rfl
  case signal =>
    rintro e h ⟨hact, halign, hboundary, hfence, hroom⟩
    rw [exec_signal_atTurn h hact, if_neg (not_not.2 halign), issueMem_of_memRoom hroom]
    simp only [hboundary, hfence, Bool.not_true, Bool.false_eq_true, if_false, conclude_ok]
  case misaligned =>
    rintro e h ⟨hact, hmis⟩
    rw [exec_signal_atTurn h hact, if_pos hmis]
    rfl

end Sys2Proof.Machine
end

section
/-!
PROOF. The system words and ENQ (R161, R164 to R169, R408, R409): what each does behind its checks, and whether it does anything with no active lane.
-/

namespace Sys2Proof.Machine

section SystemWords
variable {s : State} {f : Fields} {e : Env}

/-- With no active lane no scalar is written (R42). -/
theorem writeScalar_of_idle (hact : e.act = 0) (t : State) (x : Word) : writeScalar e t x = t := if_pos hact

/-! ## The debugger (R165) -/

/-- BKPT does nothing where breakpoints are not enabled; else BKSKIP is used up, or the breakpoint is met. -/
theorem exec_bkpt_atTurn (h : wordAtTurn s (.bkpt f) f e) :
    exec (.bkpt f) s = .next (conclude s e (
      if !e.c.bken then .ok s else if bkskip e.w then .ok (updCur s e.who clearSkip) else faulting .breakpoint (imm8u f) 0)) :=
  outcome_atTurn (rfl : _ = execBkpt f s) h rfl

/-- STOPW halts the sweep where breakpoints are enabled. -/
theorem exec_stopw_atTurn (h : wordAtTurn s (.stopw f) f e) :
    exec (.stopw f) s = .next (retired (if e.c.bken then updSweep s e.sw.ref fun w => { w with halted := true } else s) e) :=
  outcome_atTurn (v := .ok _) (rfl : _ = execStopw f s) h rfl

/-! ## Time (R166, R408, R409) -/

/-- A TSTAMP whose log is in reach, or which makes no entry, does not wait for it. -/
theorem stampLog_of_free (hfree : ∀ q, findQueue s e.sw.pkt.q = some q → e.sw.logTag = none → logMeets s q 1 = none) :
    stampLog s e = (s, false) := by
  unfold stampLog
  split
  next q hq htag => rw [hfree q hq htag]
  next => rfl

/-- A TSTAMP that does not wait writes its stamp. -/
theorem exec_tstamp_of_active (h : wordAtTurn s (.tstamp f) f e) (hact : e.act ≠ 0) (hlog : stampLog s e = (s, false)) :
    exec (.tstamp f) s = .next (retired (writeScalar e (stampOf s e).2 (BitVec.ofNat 64 (stampOf s e).1)) e) := by
  refine outcome_atTurn (v := .ok _) (rfl : _ = execTstamp f s) h ?_
  simp only [if_neg hact, hlog, Bool.false_eq_true, if_false]

/-- The same whatever lanes are active, where the stamp changes nothing else. -/
theorem exec_tstamp_of_pure (h : wordAtTurn s (.tstamp f) f e) (hlog : stampLog s e = (s, false)) {v : Nat} (hstamp : stampOf s e = (v, s)) :
    exec (.tstamp f) s = .next (retired (writeScalar e s (BitVec.ofNat 64 v)) e) := by
  by_cases hact : e.act = 0
  · rw [writeScalar_of_idle hact]
    exact outcome_atTurn (v := .ok _) (rfl : _ = execTstamp f s) h (if_pos hact)
  · rw [exec_tstamp_of_active h hact hlog, hstamp]

/-! ## System registers and counters (R167, R168) -/

/-- WEJT takes a count of up to 8 lanes, or 15 for the packet's own. -/
theorem wrsysErrors_of_wejt (hnum : imm16u e.f = 0x18) (hval : (e.p.s e.f.a.toNat).toNat ≤ 8 ∨ (e.p.s e.f.a.toNat).toNat = 15) :
    wrsysErrors e s = [] := by
  have hfits : (!scalarAt e.f.asp e.f.a || decide ((e.p.s e.f.a.toNat).toNat ≤ 8) || decide ((e.p.s e.f.a.toNat).toNat = 15)) = true := by
    rw [Bool.or_assoc, Bool.or_eq_true, Bool.or_eq_true, decide_eq_true_eq, decide_eq_true_eq]
    exact .inr hval
  exact (if_pos hnum).trans (if_pos hfits)

/-! ## VCINV (R169) -/

/-- VCINV of some bytes in a range that obeys R195, with an active lane. -/
theorem exec_vcinv_of_range (h : wordAtTurn s (.vcinv f) f e) (hact : e.act ≠ 0) (hbytes : e.p.s f.b.toNat ≠ 0)
    (hrange : rangeFault (e.p.s f.a.toNat).toNat (e.p.s f.b.toNat).toNat = none) :
    exec (.vcinv f) s = .next (conclude s e (
      if f.d = 0 then .ok (discardCode s e.c.cid (e.p.s f.a.toNat).toNat (e.p.s f.b.toNat).toNat)
      else if dirtyIn s e.c.cid (e.p.s f.a.toNat).toNat (e.p.s f.b.toNat).toNat then tryAgain s e
      else .ok (discardCopies s e.c.cid (e.p.s f.a.toNat).toNat (e.p.s f.b.toNat).toNat))) := by
  have hsome : (e.p.s f.b.toNat).toNat ≠ 0 := fun hc => hbytes (BitVec.eq_of_toNat_eq hc)
  refine outcome_atTurn (rfl : _ = execVcinv f s) h ?_
  simp only [decide_eq_false hact, decide_eq_false hsome, hrange, Bool.or_self, Bool.false_eq_true, if_false]

/-! ## ENQ (R161) -/

/-- ENQ with an active lane checks its address first. -/
theorem exec_enq_misaligned (h : wordAtTurn s (.enq f) f e) (hact : e.act ≠ 0) (hmis : baseOf e % 48 ≠ 0) :
    exec (.enq f) s = .next (deliver s e.who ⟨.align, 3, e.p.s f.a.toNat⟩ (preciseAt e.va)) :=
  outcome_atTurn (v := .trap _) (rfl : _ = execEnq f s) h ((if_neg hact).trans (if_pos hmis))

/-- ENQ behind FENCE.device whose packet is read and answered writes the status. -/
theorem exec_enq_answered (h : wordAtTurn s (.enq f) f e) (hact : e.act ≠ 0) (halign : baseOf e % 48 = 0) (hboundary : atBoundary s e = false)
    (hfence : fenceDone s e 5 = true) {data : List Byte} (hdata : enqPacket s e (baseOf e) = .ok data) {st : Nat} {t : State}
    (hsubmit : submit (enqNoted s e (baseOf e) (data.length / 48)) e (e.p.s f.b.toNat).toNat data = (some st, t)) :
    exec (.enq f) s = .next (retired (writeScalar e t (BitVec.ofNat 64 st)) e) := by
  refine outcome_atTurn (v := .ok _) (rfl : _ = execEnq f s) h ?_
  simp only [if_neg hact, halign, hboundary, hfence, hdata, hsubmit, ne_eq, not_true_eq_false, Bool.not_true, Bool.false_eq_true, if_false]

end SystemWords

/-- Settles O31: the words without checks of their own end as their bodies do; those with some pass them, or are refused by one of them. -/
theorem systemWordsComplete : Obligations.SystemWordsComplete := by
  intro s f nr
  refine ⟨fun e h _ => ?trap, fun e h hcode => ?tmask, fun e h hoff => ?bkptOff, ?bkptSkips, ?bkptMet, fun e h hon => ?stopw, fun e h hoff => ?stopwOff,
    fun e h hnone => ?stampUnlogged, fun e q h hact hq htag hlog => ?stampCaptured, fun e q tag v h hq htag hv => ?stampReplayed,
    fun e q tag h hact hq htag hv => ?stampDiverged,
    fun e data st t h hact halign hboundary hfence hdata hsubmit => exec_enq_answered h hact halign hboundary hfence hdata hsubmit,
    fun e h hmis => exec_enq_misaligned h hmis.1 hmis.2, fun e x h hx => ?rdsys, fun e h hnone => ?rdsysUnassigned, ?wrsys, fun e h hnum => ?perf,
    fun e h hidle => ?vcinvIdle, ?vcinvCode, ?vcinvCopies⟩
  case trap => exact outcome_atTurn (v := .trap _) (rfl : _ = execTrap f s) h rfl
  case tmask =>
    have hbit : ¬ imm8u f / 2 ≠ 0 := not_not.2 (Nat.div_eq_of_lt hcode)
    exact outcomeWith_atTurn (v := .ok _) (rfl : _ = execTmask f s) h (if_neg hbit) rfl
  case bkptOff =>
    rw [exec_bkpt_atTurn h, hoff]
    rfl
  case bkptSkips =>
    rintro e h ⟨hon, hskip⟩
    rw [exec_bkpt_atTurn h, hon, bkskip, hskip]
    rfl
  case bkptMet =>
    rintro e h ⟨hon, hskip⟩
    rw [exec_bkpt_atTurn h, hon, bkskip, hskip]
    rfl
  case stopw => rw [exec_stopw_atTurn h, if_pos hon]
  case stopwOff => rw [exec_stopw_atTurn h, hoff]; rfl
  case stampUnlogged =>
    refine exec_tstamp_of_pure h (stampLog_of_free ?_) ?_
    · simp [hnone]
    · simp only [stampOf, hnone]
  case stampCaptured =>
    have hstamp : stampOf s e = (s.now, logAppend s q
        [LogEntry.bytes ⟨.stamp, 0, e.sw.ref.tag, e.t.teamix, e.who.wave, e.w.pf 1, s.now⟩]) := by simp only [stampOf, hq, htag]
    rw [exec_tstamp_of_active h hact (stampLog_of_free ?_), hstamp]
    simp [hq, hlog]
  case stampReplayed =>
    refine exec_tstamp_of_pure h (stampLog_of_free ?_) ?_
    · simp [htag]
    · simp only [stampOf, hq, htag, hv]
  case stampDiverged =>
    have hstamp : stampOf s e = (s.now, noteDiverged s e) := by simp only [stampOf, hq, htag, hv]
    rw [exec_tstamp_of_active h hact (stampLog_of_free ?_), hstamp]
    simp [htag]
  case rdsys =>
    have hsome : sysReg s e (imm16u f) = some x := hx
    refine outcomeWith_atTurn (v := .ok _) (rfl : _ = execRdsys f s) h (if_neg ?_) ?_
    · simp [hsome]
    · simp only [hsome]
  case rdsysUnassigned =>
    have hnone' : (sysReg s e (imm16u f)).isNone = true := Option.isNone_iff_eq_none.2 hnone
    exact outcomeWith_refused (rfl : _ = execRdsys f s) h (if_pos hnone') (by decide)
  case wrsys =>
    rintro e h ⟨hnum, hval⟩
    obtain rfl : e.f = f := h.fields
    have hval' : (e.p.s e.f.a.toNat).toNat ≤ 8 ∨ (e.p.s e.f.a.toNat).toNat = 15 := hval.imp_right fun hv => by rw [hv]; rfl
    exact outcomeWith_atTurn (v := .ok _) (rfl : _ = execWrsys e.f s) h (wrsysErrors_of_wejt hnum hval') rfl
  case perf =>
    have hcounter : ¬ 7 < imm8u f := Nat.not_lt.2 (Nat.le_of_lt_succ hnum)
    exact outcomeWith_atTurn (v := .ok _) (rfl : _ = execPerf f s) h (if_neg hcounter) rfl
  case vcinvIdle =>
    refine outcome_atTurn (v := .ok s) (rfl : _ = execVcinv f s) h (if_pos ?_)
    rw [Bool.or_eq_true, decide_eq_true_eq, decide_eq_true_eq]
    exact hidle.imp_right fun hzero => by rw [hzero]; rfl
  case vcinvCode =>
    rintro e h ⟨hact, hbytes, hrange, hcode⟩
    rw [exec_vcinv_of_range h hact hbytes hrange, if_pos hcode, conclude_ok]
  case vcinvCopies =>
    rintro e h ⟨hact, hbytes, hrange, hdata, hclean⟩
    rw [exec_vcinv_of_range h hact hbytes hrange, if_neg hdata, hclean]
    rfl

end Sys2Proof.Machine
end

section
/-!
PROOF. The return from a handler (R164, R171): what it leaves of the wave, and what is left when nothing is to be replayed.
-/

namespace Sys2Proof.Machine

section Return
variable {s : State} {f : Fields} {e : Env}

/-- `w'` is `w` but for what a wait may set: its status and the record of the lanes that it parks with. -/
def Wave.WaitsAs (w w' : Wave) : Prop := { w' with status := w.status, xmask := w.xmask, maskBefore := w.maskBefore } = w

/-- From `s` to `t` memory has stayed as it was, and of the agent's wave all but what a wait may set. -/
structure MayWait (a : AgentRef) (s t : State) : Prop where
  mem : t.mem = s.mem
  own : ∀ w, findWave s a.tid a.wave = some w → ∃ w', findWave t a.tid a.wave = some w' ∧ w.WaitsAs w'

theorem MayWait.refl (a : AgentRef) (s : State) : MayWait a s s := ⟨rfl, fun w hw => ⟨w, hw, rfl⟩⟩

theorem MayWait.trans {a : AgentRef} {s t u : State} (h : MayWait a s t) (h' : MayWait a t u) : MayWait a s u where
  mem := h'.mem.trans h.mem
  own w hw := by
    obtain ⟨w', hw', hwait⟩ := h.own w hw
    obtain ⟨w'', hw'', hwait'⟩ := h'.own w' hw'
    refine ⟨w'', hw'', ?_⟩
    unfold Wave.WaitsAs at hwait hwait' ⊢
    rw [← hwait'] at hwait
    exact hwait

theorem mayWait_updWave (s : State) (a : AgentRef) {g : Wave → Wave} (hg : ∀ w : Wave, w.WaitsAs (g w)) :
    MayWait a s (updWave s a.tid a.wave g) where
  mem := rfl
  own w hw := ⟨g w, findWave_updWave_of_find (fun w => ⟨congrArg (·.tid) (hg w), congrArg (·.ix) (hg w)⟩) hw, hg w⟩

/-- A wave whose ROWOPEN goes on waits for it (R235). -/
theorem mayWait_awaitRow (s : State) (a : AgentRef) : MayWait a s (awaitRow s a.tid a.wave) := by
  unfold awaitRow
  split
  · exact mayWait_updWave s a fun _ => rfl
  · exact .refl a s

/-- A wave whose LDT waits for its jar parks (R240). -/
theorem mayWait_awaitJar (s : State) (a : AgentRef) : MayWait a s (awaitJar s a.tid a.wave) := by
  unfold awaitJar
  split
  · exact .refl a s
  · split
    · exact .refl a s
    · exact mayWait_updWave s a fun _ => rfl

/-- An empty replay set leaves at most a wait. -/
theorem mayWait_replaySet_nil (s : State) (a : AgentRef) (mask : W32) : MayWait a s (replaySet a s [] mask) :=
  (mayWait_awaitRow s a).trans (mayWait_awaitJar _ a)

/-- The wave as a return to the resume point of its frame leaves it (R171). -/
def Wave.resumed (w : Wave) (fr : Frame) : Wave :=
  { w with
    trapMask := false, frame := none, skip := w.xcause.getLsbD 16, flagsHeld := fr.flags, holdA := none, holdB := none, status := .running
    path := { w.path with em := fr.em, pc := fr.resume, mid := true, grp := false, clause := none } }

/-- A return with `%xpc` unchanged resumes the wave and takes the replay set up again. -/
theorem returnFrom_of_same {w : Wave} {fr : Frame} (hsame : w.xpc = fr.xpc) (a : AgentRef) (replay : State → List Nat → W32 → State) :
    returnFrom s a w fr replay = replay (updCur s a fun w => w.resumed fr) fr.replay (w.xmask.truncate 32) := by
  simp only [returnFrom, hsame, decide_true, if_true]
  rfl

/-- RTT in a handler of a team that is not lost, with `%xpc` unchanged and nothing to replay, returns. -/
theorem exec_rtt_of_same (h : wordAtTurn s (.rtt f) f e) {fr : Frame} (hframe : e.w.frame = some fr) (hlost : e.t.lost = none)
    (hsame : e.w.xpc = fr.xpc) (hempty : fr.replay = []) :
    exec (.rtt f) s = .next (retiredMoved (returnFrom s e.who e.w fr (replaySet e.who)) e) := by
  refine outcomeWith_atTurn (v := .moved _) (rfl : _ = execRtt f s) h (if_neg (by simp [hframe])) ?_
  have hseen : replaySeen s fr.replay = true := by rw [hempty]; rfl
  simp only [hframe, hlost, hsame, hseen, Option.isSome_none, Bool.false_eq_true, if_false, if_true]

end Return

/-- Settles O33: the return resumes the wave, and an empty replay set adds at most a wait. -/
theorem returnFromTrapRestores : Obligations.ReturnFromTrapRestores := by
  intro s f
  refine ⟨fun e h hnone => ?outside, fun e fr h hmain hframe hlost hsame hempty => ?returns⟩
  case outside => exact outcomeWith_refused (rfl : _ = execRtt f s) h (if_pos (Option.isNone_iff_eq_none.2 hnone)) (by decide)
  case returns =>
    have hresumed : findWave (updCur s e.who fun w => w.resumed fr) e.who.tid e.who.wave
        = some (e.w.resumed fr) := findWave_updWave_of_find (fun _ => ⟨rfl, rfl⟩) h.sees.wave
    have hwait : MayWait e.who (updCur s e.who fun w => w.resumed fr) (returnFrom s e.who e.w fr (replaySet e.who)) := by
      rw [returnFrom_of_same hsame, hempty]
      exact mayWait_replaySet_nil _ _ _
    refine ⟨_, exec_rtt_of_same h hframe hlost hsame hempty, hwait.mem, fun w hw => ?_⟩
    obtain ⟨w', hw', hrest⟩ := hwait.own _ hresumed
    obtain rfl : w' = w := Option.some.inj (hw'.symm.trans hw)
    exact ⟨congrArg (·.trapMask) hrest, congrArg (·.frame) hrest, congrArg (·.path.em) hrest, congrArg (·.path.pc) hrest, congrArg (·.skip) hrest,
      congrArg (·.flagsHeld) hrest, congrArg (·.path.clause) hrest, congrArg (·.lanes) hrest, congrArg (·.path.scal) hrest⟩

end Sys2Proof.Machine
end

section
/-!
PROOF. Trap entry (R170): what the discard of a task leaves of the wave that takes the trap, and what the wave then holds.
-/

namespace Sys2Proof.Machine

/-! ## The discard of a task's version (R158, R310) -/

/-- `g` changes no more of a wave than its handles. -/
def HandlesOnly (g : Wave → Wave) : Prop := ∀ w, ∃ h, g w = { w with handles := h }

theorem HandlesOnly.key {g : Wave → Wave} (hg : HandlesOnly g) (w : Wave) : (g w).tid = w.tid ∧ (g w).ix = w.ix := by
  obtain ⟨h, hgw⟩ := hg w
  exact hgw ▸ ⟨rfl, rfl⟩

theorem HandlesOnly.status {g : Wave → Wave} (hg : HandlesOnly g) (w : Wave) : (g w).status = w.status := by
  obtain ⟨h, hgw⟩ := hg w
  exact hgw ▸ rfl

/-- Fill handles that come back are a change of the handles alone. -/
theorem handlesOnly_foldl_setH (l : List (Nat × Word)) : HandlesOnly fun w => l.foldl (fun w d => w.setH d.1 d.2) w := by
  intro w
  refine List.foldlRecOn (motive := fun v : Wave => ∃ h, v = { w with handles := h }) l _ ⟨w.handles, rfl⟩ ?_
  rintro _ ⟨h, rfl⟩ d -
  exact ⟨_, rfl⟩

/-- The discard of a wave's task gives back handles of that wave, and touches no other record of a wave. -/
theorem discardTask_waves (s : State) (w : Wave) :
    ∃ g, HandlesOnly g ∧ (discardTask s w).waves = (updWave s w.tid w.ix g).waves := by
  have hsame : ∃ g, HandlesOnly g ∧ s.waves = (updWave s w.tid w.ix g).waves :=
    ⟨id, fun v => ⟨v.handles, rfl⟩, by simp [updWave]⟩
  unfold discardTask
  split
  · exact hsame
  next k _ =>
    split
    · exact hsame
    · exact ⟨_, handlesOnly_foldl_setH k.drops, rfl⟩

theorem discardTask_mem (s : State) (w : Wave) : (discardTask s w).mem = s.mem := by
  unfold discardTask
  split
  · rfl
  · split <;> rfl

/-- The wave whose task is discarded, but for its handles. -/
theorem findWave_discardTask {s : State} {tid ix : Nat} {w : Wave} (hw : findWave s tid ix = some w) :
    ∃ h, findWave (discardTask s w) tid ix = some { w with handles := h } := by
  obtain ⟨rfl, rfl⟩ : w.tid = tid ∧ w.ix = ix := by simpa using List.find?_some hw
  obtain ⟨g, hg, hwaves⟩ := discardTask_waves s w
  obtain ⟨h, hgw⟩ := hg w
  refine ⟨h, ?_⟩
  rw [findWave, hwaves, ← findWave, ← hgw]
  exact findWave_updWave_of_find hg.key hw

/-! ## `%xcause` (R46) -/

theorem Code.num_lt (c : Code) : c.num < 256 := by cases c <;> decide

/-- `%xcause` as a number: BKSKIP above the subcode above the code. -/
theorem causeWord_toNat (skip : Bool) {code : Nat} (hcode : code < 256) (sub : Nat) :
    (causeWord skip code sub).toNat = skip.toNat * 65536 + sub % 256 * 256 + code := by
  have hsub : sub % 256 < 256 := Nat.mod_lt _ (by decide)
  cases skip
  all_goals
    simp only [causeWord, BitVec.toNat_ofNat, Bool.toNat_true, Bool.toNat_false, Bool.false_eq_true, if_true, if_false]
    omega

/-- The fields of `%xcause`: the code, the subcode and BKSKIP. -/
theorem causeWord_fields (skip : Bool) {code : Nat} (hcode : code < 256) (sub : Nat) :
    bitsOf (causeWord skip code sub).toNat 7 0 = code ∧ bitsOf (causeWord skip code sub).toNat 15 8 = sub % 256
      ∧ (causeWord skip code sub).getLsbD 16 = skip := by
  have hsub : sub % 256 < 256 := Nat.mod_lt _ (by decide)
  have hskip : skip.toNat ≤ 1 := Bool.toNat_le skip
  have hbit : (causeWord skip code sub).toNat / 2 ^ 16 % 2 = skip.toNat := by
    rw [causeWord_toNat skip hcode]
    omega
  refine ⟨?_, ?_, ?_⟩
  · simp only [causeWord_toNat skip hcode, bitsOf]
    omega
  · simp only [causeWord_toNat skip hcode, bitsOf]
    omega
  · rw [BitVec.getLsbD, Nat.testBit_eq_decide_div_mod_eq, hbit]
    cases skip <;> rfl

/-! ## Trap entry -/

/-- The wave as trap entry leaves it, in a sweep whose code stands at `code`; `flags` are those of the clause that it was inside. -/
def Wave.trapped (w : Wave) (code : Nat) (flags : BitVec 12) (fi : FaultInfo) (ti : TrapInfo) : Wave :=
  { closeTaskForTrap w with
    xpc := BitVec.ofNat 64 ti.xpc, xcause := causeWord w.skip fi.code.num fi.sub, xaddr := fi.addr, xskid := BitVec.ofNat 64 ti.xskid
    xmask := ti.xmask.zeroExtend 64, maskBefore := none
    frame := some ⟨w.path.em, flags, ti.resume, ti.replay, BitVec.ofNat 64 ti.xpc⟩, trapMask := true, holdA := none, holdB := none
    flagsHeld := 0, status := .running, path := { w.path with pc := code + w.tba.toNat, mid := false, grp := false, clause := none } }

/-- A trap closes a task by the accumulator modes and the task's own records alone (R182). -/
theorem closeTaskForTrap_frame (w : Wave) : ∃ e k x, closeTaskForTrap w = { w with exact := e, task := k, xtask := x } := by
  unfold closeTaskForTrap
  split
  · exact ⟨w.exact, w.task, w.xtask, rfl⟩
  · exact ⟨_, _, _, rfl⟩

theorem trapEntry_eq {s : State} {a : AgentRef} {w : Wave} {t : Team} {sw : Sweep} (hw : findWave s a.tid a.wave = some w)
    (ht : findTeam s a.tid = some t) (hsw : sweepOf s t = some sw) (fi : FaultInfo) (ti : TrapInfo) :
    trapEntry s a fi ti = updCur (discardTask s w) a fun v => v.trapped sw.code (clauseFlags w) fi ti := by
  simp only [trapEntry, hw, ht, hsw]
  congr 1
  funext v
  obtain ⟨e, k, x, h⟩ := closeTaskForTrap_frame v
  simp only [Wave.trapped, h]

/-- Settles O32: the discard of the task gives back handles alone, and `Wave.trapped` says what trap entry then writes. -/
theorem trapEntrySavesTheTrapRegisters : Obligations.TrapEntrySavesTheTrapRegisters := by
  intro s a fi ti w t sw hw ht hsw s'
  obtain ⟨h, hdiscarded⟩ := findWave_discardTask hw
  obtain ⟨e, k, x, hclosed⟩ := closeTaskForTrap_frame { w with handles := h }
  obtain ⟨hcode, hsub, hskip⟩ := causeWord_fields w.skip (Code.num_lt fi.code) fi.sub
  have hs' : s' = updCur (discardTask s w) a fun v => v.trapped sw.code (clauseFlags w) fi ti := trapEntry_eq hw ht hsw fi ti
  refine ⟨Wave.trapped { w with handles := h } sw.code (clauseFlags w) fi ti, ?found, rfl, rfl, rfl, rfl, hcode, hsub, hskip, rfl, rfl, rfl, rfl, rfl,
    rfl, rfl, ?_, ?_, rfl, ?_, ?_, ?_, ?mem⟩
  case found =>
    rw [hs']
    refine findWave_updWave_of_find (fun v => ?_) hdiscarded
    obtain ⟨_, _, _, hv⟩ := closeTaskForTrap_frame v
    simp only [Wave.trapped, hv, and_self]
  case mem =>
    rw [hs']
    exact discardTask_mem s w
  all_goals simp only [Wave.trapped, hclosed]

end Sys2Proof.Machine
end

section
/-!
PROOF. An unhandled fault (R173): the team's end takes its waves one by one, and what is done afterwards, the records of R422 included, touches no
wave.
-/

namespace Sys2Proof.Machine

/-! ## Error records touch no wave (R422) -/

theorem storeAfter_waves (s : State) (pa : Nat) (bs : List Byte) (t0 : Nat) : (storeAfter s pa bs t0).1.waves = s.waves :=
  (congrArg State.waves (storeHome_frame { s with now := max s.now t0 } 0 none true pa bs) :)

theorem queueNoted_waves (s : State) (q : Queue) (va n : Nat) (k : AccKind) : (queueNoted s q va n k).waves = s.waves := by
  unfold queueNoted
  split
  · unfold noteQueueAlias
    split
    · exact (congrArg State.waves (linesFrame_noteAlias ..).rest :)
    · rfl
  · rfl

theorem ringWrite_waves {s s1 : State} {q : Queue} {r : ErrorRecord} {t : Nat} (h : ringWrite s q r = .done s1 t) : s1.waves = s.waves := by
  unfold ringWrite at h
  split at h
  case h_1 =>
    dsimp only at h
    split at h
    case h_1 =>
      cases h
      simp only [updQueue_waves, storeAfter_waves, queueNoted_waves]
    all_goals cases h
  all_goals cases h

theorem postAdmin_waves (s : State) (r : ErrorRecord) : (postAdmin s r).waves = s.waves := by
  unfold postAdmin
  split
  · rfl
  · split
    next h => exact (updQueue_waves ..).trans (ringWrite_waves h)
    · rfl

theorem foldl_postAdmin_waves (rs : List ErrorRecord) (s : State) : (rs.foldl postAdmin s).waves = s.waves :=
  List.foldlRecOn (motive := fun t : State => t.waves = s.waves) rs _ rfl fun t ht r _ => (postAdmin_waves t r).trans ht

theorem haltQueue_waves (s : State) (q : Queue) (code sub va : Nat) : (haltQueue s q code sub va).waves = s.waves := by
  unfold haltQueue
  split
  · rfl
  · exact postAdmin_waves ..

theorem sendRecords_waves (s : State) (q : QRef) (rs : List ErrorRecord) : (sendRecords s q rs).waves = s.waves := by
  induction rs generalizing s with
  | nil => rfl
  | cons r rs ih =>
    rw [sendRecords]
    split
    · exact foldl_postAdmin_waves (r :: rs) s
    · split
      · rfl
      · split
        next h => exact (ih _).trans <| (updQueue_waves ..).trans (ringWrite_waves h)
        · rfl
        · split
          · exact ih s
          · exact (haltQueue_waves ..).trans (foldl_postAdmin_waves (r :: rs) s)

theorem postErrors_waves (s : State) (q : QRef) (rs : List ErrorRecord) : (postErrors s q rs).waves = s.waves := sendRecords_waves ..

/-! ## The end of a team's own record touches no wave (R153, R388) -/

theorem returnSlot_waves (s : State) (cid : Nat) (e : TriadEntry) (tid : Nat) : (returnSlot s cid e tid).waves = s.waves := by
  unfold returnSlot
  split
  · rfl
  · split <;> rfl

theorem releaseTriads_waves (s : State) (t : Team) : (releaseTriads s t).waves = s.waves := by
  refine List.foldlRecOn (motive := fun u : State => u.waves = s.waves) t.triads _ rfl fun u hu e _ => ?_
  split
  · exact (returnSlot_waves ..).trans hu
  · exact hu

theorem checkTeamEnd_waves (s : State) (tid : Nat) : (checkTeamEnd s tid).waves = s.waves := by
  unfold checkTeamEnd
  split
  · rfl
  · split
    · rfl
    · exact releaseTriads_waves ..

/-! ## Waves that may still live -/

/-- Of the waves of team `tid`, only such as have the index of one of `l` may live. -/
def LiveAmong (tid : Nat) (l : List Wave) (s : State) : Prop :=
  ∀ ix x, findWave s tid ix = some x → x.status = .ended ∨ ∃ w ∈ l, w.ix = ix

theorem LiveAmong.of_waves {tid : Nat} {l : List Wave} {s t : State} (h : LiveAmong tid l s) (hwaves : t.waves = s.waves) : LiveAmong tid l t := by
  intro ix x hx
  exact h ix x (by rwa [findWave, hwaves, ← findWave] at hx)

/-- At first every wave of the team may. -/
theorem liveAmong_waves (s : State) (tid : Nat) : LiveAmong tid (s.waves.filter fun w => w.tid == tid) s := by
  intro ix x hx
  obtain ⟨htid, hix⟩ : x.tid = tid ∧ x.ix = ix := by simpa using List.find?_some hx
  exact .inr ⟨x, List.mem_filter.2 ⟨List.mem_of_find?_eq_some hx, beq_iff_eq.2 htid⟩, hix⟩

theorem liveAmong_updWave {tid t i : Nat} {l : List Wave} {s : State} {g : Wave → Wave} (hkey : ∀ w, (g w).tid = w.tid ∧ (g w).ix = w.ix)
    (hstatus : ∀ w, (g w).status = w.status) (h : LiveAmong tid l s) : LiveAmong tid l (updWave s t i g) := by
  intro ix x hx
  by_cases hne : (tid, ix) = (t, i)
  · obtain ⟨rfl, rfl⟩ := Prod.mk.inj hne
    rw [findWave_updWave s _ _ g hkey, Option.map_eq_some_iff] at hx
    obtain ⟨y, hy, rfl⟩ := hx
    exact (hstatus y).symm ▸ h ix y hy
  · rw [findWave_updWave_ne s t i tid ix g hkey hne] at hx
    exact h ix x hx

theorem liveAmong_discardTask {tid : Nat} {l : List Wave} {s : State} (w : Wave) (h : LiveAmong tid l s) : LiveAmong tid l (discardTask s w) := by
  obtain ⟨g, hg, hwaves⟩ := discardTask_waves s w
  exact (liveAmong_updWave hg.key hg.status h).of_waves hwaves

/-- A wave that ends leaves the list. -/
theorem liveAmong_endWave {tid : Nat} {w : Wave} {l : List Wave} {s : State} (ht : (findTeam s tid).isSome = true) (h : LiveAmong tid (w :: l) s) :
    LiveAmong tid l (endWave s tid w.ix) := by
  obtain ⟨t, ht⟩ := Option.isSome_iff_exists.1 ht
  have hothers : ∀ ix x, findWave s tid ix = some x → ix ≠ w.ix → x.status = .ended ∨ ∃ v ∈ l, v.ix = ix := by
    intro ix x hx hne
    refine (h ix x hx).imp_right fun ⟨v, hv, hix⟩ => ⟨v, (List.mem_cons.1 hv).resolve_left ?_, hix⟩
    rintro rfl
    exact hne hix.symm
  intro ix x hx
  cases hw : findWave s tid w.ix with
  | none =>
    rw [endWave, hw] at hx
    refine hothers ix x hx fun hix => ?_
    rw [hix, hw] at hx
    cases hx
  | some y =>
    by_cases hlive : y.status = .ended
    · simp only [endWave, hw, ht, hlive, if_true] at hx
      by_cases hix : ix = w.ix
      · rw [hix, hw] at hx
        cases hx
        exact .inl hlive
      · exact hothers ix x hx hix
    · by_cases hix : ix = w.ix
      · rw [hix, findWave_endWave hw ht hlive] at hx
        cases hx
        exact .inl rfl
      · rw [findWave, (endWave_waves_teams hw ht hlive).1, ← findWave, findWave_updWave_ne s tid w.ix tid ix Wave.over (fun _ => ⟨rfl, rfl⟩)
          fun hc => hix (congrArg Prod.snd hc)] at hx
        exact hothers ix x hx hix

/-! ## The team stays while its waves end -/

theorem findTeam_isSome_updTeam (s : State) (k tid : Nat) {g : Team → Team} (hg : ∀ t, (g t).tid = t.tid) :
    (findTeam (updTeam s k g) tid).isSome = (findTeam s tid).isSome := by
  unfold findTeam updTeam
  rw [find_map_key (g := fun t => if t.tid == k then g t else t), Option.isSome_map]
  intro t
  split
  · rw [hg]
  · rfl

theorem findTeam_isSome_discardTask (s : State) (w : Wave) (tid : Nat) : (findTeam (discardTask s w) tid).isSome = (findTeam s tid).isSome := by
  unfold discardTask
  split
  · rfl
  · split
    · rfl
    · exact findTeam_isSome_updTeam s w.tid tid fun _ => rfl

theorem findTeam_isSome_endWave {s : State} {tid : Nat} (ix : Nat) (ht : (findTeam s tid).isSome = true) :
    (findTeam (endWave s tid ix) tid).isSome = true := by
  obtain ⟨t, ht⟩ := Option.isSome_iff_exists.1 ht
  cases hw : findWave s tid ix with
  | none => simp only [endWave, hw, ht, Option.isSome_some]
  | some w =>
    by_cases hlive : w.status = .ended
    · simp only [endWave, hw, ht, hlive, if_true, Option.isSome_some]
    · rw [findTeam_endWave hw ht hlive]
      rfl

/-- Tasks that are discarded one after another keep the team, and which of its waves may live. -/
theorem liveAmong_foldl_discardTask {tid : Nat} {l : List Wave} (ws : List Wave) {s : State} (ht : (findTeam s tid).isSome = true)
    (h : LiveAmong tid l s) : (findTeam (ws.foldl (fun s w => discardTask s w) s) tid).isSome = true
      ∧ LiveAmong tid l (ws.foldl (fun s w => discardTask s w) s) :=
  List.foldlRecOn (motive := fun u => (findTeam u tid).isSome = true ∧ LiveAmong tid l u) ws _ ⟨ht, h⟩ fun u hu w _ =>
    ⟨(findTeam_isSome_discardTask u w tid).trans hu.1, liveAmong_discardTask w hu.2⟩

/-- Waves that end one after another all leave the list. -/
theorem liveAmong_foldl_endWave {tid : Nat} {l : List Wave} (hl : ∀ w ∈ l, w.tid = tid) {s : State} (ht : (findTeam s tid).isSome = true)
    (h : LiveAmong tid l s) : LiveAmong tid [] (l.foldl (fun s w => endWave s w.tid w.ix) s) := by
  induction l generalizing s with
  | nil => exact h
  | cons w l ih =>
    have hw : w.tid = tid := hl w List.mem_cons_self
    rw [List.foldl_cons, hw]
    exact ih (fun v hv => hl v (List.mem_cons_of_mem w hv)) (findTeam_isSome_endWave w.ix ht) (liveAmong_endWave ht h)

/-- The end of a team leaves each of its waves ended. -/
theorem liveAmong_endTeam {s : State} {tid : Nat} {t : Team} {sw : Sweep} (ht : findTeam s tid = some t) (hsw : sweepOf s t = some sw)
    (type code sub wave : Nat) (xpc xaddr : Word) (frame : Option Frame) :
    LiveAmong tid [] (endTeam s tid type code sub wave xpc xaddr frame) := by
  simp only [endTeam, ht, hsw]
  refine LiveAmong.of_waves ?_ ((postErrors_waves ..).trans (checkTeamEnd_waves ..))
  have hfound : (findTeam (updTeam s tid fun t => { t with lost := none }) tid).isSome = true :=
    (findTeam_isSome_updTeam s tid tid (g := fun t => { t with lost := none }) fun _ => rfl).trans (ht ▸ rfl)
  obtain ⟨hteam, hlive⟩ := liveAmong_foldl_discardTask (s.waves.filter fun w => w.tid == tid) hfound (liveAmong_waves s tid)
  exact liveAmong_foldl_endWave (fun w hw => beq_iff_eq.1 (List.mem_filter.1 hw).2) hteam hlive

/-! ## Delivery with no handler (R173) -/

/-- A fault that no handler can take, other than BREAKPOINT and BOUND, ends the team. -/
theorem deliver_of_unhandled {s : State} {a : AgentRef} {fi : FaultInfo} {w : Wave} {t : Team} {sw : Sweep} (hmain : a.lane = none)
    (hw : findWave s a.tid a.wave = some w) (ht : findTeam s a.tid = some t) (hsw : sweepOf s t = some sw) (hbreak : fi.code ≠ .breakpoint)
    (hbound : fi.code ≠ .bound) (hnone : w.trapMask = true ∨ w.tba = 0) (ti : TrapInfo) :
    deliver s a fi ti = endTeam s a.tid 1 fi.code.num fi.sub a.wave (BitVec.ofNat 64 ti.xpc) fi.addr (recordFrame w ti) := by
  have hnone' : (w.trapMask || decide (w.tba = 0)) = true := by simpa using hnone
  simp only [deliver, hmain, hw, ht, hsw, hbreak, hbound, if_false, decide_false, Bool.false_and, hnone', if_true]
  cases w.task <;> rfl

/-- Settles O34: the fault comes to the end of the team, and that to the end of each of its waves. -/
theorem unhandledFaultEndsTheTeam : Obligations.UnhandledFaultEndsTheTeam := by
  intro s a fi ti w t sw hmain hw ht hsw hbreak hbound hnone ix x hx
  rw [deliver_of_unhandled hmain hw ht hsw hbreak hbound hnone] at hx
  exact (liveAmong_endTeam ht hsw _ _ _ _ _ _ _ ix x hx).resolve_right fun ⟨_, hv, _⟩ => List.not_mem_nil hv

end Sys2Proof.Machine
end

section
/-!
PROOF. Pre-emption (R183 to R185): the guard of a request, of its deadline and of a handler's allowance, and what each does once it holds.
-/

namespace Sys2Proof.Machine

section Preempt
variable {s : State} {tid ix : Nat} {w : Wave} {t : Team} {sw : Sweep}

theorem execPreemptRequest_of_placed (ht : findTeam s tid = some t) (hsw : sweepOf s t = some sw) (hplaced : t.status = .placed)
    (hnone : t.preempt = none) (hupdate : s.update = none) (abort : Bool) :
    execPreemptRequest tid abort s = .next { updTeam s tid (fun t => { t with preempt := some ⟨abort, s.now⟩ }) with
      waves := s.waves.map fun w =>
        if w.tid == tid && w.status ≠ .ended then { w with preq := true, deadline := some sw.pdl, allowance := 8192 } else w } := by
  simp only [execPreemptRequest, ht, hsw, hplaced, hnone, hupdate, ne_eq, not_true_eq_false, decide_false, Option.isSome_none, Bool.or_false,
    Bool.false_eq_true, if_false, updTeam_waves]

/-- A wave that issues is short of a yield point, where it can be stopped (R184). -/
theorem mayForce_of_running (hrun : w.status = .running) : mayForce w = true := by simp [mayForce, atYield, hrun]

/-- A wave out of its time is stopped, unless its handler's mask suspends the deadline. -/
theorem execPreemptDeadline_stops (hw : findWave s tid ix = some w) (hpreq : w.preq = true) (hrun : w.status = .running)
    (hfree : inHandler w = false) (hdeadline : w.deadline = some 0) : execPreemptDeadline tid ix s = .next (stopWave s tid ix) := by
  simp only [execPreemptDeadline, hw, hpreq, hfree, hdeadline, mayForce_of_running hrun, Bool.not_false, decide_true, Bool.and_self, if_true]

theorem execPreemptDeadline_inHandler (hw : findWave s tid ix = some w) (hhandler : inHandler w = true) :
    execPreemptDeadline tid ix s = .fault .notEnabled := by
  simp only [execPreemptDeadline, hw, hhandler, Bool.not_true, Bool.and_false, Bool.false_and, Bool.false_eq_true, if_false]

/-- A wave whose allowance is used up is stopped inside its handler. -/
theorem execHandlerAllowance_stops (hw : findWave s tid ix = some w) (hpreq : w.preq = true) (hrun : w.status = .running)
    (hhandler : inHandler w = true) (hused : w.allowance = 0) : execHandlerAllowance tid ix s = .next (stopWave s tid ix) := by
  simp only [execHandlerAllowance, hw, hpreq, hhandler, hused, mayForce_of_running hrun, decide_true, Bool.and_self, if_true]

end Preempt

/-- Settles O50: the request and the two stops, each by its event's guard. -/
theorem preemptionStopsWaves : Obligations.PreemptionStopsWaves := by
  intro s tid t sw abort ht hsw
  refine ⟨fun hplaced hnone hupdate => ?request, fun ix w hw hpreq hrun =>
    ⟨execPreemptDeadline_stops hw hpreq hrun, execHandlerAllowance_stops hw hpreq hrun, execPreemptDeadline_inHandler hw⟩⟩
  case request =>
    have hasked : ∀ w : Wave, (w.tid == tid && w.status ≠ .ended) = true ↔ w.tid = tid ∧ w.status ≠ .ended := fun w => by simp
    refine (execPreemptRequest_of_placed ht hsw hplaced hnone hupdate abort).trans ?_
    simp only [hasked]

end Sys2Proof.Machine
end

section
/-!
PROOF. Answers to translation faults and wakes (R179, R180, R403): the guard of each event, and what it does once it holds.
-/

namespace Sys2Proof.Machine

section Answers
variable {s : State} {cid : Nat} {c : Context} {r : FaultRecord}

theorem execSecondStageResolution_of_open {g : Nat} (hc : ctxOf s cid = some c)
    (hr : (c.faults.find? fun r => r.second && r.granule == g && r.answer.isNone) = some r) (resolved : Bool) :
    execSecondStageResolution cid g resolved s = .next (finishAnswers (answerRecord s c r resolved)) := by
  simp only [execSecondStageResolution, hc, Option.bind_some, hr, Option.map_some]

/-- A slot whose REPLY is 3 is free for a first-stage record that waits. -/
theorem execFaultRingSlotFree_of_free {a : Nat} (hc : ctxOf s cid = some c) (hslot : faultSlot s c c.nextSeq = some a)
    (hfree : homeNat s (a + 40) 8 = 3) (hwaits : ∃ r ∈ c.faults, r.second = false ∧ r.seq = none) :
    execFaultRingSlotFree cid s = .next (writeRecords s cid) := by
  have hwaits' : (c.faults.any fun r => !r.second && r.seq.isNone) = true := by simpa using hwaits
  simp only [execFaultRingSlotFree, hc, hslot, hfree, hwaits', beq_self_eq_true, Bool.and_self, if_true]

theorem execFaultReply_of_reply {seq a : Nat} (hc : ctxOf s cid = some c)
    (hr : (c.faults.find? fun r => r.seq = some seq && r.answer.isNone) = some r) (hslot : faultSlot s c seq = some a)
    (hreply : memNat s.mem (a + 40) 8 ≠ 0) (hwritten : r.written ≤ s.now) :
    execFaultReply cid seq s = .next (finishAnswers (answerRecord s c r (decide (memNat s.mem (a + 40) 8 = 1)))) := by
  simp only [execFaultReply, hc, Option.bind_some, hr, hslot, Option.map_some, hreply, Nat.not_lt.2 hwritten, decide_false, Bool.or_self,
    Bool.false_eq_true, if_false]

/-- An answered record that every waiter has taken leaves, and its slot is freed. -/
theorem finishRecord_of_taken {ok : Bool} {a : Nat} (hc : ctxOf s cid = some c) (hr : r.answer = some ok)
    (htaken : ∀ w ∈ r.waiters, owesAnswer s r ok w.1 = false) (hslot : r.seq.bind (faultSlot s c) = some a) :
    finishRecord cid s r = writeRecords
      (storeAfter (updCtx s cid fun c => { c with faults := c.faults.filter fun x => x ≠ r }) (a + 40) (leBytes 8 3) s.now).1 cid := by
  have htaken' : (r.waiters.any fun w => owesAnswer s r ok w.1) = false := List.any_eq_false.2 fun w hw => by simp [htaken w hw]
  simp only [finishRecord, hr, hc, htaken', hslot, Bool.false_eq_true, if_false]

theorem finishRecord_of_owed {ok : Bool} {w : Waiter × Nat} (hc : ctxOf s cid = some c) (hr : r.answer = some ok) (hw : w ∈ r.waiters)
    (howes : owesAnswer s r ok w.1 = true) : finishRecord cid s r = s := by
  have howed : (r.waiters.any fun w => owesAnswer s r ok w.1) = true := List.any_eq_true.2 ⟨w, hw, howes⟩
  simp only [finishRecord, hr, hc, howed, if_true]

end Answers

section Wakes
variable {s : State} {ref : QRef} {q : Queue}

theorem execWakeWrite_of_unmapped (hq : findQueue s ref = some q) (hoff : q.mapped = false ∨ s.update.isSome = true) :
    execWakeWrite ref s = .next (updQueue s ref fun q => { q with missed := true }) := by
  have hoff' : (!q.mapped || s.update.isSome) = true := by simpa using hoff
  simp only [execWakeWrite, hq, hoff', if_true]

/-- A wake of a mapped queue is served; one that nobody of the Y3 made has the host's requester number. -/
theorem execWakeWrite_of_mapped (hq : findQueue s ref = some q) (hmapped : q.mapped = true) (hupdate : s.update = none)
    (hrun : queuesRun s = true) (hfree : isWaiting s (.queue q.q) = false) :
    execWakeWrite ref s =
      let q1 := if q.woken then q else { q with waker := 0x800, woken := true }
      .next (serveWake (updQueue s ref fun _ => q1) q1) := by
  simp only [execWakeWrite, hq, hmapped, hupdate, hrun, hfree, Bool.not_true, Option.isSome_none, Bool.or_self, Bool.false_eq_true, if_false]

end Wakes

/-- Settles O57: each event by its guard, and the two ends of an answered record. -/
theorem answersAndWakesAreServed : Obligations.AnswersAndWakesAreServed := by
  intro s cid c hc
  refine ⟨fun g res r hr => execSecondStageResolution_of_open hc hr res, fun a hslot hfree hwaits => execFaultRingSlotFree_of_free hc hslot hfree hwaits,
    fun seq r a hr hslot hreply hwritten => execFaultReply_of_reply hc hr hslot hreply hwritten,
    fun r ok a hr htaken hslot => finishRecord_of_taken hc hr htaken hslot, fun r ok w hr hw howes => finishRecord_of_owed hc hr hw howes,
    fun ref q hq hoff => execWakeWrite_of_unmapped hq hoff, fun ref q hq hmapped hupdate hrun hfree hwoken => ?woken,
    fun ref q hq hmapped hupdate hrun hfree hwoken => ?host⟩
  case woken =>
    refine (execWakeWrite_of_mapped hq hmapped hupdate hrun hfree).trans ?_
    rw [if_pos hwoken]
  case host =>
    refine (execWakeWrite_of_mapped hq hmapped hupdate hrun hfree).trans ?_
    simp only [hwoken, Bool.false_eq_true, if_false]

end Sys2Proof.Machine
end

section
/-!
PROOF. The save of a team (R184, R187, R188): what a save does to waves, operations, triads and teams is none of the translations' matter, so that the
arena is written as if the save had done nothing before; and which bytes that write may change.
-/

namespace Sys2Proof.Machine

/-! ## The part of the machine that a save works on -/

/-- The state `t` with the records that a save works on as they are in `u`. -/
def withSaved (u t : State) : State :=
  { t with waves := u.waves, teams := u.teams, ops := u.ops, holds := u.holds, refresh := u.refresh }

/-- From `s` to `t` only what a save works on has changed. -/
structure SaveFrame (s t : State) : Prop where
  rest : withSaved s t = s

namespace SaveFrame
variable {s t u : State}

theorem refl (s : State) : SaveFrame s s := ⟨rfl⟩

theorem trans (h : SaveFrame s t) (h' : SaveFrame t u) : SaveFrame s u := ⟨(congrArg (withSaved s) h'.rest).trans h.rest⟩

theorem foldl {β : Type} {f : State → β → State} (hf : ∀ s b, SaveFrame s (f s b)) (l : List β) (s : State) : SaveFrame s (l.foldl f s) :=
  List.foldlRecOn (motive := SaveFrame s) l f (refl s) fun t ht b _ => ht.trans (hf t b)

theorem ite {c : Prop} [Decidable c] (ht : SaveFrame s t) (hu : SaveFrame s u) : SaveFrame s (if c then t else u) := by
  split
  · exact ht
  · exact hu

/-- The later state is the earlier one with the records of the later. -/
theorem eq_withSaved (h : SaveFrame s t) : t = withSaved t s := (congrArg (withSaved t) h.rest :)

end SaveFrame

theorem saveFrame_updWave (s : State) (tid ix : Nat) (g : Wave → Wave) : SaveFrame s (updWave s tid ix g) := ⟨rfl⟩
theorem saveFrame_updTeam (s : State) (tid : Nat) (g : Team → Team) : SaveFrame s (updTeam s tid g) := ⟨rfl⟩
theorem saveFrame_ops (s : State) (l : List Op) : SaveFrame s { s with ops := l } := ⟨rfl⟩

theorem saveFrame_discardTask (s : State) (w : Wave) : SaveFrame s (discardTask s w) := by
  unfold discardTask
  split
  · exact .refl s
  · split
    · exact .refl s
    · exact (saveFrame_ops ..).trans <| (saveFrame_updTeam ..).trans (saveFrame_updWave ..)

theorem saveFrame_saveWave (code : Nat) (s : State) (w : Wave) : SaveFrame s (saveWave code s w) :=
  SaveFrame.trans (.ite (saveFrame_discardTask s w) (.refl s)) (saveFrame_updWave ..)

theorem saveFrame_returnSlot (s : State) (cid : Nat) (e : TriadEntry) (tid : Nat) : SaveFrame s (returnSlot s cid e tid) := by
  unfold returnSlot
  split
  · exact .refl s
  · split
    · exact .refl s
    · exact ⟨rfl⟩

theorem saveFrame_closeForSave (s : State) (t : Team) : SaveFrame s (closeForSave s t) :=
   SaveFrame.trans (.foldl (fun s _ => .ite (saveFrame_returnSlot ..) (.refl s)) t.triads s) (saveFrame_updTeam ..)

/-! ## The arena's write is none of the save's records' matter -/

section Arena
variable (u s : State) (c : Context)

theorem walkFrom_withSaved (second : Bool) (via : Nat → Walk) (lvl tab slot g : Nat) :
    walkFrom (withSaved u s) second via lvl tab slot g = walkFrom s second via lvl tab slot g := by
  induction lvl generalizing tab slot with
  | zero =>
    unfold walkFrom
    rfl
  | succ lvl ih =>
    unfold walkFrom
    simp only [ih]
    rfl

theorem secondStage_withSaved (g : Nat) : secondStage (withSaved u s) c g = secondStage s c g := by
  simp only [secondStage, walkFrom_withSaved]

theorem translateWalk_withSaved (g : Nat) : translateWalk (withSaved u s) c g = translateWalk s c g := by
  have hsecond : secondStage (withSaved u s) c = secondStage s c := funext (secondStage_withSaved u s c)
  simp only [translateWalk, walkFrom_withSaved, hsecond]

theorem plainAccess_withSaved (va : Int) (n : Nat) (k : AccKind) : plainAccess (withSaved u s) c va n k = plainAccess s c va n k := by
  simp only [plainAccess, reach, translate, translateWalk_withSaved]
  rfl

theorem noteTlb_withSaved (g : Nat) : noteTlb (withSaved u s) c g = withSaved u (noteTlb s c g) := by
  simp only [noteTlb, translateWalk_withSaved]
  split <;> rfl

theorem noteAlias_withSaved (pte pgn vgn : Nat) : noteAlias (withSaved u s) c pte pgn vgn = withSaved u (noteAlias s c pte pgn vgn) := by
  simp only [noteAlias, noteTlb_withSaved, apply_ite (withSaved u)]
  rfl

theorem writeOpen_withSaved (p : Nat × Nat) : writeOpen c (withSaved u s) p = withSaved u (writeOpen c s p) := by
  simp only [writeOpen, plainAccess_withSaved, noteAlias_withSaved]
  split <;> rfl

theorem writeArena_withSaved (a n : Nat) : writeArena (withSaved u s) c a n = withSaved u (writeArena s c a n) :=
  List.foldl_hom (withSaved u) fun s p => writeOpen_withSaved u s c p

end Arena

/-! ## Which bytes the arena's write changes (R187, log entry 34) -/

/-- A piece of the arena that is written changes bytes of its own place alone. -/
theorem byteAt_writeOpen {s : State} (hcanon : s.canonical = true) (c : Context) (p : Nat × Nat) (x : Nat) :
    byteAt (writeOpen c s p).mem x = byteAt s.mem x
      ∨ ∃ pa pte, plainAccess s c p.1 1 .store = .ok pa pte ∧ pa ≤ x ∧ x < pa + p.2 := by
  unfold writeOpen
  split
  next pa pte hok =>
    have hmem : (noteAlias s c pte (pa / 49152) (p.1 / 49152)).mem = s.mem := (linesFrame_noteAlias ..).mem_eq
    by_cases hin : pa ≤ x ∧ x < pa + p.2
    · exact .inr ⟨pa, pte, hok, hin⟩
    · left
      simp only [writeNow, hmem]
      exact byteAt_putBytes_of_not (State.canonical_iff.1 hcanon).1 (by simpa [upto] using hin)
  · exact .inl rfl

/-- Pieces that are written one after another change bytes of their own places alone, each where it lies when its turn comes. -/
theorem byteAt_foldl_writeOpen (c : Context) (pieces : List (Nat × Nat)) {s : State} (hcanon : s.canonical = true) (x : Nat) :
    byteAt (pieces.foldl (writeOpen c) s).mem x = byteAt s.mem x ∨ ∃ k p pa pte, pieces[k]? = some p
      ∧ plainAccess ((pieces.take k).foldl (writeOpen c) s) c p.1 1 .store = .ok pa pte ∧ pa ≤ x ∧ x < pa + p.2 := by
  induction pieces generalizing s with
  | nil => exact .inl rfl
  | cons p pieces ih =>
    rcases ih (canonical_writeOpen (p := p) hcanon) with hlater | ⟨k, q, pa, pte, hq, hok, hin⟩
    · rcases byteAt_writeOpen hcanon c p x with hfirst | ⟨pa, pte, hok, hin⟩
      · exact .inl (hlater.trans hfirst)
      · exact .inr ⟨0, p, pa, pte, rfl, hok, hin⟩
    · exact .inr ⟨k + 1, q, pa, pte, hq, hok, hin⟩

/-! ## The save -/

section Save
variable {s : State} {tid : Nat} {t : Team} {sw : Sweep} {c : Context}

theorem execTeamSave_of_placed {k a : Nat} (ht : findTeam s tid = some t) (hsw : sweepOf s t = some sw) (hc : teamCtx s t = some c)
    (hasked : t.preempt = some ⟨false, k⟩) (hmay : maySave s t = true) (hclean : allocationPoisoned s t = false)
    (hfree : isWaiting s (.save tid) = false) (hplace : arenaPlace s c t = some a) (hgood : arenaBad s c a (saveBytes s t) .store = none) :
    execTeamSave tid s = .next (saveTeam s t sw c a) := by
  simp only [execTeamSave, ht, hasked, hsw, hc, hmay, hclean, hfree, hplace, hgood, Bool.not_true, Bool.or_self, Bool.false_eq_true, if_false]

/-- The state in which a save writes the arena. -/
def beforeArena (s : State) (t : Team) (sw : Sweep) : State :=
  let s1 := (s.waves.filter fun w => w.tid == t.tid && decide (w.status ≠ .ended)).foldl (saveWave sw.code) s
  closeForSave { s1 with ops := s1.ops.map (withdrawRing t.tid) } t

theorem saveFrame_beforeArena (s : State) (t : Team) (sw : Sweep) : SaveFrame s (beforeArena s t sw) :=
  (SaveFrame.foldl (saveFrame_saveWave sw.code) _ s).trans <| (saveFrame_ops ..).trans (saveFrame_closeForSave ..)

/-- The arena is written over the records that the save has made of waves, operations and teams. -/
theorem writeArena_beforeArena (s : State) (t : Team) (sw : Sweep) (c : Context) (a n : Nat) :
    writeArena (beforeArena s t sw) c a n = withSaved (beforeArena s t sw) (writeArena s c a n) := by
  rw [← writeArena_withSaved, ← (saveFrame_beforeArena s t sw).eq_withSaved]

theorem saveTeam_mem (s : State) (t : Team) (sw : Sweep) (c : Context) (a : Nat) :
    (saveTeam s t sw c a).mem = (writeArena s c a (saveBytes s t)).mem :=
  (congrArg State.mem (writeArena_beforeArena s t sw c a (saveBytes s t)) :)

/-- The team as its save into the arena at `a` leaves it. -/
def Team.stored (u : Team) (bytes : Sparse Byte) (a : Nat) : Team :=
  { u with status := .saved, saved := bytes, saveAt := some a, preempt := none, rounds := u.rounds.filter fun r => !r.inTask }

theorem saveTeam_eq (s : State) (t : Team) (sw : Sweep) (c : Context) (a : Nat) : saveTeam s t sw c a =
    updTeam (writeArena (beforeArena s t sw) c a (saveBytes s t)) t.tid fun u => u.stored (takeBytes s t) a := rfl

/-- The team as the close of its held triads leaves it (R213). -/
def Team.closed (u : Team) : Team :=
  { u with triads := u.triads.map fun e => { e with slot := none, lost := e.lost || (e.used && e.slot.isSome) } }

/-- A team that is closed for its save holds no slot. -/
theorem findTeam_closeForSave {t' : Team} (h : findTeam (closeForSave s t) t.tid = some t') : ∀ e ∈ t'.triads, e.slot = none := by
  obtain ⟨y, -, rfl⟩ := Option.map_eq_some_iff.1 ((findTeam_updTeam _ t.tid Team.closed fun _ => rfl).symm.trans h)
  intro e he
  obtain ⟨e', -, rfl⟩ := List.mem_map.1 he
  rfl

/-- A team of the number of the one that is saved, after the save. -/
theorem findTeam_saveTeam {t' : Team} {a : Nat} (h : findTeam (saveTeam s t sw c a) t.tid = some t') :
    t'.status = .saved ∧ t'.saved = takeBytes s t ∧ t'.saveAt = some a ∧ t'.preempt = none ∧ ∀ e ∈ t'.triads, e.slot = none := by
  rw [saveTeam_eq, writeArena_beforeArena, findTeam_updTeam _ t.tid (fun u => u.stored (takeBytes s t) a) fun _ => rfl,
    Option.map_eq_some_iff] at h
  obtain ⟨y, hy, rfl⟩ := h
  exact ⟨rfl, rfl, rfl, rfl, findTeam_closeForSave (t' := y) hy⟩

end Save

end Sys2Proof.Machine
end

section
/-!
PROOF. The restore of a team, PREEMPT_ABORT and QUANTUM_COMMIT (R187 to R190, R90, R92, R317).
-/

namespace Sys2Proof.Machine

/-! ## What a restore leaves of memory and teams -/

theorem teams_eq_of_agentsFrame {s t : State} (h : AgentsFrame s t) : t.teams = s.teams := (congrArg State.teams h.rest :)

theorem agentsFrame_foldl {β : Type} {f : State → β → State} (hf : ∀ s b, AgentsFrame s (f s b)) (l : List β) (s : State) :
    AgentsFrame s (l.foldl f s) :=
  List.foldlRecOn (motive := AgentsFrame s) l f (agentsFrame_refl s) fun t ht b _ => ht.trans (hf t b)

theorem agentsFrame_rephase (s : State) (id : Nat) : AgentsFrame s (rephase s id) := (agentsFrame_updOp ..).trans (agentsFrame_lower _)

theorem agentsFrame_awaitRow (s : State) (tid wave : Nat) : AgentsFrame s (awaitRow s tid wave) := by
  unfold awaitRow
  split
  · exact agentsFrame_updWave ..
  · exact agentsFrame_refl s

theorem agentsFrame_awaitJar (s : State) (tid wave : Nat) : AgentsFrame s (awaitJar s tid wave) := by
  unfold awaitJar
  split
  · exact agentsFrame_refl s
  · split
    · exact agentsFrame_refl s
    · exact agentsFrame_updWave ..

theorem agentsFrame_makeReady (s : State) (tid ix : Nat) : AgentsFrame s (makeReady s tid ix) := agentsFrame_updWave ..

theorem agentsFrame_resumeParked (s : State) (tid wave : Nat) : AgentsFrame s (resumeParked s tid wave) := by
  have hagain : ∀ (l : List Op) (u : State), AgentsFrame u (l.foldl (fun s o => rephase s o.id) u) := fun l u =>
    agentsFrame_foldl (fun s (o : Op) => agentsFrame_rephase s o.id) l u
  unfold resumeParked
  split
  · exact agentsFrame_refl s
  · refine .ite (agentsFrame_refl s) (.ite (hagain _ s) ?_)
    refine ((hagain _ s).trans (hagain _ _)).trans (.ite ?_ (agentsFrame_refl _))
    exact (agentsFrame_makeReady ..).trans (agentsFrame_awaitRow ..)

/-- A wave of a restored team goes on, or parks again, by its own and its operations' records. -/
theorem agentsFrame_resumeSaved (s : State) (w : Wave) : AgentsFrame s (resumeSaved s w) := by
  refine .ite (agentsFrame_refl s) ((agentsFrame_updWave ..).trans (.ite (agentsFrame_refl _) ?_))
  refine (agentsFrame_resumeParked _ w.tid w.ix).trans ?_
  dsimp only
  split
  · exact AgentsFrame.trans (.ite (agentsFrame_makeReady ..) (agentsFrame_refl _)) (agentsFrame_awaitJar ..)
  · exact agentsFrame_refl _

theorem clearTriad_mem_teams (s : State) (pa : Nat) : (clearTriad s pa).mem = s.mem ∧ (clearTriad s pa).teams = s.teams :=
  have h := linesFrame_evictHome s fun y => inTriad pa y.pline
  ⟨h.mem_eq, (congrArg State.teams h.rest :)⟩

theorem takeSlot_mem_teams {s s1 : State} {cid triad pa n : Nat} {isOpen : Bool} (h : takeSlot s cid triad pa isOpen = some (n, s1)) :
    s1.mem = s.mem ∧ s1.teams = s.teams := by
  unfold takeSlot at h
  dsimp only at h
  split at h
  · cases h
  · split at h
    · cases h
      exact ⟨rfl, rfl⟩
    · split at h
      · cases h
      · cases h
        exact clearTriad_mem_teams s pa

theorem openRows_mem_teams (s : State) (socket tr : Nat) : (openRows s socket tr).mem = s.mem ∧ (openRows s socket tr).teams = s.teams :=
  List.foldlRecOn (motive := fun t : State => t.mem = s.mem ∧ t.teams = s.teams) (triadChannels tr) _ ⟨rfl, rfl⟩ fun _ ht _ _ => ht

theorem reopenEntry_mem_teams (c : Context) (acc : State × List TriadEntry) (e : TriadEntry) :
    (reopenEntry c acc e).1.mem = acc.1.mem ∧ (reopenEntry c acc e).1.teams = acc.1.teams := by
  unfold reopenEntry
  split
  · exact ⟨rfl, rfl⟩
  · dsimp only
    split
    · split
      next n s1 hplace htaken =>
        have hslot := takeSlot_mem_teams htaken
        dsimp only
        split
        · exact hslot
        · exact ⟨(openRows_mem_teams ..).1.trans hslot.1, (openRows_mem_teams ..).2.trans hslot.2⟩
      · exact ⟨rfl, rfl⟩
    · exact ⟨rfl, rfl⟩

/-- A team's triads are reopened by its own record among teams, and leave memory as it is. -/
theorem reopenTriads_mem_teams {s : State} {c : Context} {tid : Nat} {t : Team} (ht : findTeam s tid = some t) :
    (reopenTriads s c tid).mem = s.mem ∧ ∃ l, findTeam (reopenTriads s c tid) tid = some { t with triads := l } := by
  have hentries : ((t.triads.foldl (reopenEntry c) (s, [])).1).mem = s.mem ∧ ((t.triads.foldl (reopenEntry c) (s, [])).1).teams = s.teams :=
    List.foldlRecOn (motive := fun acc : State × List TriadEntry => acc.1.mem = s.mem ∧ acc.1.teams = s.teams) t.triads _ ⟨rfl, rfl⟩
      fun acc hacc e _ => ⟨(reopenEntry_mem_teams c acc e).1.trans hacc.1, (reopenEntry_mem_teams c acc e).2.trans hacc.2⟩
  simp only [reopenTriads, ht]
  have hkept : findTeam (t.triads.foldl (reopenEntry c) (s, [])).1 tid = some t := by rw [findTeam, hentries.2, ← findTeam, ht]
  exact ⟨hentries.1, _, (findTeam_updTeam _ tid (fun u => { u with triads := (t.triads.foldl (reopenEntry c) (s, [])).2 }) fun _ => rfl).trans
    (congrArg _ hkept)⟩

/-! ## The restore -/

/-- The team as it is placed again at a core, the `n`th to be placed. -/
def Team.restored (t : Team) (core p0 n : Nat) : Team :=
  { t with core := core, p0 := p0, status := .placed, saved := [], saveAt := none, placedAt := n, reopenAt := none }

/-- The state with the team's bytes back, and the team at its new place. -/
def placedAgain (s : State) (t : Team) (sw : Sweep) (tid core p0 : Nat) : State :=
  let s1 := reloadBytes s t t.die core p0 (footprint t.k sw.det)
  updTeam { s1 with ops := s1.ops.map (offerRing tid) } tid fun u => u.restored core p0 (nextPlace s)

/-- The state with the team's triads open again too, but where the sweep drops them. -/
def reopened (s : State) (t : Team) (sw : Sweep) (c : Context) (tid core p0 : Nat) : State :=
  noteReload (if sw.drop then placedAgain s t sw tid core p0 else reopenTriads (placedAgain s t sw tid core p0) c tid) t

section Restore
variable {s : State} {tid core p0 : Nat} {t : Team} {sw : Sweep} {c : Context}

theorem execTeamRestore_of_placed (ht : findTeam s tid = some t) (hsw : sweepOf s t = some sw) (hc : teamCtx s t = some c)
    (hsaved : t.status = .saved) (hplace : restorePlace s t = some (core, p0)) (hgood : savePoisoned s c t = false)
    (hgo : sw.drop = true ∨ (leasesOver s c t = true ∧ reopenWaits s c t = false)) :
    execTeamRestore tid s = .next (((reopened s t sw c tid core p0).waves.filter fun w => w.tid == tid).foldl resumeSaved
      (reopened s t sw c tid core p0)) := by
  have hopen : (!sw.drop && !leasesOver s c t) = false ∧ (!sw.drop && reopenWaits s c t) = false := by
    rcases hgo with hdrop | ⟨hover, hwaits⟩
    · simp [hdrop]
    · simp [hover, hwaits]
  simp only [execTeamRestore, ht, hsw, hc, hplace, hsaved, hgood, hopen, ne_eq, not_true_eq_false, decide_false, Bool.or_self, Bool.false_eq_true,
    if_false]
  rfl

/-- A restore waits for the banks of its triads from the first time that it finds one busy. -/
theorem execTeamRestore_of_busy (ht : findTeam s tid = some t) (hsw : sweepOf s t = some sw) (hc : teamCtx s t = some c)
    (hsaved : t.status = .saved) (hplace : restorePlace s t = some (core, p0)) (hgood : savePoisoned s c t = false) (hkeep : sw.drop = false)
    (hover : leasesOver s c t = true) (hwaits : reopenWaits s c t = true) :
    execTeamRestore tid s =
      if t.reopenAt.isSome then .fault .notEnabled else .next (updTeam s tid fun t => { t with reopenAt := some s.now }) := by
  simp only [execTeamRestore, ht, hsw, hc, hplace, hsaved, hgood, hkeep, hover, hwaits, ne_eq, not_true_eq_false, decide_false, Bool.not_true,
    Bool.not_false, Bool.and_false, Bool.and_self, Bool.or_self, Bool.false_eq_true, if_false, if_true]

theorem noteReload_mem_teams (s : State) (t : Team) : (noteReload s t).mem = s.mem ∧ (noteReload s t).teams = s.teams := by
  unfold noteReload
  split <;> exact ⟨rfl, rfl⟩

/-- A restore leaves memory, and its team at the new place. -/
theorem reopened_mem_team (ht : findTeam s tid = some t) : (reopened s t sw c tid core p0).mem = s.mem
    ∧ ∃ l, findTeam (reopened s t sw c tid core p0) tid = some { t.restored core p0 (nextPlace s) with triads := l } := by
  have hplaced : findTeam (placedAgain s t sw tid core p0) tid = some (t.restored core p0 (nextPlace s)) :=
    (findTeam_updTeam _ tid (fun u => u.restored core p0 (nextPlace s)) fun _ => rfl).trans (congrArg _ ht)
  obtain ⟨hmem, hteams⟩ := noteReload_mem_teams
    (if sw.drop then placedAgain s t sw tid core p0 else reopenTriads (placedAgain s t sw tid core p0) c tid) t
  unfold reopened
  rw [hmem, findTeam, hteams, ← findTeam]
  split
  · exact ⟨rfl, _, hplaced⟩
  · exact reopenTriads_mem_teams hplaced

/-- The waves that go on after a restore leave memory and the team's record. -/
theorem resumed_mem_team (ht : findTeam s tid = some t) (l : List Wave) :
    (l.foldl resumeSaved (reopened s t sw c tid core p0)).mem = s.mem
      ∧ ∃ tr, findTeam (l.foldl resumeSaved (reopened s t sw c tid core p0)) tid = some { t.restored core p0 (nextPlace s) with triads := tr } := by
  have hframe := agentsFrame_foldl agentsFrame_resumeSaved l (reopened s t sw c tid core p0)
  obtain ⟨hmem, tr, hteam⟩ := reopened_mem_team (sw := sw) (c := c) (core := core) (p0 := p0) ht
  refine ⟨hframe.mem_eq.trans hmem, tr, ?_⟩
  rw [findTeam, teams_eq_of_agentsFrame hframe, ← findTeam, hteam]

end Restore

/-! ## PREEMPT_ABORT (R190) -/

section Abort
variable {s : State} {tid k : Nat} {t : Team} {c : Context}

theorem execPreemptAbort_of_asked (ht : findTeam s tid = some t) (hc : teamCtx s t = some c) (hasked : t.preempt = some ⟨true, k⟩)
    (hplaced : t.status = .placed) (hstopped : allStopped s tid = true) :
    execPreemptAbort tid s = .next (endTeam s tid 8 0x70 0 0xFF 0 0 none) := by
  simp only [execPreemptAbort, ht, hasked, hc, hplaced, hstopped, decide_true, Bool.true_or, Bool.and_self, if_true]

/-- A save that cannot be written, or that would read poison in the team's allocation, is given up. -/
theorem execPreemptAbort_of_refused (ht : findTeam s tid = some t) (hc : teamCtx s t = some c) (hasked : t.preempt = some ⟨false, k⟩)
    (hplaced : t.status = .placed) (hstopped : allStopped s tid = true) (hmay : maySave s t = true)
    (hrefused : arenaRefuses s c t = true ∨ allocationPoisoned s t = true) :
    execPreemptAbort tid s = .next (endTeam s tid 8 0x70 0 0xFF 0 0 none) := by
  have hrefused' : (arenaRefuses s c t || allocationPoisoned s t) = true := by simpa using hrefused
  simp only [execPreemptAbort, ht, hasked, hc, hplaced, hstopped, hmay, hrefused', decide_true, Bool.or_true, Bool.and_self, if_true]

/-- A save that reads back poisoned ends the team where it would be placed again. -/
theorem execPreemptAbort_of_poisoned (ht : findTeam s tid = some t) (hc : teamCtx s t = some c) (hnone : t.preempt = none)
    (hsaved : t.status = .saved) (hplace : (restorePlace s t).isSome = true) (hbad : savePoisoned s c t = true) :
    execPreemptAbort tid s = .next (endTeam s tid 8 0x70 0 0xFF 0 0 none) := by
  simp only [execPreemptAbort, ht, hnone, hc, hsaved, hplace, hbad, decide_true, Bool.and_self, if_true]

end Abort

/-! ## QUANTUM_COMMIT (R90, R92, R317) -/

/-- What comes of a commit whose accesses and versions are applied: what waits for it runs first, and then the waves go on. -/
def afterCommit (s : State) (ref : SweepRef) : Host.Outcome State Fault Refusal :=
  match nextSieve s ref with
  | some v => .next (runSieve s v)
  | none => if commitRuns s ref then .next s
      else .next (closeQuantum (placeAtCommit ((commitTeams s ref).foldl passBoundary s) ref) ref)

/-- The commit of a quantum that is over. -/
theorem execQuantumCommit_of_ready {s : State} {ref : SweepRef} {w : Sweep} (hw : findSweep s ref = some w) (hdet : w.det = true)
    (hwork : sweepTeams s ref ≠ [] ∨ commitTeams s ref ≠ [] ∨ copiesWait s ref = true) (hready : quantumReady s ref = true)
    (hidle : commitRuns s ref = false) :
    execQuantumCommit ref s = afterCommit (armCopies (applyCommit s ref) ref (w.commits + 1)) ref := by
  have hwork' : ((sweepTeams s ref).isEmpty && (commitTeams s ref).isEmpty && !copiesWait s ref) = false := by
    simpa only [Bool.and_eq_false_iff, Bool.not_eq_false', List.isEmpty_eq_false_iff, or_assoc] using hwork
  simp only [execQuantumCommit, hw, hdet, hwork', hready, hidle, Bool.not_true, Bool.or_self, Bool.false_eq_true, if_false]
  rfl

/-- Settles O56: the save by its frame and the arena's write, the restore by its frame, the aborts and the commit by their guards. -/
theorem teamsAreSavedRestoredAndCommitted : Obligations.TeamsAreSavedRestoredAndCommitted := by
  intro s tid t sw c ht hsw hc
  refine ⟨fun k a hasked hmay hclean hfree hplace hgood => ?save, fun core p0 hsaved hplace hgood hgo => ?restore,
    fun core p0 hsaved hplace hgood hkeep hover hwaits => execTeamRestore_of_busy ht hsw hc hsaved hplace hgood hkeep hover hwaits,
    fun k hasked hplaced hstopped => execPreemptAbort_of_asked ht hc hasked hplaced hstopped,
    fun k hasked hplaced hstopped hmay hrefused => execPreemptAbort_of_refused ht hc hasked hplaced hstopped hmay hrefused,
    fun hnone hsaved hplace hbad => execPreemptAbort_of_poisoned ht hc hnone hsaved hplace hbad,
    fun ref w hw hdet hwork hready hidle => ?commit⟩
  case save =>
    refine ⟨_, execTeamSave_of_placed ht hsw hc hasked hmay hclean hfree hplace hgood, saveTeam_mem s t sw c a, fun hcanon x => ?_, fun t' ht' =>
      findTeam_saveTeam (findTeam_tid ht ▸ ht')⟩
    rw [saveTeam_mem]
    exact byteAt_foldl_writeOpen c _ hcanon x
  case restore =>
    obtain ⟨hmem, tr, hteam⟩ := resumed_mem_team (sw := sw) (c := c) (core := core) (p0 := p0) ht
      ((reopened s t sw c tid core p0).waves.filter fun w => w.tid == tid)
    refine ⟨_, execTeamRestore_of_placed ht hsw hc hsaved hplace hgood hgo, hmem, fun t' ht' => ?_⟩
    obtain rfl := Option.some.inj (hteam.symm.trans ht')
    exact ⟨rfl, rfl, rfl, rfl, rfl, rfl⟩
  case commit =>
    have hcommit := execQuantumCommit_of_ready hw hdet hwork hready hidle
    refine ⟨fun v hv => hcommit.trans ?_, fun hv hruns => hcommit.trans ?_, fun hv hruns => hcommit.trans ?_⟩
    · simp only [afterCommit, applyCommit, hv]
    · simp only [afterCommit, applyCommit, hv, hruns, if_true]
    · simp only [afterCommit, applyCommit, hv, hruns, Bool.false_eq_true, if_false]

end Sys2Proof.Machine
end

section
/-!
PROOF. The words on held row triads (R210, R235 to R238): each of ROWLD, ROWST and ROWREL checks its token first, ROWOPEN takes an entry and enters an
operation, and ROWREL frees an entry, whatever becomes of its hold slot.
-/

namespace Sys2Proof.Machine

/-! ## The check of a token (R210, R236) -/

section Tokens
variable {s : State} {i : Instr} {f : Fields} {e : Env}

theorem tokenErrors_of_isSome (h : (tokenEntry e.t (e.p.s e.f.a.toNat)).isSome = true) : tokenErrors e = [] := by
  rw [Option.isSome_iff_ne_none, ne_eq, ← Option.isNone_iff_eq_none, Bool.not_eq_true] at h
  simp only [tokenErrors, h, Bool.and_false, Bool.false_eq_true, if_false]

/-- The words that check a token take it from a scalar, as their form asks. -/
theorem token_operand (hi : i = .rowld f ∨ i = .rowst f ∨ i = .rowrel f) (h : wordAtTurn s i f e) : scalarAt f.asp f.a = true := by
  rcases hi with rfl | rfl | rfl <;> exact scalarAt_of_slotErrors (slotErrors_of_errors (h.errors_eq_nil nofun)).2

theorem tokenErrors_of_none (hi : i = .rowld f ∨ i = .rowst f ∨ i = .rowrel f) (h : wordAtTurn s i f e)
    (hnone : tokenEntry e.t (e.p.s f.a.toNat) = none) : tokenErrors e = [subField] := by
  obtain rfl : e.f = f := h.fields
  simp only [tokenErrors, token_operand hi h, hnone, Option.isNone_none, Bool.and_self, if_true]

/-- A token that fails its check is FIELD, whatever lanes are active. -/
theorem exec_rowWord_of_badToken (hi : i = .rowld f ∨ i = .rowst f ∨ i = .rowrel f) (h : wordAtTurn s i f e)
    (hnone : tokenEntry e.t (e.p.s f.a.toNat) = none) : exec i s = .next (deliver s e.who ⟨.illegalOp, subField, 0⟩ (preciseAt e.va)) := by
  have herrors := tokenErrors_of_none hi h hnone
  rcases hi with rfl | rfl | rfl
  · exact outcomeWith_refused (rfl : _ = rowIssue (.rowld f) f s) h herrors (by decide)
  · exact outcomeWith_refused (rfl : _ = rowIssue (.rowst f) f s) h herrors (by decide)
  · exact outcomeWith_refused (rfl : _ = execRowrel f s) h herrors (by decide)

/-- A row access under a valid token issues what it plans, where there is room for it. -/
theorem rowIssue_atTurn {k : OpKind} {xs : List Access} (h : wordAtTurn s i f e) (htok : (tokenEntry e.t (e.p.s f.a.toNat)).isSome = true)
    (hplan : memPlan s i e = some (k, xs)) (hroom : memRoom s e (some (counterName f)) k xs) :
    rowIssue i f s = .next (retired (memIssued s e (some (counterName f)) k xs) e) := by
  obtain rfl : e.f = f := h.fields
  refine outcomeWith_atTurn (v := .ok _) (rfl : _ = rowIssue i e.f s) h (tokenErrors_of_isSome htok) ?_
  simp only [hplan, issueMem_of_memRoom hroom]

end Tokens

/-! ## ROWOPEN (R235) -/

/-- The entry as ROWOPEN takes it for a triad: one in use already stays as it is. -/
def TriadEntry.takenFor (y : TriadEntry) (triad : Nat) : TriadEntry :=
  if y.used then y else { y with used := true, triad := triad, slot := none, socket := 0, lost := false, hold := false }

/-- The operation that a ROWOPEN for entry `k` enters. -/
def rowOpenOp (s : State) (e : Env) (k : Nat) : Op :=
  mkOp s e.who e.w (.rowOpen e.f.d.toNat e.p.pid k (e.f.bmod == 1)) (some (counterName e.f)) e.va (e.k.words.getD e.k.idx 0) (pathFlags e.p)
    [accOf 0 .g (addrOf e 0) 1 0 0] true .issued

/-- The state in which the entry is taken and the operation entered. -/
def rowOpenEntered (s : State) (e : Env) (k : Nat) : State :=
  pushOp (updTeam s e.t.tid fun t => { t with triads := t.triads.modify k fun y => y.takenFor ((addrOf e 0).toNat / 3072) }) (rowOpenOp s e k)

/-- The wave after its ROWOPEN: the wave itself, unlike a continuation, waits in its status. -/
def Wave.awaitsRow (w : Wave) (lane : Option Nat) (id : Nat) : Wave := if lane.isNone then { w with status := .rowOpen id } else w

theorem Wave.awaitsRow_key (w : Wave) (lane : Option Nat) (id : Nat) : (w.awaitsRow lane id).tid = w.tid ∧ (w.awaitsRow lane id).ix = w.ix := by
  cases lane <;> exact ⟨rfl, rfl⟩

section Rowopen
variable {s : State} {f : Fields} {e : Env}

/-- ROWOPEN of a valid address enters its operation. -/
theorem exec_rowopen_of_entry {k : Nat} (h : wordAtTurn s (.rowopen f) f e) (hact : e.act ≠ 0)
    (hcounter : counterFull s e (some (counterName f)) = false) (hskid : skidFull s e = false)
    (hentry : pickEntry e.t.triads ((addrOf e 0).toNat / 3072) = some k) (hrange : rangeFault (addrOf e 0) 1 = none) :
    exec (.rowopen f) s =
      .next (retired (updCur (rowOpenEntered s e k) e.who fun w => w.awaitsRow e.who.lane (rowOpenOp s e k).id) e) := by
  obtain rfl : e.f = f := h.fields
  refine outcome_atTurn (v := .ok _) (rfl : _ = execRowopen e.f s) h ?_
  simp only [hact, hcounter, hskid, hentry, hrange, Bool.or_self, Bool.false_eq_true, Option.isSome_none, if_false]
  rfl

/-- A wave that has entered a ROWOPEN waits for it. -/
theorem status_of_rowOpenEntered {k : Nat} {w : Wave} (hsees : SeesRecords s e) (hmain : e.who.lane = none)
    (hw : findWave (updCur (rowOpenEntered s e k) e.who fun w => w.awaitsRow e.who.lane (rowOpenOp s e k).id) e.who.tid e.who.wave = some w) :
    w.status = .rowOpen (rowOpenOp s e k).id := by
  have hbefore : findWave (rowOpenEntered s e k) e.who.tid e.who.wave = some e.w := hsees.wave
  have hafter := findWave_updWave_of_find (fun w => w.awaitsRow_key e.who.lane (rowOpenOp s e k).id) hbefore
  obtain rfl := Option.some.inj (hafter.symm.trans hw)
  rw [hmain]
  rfl

/-- With no active lane, ROWOPEN is the issue of an operation on nothing (R42). -/
theorem exec_rowopen_of_idle (h : wordAtTurn s (.rowopen f) f e) (hact : e.act = 0) (hroom : memRoom s e (some (counterName f)) .none []) :
    exec (.rowopen f) s = .next (retired (memIssued s e (some (counterName f)) .none []) e) := by
  obtain rfl : e.f = f := h.fields
  exact outcome_atTurn (v := .ok _) (rfl : _ = execRowopen e.f s) h ((if_pos hact).trans (issueMem_of_memRoom hroom))

end Rowopen

/-! ## ROWREL and ROWQ (R237, R238) -/

/-- The entry as ROWREL frees it: a token of the generation that has passed names it no more. -/
def TriadEntry.freed (y : TriadEntry) : TriadEntry := { y with used := false, slot := none, gen := (y.gen + 1) % 256 }

/-- The team with an entry of its list freed. -/
def Team.freeEntry (k : Nat) (t : Team) : Team := { t with triads := t.triads.modify k TriadEntry.freed }

/-- The state with an entry of the issuing team freed. -/
def entryFreed (s : State) (e : Env) (k : Nat) : State := updTeam s e.t.tid (Team.freeEntry k)

theorem freeHold_mem_teams (s : State) (socket slot : Nat) : (freeHold s socket slot).mem = s.mem ∧ (freeHold s socket slot).teams = s.teams :=
  ⟨rfl, rfl⟩

section Rowrel
variable {s : State} {f : Fields} {e : Env} {x : TriadEntry}

theorem exec_rowrel_of_busy (h : wordAtTurn s (.rowrel f) f e) (htok : (tokenEntry e.t (e.p.s f.a.toNat)).isSome = true)
    (hbusy : rowBusy s e (tokenIdx (e.p.s f.a.toNat)) = true) : exec (.rowrel f) s = .next (standStill s e) := by
  obtain rfl : e.f = f := h.fields
  obtain ⟨x, hx⟩ := Option.isSome_iff_exists.1 htok
  refine outcomeWith_atTurn (v := .stall _) (rfl : _ = execRowrel e.f s) h (tokenErrors_of_isSome htok) ?_
  simp only [hx, hbusy, if_true]
  rfl

/-- ROWREL frees its entry; that it may return the entry's hold slot touches neither memory nor the teams. -/
theorem exec_rowrel_of_free (h : wordAtTurn s (.rowrel f) f e) (hx : tokenEntry e.t (e.p.s f.a.toNat) = some x)
    (hfree : rowBusy s e (tokenIdx (e.p.s f.a.toNat)) = false) :
    ∃ t, exec (.rowrel f) s = .next (retired t e) ∧ t.mem = s.mem ∧ t.teams = (entryFreed s e (tokenIdx (e.p.s f.a.toNat))).teams := by
  obtain rfl : e.f = f := h.fields
  refine ⟨?t, outcomeWith_atTurn (v := .ok ?t) (rfl : _ = execRowrel e.f s) h (tokenErrors_of_isSome (Option.isSome_of_eq_some hx)) ?body, ?kept⟩
  case body =>
    simp only [hx, hfree, Bool.false_eq_true, if_false]
    rfl
  case kept =>
    split
    · exact ⟨rfl, rfl⟩
    · split
      · exact ⟨rfl, rfl⟩
      · exact freeHold_mem_teams _ _ _

theorem findTeam_entryFreed (hsees : SeesRecords s e) (k : Nat) : findTeam (entryFreed s e k) e.t.tid = some (e.t.freeEntry k) := by
  have hteam : findTeam s e.t.tid = some e.t := (findTeam_tid hsees.team).symm ▸ hsees.team
  exact (findTeam_updTeam s e.t.tid (Team.freeEntry k) fun _ => rfl).trans (congrArg _ hteam)

end Rowrel

section Rowq
variable {s : State} {f : Fields} {e : Env}

/-- ROWQ reports 0 for a token that fails its check. -/
theorem exec_rowq_of_badToken (h : wordAtTurn s (.rowq f) f e) (hact : e.act ≠ 0) (hnone : tokenEntry e.t (e.p.s f.a.toNat) = none) :
    exec (.rowq f) s = .next (retired (setScalar s e.who f.d.toNat 0) e) := by
  refine outcome_atTurn (v := .ok _) (rfl : _ = execRowq f s) h ?_
  simp only [hact, hnone, if_false]

/-- ROWQ reports a valid token as its entry now stands, and clears the lost bit when asked. -/
theorem exec_rowq_of_token {x : TriadEntry} (h : wordAtTurn s (.rowq f) f e) (hact : e.act ≠ 0)
    (hx : tokenEntry e.t (e.p.s f.a.toNat) = some x) :
    let reported := setScalar s e.who f.d.toNat (tokenOf (tokenIdx (e.p.s f.a.toNat)) x x.slot.isSome)
    exec (.rowq f) s = .next (retired (if f.bmod = 1 then updTeam reported e.t.tid fun t =>
        { t with triads := t.triads.modify (tokenIdx (e.p.s f.a.toNat)) fun y => { y with lost := false } }
      else reported) e) := by
  refine outcome_atTurn (v := .ok _) (rfl : _ = execRowq f s) h ?_
  simp only [hact, hx, if_false]

end Rowq

/-- Settles O22: a word's token passes or fails its check, and each word then does the one thing that its entry allows. -/
theorem rowWordsComplete : Obligations.RowWordsComplete := by
  intro s f cn tok row
  refine ⟨fun e k h hact hcounter hskid hentry hrange => ?rowopen, fun e h ⟨hact, hroom⟩ => exec_rowopen_of_idle h hact hroom,
    fun e h ⟨htok, hroom⟩ => ?rowld, fun e h ⟨htok, hroom⟩ => ?rowst, fun i hi e h hnone => exec_rowWord_of_badToken hi h hnone,
    fun e h ⟨htok, hbusy⟩ => exec_rowrel_of_busy h htok hbusy, fun e x h hx hfree => ?rowrel, fun e h hact => ?rowqIdle,
    fun e h hact hnone => ?rowqBad, fun e x h hact hx hkeep => ?rowqKeep, fun e x h hact hx hclear => ?rowqClear⟩
  case rowopen =>
    refine ⟨_, rowOpenOp s e k, exec_rowopen_of_entry h hact hcounter hskid hentry hrange, rfl, ?_, ?_, rfl, rfl, fun hmain w hw =>
      status_of_rowOpenEntered h.sees hmain hw⟩
    all_goals
      obtain rfl : e.f = f := h.fields
      rfl
  case rowld =>
    refine rowIssue_atTurn h htok ?_ hroom
    obtain rfl : e.f = f := h.fields
    rfl
  case rowst =>
    refine rowIssue_atTurn h htok ?_ hroom
    obtain rfl : e.f = f := h.fields
    rfl
  case rowrel =>
    obtain ⟨t, hexec, hmem, hteams⟩ := exec_rowrel_of_free h hx hfree
    refine ⟨t, hexec, hmem, fun u hu => ?_⟩
    rw [findTeam, hteams, ← findTeam, findTeam_entryFreed h.sees] at hu
    cases hu
    rfl
  case rowqIdle => exact outcome_atTurn (v := .ok s) (rfl : _ = execRowq f s) h (if_pos hact)
  case rowqBad => exact exec_rowq_of_badToken h hact hnone
  case rowqKeep =>
    have hkept : ¬ f.bmod = 1 := hkeep ▸ by decide
    exact (exec_rowq_of_token h hact hx).trans (by rw [if_neg hkept])
  case rowqClear => exact (exec_rowq_of_token h hact hx).trans (by rw [if_pos hclear])

end Sys2Proof.Machine
end

section
/-!
PROOF. The stacks' own steps (R213, R214, R218): what a close leaves of the held triads and of the refreshes that are followed, and what the release
of an extent leaves.
-/

namespace Sys2Proof.Machine

/-! ## The close of held triads (R213) -/

/-- No held triad that a close selects is open after it. -/
theorem isOpen_of_mem_closeTriads {s : State} {p : HoldSlot → Bool} {h : HoldSlot} (hmem : h ∈ (closeTriads s p).holds)
    (hsel : p h = true) : h.isOpen = false := by
  obtain ⟨g, -, rfl⟩ := List.mem_map.1 hmem
  by_cases hshut : (g.isOpen && p g) = true
  · rw [if_pos hshut]
  · rw [if_neg hshut] at hsel ⊢
    simpa [hsel] using hshut

theorem closeTriads_length (s : State) (p : HoldSlot → Bool) : (closeTriads s p).holds.length = s.holds.length := List.length_map _

/-- The held triads of a bank close once a request to another of its rows has waited, wherever it comes from. -/
theorem execHoldYield_of_waits {s : State} {socket channel bank : Nat} {h : HoldSlot} (hmem : h ∈ s.holds) (hopen : h.isOpen = true)
    (hsel : (h.socket == socket && triadBank h.stackTriad == bank && (triadChannels h.stackTriad).contains channel) = true)
    (hwaits : (socket, channel, bank) ∈ s.inputs.rowWait ∨ (∃ o ∈ s.ops, waitsForRow s h o = true) ∨ ∃ u ∈ s.teams, restoreWaits s h u = true) :
    execHoldYield socket channel bank s = .next (closeTriads s fun h =>
      h.socket == socket && triadBank h.stackTriad == bank && (triadChannels h.stackTriad).contains channel) := by
  refine if_pos (List.any_eq_true.2 ⟨h, hmem, ?_⟩)
  simp only [hopen, hsel, Bool.true_and]
  simpa [or_assoc] using hwaits

/-! ## The refreshes that are followed (R214) -/

/-- The refresh state listed for a pseudo-channel is its own. -/
theorem key_of_find_refresh {l : List RefreshState} {socket ch : Nat} {r : RefreshState}
    (h : (l.find? fun r => r.socket == socket && r.channel == ch) = some r) : r.socket = socket ∧ r.channel = ch := by
  simpa using List.find?_some h

/-- A pseudo-channel has the refresh state that is written, be it listed or that of an idle one. -/
theorem refreshOf_setRefresh (s : State) (r : RefreshState) : refreshOf (setRefresh s r) r.socket r.channel = r := by
  by_cases hidle : r = idleRefresh r.socket r.channel s.now && !openIn s r.socket r.channel
  · have hnone : ((s.refresh.filter fun x => !(x.socket == r.socket && x.channel == r.channel)).find? fun x =>
        x.socket == r.socket && x.channel == r.channel) = none := by
      refine List.find?_eq_none.2 fun x hx hkey => ?_
      simpa [hkey] using (List.mem_filter.1 hx).2
    simp only [refreshOf, setRefresh, hidle, if_true, hnone, Option.getD_none]
    simp only [Bool.and_eq_true, decide_eq_true_eq] at hidle
    exact hidle.1.symm
  · simp only [refreshOf, setRefresh, hidle, if_false, Bool.false_eq_true]
    rw [List.find?_cons_of_pos (by simp), Option.getD_some]

theorem startRefreshes_key_debt (before s : State) (r : RefreshState) : (startRefreshes before s r).socket = r.socket
    ∧ (startRefreshes before s r).channel = r.channel ∧ (startRefreshes before s r).debt = r.debt := by
  unfold startRefreshes
  split <;> exact ⟨rfl, rfl, rfl⟩

/-- A close may start the refreshes that a pseudo-channel owes; it lowers no debt. -/
theorem refreshOf_closeTriads_debt (s : State) (p : HoldSlot → Bool) (socket ch : Nat) :
    (refreshOf (closeTriads s p) socket ch).debt = (refreshOf s socket ch).debt := by
  unfold refreshOf closeTriads
  dsimp only
  rw [find_map_key _ _ fun r => by
    obtain ⟨hsocket, hchannel, -⟩ := startRefreshes_key_debt s _ r
    rw [hsocket, hchannel]]
  cases s.refresh.find? fun r => r.socket == socket && r.channel == ch with
  | none => rfl
  | some r =>
    obtain ⟨-, -, hdebt⟩ := startRefreshes_key_debt s _ r
    exact hdebt

theorem countDue_key_debt (s : State) (r : RefreshState) : (countDue s r).socket = r.socket ∧ (countDue s r).channel = r.channel
    ∧ (countDue s r).debt = r.debt + 1 := by
  unfold countDue
  split <;> exact ⟨rfl, rfl, rfl⟩

section Refresh
variable {s : State} {socket channel : Nat} {r : RefreshState}

theorem execRefreshDue_of_idle (hdue : dueNow s socket channel = true)
    (hnone : (s.refresh.find? fun r => r.socket == socket && r.channel == channel) = none) :
    execRefreshDue socket channel s = .next s := by
  simp only [execRefreshDue, hdue, hnone, Bool.not_true, Bool.false_eq_true, if_false]

/-- The state after a refresh has been counted that falls due under `r`. -/
def refreshCounted (s : State) (socket channel : Nat) (r : RefreshState) : State :=
  if r.debt + 1 < 8 then setRefresh s (countDue s r)
  else closeTriads (setRefresh s (countDue s r)) fun h => h.socket == socket && (triadChannels h.stackTriad).contains channel

theorem execRefreshDue_of_listed (hdue : dueNow s socket channel = true)
    (hr : (s.refresh.find? fun r => r.socket == socket && r.channel == channel) = some r) :
    execRefreshDue socket channel s = .next (refreshCounted s socket channel r) := by
  simp only [execRefreshDue, hdue, hr, Bool.not_true, Bool.false_eq_true, if_false]
  rfl

theorem refreshCounted_mem (s : State) (socket channel : Nat) (r : RefreshState) : (refreshCounted s socket channel r).mem = s.mem := by
  unfold refreshCounted
  split <;> rfl

theorem refreshCounted_debt (hr : (s.refresh.find? fun r => r.socket == socket && r.channel == channel) = some r) :
    (refreshOf (refreshCounted s socket channel r) socket channel).debt = r.debt + 1 := by
  obtain ⟨rfl, rfl⟩ := key_of_find_refresh hr
  obtain ⟨hsocket, hchannel, hdebt⟩ := countDue_key_debt s r
  have hset := refreshOf_setRefresh s (countDue s r)
  rw [hsocket, hchannel] at hset
  unfold refreshCounted
  split
  · rw [hset, hdebt]
  · rw [refreshOf_closeTriads_debt, hset, hdebt]

/-- At a debt of 8 no held triad stays open in the pseudo-channel. -/
theorem isOpen_of_mem_refreshCounted (hdebt : 8 ≤ r.debt + 1) {h : HoldSlot} (hmem : h ∈ (refreshCounted s socket channel r).holds)
    (hsocket : h.socket = socket) (hchannel : channel ∈ triadChannels h.stackTriad) : h.isOpen = false := by
  rw [refreshCounted, if_neg (Int.not_lt.2 hdebt)] at hmem
  exact isOpen_of_mem_closeTriads hmem (by simp [hsocket, hchannel])

theorem execRefreshPerformed_of_over (hr : (s.refresh.find? fun r => r.socket == socket && r.channel == channel) = some r)
    (hrefreshing : refreshing s socket channel = true) (hover : r.busyUntil ≤ s.now) :
    execRefreshPerformed socket channel s = .next (setRefresh s { r with
      debt := r.debt - 1, running := r.running - 1, busyUntil := if 1 < r.running ∨ 1 < r.debt then s.now + 52 else r.busyUntil }) := by
  simp only [execRefreshPerformed, hr, hrefreshing, hover, decide_true, Bool.and_self, if_true, Bool.or_eq_true, decide_eq_true_eq]

end Refresh

/-! ## The release of an extent (R218) -/

section Extents
variable {s : State} {port base count : Nat}

/-- What a release leaves: the extent is listed as released, and none of its lines is copied and none of its triads held. -/
theorem dropExtent_leaves (s : State) (port base count : Nat) (forced : Bool) :
    (port, base, count, forced) ∈ (dropExtent s port base count forced).extents
      ∧ (∀ y ∈ (dropExtent s port base count forced).copies, inExtent port base count (y.pline / 256) = false)
      ∧ ∀ h ∈ (dropExtent s port base count forced).holds, inExtent port base count h.pgn = false := by
  refine ⟨List.mem_append_right _ (List.mem_singleton.2 rfl), fun y hy => ?_, fun h hh => ?_⟩
  · simpa using (List.mem_filter.1 hy).2
  · simpa using (List.mem_filter.1 hh).2

theorem dropExtent_mem (s : State) (port base count : Nat) (forced : Bool) : (dropExtent s port base count forced).mem = s.mem := rfl

theorem dropExtent_homeStores (s : State) (port base count : Nat) (forced : Bool) :
    (dropExtent s port base count forced).homeStores = s.homeStores := rfl

/-- An extent of one of the two ports, of at least one granule, passes the guard that both kinds of release share. -/
theorem releaseGuard_eq_false (hport : port < 2) (hcount : 0 < count) : (2 ≤ port || count = 0) = false := by
  simp [Nat.not_le.2 hport, Nat.pos_iff_ne_zero.1 hcount]

theorem execExtentRelease_of_clean (hport : port < 2) (hcount : 0 < count)
    (hclean : ∀ h ∈ s.homeStores, inExtent port base count (h.pa / 49152) = false) :
    execExtentRelease port base count s = .next (dropExtent s port base count false) := by
  have hany : (s.homeStores.any fun h => inExtent port base count (h.pa / 49152)) = false :=
    List.any_eq_false.2 fun h hh => Bool.eq_false_iff.1 (hclean h hh)
  refine if_neg ?_
  simp only [releaseGuard_eq_false hport hcount, hany, Bool.or_self, Bool.false_eq_true, not_false_eq_true]

/-- The state with the stores to an extent dropped that have not come into force. -/
def storesDropped (s : State) (port base count : Nat) : State :=
  { s with
    dropped := s.dropped ++ dirtySectors s port base count
    homeStores := s.homeStores.filter fun h => !(inExtent port base count (h.pa / 49152)) }

theorem execForcedExtentRelease_of_port (hport : port < 2) (hcount : 0 < count) :
    execForcedExtentRelease port base count s = .next (dropExtent (storesDropped s port base count) port base count true) := by
  refine if_neg ?_
  simp only [releaseGuard_eq_false hport hcount, Bool.false_eq_true, not_false_eq_true]

theorem inExtent_of_mem_storesDropped {h : HomeStore} (hh : h ∈ (storesDropped s port base count).homeStores) :
    inExtent port base count (h.pa / 49152) = false := by
  simpa using (List.mem_filter.1 hh).2

end Extents

/-- Settles O51: each event by its guard, and what it leaves of the held triads, of the refreshes and of the extent. -/
theorem stacksYieldRefreshAndRelease : Obligations.StacksYieldRefreshAndRelease := by
  intro s socket channel listed
  refine ⟨fun bank => ?yield, fun hdue => ?due, fun r hr hrefreshing hover => ?performed,
    fun port base count hport hcount => ⟨fun hclean => ?release, ?forced⟩⟩
  case yield =>
    rintro p ⟨h, hmem, hopen, hsel, hwaits⟩
    exact ⟨_, execHoldYield_of_waits hmem hopen hsel hwaits, rfl, fun h hh hp => isOpen_of_mem_closeTriads hh hp,
      closeTriads_length s p⟩
  case due =>
    cases hlisted : listed s with
    | none => exact ⟨s, execRefreshDue_of_idle hdue hlisted, rfl, nofun, nofun⟩
    | some r =>
      refine ⟨_, execRefreshDue_of_listed hdue hlisted, refreshCounted_mem s socket channel r, ?debt, ?closed⟩
      case debt =>
        rintro _ ⟨⟩
        exact refreshCounted_debt hlisted
      case closed =>
        rintro _ ⟨⟩ hdebt h hh hsocket hchannel
        exact isOpen_of_mem_refreshCounted hdebt hh hsocket hchannel
  case performed => exact execRefreshPerformed_of_over hr hrefreshing hover
  case release =>
    obtain ⟨hextent, hcopies, hholds⟩ := dropExtent_leaves s port base count false
    exact ⟨_, execExtentRelease_of_clean hport hcount hclean, hextent, hcopies, hholds, dropExtent_mem ..⟩
  case forced =>
    obtain ⟨hextent, hcopies, hholds⟩ := dropExtent_leaves (storesDropped s port base count) port base count true
    exact ⟨_, execForcedExtentRelease_of_port hport hcount, hextent, hcopies, hholds, fun h hh => inExtent_of_mem_storesDropped hh,
      dropExtent_mem ..⟩

end Sys2Proof.Machine
end

section
/-!
PROOF. Accesses through a jar (R239 to R241): LDT and STF wait for the record of their handle, then check the handle, and then issue what they plan;
LDT of a jar that is not published parks instead.
-/

namespace Sys2Proof.Machine

/-! ## What a handle must pass (R239) -/

theorem jarBoundsBad_eq_false_iff {e : Env} {r : JarRec} {n : Nat} :
    jarBoundsBad e r n = false ↔ ∀ l ∈ lanesOf e.act, 0 ≤ indexOf e l ∧ indexOf e l + n ≤ 49152 * r.len := by
  simp [jarBoundsBad, jarBytes]

section Checks
variable {s : State} {e : Env}

theorem ldtFault_of_stale {sub : Nat} (h : staleSub s e.c (e.w.h e.f.a.toNat) = some sub) :
    ldtFault s e = some ⟨.staleHandle, sub, e.w.h e.f.a.toNat⟩ := by
  simp only [ldtFault, h]

theorem stfFault_of_stale {sub : Nat} (h : staleSub s e.c (e.w.h e.f.a.toNat) = some sub) :
    stfFault s e = some ⟨.staleHandle, sub, e.w.h e.f.a.toNat⟩ := by
  simp only [stfFault, h]

theorem ldtFault_of_fill (hfresh : staleSub s e.c (e.w.h e.f.a.toNat) = none) (hfill : isFill (e.w.h e.f.a.toNat) = true) :
    ldtFault s e = some ⟨.fillCopy, 1, e.w.h e.f.a.toNat⟩ := by
  simp only [ldtFault, hfresh, hfill, if_true]

/-- An LDT whose handle passes the checks of R239 is refused for an ABANDONED jar alone. -/
theorem ldtFault_of_readable (hfresh : staleSub s e.c (e.w.h e.f.a.toNat) = none) (hsee : isFill (e.w.h e.f.a.toNat) = false)
    (hright : hasRight (e.w.h e.f.a.toNat) rightRead = true)
    (hinside : jarBoundsBad e (jarFor s e.c (e.w.h e.f.a.toNat)) (szBytes e.f.bmod.toNat) = false) :
    ldtFault s e = if (jarFor s e.c (e.w.h e.f.a.toNat)).state = 3 then some ⟨.abandonedFill, 0, e.w.h e.f.a.toNat⟩ else none := by
  simp only [ldtFault, hfresh, hsee, hright, hinside, Bool.not_true, Bool.false_eq_true, if_false]

/-- A see handle, and a handle without WRITE, are one failure (R308). -/
theorem stfFault_of_unwritable (hfresh : staleSub s e.c (e.w.h e.f.a.toNat) = none)
    (hbad : isSee (e.w.h e.f.a.toNat) = true ∨ hasRight (e.w.h e.f.a.toNat) rightWrite = false) :
    stfFault s e = some ⟨.jarRights, 2, e.w.h e.f.a.toNat⟩ := by
  have hrefused : (isSee (e.w.h e.f.a.toNat) || !hasRight (e.w.h e.f.a.toNat) rightWrite) = true := by simpa using hbad
  simp only [stfFault, hfresh, hrefused, if_true]

theorem stfFault_of_writable (hfresh : staleSub s e.c (e.w.h e.f.a.toNat) = none) (hfill : isSee (e.w.h e.f.a.toNat) = false)
    (hright : hasRight (e.w.h e.f.a.toNat) rightWrite = true)
    (hinside : jarBoundsBad e (jarFor s e.c (e.w.h e.f.a.toNat)) (szBytes e.f.bmod.toNat) = false) :
    stfFault s e = none := by
  simp only [stfFault, hfresh, hfill, hright, hinside, Bool.not_true, Bool.or_self, Bool.false_eq_true, if_false]

end Checks

/-! ## The shape that LDT and STF share -/

/-- The meaning of a word that reads a handle: it waits for the record, is refused by `check`, or goes on with `access`. -/
def jarWord (f : Fields) (check : State → Env → Option FaultInfo) (access : Env → State → Verdict) (e : Env) (s : State) : Verdict :=
  if !recordSeen s e.c (e.w.h f.a.toNat) then tryAgain s e
  else
    match check s e with
    | some fi => .trap fi
    | none => access e s

/-- The access that a jar word plans, issued. -/
def jarIssue (i : Instr) (f : Fields) (e : Env) (s : State) : Verdict :=
  match memPlan s i e with
  | some (k, xs) => issueMem s e (some (counterName f)) k xs
  | none => .ok s

/-- LDT once its handle has passed: with an active lane it parks at a FILLING jar (R240). -/
def jarLoad (f : Fields) (e : Env) (s : State) : Verdict :=
  if e.act ≠ 0 && (jarFor s e.c (e.w.h f.a.toNat)).state = 1 then
    parkAs s e (.ldt (handleJar (e.w.h f.a.toNat)) (handleDev (e.w.h f.a.toNat)))
  else jarIssue (.ldt f) f e s

theorem exec_ldt (f : Fields) (s : State) : exec (.ldt f) s = issue (.ldt f) s (jarWord f ldtFault (jarLoad f)) := rfl

theorem exec_stf (f : Fields) (s : State) : exec (.stf f) s = issue (.stf f) s (jarWord f stfFault (jarIssue (.stf f) f)) := rfl

section Words
variable {s : State} {i : Instr} {f : Fields} {e : Env} {check : State → Env → Option FaultInfo} {access : Env → State → Verdict}

/-- A jar word waits until the record of its handle has been read, whatever its check would say. -/
theorem jarWord_of_unseen (hexec : exec i s = issue i s (jarWord f check access)) (h : wordAtTurn s i f e)
    (hunseen : recordSeen s e.c (e.w.h f.a.toNat) = false) : exec i s = .next (standStill s e) := by
  refine outcome_atTurn (v := .stall _) hexec h ?_
  simp only [jarWord, hunseen, Bool.not_false, if_true]
  rfl

theorem jarWord_of_fault (hexec : exec i s = issue i s (jarWord f check access)) (h : wordAtTurn s i f e)
    (hseen : recordSeen s e.c (e.w.h f.a.toNat) = true) {fi : FaultInfo} (hfault : check s e = some fi) :
    exec i s = .next (deliver s e.who fi (preciseAt e.va)) := by
  refine outcome_atTurn (v := .trap fi) hexec h ?_
  simp only [jarWord, hseen, hfault, Bool.not_true, Bool.false_eq_true, if_false]

theorem jarWord_of_passed (hexec : exec i s = issue i s (jarWord f check access)) (h : wordAtTurn s i f e)
    (hseen : recordSeen s e.c (e.w.h f.a.toNat) = true) (hpassed : check s e = none) :
    exec i s = .next (conclude s e (access e s)) := by
  refine outcome_atTurn hexec h ?_
  simp only [jarWord, hseen, hpassed, Bool.not_true, Bool.false_eq_true, if_false]

end Words

/-- A planned access is issued where there is room for it. -/
theorem conclude_jarIssue {s : State} {i : Instr} {f : Fields} {e : Env} {k : OpKind} {xs : List Access} (hplan : memPlan s i e = some (k, xs))
    (hroom : memRoom s e (some (counterName f)) k xs) :
    conclude s e (jarIssue i f e s) = retired (memIssued s e (some (counterName f)) k xs) e := by
  simp only [jarIssue, hplan, issueMem_of_memRoom hroom, conclude_ok]

section Load
variable {s : State} {f : Fields} {e : Env}

/-- A jar that is not FILLING, or no active lane, leaves LDT its access. -/
theorem jarLoad_of_open (hopen : e.act = 0 ∨ (jarFor s e.c (e.w.h f.a.toNat)).state ≠ 1) : jarLoad f e s = jarIssue (.ldt f) f e s := by
  refine if_neg ?_
  simp only [Bool.and_eq_true, decide_eq_true_eq, not_and_or, not_not]
  exact hopen

theorem jarLoad_of_filling (hact : e.act ≠ 0) (hmain : e.who.lane = none) (hfilling : (jarFor s e.c (e.w.h f.a.toNat)).state = 1) :
    jarLoad f e s = .stall (updCur s e.who fun w => w.park (.ldt (handleJar (e.w.h f.a.toNat)) (handleDev (e.w.h f.a.toNat))) e.act) := by
  simp only [jarLoad, parkAs, hact, hmain, hfilling, ne_eq, not_false_eq_true, decide_true, Bool.and_self, if_true]

end Load

/-- Settles O23: the record is there or not, the check names its fault or passes, and what has passed parks or issues its plan. -/
theorem jarAccessesIssue : Obligations.JarAccessesIssue := by
  intro s f cn n h jar seen inside reads writes accs
  -- what `reads` and `writes` mean for the words' own checks
  have readable : ∀ e, e.f = f → reads e → recordSeen s e.c (h e) = true
      ∧ ldtFault s e = if (jar e).state = 3 then some ⟨.abandonedFill, 0, h e⟩ else none := by
    rintro e rfl ⟨⟨hseen, hfresh⟩, hsee, hright, hinside⟩
    exact ⟨hseen, ldtFault_of_readable hfresh hsee hright (jarBoundsBad_eq_false_iff.2 hinside)⟩
  have writable : ∀ e, e.f = f → writes e → recordSeen s e.c (h e) = true ∧ stfFault s e = none := by
    rintro e rfl ⟨⟨hseen, hfresh⟩, hfill, hright, hinside⟩
    exact ⟨hseen, stfFault_of_writable hfresh hfill hright (jarBoundsBad_eq_false_iff.2 hinside)⟩
  refine ⟨fun e hturn ⟨hreads, hkept, hopen, hroom⟩ => ?load, fun e hturn ⟨hwrites, hroom⟩ => ?store,
    fun e hturn ⟨hact, hmain, hreads, hfilling⟩ => ?parks, fun sub i hi => ⟨fun e hturn hunseen => ?unseen, fun e hturn ⟨hseen, hstale⟩ => ?stale⟩,
    fun e hturn ⟨hreads, habandoned⟩ => ?abandoned, fun e hturn ⟨⟨hseen, hfresh⟩, hfill⟩ => ?fill,
    fun e hturn ⟨⟨hseen, hfresh⟩, hbad⟩ => ?unwritable⟩
  case load =>
    obtain ⟨hseen, hcheck⟩ := readable e hturn.fields hreads
    rw [jarWord_of_passed (exec_ldt f s) hturn hseen (hcheck.trans (if_neg hkept)), jarLoad_of_open hopen]
    obtain rfl : e.f = f := hturn.fields
    exact congrArg Host.Outcome.next (conclude_jarIssue (i := .ldt e.f) (f := e.f) rfl hroom)
  case store =>
    obtain ⟨hseen, hcheck⟩ := writable e hturn.fields hwrites
    rw [jarWord_of_passed (exec_stf f s) hturn hseen hcheck]
    obtain rfl : e.f = f := hturn.fields
    exact congrArg Host.Outcome.next (conclude_jarIssue (i := .stf e.f) (f := e.f) rfl hroom)
  case parks =>
    obtain ⟨hseen, hcheck⟩ := readable e hturn.fields hreads
    have hkept : (jar e).state ≠ 3 := by rw [hfilling]; decide
    rw [jarWord_of_passed (exec_ldt f s) hturn hseen (hcheck.trans (if_neg hkept)), jarLoad_of_filling hact hmain hfilling, conclude_stall]
  case unseen =>
    rcases hi with rfl | rfl
    · exact jarWord_of_unseen (exec_ldt f s) hturn hunseen
    · exact jarWord_of_unseen (exec_stf f s) hturn hunseen
  case abandoned =>
    obtain ⟨hseen, hcheck⟩ := readable e hturn.fields hreads
    exact jarWord_of_fault (exec_ldt f s) hturn hseen (hcheck.trans (if_pos habandoned))
  -- the checks take the handle from the fields that the word sees
  all_goals obtain rfl : e.f = f := hturn.fields
  case stale =>
    rcases hi with rfl | rfl
    · exact jarWord_of_fault (exec_ldt e.f s) hturn hseen (ldtFault_of_stale hstale)
    · exact jarWord_of_fault (exec_stf e.f s) hturn hseen (stfFault_of_stale hstale)
  case fill => exact jarWord_of_fault (exec_ldt e.f s) hturn hseen (ldtFault_of_fill hfresh hfill)
  case unwritable => exact jarWord_of_fault (exec_stf e.f s) hturn hseen (stfFault_of_unwritable hfresh hbad)

end Sys2Proof.Machine
end

section
/-!
SUPPORT. Numbers as the integer words take them (R25, R247, R255 to R257, R302): readings and wraps, single bits, elements and bytes of a lane, and
the fields of a handle.
-/

namespace Sys2Proof.Machine

/-! ## Readings and wraps -/

theorem wrapInt_natCast (w n : Nat) : wrapInt w (n : Int) = n % 2 ^ w := by
  have hcast : (n : Int) % (2 : Int) ^ w = ((n % 2 ^ w : Nat) : Int) := by push_cast; rfl
  rw [wrapInt, hcast, Int.toNat_natCast]

theorem wrapInt_lt (w : Nat) (x : Int) : wrapInt w x < 2 ^ w := by
  have hpos : (0 : Int) < 2 ^ w := by positivity
  have hlt : x % 2 ^ w < 2 ^ w := Int.emod_lt_of_pos x hpos
  rw [wrapInt, Int.toNat_lt (Int.emod_nonneg x hpos.ne')]
  exact_mod_cast hlt

/-- A signed reading wrapped is the value that was read (R25). -/
theorem wrapInt_sextInt (w x : Nat) : wrapInt w (sextInt x w) = x % 2 ^ w := by
  have hmod : sextInt x w % (2 : Int) ^ w = ((x % 2 ^ w : Nat) : Int) % 2 ^ w := by
    simp only [sextInt]
    split
    · rfl
    · exact Int.sub_emod_right _ _
  calc wrapInt w (sextInt x w) = wrapInt w ((x % 2 ^ w : Nat) : Int) := by rw [wrapInt, hmod, ← wrapInt]
    _ = x % 2 ^ w := by rw [wrapInt_natCast, Nat.mod_mod]

theorem ofNat_wrapInt (w : Nat) (x : Int) : BitVec.ofNat w (wrapInt w x) = BitVec.ofInt w x := by
  refine BitVec.eq_of_toNat_eq ?_
  rw [BitVec.toNat_ofNat, Nat.mod_eq_of_lt (wrapInt_lt w x), BitVec.toNat_ofInt, wrapInt]
  push_cast
  rfl

theorem sextInt_toNat (x : W32) : sextInt x.toNat 32 = x.toInt := by
  have hlt := x.isLt
  rw [sextInt, BitVec.toInt_eq_toNat_cond, Nat.mod_eq_of_lt hlt]
  refine if_congr ?_ rfl rfl
  omega

/-! ## Bits -/

theorem bitsOf_bit (x i : Nat) : bitsOf x i i = (x.testBit i).toNat := by
  rw [bitsOf, Nat.add_sub_cancel_left, Nat.pow_one, Nat.toNat_testBit]

/-- The number below `2 ^ v` with the bits `p`. -/
def bitSum (p : Nat → Bool) (v : Nat) : Nat := (upto v).foldl (fun x i => x + (p i).toNat * 2 ^ i) 0

@[simp] theorem bitSum_zero (p : Nat → Bool) : bitSum p 0 = 0 := rfl

theorem bitSum_succ (p : Nat → Bool) (v : Nat) : bitSum p (v + 1) = bitSum p v + (p v).toNat * 2 ^ v := by
  simp only [bitSum, upto, List.range_succ, List.foldl_append, List.foldl_cons, List.foldl_nil]

theorem bitSum_lt (p : Nat → Bool) (v : Nat) : bitSum p v < 2 ^ v := by
  induction v with
  | zero => exact Nat.one_pos
  | succ v ih =>
    have hbit : (p v).toNat * 2 ^ v ≤ 1 * 2 ^ v := Nat.mul_le_mul_right _ (Bool.toNat_le _)
    rw [bitSum_succ, Nat.pow_succ]
    omega

theorem testBit_bitSum (p : Nat → Bool) (v i : Nat) : (bitSum p v).testBit i = (decide (i < v) && p i) := by
  induction v with
  | zero => simp
  | succ v ih =>
    rw [bitSum_succ, Nat.add_comm, Nat.mul_comm, Nat.testBit_two_pow_mul_add _ (bitSum_lt p v), ih]
    rcases Nat.lt_trichotomy i v with hlt | rfl | hgt
    · simp [hlt, Nat.lt_succ_of_lt hlt]
    · cases p i <;> simp
    · have hbit : (p v).toNat.testBit (i - v) = false :=
        Nat.testBit_lt_two_pow (Nat.lt_of_le_of_lt (Bool.toNat_le _) (Nat.one_lt_two_pow (by omega)))
      simp [hbit, Nat.not_lt_of_gt hgt, Nat.not_lt_of_ge hgt]

/-- Bits added up are the bits counted. -/
theorem foldl_add_testBit (a : Nat) (l : List Nat) (n : Nat) :
    l.foldl (fun n i => n + bitsOf a i i) n = n + (l.filter fun i => a.testBit i).length := by
  induction l generalizing n with
  | nil => rfl
  | cons i l ih =>
    rw [List.foldl_cons, ih, bitsOf_bit]
    cases hbit : a.testBit i
    · simp [hbit]
    · simp [hbit]; omega

/-- A property of the first `n` numbers that `n` itself lacks. -/
theorem length_takeWhile_range {p : Nat → Bool} {n v : Nat} (hn : n ≤ v) (hbelow : ∀ i < n, p i = true) (hat : n < v → p n = false) :
    ((List.range v).takeWhile p).length = n := by
  obtain ⟨k, rfl⟩ := Nat.exists_eq_add_of_le hn
  have hall : ∀ i ∈ List.range n, p i = true := fun i hi => hbelow i (List.mem_range.1 hi)
  rw [List.range_add, List.takeWhile_append_of_pos hall]
  cases k with
  | zero => simp
  | succ k => simp [List.range_succ_eq_map, hat (by omega)]

/-! ## Elements and bytes of a lane (R247, R257) -/

theorem bitsOf_lt (x hi lo : Nat) : bitsOf x hi lo < 2 ^ (hi + 1 - lo) := Nat.mod_lt _ (Nat.two_pow_pos _)

theorem lt_of_mem_elems {w a : Nat} {x : W32} (h : a ∈ elems w x) : a < 2 ^ w := by
  obtain ⟨k, hk, rfl⟩ := List.mem_map.1 h
  have hw : 0 < w := Nat.pos_of_ne_zero fun hzero => by simp [upto, hzero] at hk
  have hlen : w * (k + 1) - 1 + 1 - w * k = w := by rw [Nat.mul_succ]; omega
  exact (bitsOf_lt _ _ _).trans_eq (by rw [hlen])

/-- An element rule is asked for values below `2 ^ w` alone. -/
theorem packed2_congr {w : Nat} {g g' : Nat → Nat → Nat} (h : ∀ a b, a < 2 ^ w → b < 2 ^ w → g a b = g' a b) (x y : W32) :
    packed2 w g x y = packed2 w g' x y := by
  have hzip : List.zipWith g (elems w x) (elems w y) = List.zipWith g' (elems w x) (elems w y) := by
    rw [← List.map_uncurry_zip_eq_zipWith, ← List.map_uncurry_zip_eq_zipWith]
    refine List.map_congr_left fun p hp => ?_
    obtain ⟨ha, hb⟩ := List.of_mem_zip hp
    exact h _ _ (lt_of_mem_elems ha) (lt_of_mem_elems hb)
  rw [packed2, packed2, hzip]

/-- A lane of full width is its one element. -/
theorem elems_full (x : W32) : elems 32 x = [x.toNat] := by
  simp [elems, upto, bitsOf, Nat.mod_eq_of_lt x.isLt]

theorem ofNat_joinElems_full (n : Nat) : BitVec.ofNat 32 (joinElems 32 [n]) = BitVec.ofNat 32 n := by
  simp [joinElems, ← BitVec.toNat_inj]

theorem packed1_full (g : Nat → Nat) (x : W32) : packed1 32 g x = BitVec.ofNat 32 (g x.toNat) := by
  rw [packed1, elems_full, List.map_singleton, ofNat_joinElems_full]

theorem packed2_full (g : Nat → Nat → Nat) (x y : W32) : packed2 32 g x y = BitVec.ofNat 32 (g x.toNat y.toNat) := by
  rw [packed2, elems_full, elems_full, List.zipWith_cons_cons, List.zipWith_nil_left, ofNat_joinElems_full]

/-- Elements put in place are read back from there. -/
theorem joinElems_element {w : Nat} {l : List Nat} {k x : Nat} (h : l[k]? = some x) : joinElems w l / 2 ^ (w * k) % 2 ^ w = x % 2 ^ w := by
  induction l generalizing k with
  | nil => cases h
  | cons y r ih =>
    cases k with
    | zero =>
      cases h
      rw [Nat.mul_zero, Nat.pow_zero, Nat.div_one, joinElems, Nat.add_mul_mod_self_left, Nat.mod_mod]
    | succ k =>
      have hrest : joinElems w (y :: r) / 2 ^ w = joinElems w r := by
        rw [joinElems, Nat.add_mul_div_left _ _ (Nat.two_pow_pos w), Nat.div_eq_of_lt (Nat.mod_lt _ (Nat.two_pow_pos w)), Nat.zero_add]
      rw [Nat.mul_succ, Nat.add_comm, Nat.pow_add, ← Nat.div_div_eq_div_mul, hrest, ih h]

theorem bitsOf_byte (x : W32) (k : Nat) : bitsOf x.toNat (8 * k + 7) (8 * k) = (x.extractLsb' (8 * k) 8).toNat := by
  have hlen : 8 * k + 7 + 1 - 8 * k = 8 := by omega
  rw [bitsOf, hlen, BitVec.extractLsb'_toNat, Nat.shiftRight_eq_div_pow]

theorem extractLsb'_ofNat {v start len : Nat} (h : start + len ≤ v) (n : Nat) :
    (BitVec.ofNat v n).extractLsb' start len = BitVec.ofNat len (n / 2 ^ start) := by
  refine BitVec.eq_of_getLsbD_eq fun i hi => ?_
  have hin : start + i < v := by omega
  rw [BitVec.getLsbD_extractLsb', BitVec.getLsbD_ofNat, BitVec.getLsbD_ofNat, Nat.testBit_div_two_pow, Nat.add_comm i start,
    decide_eq_true hin, Bool.true_and]

/-- Byte `k` of PERMB's result, by the selector as a number (R257). -/
theorem extractLsb'_permBytes (a b c : W32) {k : Nat} (hk : k < 4) :
    let sel := (c.extractLsb' (8 * k) 8).toNat
    (permBytes a b c).extractLsb' (8 * k) 8
      = if 128 ≤ sel then 0 else if sel % 8 < 4 then a.extractLsb' (8 * (sel % 8)) 8 else b.extractLsb' (8 * (sel % 8 - 4)) 8 := by
  intro sel
  have hbyte : (permBytes a b c).extractLsb' (8 * k) 8 = BitVec.ofNat 8 (if 128 ≤ sel then 0
      else if sel % 8 < 4 then (a.extractLsb' (8 * (sel % 8)) 8).toNat else (b.extractLsb' (8 * (sel % 8 - 4)) 8).toNat) := by
    rw [permBytes, extractLsb'_ofNat (by omega), ← BitVec.toNat_inj, BitVec.toNat_ofNat, BitVec.toNat_ofNat]
    refine joinElems_element ?_
    simp only [upto, List.getElem?_map, List.getElem?_range hk, Option.map_some, bitsOf_byte, ge_iff_le, sel]
  simp only [hbyte, apply_ite (BitVec.ofNat 8), BitVec.ofNat_toNat, BitVec.setWidth_eq]
  rfl

/-- The bits of a selector byte that count: bit 7 for a zero, bit 2 for B, bits 1:0 for the byte. -/
theorem selector_ite (sel : BitVec 8) (x y : Nat → BitVec 8) :
    (if 128 ≤ sel.toNat then 0 else if sel.toNat % 8 < 4 then x (sel.toNat % 8) else y (sel.toNat % 8 - 4))
      = if sel.getLsbD 7 then 0 else if sel.getLsbD 2 then y (sel.toNat % 4) else x (sel.toNat % 4) := by
  have hlt := sel.isLt
  have hzero : sel.getLsbD 7 = true ↔ 128 ≤ sel.toNat := by
    rw [BitVec.getLsbD, Nat.testBit_eq_decide_div_mod_eq, decide_eq_true_eq]
    omega
  have hhigh : sel.getLsbD 2 = true ↔ 4 ≤ sel.toNat % 8 := by
    rw [BitVec.getLsbD, Nat.testBit_eq_decide_div_mod_eq, decide_eq_true_eq]
    omega
  refine if_ctx_congr hzero.symm (fun _ => rfl) fun _ => ?_
  by_cases h : 4 ≤ sel.toNat % 8
  · have hplace : sel.toNat % 8 - 4 = sel.toNat % 4 := by omega
    rw [if_neg (Nat.not_lt.2 h), if_pos (hhigh.2 h), hplace]
  · have hplace : sel.toNat % 8 = sel.toNat % 4 := by omega
    rw [if_pos (Nat.not_le.1 h), if_neg (mt hhigh.1 h), hplace]

/-- The byte that a selector names (R257). -/
theorem permBytes_selects (a b c : W32) {k : Nat} (hk : k < 4) :
    let sel : BitVec 8 := c.extractLsb' (8 * k) 8
    (permBytes a b c).extractLsb' (8 * k) 8
      = if sel.getLsbD 7 then 0
        else if sel.getLsbD 2 then b.extractLsb' (8 * (sel.toNat % 4)) 8 else a.extractLsb' (8 * (sel.toNat % 4)) 8 :=
  (extractLsb'_permBytes a b c hk).trans (selector_ite _ (fun j => a.extractLsb' (8 * j) 8) fun j => b.extractLsb' (8 * j) 8)

/-! ## Bit fields, counts and handles (R255, R256, R302) -/

theorem bitInsert_eq_bitSum (v a c ctl : Nat) :
    bitInsert v a c ctl = bitSum (fun i =>
      if ctl % 128 ≤ i ∧ i < ctl % 128 + min (bitsOf ctl 14 8) v then a.testBit (i - ctl % 128) else c.testBit i) v := by
  simp only [bitInsert, bitSum, bitsOf_bit, Bool.and_eq_true, decide_eq_true_eq, apply_ite Bool.toNat]

/-- A field control for `len` unsigned bits from `pos` up. -/
theorem fieldControl {pos len : Nat} (hpos : pos < 128) (hlen : len < 128) :
    (pos + 256 * len) % 128 = pos ∧ bitsOf (pos + 256 * len) 14 8 = len ∧ bitsOf (pos + 256 * len) 7 7 = 0 := by
  simp only [bitsOf]
  omega

/-- A field inserted is read back (R255). -/
theorem bitExtract_bitInsert {v a c pos len : Nat} (hv : v ≤ 64) (hfits : pos + len ≤ v) :
    bitExtract v (bitInsert v a c (pos + 256 * len)) (pos + 256 * len) = a % 2 ^ len := by
  obtain ⟨hplace, hlen, hsign⟩ := fieldControl (pos := pos) (len := len) (by omega) (by omega)
  rw [bitInsert_eq_bitSum]
  have hmin : min len v = len := Nat.min_eq_left (Nat.le_trans (Nat.le_add_left len pos) hfits)
  simp only [bitExtract, hplace, hlen, hsign, hmin, Nat.zero_ne_one, decide_false, Bool.false_and, Bool.false_eq_true, if_false]
  refine Nat.eq_of_testBit_eq fun i => ?_
  rw [Nat.testBit_mod_two_pow, Nat.testBit_mod_two_pow, Nat.testBit_div_two_pow, testBit_bitSum]
  by_cases hi : i < len
  · have hin : i + pos < v := by omega
    have hfield : pos ≤ i + pos ∧ i + pos < pos + len := by omega
    rw [decide_eq_true hin, if_pos hfield, Nat.add_sub_cancel, Bool.true_and]
  · simp [hi]

theorem popCount_eq (v a : Nat) : popCount v a = ((upto v).filter fun i => a.testBit i).length :=
  (foldl_add_testBit a (upto v) 0).trans (Nat.zero_add _)

theorem leadZeros_eq (v a : Nat) : leadZeros v a = ((upto v).takeWhile fun i => !a.testBit (v - 1 - i)).length := by
  have hbit : ∀ j < v, a.testBit j = (a % 2 ^ v).testBit j := fun j hj => by rw [Nat.testBit_mod_two_pow, decide_eq_true hj, Bool.true_and]
  by_cases hzero : a % 2 ^ v = 0
  · rw [leadZeros, if_pos hzero]
    refine (length_takeWhile_range le_rfl (fun i hi => ?_) fun h => absurd h (lt_irrefl v)).symm
    rw [hbit _ (by omega), hzero, Nat.zero_testBit, Bool.not_false]
  · have htop : (a % 2 ^ v).log2 < v := (Nat.log2_lt hzero).2 (Nat.mod_lt _ (Nat.two_pow_pos v))
    rw [leadZeros, if_neg hzero]
    refine (length_takeWhile_range (Nat.sub_le_of_le_add (by omega)) (fun i hi => ?_) fun _ => ?_).symm
    · have habove : a % 2 ^ v < 2 ^ (v - 1 - i) := (Nat.log2_lt hzero).1 (by omega)
      rw [hbit _ (by omega), Nat.testBit_lt_two_pow habove, Bool.not_false]
    · have hat : v - 1 - (v - 1 - (a % 2 ^ v).log2) = (a % 2 ^ v).log2 := by omega
      rw [hat, hbit _ htop, Nat.testBit_log2 hzero, Bool.not_true]

/-- The fields of a handle are read back (R302). -/
theorem handleFields_mkHandle {kind rights jar gen dev : Nat} (hkind : kind < 16) (hrights : rights < 16) (hjar : jar < 2 ^ 24)
    (hgen : gen < 2 ^ 24) (hdev : dev < 256) :
    let h := mkHandle kind rights jar gen dev
    handleKind h = kind ∧ handleRights h = rights ∧ handleJar h = jar ∧ handleGen h = gen ∧ handleDev h = dev := by
  simp only [mkHandle, handleKind, handleRights, handleJar, handleGen, handleDev, bitsOf, BitVec.toNat_ofNat]
  omega

end Sys2Proof.Machine
end

section
/-!
PROOF. Integer, bit and predicate words (R247 to R264): no word of these has checks of its own, so each completes with its result. The rule that the
model runs on an element and the rule that the statement gives agree on every value that an element can have.
-/

namespace Sys2Proof.Machine

/-! ## The rules of R250 to R254 as numbers wrapped -/

theorem elAdd_eq (w a b : Nat) : elAdd w a b = wrapInt w ((a : Int) + b) := (wrapInt_natCast w (a + b)).symm

theorem elMul_eq (w a b : Nat) : elMul w a b = wrapInt w ((a : Int) * b) := by
  rw [elMul, ← wrapInt_natCast, Int.natCast_mul]

theorem elMin_signed {w a b : Nat} (ha : a < 2 ^ w) (hb : b < 2 ^ w) : elMin 0 w a b = wrapInt w (min (sextInt a w) (sextInt b w)) := by
  rw [min_def, apply_ite (wrapInt w), wrapInt_sextInt, wrapInt_sextInt, Nat.mod_eq_of_lt ha, Nat.mod_eq_of_lt hb]
  rfl

theorem elMax_signed {w a b : Nat} (ha : a < 2 ^ w) (hb : b < 2 ^ w) : elMax 0 w a b = wrapInt w (max (sextInt a w) (sextInt b w)) := by
  rw [max_def, apply_ite (wrapInt w), wrapInt_sextInt, wrapInt_sextInt, Nat.mod_eq_of_lt ha, Nat.mod_eq_of_lt hb]
  rfl

theorem elSubS_unsigned (w a b : Nat) : elSubS 1 w a b = (max ((a : Int) - b) 0).toNat := by
  rw [elSubS, if_neg Nat.one_ne_zero]
  omega

theorem elShl_eq (w a n : Nat) : elShl w a n = if w ≤ n then 0 else a * 2 ^ n % 2 ^ w := by
  simp only [elShl, ← Nat.not_le, ite_not]

theorem elShr_eq (w a n : Nat) : elShr w a n = if w ≤ n then 0 else a / 2 ^ n := by
  simp only [elShr, ← Nat.not_le, ite_not]

theorem elSar_eq (w a n : Nat) : elSar w a n = wrapInt w (Int.fdiv (sextInt a w) (2 ^ min n (w - 1))) := by
  have hamount : (if n < w then n else w - 1) = min n (w - 1) := by split <;> omega
  rw [elSar, hamount]

/-! ## Words that complete with their result -/

section Words
variable {s : State} {i : Instr} {f : Fields} {e : Env}

/-- A word whose body only makes a result completes with it. -/
theorem completes_of_ok {g : Env → State} {body : Env → State → Verdict} (hexec : exec i s = issue i s body)
    (hbody : ∀ e, e.f = f → body e s = .ok (g e)) : completes s i f g := fun e h => by
  rw [hexec, issue_atTurn body h, hbody e h.fields, conclude_ok]

/-- A word with an element rule over A and B completes with any rule that agrees with it on the values of elements. -/
theorem completes_elementwise2 {g : Env → Nat → Nat → Nat → Nat} {g' : Nat → Nat → Nat → Nat}
    (hexec : exec i s = issue i s fun e s => intBinary e s (g e))
    (hg : ∀ e, e.f = f → ∀ w a b, a < 2 ^ w → b < 2 ^ w → g e w a b = g' w a b) : completes s i f fun e => elementwise2 e s g' := by
  refine completes_of_ok hexec fun e he => ?_
  have hwide : g e 64 (scalA e) (scalB e) = g' 64 (scalA e) (scalB e) := hg e he 64 _ _ (BitVec.isLt _) (BitVec.isLt _)
  rw [elementwise2, ← hwide]
  simp only [← packed2_congr (hg e he (elemWidth e.f))]
  exact laneOrScalar_eq e s _ _

/-- Such a word whose rule goes by its code field. -/
theorem completes_coded {k : BitVec 8} {el : Nat → Nat → Nat → Nat → Nat} {g : Nat → Nat → Nat → Nat}
    (hexec : exec i s = issue i s fun e s => intBinary e s (el (kcode e))) (hcode : f.c = k)
    (hg : ∀ w a b, a < 2 ^ w → b < 2 ^ w → el k.toNat w a b = g w a b) : completes s i f fun e => elementwise2 e s g := by
  refine completes_elementwise2 hexec fun e he => ?_
  rw [kcode, he, hcode]
  exact hg

/-- A word with an element rule over A. -/
theorem completes_elementwise1 {g g' : Nat → Nat → Nat} (hexec : exec i s = issue i s fun e s => intUnary e s g)
    (hg : ∀ w a, g w a = g' w a) : completes s i f fun e => elementwise1 e s g' := by
  obtain rfl : g = g' := funext₂ hg
  exact completes_of_ok hexec fun e _ => laneOrScalar_eq e s _ _

/-- A word with a rule over A, B and C. -/
theorem completes_whole3 {g g' : Nat → Nat → Nat → Nat → Nat} (hexec : exec i s = issue i s fun e s => intTernary e s g)
    (hg : ∀ w a b c, g w a b c = g' w a b c) : completes s i f fun e => whole3 e s g' := by
  obtain rfl : g = g' := funext₃ fun w a b => funext (hg w a b)
  exact completes_of_ok hexec fun e _ => laneOrScalar_eq e s _ _

/-- A shift. -/
theorem completes_shiftwise {g g' : Nat → Nat → Nat → Nat} (hexec : exec i s = issue i s fun e s => intShift e s g)
    (hg : ∀ w a n, g w a n = g' w a n) : completes s i f fun e => shiftwise e s g' := by
  obtain rfl : g = g' := funext₃ hg
  exact completes_of_ok hexec fun e _ => laneOrScalar_eq e s _ _

/-- A form in order names one of its widths. -/
theorem width_mem_of_errors {fm : Form} (h : fm.errors f = []) : fm.ws.contains f.w.toNat = true := by
  unfold Form.errors at h
  simp only [List.append_eq_nil_iff] at h
  obtain ⟨⟨⟨-, hw⟩, -⟩, -⟩ := h
  by_contra hbad
  rw [if_neg hbad] at hw
  cases hw

/-- A word whose form has W 00 alone acts on elements of 32 bits. -/
theorem elemWidth_of_fullForm (h : wordAtTurn s i f e) (heng : (formOf i).eng ≠ .mat) (hws : (formOf i).ws = [0]) : elemWidth e.f = 32 := by
  have hmem := width_mem_of_errors (h.errors_eq_nil heng)
  have hw : f.w.toNat = 0 := by simpa [hws] using hmem
  simp only [h.fields, elemWidth, hw]

/-- A bitwise word over A and B acts on the whole operands (R253). -/
theorem completes_bitwise2 {g : Nat → Nat → Nat} {op : {n : Nat} → BitVec n → BitVec n → BitVec n}
    (hexec : exec i s = issue i s fun e s => intBinary e s fun _ => g) (heng : (formOf i).eng ≠ .mat) (hws : (formOf i).ws = [0])
    (hop : ∀ {n} (x y : BitVec n), (op x y).toNat = g x.toNat y.toNat) :
    completes s i f fun e => resultD e s (op (raw64 e (srcA f)) (raw64 e (srcB f))) fun l => op (laneA e l) (laneB e l) := by
  intro e h
  obtain rfl : e.f = f := h.fields
  rw [hexec, issue_atTurn _ h]
  simp only [intBinary, laneOrScalar_eq, conclude_ok, elemWidth_of_fullForm h heng hws, packed2_full, ← hop, BitVec.ofNat_toNat,
    BitVec.setWidth_eq]
  rfl

/-- The codes above 2, and each of 0 to 2. -/
theorem kcode_cases (e : Env) : (∃ n, kcode e = n + 3 ∧ e.f.c ≠ 0 ∧ e.f.c ≠ 1 ∧ e.f.c ≠ 2)
    ∨ kcode e = 0 ∧ e.f.c = 0 ∨ kcode e = 1 ∧ e.f.c = 1 ∨ kcode e = 2 ∧ e.f.c = 2 := by
  simp only [kcode, ne_eq, ← BitVec.toNat_inj, BitVec.ofNat_eq_ofNat, BitVec.toNat_ofNat]
  by_cases hbig : 3 ≤ e.f.c.toNat
  · obtain ⟨n, hn⟩ := Nat.exists_eq_add_of_le' hbig
    exact .inl ⟨n, hn, by omega⟩
  · omega

end Words

/-- Settles O8: each word completes with its body's result, and a bitwise word has elements of 32 bits alone. -/
theorem movesAndLogic : Obligations.MovesAndLogic := by
  intro s f
  refine ⟨completes_of_ok (rfl : _ = execNop f s) fun _ _ => rfl, ?mov, ?movi, ?sel, ?and, ?or, ?xor, ?not⟩
  case mov => exact completes_of_ok (rfl : _ = execMov f s) fun e he => by subst he; exact laneOrScalar_eq e s _ _
  case movi =>
    refine completes_of_ok (rfl : _ = execMovi f s) fun e _ => (laneOrScalar_eq e s _ _).trans ?_
    rcases space_cases f.w with hw | hw | hw | hw
    all_goals
      rw [hw]
      rfl
  case sel => exact completes_of_ok (rfl : _ = execSel f s) fun e he => by subst he; rfl
  case and => exact completes_bitwise2 (op := fun x y => x &&& y) (rfl : _ = execAnd f s) nofun (ite_self _) BitVec.toNat_and
  case or => exact completes_bitwise2 (op := fun x y => x ||| y) (rfl : _ = execOr f s) nofun (ite_self _) BitVec.toNat_or
  case xor => exact completes_bitwise2 (op := fun x y => x ^^^ y) (rfl : _ = execXor f s) nofun (ite_self _) BitVec.toNat_xor
  case not =>
    intro e h
    obtain rfl : e.f = f := h.fields
    have hnot {n : Nat} (x : BitVec n) : BitVec.ofNat n (2 ^ n - 1 - x.toNat) = ~~~x := by
      rw [← BitVec.toNat_not, BitVec.ofNat_toNat, BitVec.setWidth_eq]
    refine (issue_atTurn _ h : execNot e.f s = _).trans ?_
    simp only [intUnary, laneOrScalar_eq, conclude_ok, elemWidth_of_fullForm h nofun (ite_self _), packed1_full, hnot]
    rfl

/-- Settles O9: an element rule of the model is the statement's, signed or unsigned as the code says. -/
theorem integerArithmetic : Obligations.IntegerArithmetic := by
  intro s f
  refine ⟨?iadd, ?isub, ?imul, ?imulh, ?imad, ?imadw, ?iaddc, fun hcode => ⟨?imin, ?imax, ?iadds, ?isubs⟩,
    fun hcode => ⟨?iminU, ?imaxU, ?iaddsU, ?isubsU⟩, ?iabs⟩
  case iadd => exact completes_elementwise2 (g := fun _ => elAdd) (rfl : _ = execIadd f s) fun _ _ w a b _ _ => elAdd_eq w a b
  case isub => exact completes_elementwise2 (g := fun _ => elSub) (rfl : _ = execIsub f s) fun _ _ _ _ _ _ _ => rfl
  case imul => exact completes_elementwise2 (g := fun _ => elMul) (rfl : _ = execImul f s) fun _ _ w a b _ _ => elMul_eq w a b
  case imulh =>
    refine completes_elementwise2 (g := fun e => mulHigh (kcode e)) (rfl : _ = execImulh f s) fun e he w a b _ _ => if_congr ?_ rfl rfl
    rw [kcode, he]
    exact BitVec.toNat_inj (y := 0#8)
  case imad => exact completes_whole3 (rfl : _ = execImad f s) fun w a b c => by rw [← wrapInt_natCast, Int.natCast_add, Int.natCast_mul]
  case imadw =>
    refine completes_of_ok (rfl : _ = execImadw f s) fun e he => ?_
    subst he
    simp only [ofNat_wrapInt, sextInt_toNat]
    rfl
  case iaddc =>
    refine completes_of_ok (rfl : _ = execIaddc f s) fun e he => ?_
    subst he
    by_cases hd : e.f.dsp = 1
    · rw [if_pos (uniformD_iff.2 hd), if_pos hd]
      rfl
    · rw [if_neg (mt uniformD_iff.1 hd), if_neg hd]
      rfl
  case iabs => exact completes_elementwise1 (rfl : _ = execIabs f s) fun _ _ => rfl
  case imin => exact completes_coded (rfl : _ = execImin f s) hcode fun _ _ _ => elMin_signed
  case imax => exact completes_coded (rfl : _ = execImax f s) hcode fun _ _ _ => elMax_signed
  case iadds => exact completes_coded (rfl : _ = execIadds f s) hcode fun _ _ _ _ _ => rfl
  case isubs => exact completes_coded (rfl : _ = execIsubs f s) hcode fun _ _ _ _ _ => rfl
  case iminU => exact completes_coded (rfl : _ = execImin f s) hcode fun _ _ _ _ _ => rfl
  case imaxU => exact completes_coded (rfl : _ = execImax f s) hcode fun _ _ _ _ _ => rfl
  case iaddsU => exact completes_coded (rfl : _ = execIadds f s) hcode fun _ _ _ _ _ => rfl
  case isubsU => exact completes_coded (rfl : _ = execIsubs f s) hcode fun w a b _ _ => elSubS_unsigned w a b

/-- Settles O10: each shift's rule is the statement's at every amount. -/
theorem shiftsAndRotates : Obligations.ShiftsAndRotates := by
  intro s f
  exact ⟨completes_shiftwise (rfl : _ = execShl f s) elShl_eq, completes_shiftwise (rfl : _ = execShr f s) elShr_eq,
    completes_shiftwise (rfl : _ = execSar f s) elSar_eq, completes_shiftwise (rfl : _ = execRol f s) fun _ _ _ => rfl⟩

/-- Settles O11: each word completes with its rule, and the two counts are those of the bits that are tested. -/
theorem bitFieldsAndCounts : Obligations.BitFieldsAndCounts := by
  intro s f
  refine ⟨?bfx, ?bfi, ?popc, ?clz, ?brev, ?permb⟩
  case bfx => exact completes_elementwise2 (g := fun _ => bitExtract) (rfl : _ = execBfx f s) fun _ _ _ _ _ _ _ => rfl
  case bfi => exact completes_whole3 (rfl : _ = execBfi f s) fun _ _ _ _ => rfl
  case popc => exact completes_elementwise1 (rfl : _ = execPopc f s) popCount_eq
  case clz => exact completes_elementwise1 (rfl : _ = execClz f s) leadZeros_eq
  case brev => exact completes_elementwise1 (rfl : _ = execBrev f s) fun _ _ => rfl
  case permb => exact completes_of_ok (rfl : _ = execPermb f s) fun e he => by subst he; rfl

/-- Settles O12: by the byte that a selector names, by the bits of an inserted field, and by the places of a handle's fields. -/
theorem fieldsReadBackFromTheirWords : Obligations.FieldsReadBackFromTheirWords := by
  refine ⟨fun a b c k hk => permBytes_selects a b c hk, fun v a c pos len hv hfits _ _ => bitExtract_bitInsert ?_ hfits,
    fun _ _ _ _ _ => handleFields_mkHandle⟩
  omega

/-- Settles O13: the results are the model's, read by the fields of the word. -/
theorem conversionPackingAndShuffle : Obligations.ConversionPackingAndShuffle := by
  intro s f
  refine ⟨?cvti, ?pack, ?unpk, ?shfl⟩
  case cvti =>
    refine completes_of_ok (rfl : _ = execCvti f s) fun e he => ?_
    subst he
    simp only [ofNat_wrapInt]
    exact laneOrScalar_eq e s _ _
  case pack => exact completes_of_ok (rfl : _ = execPack f s) fun e he => by subst he; rfl
  case unpk =>
    refine completes_of_ok (rfl : _ = execUnpk f s) fun e he => ?_
    subst he
    simp only [BitVec.getLsbD, Nat.testBit_zero, decide_eq_true_eq]
    rfl
  case shfl =>
    refine completes_of_ok (rfl : _ = execShfl f s) fun e he => ?_
    subst he
    refine congrArg (fun x => Verdict.ok (writeLanes e s x)) (funext fun l => ?_)
    simp only [Bool.and_eq_true, decide_eq_true_eq, and_assoc]
    rcases kcode_cases e with ⟨n, hk, h0, h1, h2⟩ | ⟨hk, hc⟩ | ⟨hk, hc⟩ | ⟨hk, hc⟩
    · rw [hk, if_neg h0, if_neg h1, if_neg h2]
      rfl
    all_goals
      rw [hk, hc]
      rfl

/-- Settles O14: each word writes the truth that its code, its table or its vote gives. -/
theorem predicatesAreWrittenInActiveLanes : Obligations.PredicatesAreWrittenInActiveLanes := by
  intro s f
  refine ⟨?icmp, ?plop, ?vote⟩
  case icmp =>
    refine completes_of_ok (rfl : _ = execIcmp f s) fun e he => ?_
    subst he
    simp only [wideCompare, Bool.and_eq_true, Bool.or_eq_true, beq_iff_eq]
    rfl
  case plop =>
    have hplace (p : Bool) (n : Nat) : (if p then n else 0) = n * p.toNat := by cases p <;> simp
    refine completes_of_ok (rfl : _ = execPlop f s) fun e _ => ?_
    simp only [hplace, Nat.one_mul]
  case vote =>
    refine completes_of_ok (rfl : _ = execVote f s) fun e he => ?_
    subst he
    simp only [decide_not, Bool.decide_or]
    rcases kcode_cases e with ⟨n, hk, h0, h1, h2⟩ | ⟨hk, hc⟩ | ⟨hk, hc⟩ | ⟨hk, hc⟩
    · rw [hk, if_neg h0, if_neg h1, if_neg h2]
      exact laneOrScalar_eq e s _ _
    all_goals
      rw [hk, hc]
      rfl

end Sys2Proof.Machine
end

section
/-!
PROOF. REDW (R265): the end of its flags, and its sum, which every level of the combining tree keeps.
-/

namespace Sys2Proof.Machine

/-! ## The sum in the combining tree -/

/-- The sum of the operands that stand at a level of the tree. -/
def levelSum (l : List (Option W32)) : W32 := (l.map (·.getD 0)).sum

/-- Each level of the tree keeps the sum. -/
theorem levelSum_treeLevel : ∀ l : List (Option W32), levelSum (treeLevel (· + ·) l) = levelSum l
  | [] => rfl
  | [_] => rfl
  | x :: y :: r => by
    have hrest : (((treeLevel (· + ·) r).map (·.getD 0)).sum : W32) = (r.map (·.getD 0)).sum := levelSum_treeLevel r
    simp only [levelSum, treeLevel, List.map_cons, List.sum_cons, hrest, ← BitVec.add_assoc]
    cases x <;> cases y <;> simp

/-- Each level of the tree halves the count, an odd one rounded up. -/
theorem length_treeLevel {α : Type} (g : α → α → α) : ∀ l : List (Option α), (treeLevel g l).length = (l.length + 1) / 2
  | [] => by simp [treeLevel]
  | [_] => by simp [treeLevel]
  | x :: y :: r => by
    simp only [treeLevel, List.length_cons, length_treeLevel g r]
    omega

/-- The leaves hold the sum over the lanes that are active among them. -/
theorem levelSum_leaves (p : Nat → Bool) (x : Nat → W32) (l : List Nat) :
    levelSum (l.map fun i => if p i then some (x i) else none) = ((l.filter p).map x).sum := by
  induction l with
  | nil => rfl
  | cons i r ih =>
    have hcons (y : Option W32) (r : List (Option W32)) : levelSum (y :: r) = y.getD 0 + levelSum r := List.sum_cons
    rw [List.map_cons, hcons, ih]
    cases hp : p i <;> simp [hp]

theorem levelSum_iterate_treeLevel (n : Nat) (l : List (Option W32)) : levelSum ((treeLevel (· + ·))^[n] l) = levelSum l := by
  induction n with
  | zero => rfl
  | succ n ih => rw [Function.iterate_succ_apply', levelSum_treeLevel, ih]

/-- What the fifth level leaves alone is the tree's result. -/
theorem treeReduce_of_root {α : Type} {g : α → α → α} {act : W32} {x : Nat → α} {r : Option α}
    (h : (treeLevel g)^[5] ((upto 32).map fun l => if act.getLsbD l then some (x l) else none) = [r]) : treeReduce g act x = r := by
  simp only [Function.iterate_succ_apply', Function.iterate_zero, id] at h
  simp only [treeReduce, h]

/-- The tree of sums gives the sum over the active lanes. -/
theorem treeReduce_add (act : W32) (x : Nat → W32) : (treeReduce (· + ·) act x).getD 0 = ((lanesOf act).map x).sum := by
  have hlength : ((treeLevel (· + ·))^[5] ((upto 32).map fun l => if act.getLsbD l then some (x l) else none)).length = 1 := by
    simp [Function.iterate_succ_apply', length_treeLevel, upto]
  obtain ⟨r, hroot⟩ := List.length_eq_one_iff.1 hlength
  calc (treeReduce (· + ·) act x).getD 0 = levelSum [r] := by rw [treeReduce_of_root hroot]; simp [levelSum]
    _ = levelSum ((upto 32).map fun l => if act.getLsbD l then some (x l) else none) := by rw [← hroot, levelSum_iterate_treeLevel]
    _ = ((lanesOf act).map x).sum := levelSum_leaves _ x _

theorem toNat_sum_map (x : Nat → W32) (l : List Nat) : (l.map x).sum.toNat = (l.map fun i => (x i).toNat).sum % 2 ^ 32 := by
  induction l with
  | nil => rfl
  | cons i r ih => simp [ih]

/-- REDW's sum of 32-bit elements (R265). -/
theorem redResult_sum {e : Env} (hcode : e.f.c = 0) (hw : e.f.w = 0) :
    (redResult e).1 = ((lanesOf e.act).map fun l => (laneA e l).toNat).sum % 2 ^ 32 := by
  have hk : kcode e = 0 := by rw [kcode, hcode]; rfl
  have hwidth : elemWidth e.f = 32 := by rw [elemWidth, hw]; rfl
  have hadd : packed2 32 (redCombine 0 32) = (· + ·) := funext₂ fun x y => by
    rw [packed2_full, ← BitVec.toNat_inj]
    simp [redCombine, elAdd]
  have hresult : (redResult e).1 = ((treeReduce (· + ·) e.act (laneA e)).getD 0).toNat := by
    simp only [redResult, hk, hwidth, hadd]
    rfl
  rw [hresult, treeReduce_add, toNat_sum_map]

/-- Settles O19: with no active lane, or none of its flags trapped, REDW writes its result; each level of the tree keeps the sum. -/
theorem redwCombinesActiveLanes : Obligations.RedwCombinesActiveLanes := by
  refine ⟨fun s f e h hok => ?_, fun e _ hcode hw => redResult_sum hcode hw⟩
  obtain rfl : e.f = f := h.fields
  refine outcome_atTurn (v := .ok _) (rfl : _ = execRedw e.f s) h ?_
  by_cases hact : e.act = 0
  · simp only [if_pos hact]
  · simp only [if_neg hact, finishFlags_of_disabled (hok.resolve_left hact), uniformD_iff]

end Sys2Proof.Machine
end

section
/-!
PROOF. The issue of copies (R42, R290, R292, R318 to R320): where there is room, an operation enters the copy engine; with no active lane, or no byte,
its counter is raised and lowered.
-/

namespace Sys2Proof.Machine

/-! ## An operation that finds room -/

/-- The state in which a copy word has counted and done nothing. -/
def copyIdled (s : State) (e : Env) : State :=
  lower (pushOp s (mkOp s e.who e.w .none (some (counterName e.f)) e.va (e.k.words.getD e.k.idx 0) (pathFlags e.p) [] false .complete))

theorem issueCopy_of_copyRoom {s : State} {e : Env} (h : copyRoom s e) (k : OpKind) (regWork memory : Bool) (xs : List Access) :
    issueCopy s e k regWork memory xs = .ok (copyIssued s e k regWork memory xs) := if_neg (Bool.eq_false_iff.1 h)

theorem issueIdle_of_copyRoom {s : State} {e : Env} (h : copyRoom s e) : issueIdle s e = .ok (copyIdled s e) := if_neg (Bool.eq_false_iff.1 h)

/-! ## What a task or a DET sweep refuses -/

theorem refusedIn_of_idle {s : State} {e : Env} (task det : Bool) (hact : e.act = 0) : refusedIn task det e s = [] := by
  simp only [refusedIn, hact, ne_eq, not_true_eq_false, decide_false, Bool.false_and, Bool.false_eq_true, if_false]

theorem refusedIn_of_allowed {s : State} {e : Env} {task det : Bool} (htask : task = true → e.w.task = none) (hdet : det = true → isDet s e.t = false) :
    refusedIn task det e s = [] := by
  have htask' : (task && e.w.task.isSome) = false := by
    cases task
    · rfl
    · rw [htask rfl]; rfl
  have hdet' : (det && isDet s e.t) = false := by
    cases det
    · rfl
    · rw [hdet rfl]; rfl
  simp only [refusedIn, htask', hdet', Bool.or_self, Bool.and_false, Bool.false_eq_true, if_false]

/-! ## The words -/

section Words
variable {s : State} {i : Instr} {f : Fields} {e : Env}

/-- With no active lane a word of the copy engine counts and does nothing (R42). -/
theorem exec_copyWord_of_idle (hi : i = .cpy f ∨ i = .cpyt f ∨ i = .gath f ∨ i = .scat f ∨ i = .qblk f ∨ i = .stgput f ∨ i = .stgget f ∨ i = .stgrel f
      ∨ i = .talloc f ∨ i = .tdrop f ∨ i = .tsend f ∨ i = .trecv f ∨ i = .coll f)
    (h : wordAtTurn s i f e) (hact : e.act = 0) (hroom : copyRoom s e) : exec i s = .next (retired (copyIdled s e) e) := by
  have hidle : ∀ v, (if e.act = 0 then issueIdle s e else v) = .ok (copyIdled s e) := fun v => (if_pos hact).trans (issueIdle_of_copyRoom hroom)
  rcases hi with rfl | rfl | rfl | rfl | rfl | rfl | rfl | rfl | rfl | rfl | rfl | rfl | rfl
  · exact outcome_atTurn (rfl : _ = execCpy f s) h (hidle _)
  · exact outcome_atTurn (rfl : _ = execCpyt f s) h (hidle _)
  · exact outcome_atTurn (rfl : _ = execGath f s) h (hidle _)
  · exact outcome_atTurn (rfl : _ = execScat f s) h (hidle _)
  · exact outcome_atTurn (rfl : _ = execQblk f s) h (hidle _)
  · exact outcome_atTurn (rfl : _ = execStgput f s) h (hidle _)
  · exact outcome_atTurn (rfl : _ = execStgget f s) h (hidle _)
  · exact outcome_atTurn (rfl : _ = execStgrel f s) h (hidle _)
  · exact outcomeWith_atTurn (rfl : _ = execTalloc f s) h (refusedIn_of_idle _ _ hact) (hidle _)
  · exact outcomeWith_atTurn (rfl : _ = execTdrop f s) h (refusedIn_of_idle _ _ hact) (hidle _)
  · exact outcomeWith_atTurn (rfl : _ = execTsend f s) h (refusedIn_of_idle _ _ hact) (hidle _)
  · exact outcomeWith_atTurn (rfl : _ = execTrecv f s) h (refusedIn_of_idle _ _ hact) (hidle _)
  · exact outcomeWith_atTurn (rfl : _ = execColl f s) h (refusedIn_of_idle _ _ hact) (hidle _)

/-- CPY of some bytes whose ranges pass. -/
theorem exec_cpy_of_parts (h : wordAtTurn s (.cpy f) f e) (hact : e.act ≠ 0) (hpos : 0 < scalarOrImm e) (hlt : scalarOrImm e < 2 ^ 32)
    (hparts : partsFault s e (lowLevel f) (highLevel f) [⟨sideAddr e f.d, sideAddr e f.a, scalarOrImm e⟩] = none) (hroom : copyRoom s e) :
    exec (.cpy f) s = .next (retired (copyIssued s e
      (.copy (lowLevel f) (highLevel f) (sideAddr e f.d) (sideAddr e f.a) 1 (scalarOrImm e) 0 0) false true []) e) := by
  refine outcome_atTurn (v := .ok _) (rfl : _ = execCpy f s) h ?_
  simp only [if_neg hact, ge_iff_le, if_neg (Nat.not_le.2 hlt), if_neg (Nat.ne_of_gt hpos), hparts, issueCopy_of_copyRoom hroom]

theorem exec_cpy_of_zero (h : wordAtTurn s (.cpy f) f e) (hact : e.act ≠ 0) (hzero : scalarOrImm e = 0) (hroom : copyRoom s e) :
    exec (.cpy f) s = .next (retired (copyIdled s e) e) := by
  refine outcome_atTurn (v := .ok _) (rfl : _ = execCpy f s) h ?_
  simp only [if_neg hact, hzero, issueIdle_of_copyRoom hroom]
  rfl

/-! CPYT reads its rows and bytes from the low half of one scalar, its strides from the next (R319). -/

theorem bitsOf_low16 (x : Nat) : bitsOf x 15 0 = x % 65536 := congrArg (· % 65536) (Nat.div_one x)

theorem bitsOf_high16 {x : Nat} (h : x < 2 ^ 32) : bitsOf x 31 16 = x / 65536 := Nat.mod_eq_of_lt (by omega)

theorem bitsOf_low32 (x : Nat) : bitsOf x 31 0 = x % 2 ^ 32 := congrArg (· % 2 ^ 32) (Nat.div_one x)

theorem bitsOf_high32 (x : Word) : bitsOf x.toNat 63 32 = x.toNat / 2 ^ 32 := Nat.mod_eq_of_lt (by have := x.isLt; omega)

/-- 32 bits of a number read as signed. -/
theorem sextInt_mod32 (x : Nat) : sextInt (x % 2 ^ 32) 32 = (BitVec.ofNat 32 x).toInt := by
  rw [← sextInt_toNat, BitVec.toNat_ofNat]

section Tiles
variable (hlt : (e.p.s f.b.toNat).toNat < 2 ^ 32) (hfits : (e.p.s f.b.toNat).toNat / 65536 ≤ 49152)
include hlt hfits

/-- The bytes of a row and the bits above them pass CPYT's own check. -/
theorem cpyt_field_good :
    ¬ (decide (49152 < (e.p.s f.b.toNat).toNat / 65536) || decide (bitsOf (e.p.s f.b.toNat).toNat 63 32 ≠ 0)) = true := by
  rw [bitsOf_high32, Nat.div_eq_of_lt hlt]
  simpa using hfits

/-- CPYT of some rows of some bytes whose ranges pass. -/
theorem exec_cpyt_of_parts (h : wordAtTurn s (.cpyt f) f e) (hact : e.act ≠ 0) (hrows : 0 < (e.p.s f.b.toNat).toNat % 65536)
    (hbytes : 0 < (e.p.s f.b.toNat).toNat / 65536) {ds ss : Int} (hds : ds = (BitVec.ofNat 32 ((e.p.s (f.b.toNat + 1)).toNat / 2 ^ 32)).toInt)
    (hss : ss = (BitVec.ofNat 32 (e.p.s (f.b.toNat + 1)).toNat).toInt)
    (hparts : partsFault s e (lowLevel f) (highLevel f) (tileRows (sideAddr e f.d) (sideAddr e f.a) ((e.p.s f.b.toNat).toNat % 65536)
      ((e.p.s f.b.toNat).toNat / 65536) ds ss) = none) (hroom : copyRoom s e) :
    exec (.cpyt f) s = .next (retired (copyIssued s e (.copy (lowLevel f) (highLevel f) (sideAddr e f.d) (sideAddr e f.a)
      ((e.p.s f.b.toNat).toNat % 65536) ((e.p.s f.b.toNat).toNat / 65536) ds ss) false true []) e) := by
  refine outcome_atTurn (v := .ok _) (rfl : _ = execCpyt f s) h ?_
  have hsome : ¬ (decide ((e.p.s f.b.toNat).toNat % 65536 = 0) || decide ((e.p.s f.b.toNat).toNat / 65536 = 0)) = true := by
    simp [Nat.ne_of_gt hrows, Nat.ne_of_gt hbytes]
  rw [← sextInt_mod32] at hds hss
  have hds' : ds = sextInt (bitsOf (e.p.s (f.b.toNat + 1)).toNat 63 32) 32 := hds
  rw [← bitsOf_low32] at hss
  simp only [if_neg hact, bitsOf_low16, bitsOf_high16 hlt, if_neg (cpyt_field_good hlt hfits), if_neg hsome, ← hds', ← hss, hparts,
    issueCopy_of_copyRoom hroom]

theorem exec_cpyt_of_zero (h : wordAtTurn s (.cpyt f) f e) (hact : e.act ≠ 0)
    (hzero : (e.p.s f.b.toNat).toNat % 65536 = 0 ∨ (e.p.s f.b.toNat).toNat / 65536 = 0) (hroom : copyRoom s e) :
    exec (.cpyt f) s = .next (retired (copyIdled s e) e) := by
  refine outcome_atTurn (v := .ok _) (rfl : _ = execCpyt f s) h ?_
  have hnone : (decide ((e.p.s f.b.toNat).toNat % 65536 = 0) || decide ((e.p.s f.b.toNat).toNat / 65536 = 0)) = true := by simpa using hzero
  simp only [if_neg hact, bitsOf_low16, bitsOf_high16 hlt, if_neg (cpyt_field_good hlt hfits), if_pos hnone, issueIdle_of_copyRoom hroom]

end Tiles

/-- GATH and SCAT of a list that is aligned and lies in the core area; `scatter` says which. -/
theorem exec_gather_atTurn {scatter : Bool} (hi : i = .gath f ∧ scatter = false ∨ i = .scat f ∧ scatter = true) (h : wordAtTurn s i f e)
    (hact : e.act ≠ 0) (hcount : (e.p.s f.b.toNat).toNat / 2 ^ 32 ≤ 65536) (halign : (e.p.s f.b.toNat).toNat % 2 ^ 32 % 4 = 0)
    (hrange : sideRange s e.t e.c .core ((e.p.s f.b.toNat).toNat % 2 ^ 32 : Nat) (4 * ((e.p.s f.b.toNat).toNat / 2 ^ 32)) = none) :
    exec i s = .next (conclude s e (
      if (e.p.s f.b.toNat).toNat / 2 ^ 32 = 0 then issueIdle s e
      else issueCopy s e (.gather scatter (lowLevel f) (highLevel f) (sideAddr e f.d) (sideAddr e f.a) (2 ^ f.bmod.toNat)
        ((e.p.s f.b.toNat).toNat % 2 ^ 32) ((e.p.s f.b.toNat).toNat / 2 ^ 32)) false true [])) := by
  obtain rfl : e.f = f := h.fields
  have hbody : issueGather s e scatter = if (e.p.s e.f.b.toNat).toNat / 2 ^ 32 = 0 then issueIdle s e
      else issueCopy s e (.gather scatter (lowLevel e.f) (highLevel e.f) (sideAddr e e.f.d) (sideAddr e e.f.a) (2 ^ e.f.bmod.toNat)
        ((e.p.s e.f.b.toNat).toNat % 2 ^ 32) ((e.p.s e.f.b.toNat).toNat / 2 ^ 32)) false true [] := by
    simp only [issueGather, if_neg hact, bitsOf_high32, bitsOf_low32, if_neg (Nat.not_lt.2 hcount), halign, ne_eq, not_true_eq_false, if_false, hrange,
      elemBytes]
  rcases hi with ⟨rfl, rfl⟩ | ⟨rfl, rfl⟩
  · exact outcome_atTurn (rfl : _ = execGath e.f s) h hbody
  · exact outcome_atTurn (rfl : _ = execScat e.f s) h hbody

end Words

/-- Settles O38: each word checks what its operands name, and then enters the engine or, having nothing to move, counts. -/
theorem copiesEnterTheEngine : Obligations.CopiesEnterTheEngine := by
  intro s f size dst src x y idle ss ds
  have hidle : ∀ e, e.f = f → idle e = copyIdled s e := fun e he => by subst he; rfl
  refine ⟨fun e h ⟨hact, hpos, hlt, hparts, hroom⟩ => ?cpy, fun e h ⟨hact, hlt, hrows, hbytes, hfits, hparts, hroom⟩ => ?cpyt,
    fun i sc hi e h ⟨hact, hsome, hcount, halign, hrange, hroom⟩ => ?gather, fun e h ⟨hact, hzero, hroom⟩ => ?cpyZero,
    fun e h ⟨hact, hlt, hfits, hzero, hroom⟩ => ?cpytZero, fun i hi e h ⟨hact, hlt, halign, hroom⟩ => ?gatherZero,
    fun i hi e h ⟨hact, hroom⟩ => ?noLane⟩
  case cpy =>
    obtain rfl : e.f = f := h.fields
    exact exec_cpy_of_parts h hact hpos hlt hparts hroom
  case cpyt =>
    exact exec_cpyt_of_parts hlt hfits h hact hrows hbytes rfl rfl hparts hroom
  case gather =>
    rw [exec_gather_atTurn hi h hact hcount halign hrange, if_neg (Nat.ne_of_gt hsome), issueCopy_of_copyRoom hroom]
    rfl
  case cpyZero =>
    obtain rfl : e.f = f := h.fields
    exact exec_cpy_of_zero h hact hzero hroom
  case cpytZero =>
    rw [hidle e h.fields]
    exact exec_cpyt_of_zero hlt hfits h hact hzero hroom
  case gatherZero =>
    have hnone : x e / 2 ^ 32 = 0 := Nat.div_eq_of_lt hlt
    have hlist : x e % 2 ^ 32 % 4 = 0 := by rwa [Nat.mod_eq_of_lt hlt]
    have hrange : sideRange s e.t e.c .core (x e % 2 ^ 32 : Nat) (4 * (x e / 2 ^ 32)) = none := by rw [hnone]; rfl
    obtain ⟨sc, hi⟩ : ∃ sc, i = .gath f ∧ sc = false ∨ i = .scat f ∧ sc = true :=
      hi.elim (fun hg => ⟨false, .inl ⟨hg, rfl⟩⟩) fun hs => ⟨true, .inr ⟨hs, rfl⟩⟩
    rw [exec_gather_atTurn hi h hact (hnone ▸ Nat.zero_le _) hlist hrange, if_pos hnone, issueIdle_of_copyRoom hroom, conclude_ok, hidle e h.fields]
  case noLane =>
    rw [hidle e h.fields]
    exact exec_copyWord_of_idle hi h hact hroom

end Sys2Proof.Machine
end

section
/-!
PROOF. The sieve and the stage rings at issue (R296 to R300, R321, R322): STGPUT and STGGET take their numbers from the ring and enter the engine, whose
room no byte of the core area changes; QBLK enters with the outputs of its vectors.
-/

namespace Sys2Proof.Machine

/-! ## Bytes of the core area written -/

/-- Scratchpad bytes are the scratchpads' own. -/
theorem scrPuts_rest (s : State) (ps : List ScrPlace) (bs : List Byte) :
    { scrPuts s ps bs with scratch := s.scratch, diePad := s.diePad, scratchPoison := s.scratchPoison } = s := by
  have hbytes : { scrBytes s ps bs with scratch := s.scratch, diePad := s.diePad } = s := by
    induction ps generalizing s bs with
    | nil => rfl
    | cons p ps ih =>
      cases bs with
      | nil => rfl
      | cons b bs =>
        have hput : { scrPut s p b with scratch := s.scratch, diePad := s.diePad } = s := by cases p <;> rfl
        exact (congrArg (fun u : State => { u with scratch := s.scratch, diePad := s.diePad }) (ih (scrPut s p b) bs)).trans hput
  exact congrArg (fun u : State => { u with scratchPoison := s.scratchPoison }) hbytes

theorem putCore_rest (s : State) (t : Team) (a : Nat) (bs : List Byte) :
    { putCore s t a bs with scratch := s.scratch, diePad := s.diePad, scratchPoison := s.scratchPoison } = s := by
  unfold putCore
  split
  · exact scrPuts_rest s _ bs
  · rfl

/-- Bytes of the core area leave the engine's room as it is. -/
theorem copyRoom_putCore {s : State} {e : Env} (h : copyRoom s e) (a : Nat) (bs : List Byte) : copyRoom (putCore s e.t a bs) e :=
  (congrArg (fun u => copyFull u e) (putCore_rest s e.t a bs) :).trans h

section Rings
variable {s : State} {f : Fields} {e : Env} {r : Ring}

/-- A ring that stands in the core area and passes R297 is the one that the word goes on with. -/
theorem withRing_of_good (hnum : scalarOrImm e ≤ 7) (hinside : 32 * (scalarOrImm e + 1) ≤ e.t.k.scratch)
    (hring : readRing s e.t (scalarOrImm e) = some r) (hgood : ringBad e.t r = false) (go : Nat → Ring → Verdict) :
    withRing s e go = go (scalarOrImm e) r := by
  simp only [withRing, if_neg (Nat.not_lt.2 hnum), if_neg (Nat.not_lt.2 hinside), hring, hgood, Bool.false_eq_true, if_false]

end Rings

/-! ## The sieve -/

/-- The largest magnitude of all vectors is that of their inputs as one list. -/
theorem sieve_amax (xs : List (List Nat)) :
    xs.foldl (fun m v => v.foldl (fun m x => max m (x % 2 ^ 31)) m) 0 = xs.flatten.foldl (fun m x => max m (x % 2 ^ 31)) 0 :=
  List.foldl_flatten.symm

/-- The largest bound of all vectors is that of their scales as one list. -/
theorem sieve_bound (fm : Fmt) (rs : List Sieved) :
    rs.foldl (fun m r => r.scales.foldl (fun m k => magMax m (scaleBound fm k)) m) (0, 0)
      = (rs.flatMap fun r => r.scales.map (scaleBound fm)).foldl magMax (0, 0) := by
  rw [List.foldl_flatMap]
  simp only [List.foldl_map]

section Sieve
variable {s : State} {f : Fields} {e : Env} {d : SieveDesc} {fm : Fmt}

/-- A descriptor's numbers lie in their ranges, and its offsets are aligned (R321). -/
structure SieveDesc.Good (d : SieveDesc) : Prop where
  rest : d.rest = 0
  inputs : 1 ≤ d.n ∧ d.n ≤ 4096
  vectors : 1 ≤ d.r ∧ d.r ≤ 64
  rho : d.rho ≤ 31
  aligned : d.inp % 4 = 0 ∧ d.bm % 16 = 0 ∧ d.sc % 16 = 0 ∧ d.el % 16 = 0

/-- The inputs of every vector, each a finite number. -/
def sieveInputs (s : State) (e : Env) (d : SieveDesc) : List (List Nat) := (upto d.r).map (sieveVector s e d)

/-- A sieve of a good descriptor over finite inputs enters the engine with what R300 has it write. -/
theorem issueSieve_of_good (hd : d.Good) (hfm : sieveFmt d.fmt = some fm) (hareas : sieveAreas s e d fm = none)
    (hfinite : ∀ v < d.r, ∀ x ∈ sieveVector s e d v, x % 2 ^ 31 < 0x7F800000) (hroom : copyRoom s e) :
    let rs := (sieveInputs s e d).map (sieve fm d.rho)
    issueSieve s e d = .ok (copyIssued s e (.qblk e.f.d.toNat e.p.pid
        (BitVec.ofNat 32 ((sieveInputs s e d).flatten.foldl (fun m x => max m (x % 2 ^ 31)) 0))
        (ebUp ((rs.flatMap fun r => r.scales.map (scaleBound fm)).foldl magMax (0, 0)))) true true
      ((rs.zipIdx).flatMap fun q => sieveOutputs d fm q.2 q.1)) := by
  obtain ⟨hrest, ⟨hn, hn'⟩, ⟨hr, hr'⟩, hrho, hinp, hbm, hsc, hel⟩ := hd
  have hfield : ¬ (decide (d.rest ≠ 0) || decide (d.n < 1) || decide (4096 < d.n) || decide (d.r < 1) || decide (64 < d.r) || decide (31 < d.rho)) = true := by
    simp only [Bool.or_eq_true, decide_eq_true_eq]
    omega
  have hnumbers : ¬ ((sieveInputs s e d).any fun v => v.any fun x => decide (x % 2 ^ 31 ≥ 0x7F800000)) = true := by
    simp only [sieveInputs, upto, List.any_map, List.any_eq_true, List.mem_range, Function.comp, decide_eq_true_eq, not_exists, not_and]
    exact fun v hv x hx => Nat.not_le.2 (hfinite v hv x hx)
  simp only [issueSieve, if_neg hfield, hinp, hbm, hsc, hel, ne_eq, not_true_eq_false, if_false, hfm, hareas, sieve_amax, sieve_bound]
  exact (if_neg hnumbers).trans (issueCopy_of_copyRoom hroom ..)

/-- QBLK at no quantum boundary, whose descriptor is aligned and lies in the core area, is the sieve that the descriptor names. -/
theorem exec_qblk_of_desc (h : wordAtTurn s (.qblk f) f e) (hact : e.act ≠ 0) (hquantum : isDet s e.t = true → e.w.qpass = true)
    (halign : sideAddr e f.a % 16 = 0) (hrange : sideRange s e.t e.c .core (sideAddr e f.a) 32 = none) {bs : List Byte}
    (hbytes : coreBytes s e.t e.w.ix (sideAddr e f.a) 32 = some bs) (hroom : copyRoom s e) :
    exec (.qblk f) s = .next (conclude s e (issueSieve s e (sieveDesc bs))) := by
  refine outcome_atTurn (rfl : _ = execQblk f s) h ?_
  have hpass : (isDet s e.t && !e.w.qpass) = false := by
    cases hdet : isDet s e.t
    · rfl
    · rw [hquantum hdet]; rfl
  have hfree : copyFull s e = false := hroom
  simp only [if_neg hact, hpass, halign, ne_eq, not_true_eq_false, hrange, hbytes, hfree, Bool.false_eq_true, if_false]

end Sieve

/-- Settles O39: a good ring gives its number and the word enters, and a good descriptor gives the sieve its outputs. -/
theorem sieveAndStageWordsIssue : Obligations.SieveAndStageWordsIssue := by
  intro s f r ring good
  -- a good ring is the one that the word's own check finds
  have found : ∀ e, e.f = f → good e → e.act ≠ 0 ∧ copyRoom s e ∧ ∀ go, withRing s e go = go (ring e) r := by
    rintro e rfl ⟨hact, hnum, hinside, hring, hgood, hroom⟩
    exact ⟨hact, hroom, withRing_of_good hnum hinside hring hgood⟩
  refine ⟨fun e h ⟨hgood, hparts⟩ => ?put, fun e h ⟨hgood, hparts⟩ => ?get, fun e h hgood => ?rel,
    ?qblk⟩
  case put =>
    obtain ⟨hact, hroom, hwith⟩ := found e h.fields hgood
    have hfree : copyFull s e = false := hroom
    have hparts' : partsFault s e .core (lowLevel f) [⟨r.base, sideAddr e f.a, r.slot⟩] = none := hparts
    refine outcome_atTurn (v := .ok _) (rfl : _ = execStgput f s) h ?_
    simp only [if_neg hact, hwith, hparts', hfree, Bool.false_eq_true, if_false, issueCopy_of_copyRoom (copyRoom_putCore hroom _ _)]
    rfl
  case get =>
    obtain ⟨hact, hroom, hwith⟩ := found e h.fields hgood
    have hfree : copyFull s e = false := hroom
    have hparts' : partsFault s e (lowLevel f) .core [⟨sideAddr e f.d, r.base, r.slot⟩] = none := hparts
    refine outcome_atTurn (v := .ok _) (rfl : _ = execStgget f s) h ?_
    simp only [if_neg hact, hwith, hparts', hfree, Bool.false_eq_true, if_false, issueCopy_of_copyRoom (copyRoom_putCore hroom _ _)]
    rfl
  case rel =>
    obtain ⟨hact, hroom, hwith⟩ := found e h.fields hgood
    refine outcome_atTurn (v := .ok _) (rfl : _ = execStgrel f s) h ?_
    simp only [if_neg hact, hwith, issueCopy_of_copyRoom hroom]
  case qblk =>
    intro e bs fm h hact hquantum halign hrange hbytes hroom d hrest hn hn' hr hr' hrho hinp hbm hsc hel hfm hareas hfinite rs amax eps
    obtain rfl : e.f = f := h.fields
    have hd : d.Good := ⟨hrest, ⟨hn, hn'⟩, ⟨hr, hr'⟩, hrho, hinp, hbm, hsc, hel⟩
    have hissue := issueSieve_of_good hd hfm hareas hfinite hroom
    rw [exec_qblk_of_desc h hact hquantum halign hrange hbytes hroom, hissue, conclude_ok]
    simp only [sieveInputs, List.map_map, rs, amax, eps, List.flatMap_def]
    rfl

end Sys2Proof.Machine
end

section
/-!
PROOF. The words on handles and collectives (R302, R303, R307, R309, R324 to R329): each checks its handle and enters the copy engine, or has its effect
on a handle register at once; one that needs the record of a jar of another Y3 waits until it has been read.
-/

namespace Sys2Proof.Machine

/-! ## Kinds of handle (R302) -/

theorem isFill_zero : isFill 0 = false := by decide

theorem ne_zero_of_isFill {h : Word} (hfill : isFill h = true) : h ≠ 0 := by
  rintro rfl
  rw [isFill_zero] at hfill
  cases hfill

theorem isFill_of_isSee {h : Word} (hsee : isSee h = true) : isFill h = false := by
  rw [isSee, beq_iff_eq] at hsee
  rw [isFill, hsee]
  rfl

/-! ## TDROP (R305, R307, R325) -/

section Tdrop
variable {s : State} {f : Fields} {e : Env} {h : Word}

/-- A plain TDROP with room in the engine, whose record is at hand if it needs one, drops its handle. -/
theorem exec_tdrop_plain (hturn : wordAtTurn s (.tdrop f) f e) (hact : e.act ≠ 0) (hplain : f.bmod = 0)
    (hseen : isFill (e.w.h f.a.toNat) = true → recordSeen s e.c (e.w.h f.a.toNat) = true) (hroom : copyRoom s e) :
    exec (.tdrop f) s = .next (conclude s e (dropHandle s e f.a.toNat (e.w.h f.a.toNat))) := by
  have hfree : copyFull s e = false := hroom
  have hwait : (isFill (e.w.h f.a.toNat) && !recordSeen s e.c (e.w.h f.a.toNat)) = false := by
    cases hfill : isFill (e.w.h f.a.toNat)
    · rfl
    · rw [hseen hfill]; rfl
  have hmode : ¬ f.bmod = 1 := by rw [hplain]; decide
  refine outcomeWith_atTurn (rfl : _ = execTdrop f s) hturn (refusedIn_of_allowed (fun hretire => absurd (eq_of_beq hretire) hmode) nofun) ?_
  simp only [if_neg hact, hfree, decide_eq_false hmode, Bool.or_false, hwait, Bool.false_eq_true, if_false, if_neg hmode]

/-- `TDROP.retire` with room in the engine, whose record is at hand. -/
theorem exec_tdrop_retire (hturn : wordAtTurn s (.tdrop f) f e) (hact : e.act ≠ 0) (htask : e.w.task = none) (hmode : f.bmod = 1)
    (hseen : recordSeen s e.c (e.w.h f.a.toNat) = true) (hroom : copyRoom s e) :
    exec (.tdrop f) s = .next (conclude s e (retireHandle s e f.a.toNat (e.w.h f.a.toNat))) := by
  have hfree : copyFull s e = false := hroom
  refine outcomeWith_atTurn (rfl : _ = execTdrop f s) hturn (refusedIn_of_allowed (fun _ => htask) nofun) ?_
  simp only [if_neg hact, hfree, hseen, Bool.not_true, Bool.and_false, Bool.or_false, Bool.false_eq_true, if_false, if_pos hmode]

/-- A fill handle that is not stale is published: its register becomes null, and an open task keeps it for a discard. -/
theorem dropHandle_of_fill (k : Nat) (hfill : isFill h = true) (hfresh : staleSub s e.c h = none) (hroom : copyRoom s e) :
    dropHandle s e k h = .ok (updCur (copyIssued s e (.tdrop k h false) false true []) e.who fun w =>
      { w.setH k 0 with task := w.task.map fun x => { x with drops := x.drops ++ [(k, h)] } }) := by
  have hsee : isSee h = false := by
    cases hsee : isSee h
    · rfl
    · rw [isFill_of_isSee hsee] at hfill; cases hfill
  simp only [dropHandle, if_neg (ne_zero_of_isFill hfill), hsee, hfill, hfresh, Bool.not_true, Bool.false_eq_true, if_false,
    issueCopy_of_copyRoom hroom, Verdict.andThen]

/-- The null handle is dropped for nothing, but for the quantum's end in a DET sweep. -/
theorem dropHandle_zero (k : Nat) (hroom : copyRoom s e) : dropHandle s e k 0 = .ok (dropBoundary e (copyIdled s e)) := by
  simp only [dropHandle, if_true, issueIdle_of_copyRoom hroom, Verdict.andThen]

/-- A see handle's register becomes null, and nothing else is done. -/
theorem dropHandle_of_see (k : Nat) (hne : h ≠ 0) (hsee : isSee h = true) (hroom : copyRoom s e) :
    dropHandle s e k h = .ok (dropBoundary e (nullHandle e k (copyIdled s e))) := by
  simp only [dropHandle, if_neg hne, hsee, if_true, issueIdle_of_copyRoom hroom, Verdict.andThen]

/-- A see handle with RETIRE of a jar that is not FILLING retires it. -/
theorem retireHandle_of_see (k : Nat) (hfresh : staleSub s e.c h = none) (hsee : isFill h = false) (hright : hasRight h rightRetire = true)
    (hfilled : (jarFor s e.c h).state ≠ 1) (hroom : copyRoom s e) :
    retireHandle s e k h = .ok (nullHandle e k (copyIssued s e (.tdrop k h true) false true [])) := by
  simp only [retireHandle, hfresh, hsee, hright, Bool.not_true, Bool.or_self, Bool.false_eq_true, if_false, if_neg hfilled,
    issueCopy_of_copyRoom hroom, Verdict.andThen]

end Tdrop

/-! ## TCOPY (R326) -/

section Tcopy
variable {s : State} {f : Fields} {e : Env} {w : Wave} {h : Word}

/-- The handle that TCOPY copies. -/
def copySource (f : Fields) (e : Env) : Word := if f.asp = 3 then e.w.h f.a.toNat else e.p.s f.a.toNat

/-- TCOPY with a destination that it may write, and a request that R326 allows. -/
theorem exec_tcopy_of_target (hturn : wordAtTurn s (.tcopy f) f e) (hact : e.act ≠ 0) (htarget : copyTarget s e = some w)
    (hrequest : requestBad f.b.toNat = false) (hdest : f.dsp = 3 → isFill (w.h f.d.toNat) = false) :
    exec (.tcopy f) s = .next (conclude s e (copyHandle s e w (copySource f e))) := by
  have hkeeps : (decide (f.dsp = 3) && isFill (w.h f.d.toNat)) = false := by
    by_cases hd : f.dsp = 3
    · rw [hdest hd, Bool.and_false]
    · rw [decide_eq_false hd, Bool.false_and]
  refine outcome_atTurn (rfl : _ = execTcopy f s) hturn ?_
  simp only [if_neg hact, htarget, imm8u, hrequest, hkeeps, Bool.false_and, Bool.or_self, Bool.false_eq_true, if_false]
  rfl

theorem copyHandle_zero : copyHandle s e w 0 = .ok (putCopy s e w 0) := by simp only [copyHandle, if_true]

/-- A handle whose record is still to be read is waited for. -/
theorem copyHandle_of_unseen (hne : h ≠ 0) (hscalar : e.f.asp = 1 → isFill h = false) (hunseen : recordSeen s e.c h = false) :
    copyHandle s e w h = tryAgain s e := by
  have hkept : (decide (e.f.asp = 1) && isFill h) = false := by
    by_cases hd : e.f.asp = 1
    · rw [hscalar hd, Bool.and_false]
    · rw [decide_eq_false hd, Bool.false_and]
  simp only [copyHandle, if_neg hne, hkept, hunseen, Bool.not_false, Bool.false_eq_true, if_false, if_true]

/-- A see handle with SHARE is copied, with the rights that are asked for. -/
theorem copyHandle_of_see (hne : h ≠ 0) (hseen : recordSeen s e.c h = true) (hfresh : staleSub s e.c h = none) (hsee : isFill h = false)
    (hright : hasRight h rightShare = true) (hsubset : 128 ≤ e.f.b.toNat → Nat.land (e.f.b.toNat % 16) (15 - handleRights h) = 0) :
    copyHandle s e w h = .ok (putCopy s e w (mkHandle 2 (if 128 ≤ e.f.b.toNat then e.f.b.toNat % 16 else handleRights h)
      (handleJar h) (handleGen h) (handleDev h))) := by
  have hgranted : ¬ (decide (128 ≤ e.f.b.toNat) && decide (Nat.land (e.f.b.toNat % 16) (15 - handleRights h) ≠ 0)) = true := by
    simpa using hsubset
  simp only [copyHandle, imm8u, if_neg hne, hsee, hseen, hfresh, hright, Bool.and_false, Bool.not_true, Bool.false_eq_true, if_false]
  exact if_neg hgranted

/-- A fill handle moves from one handle register to another. -/
theorem copyHandle_of_fill (hseen : recordSeen s e.c h = true) (hfresh : staleSub s e.c h = none) (hfill : isFill h = true)
    (hsource : e.f.asp = 3) (hdest : e.f.dsp = 3) (hplain : e.f.b.toNat = 0) (hother : sameRegister e w = false) :
    copyHandle s e w h = .ok (nullHandle e e.f.a.toNat (putCopy s e w h)) := by
  have hscalar : ¬ e.f.asp = 1 := by rw [hsource]; decide
  have hregister : ¬ e.f.dsp = 1 := by rw [hdest]; decide
  simp only [copyHandle, imm8u, if_neg (ne_zero_of_isFill hfill), decide_eq_false hscalar, hseen, hfresh, hfill, if_neg hregister, hplain, hother,
    Bool.false_and, Bool.not_true, Bool.false_eq_true, if_false, if_true, ne_eq, not_true_eq_false]

end Tcopy

/-! ## TSTAT and TSEND (R309, R327, R328) -/

section Tstat
variable {s : State} {f : Fields} {e : Env}

/-- What TSTAT reports of a record. -/
def jarReport (mode : BitVec 4) (r : JarRec) : Nat := if mode = 0 then jarSummary r else if mode = 1 then r.ptime else r.base

/-- TSTAT of a handle whose record, if it names one, is at hand. -/
theorem exec_tstat_of_seen (hturn : wordAtTurn s (.tstat f) f e) (hact : e.act ≠ 0) (hsource : f.asp = 3 → isFill (e.w.h f.a.toNat) = false)
    (hseen : handleKind (copySource f e) = 1 ∨ handleKind (copySource f e) = 2 → recordSeen s e.c (copySource f e) = true) :
    exec (.tstat f) s = .next (retired (setScalar s e.who f.d.toNat (if namesRecord s e.c (copySource f e) then
      BitVec.ofNat 64 (jarReport f.bmod (jarFor s e.c (copySource f e))) else 0)) e) := by
  have hfill : ¬ (decide (f.asp = 3) && isFill (copySource f e)) = true := by
    by_cases ha : f.asp = 3
    · rw [copySource, if_pos ha, hsource ha, Bool.and_false]
      exact Bool.false_ne_true
    · rw [decide_eq_false ha]
      exact Bool.false_ne_true
  have hwait : ¬ ((handleKind (copySource f e) == 1 || handleKind (copySource f e) == 2) && !recordSeen s e.c (copySource f e)) = true := by
    simpa using hseen
  have hreport : ∀ r : JarRec, (match f.bmod.toNat with | 0 => jarSummary r | 1 => r.ptime | _ => r.base) = jarReport f.bmod r := by
    intro r
    have hzero : f.bmod = 0 ↔ f.bmod.toNat = 0 := (BitVec.toNat_inj (y := 0#4)).symm
    have hone : f.bmod = 1 ↔ f.bmod.toNat = 1 := (BitVec.toNat_inj (y := 1#4)).symm
    simp only [jarReport, hzero, hone]
    rcases f.bmod.toNat with _ | _ | n <;> rfl
  refine outcome_atTurn (v := .ok _) (rfl : _ = execTstat f s) hturn ?_
  simp only [← hreport]
  exact (if_neg hact).trans ((if_neg hfill).trans (if_neg hwait))

end Tstat

section Tsend
variable {s : State} {f : Fields} {e : Env}

/-- TSEND outside a task and a DET sweep, to a device that exists. -/
theorem exec_tsend_of_device (hturn : wordAtTurn s (.tsend f) f e) (hact : e.act ≠ 0) (htask : e.w.task = none) (hdet : isDet s e.t = false)
    (hdevice : scalarOrImm e ≤ 255) :
    exec (.tsend f) s = .next (conclude s e (
      if !recordSeen s e.c (e.w.h f.a.toNat) then tryAgain s e
      else
        match staleSub s e.c (e.w.h f.a.toNat) with
        | some sub => handleFault .staleHandle sub (e.w.h f.a.toNat)
        | none =>
          if !hasRight (e.w.h f.a.toNat) rightShare then handleFault .jarRights 3 (e.w.h f.a.toNat)
          else if copyFull s e then tryAgain s e
          else
            (issueCopy s e (.tsend (e.w.h f.a.toNat) (scalarOrImm e)) false false []).andThen fun s =>
              if isFill (e.w.h f.a.toNat) then nullHandle e f.a.toNat s else s)) := by
  refine outcomeWith_atTurn (rfl : _ = execTsend f s) hturn (refusedIn_of_allowed (fun _ => htask) fun _ => hdet) ?_
  exact (if_neg hact).trans (if_neg (Nat.not_lt.2 hdevice))

end Tsend

/-- Settles O40: each word passes its checks, and then enters the engine or has its effect on a register. -/
theorem handleWordsComplete : Obligations.HandleWordsComplete := by
  intro s f h src idle open_ seen jar null dev
  have hidle : ∀ e, e.f = f → idle e = copyIdled s e := fun e he => by subst he; rfl
  refine ⟨fun e hturn ⟨hact, htask, hfill, hcopy, hcontrol, halign, hroom⟩ => ?talloc, fun e hturn ⟨hact, hplain, hfill, ⟨hseen, hfresh⟩, hroom⟩ => ?dropFill,
    fun e hturn ⟨hact, hplain, hnull, hroom⟩ => ?dropSee,
    fun e hturn ⟨hact, htask, hmode, ⟨hseen, hfresh⟩, hsee, hright, hfilled, hroom⟩ => ?retire,
    fun e w hturn hact htarget hrequest hdest => ?tcopy, fun e hturn ⟨hact, hsource, hseen⟩ => ?tstat,
    fun e hturn ⟨⟨hact, htask, hdet⟩, hdevice, ⟨hseen, hfresh⟩, hright, hroom⟩ => ?tsend,
    fun e hturn ⟨⟨hact, htask, hdet⟩, hfill, hroom⟩ => ?trecv, fun e hturn ⟨⟨hact, htask, hdet⟩, halign, hroom⟩ => ?coll,
    fun e hturn ⟨⟨hact, htask, hdet⟩, hdevice, hunseen⟩ => ?sendWaits, fun e hturn ⟨hact, htarget, hrequest, hne, hscalar, hunseen⟩ => ?copyWaits⟩
  all_goals obtain rfl : e.f = f := hturn.fields
  case talloc =>
    have hcontrol' : controlBad (sideAddr e e.f.b) = false := hcontrol
    have hgood : ¬ (isFill (e.w.h e.f.d.toNat) || isFill (e.w.h e.f.c.toNat) || controlBad (sideAddr e e.f.b)) = true := by
      rw [hfill, hcopy, hcontrol']
      exact Bool.false_ne_true
    refine outcomeWith_atTurn (v := .ok _) (rfl : _ = execTalloc e.f s) hturn (refusedIn_of_allowed (fun _ => htask) nofun) ?_
    exact (if_neg hact).trans ((if_neg hgood).trans ((if_neg (not_not.2 halign)).trans (issueCopy_of_copyRoom hroom ..)))
  case dropFill => rw [exec_tdrop_plain hturn hact hplain (fun _ => hseen) hroom, dropHandle_of_fill _ hfill hfresh hroom, conclude_ok]
  case dropSee =>
    have hnofill : isFill (h e) = false := hnull.elim (fun hz => hz ▸ isFill_zero) isFill_of_isSee
    rw [exec_tdrop_plain hturn hact hplain (fun hfill => absurd (hnofill.symm.trans hfill) Bool.false_ne_true) hroom]
    by_cases hzero : h e = 0
    · have hzero' : e.w.h e.f.a.toNat = 0 := hzero
      rw [hzero', dropHandle_zero _ hroom, conclude_ok]
      simp only [hzero, if_true]
      rfl
    · rw [dropHandle_of_see _ hzero (hnull.resolve_left hzero) hroom, conclude_ok]
      simp only [if_neg hzero]
      rfl
  case retire =>
    rw [exec_tdrop_retire hturn hact htask hmode hseen hroom, retireHandle_of_see _ hfresh hsee hright hfilled hroom]
    rfl
  case tcopy =>
    rw [exec_tcopy_of_target hturn hact htarget hrequest hdest]
    have hsource : copySource e.f e = src e := rfl
    rw [hsource]
    refine ⟨fun hzero => ?_, fun hne ⟨hseen, hfresh⟩ hsee hright hsubset => ?_, fun ⟨hseen, hfresh⟩ hfill hreg hdreg hplain hother => ?_⟩
    · rw [hzero, copyHandle_zero, conclude_ok]
    · rw [copyHandle_of_see hne hseen hfresh hsee hright hsubset, conclude_ok]
    · rw [copyHandle_of_fill hseen hfresh hfill hreg hdreg hplain hother]
      rfl
  case tstat => exact exec_tstat_of_seen hturn hact hsource hseen
  case tsend =>
    have hfree : copyFull s e = false := hroom
    have hdevice' : scalarOrImm e ≤ 255 := hdevice
    have hseen' : recordSeen s e.c (e.w.h e.f.a.toNat) = true := hseen
    have hfresh' : staleSub s e.c (e.w.h e.f.a.toNat) = none := hfresh
    have hright' : hasRight (e.w.h e.f.a.toNat) rightShare = true := hright
    rw [exec_tsend_of_device hturn hact htask hdet hdevice']
    simp only [hseen', hfresh', hright', hfree, Bool.not_true, Bool.false_eq_true, if_false, issueCopy_of_copyRoom hroom]
    rfl
  case trecv =>
    refine outcomeWith_atTurn (v := .ok _) (rfl : _ = execTrecv e.f s) hturn (refusedIn_of_allowed (fun _ => htask) fun _ => hdet) ?_
    exact (if_neg hact).trans ((if_neg (Bool.eq_false_iff.1 hfill)).trans (issueCopy_of_copyRoom hroom ..))
  case coll =>
    refine outcomeWith_atTurn (v := .ok _) (rfl : _ = execColl e.f s) hturn (refusedIn_of_allowed (fun _ => htask) fun _ => hdet) ?_
    exact (if_neg hact).trans ((if_neg (not_not.2 halign)).trans (issueCopy_of_copyRoom hroom ..))
  case sendWaits =>
    have hdevice' : scalarOrImm e ≤ 255 := hdevice
    have hunseen' : (!recordSeen s e.c (e.w.h e.f.a.toNat)) = true := by rw [(hunseen : recordSeen s e.c (e.w.h e.f.a.toNat) = false)]; rfl
    rw [exec_tsend_of_device hturn hact htask hdet hdevice', if_pos hunseen']
    rfl
  case copyWaits =>
    obtain ⟨w, hw, hdest⟩ := (Option.any_eq_true _ _).1 htarget
    rw [exec_tcopy_of_target hturn hact hw hrequest fun _ => by simpa using hdest]
    exact congrArg (fun v => Host.Outcome.next (conclude s e v)) (copyHandle_of_unseen hne hscalar hunseen)

end Sys2Proof.Machine
end

section
/-!
PROOF. The steps of the copy engine (R88, R290, R296 to R299, R305, R309, R313): each event by its guard, and the one field of a jar's record that its
publication changes beside the time of it.
-/

namespace Sys2Proof.Machine

/-! ## A jar's record after it is written (R301) -/

/-- A value that is not the default is read back, also from a file that is not in canonical form. -/
theorem Sparse.get_set_self_of_ne {α : Type} [DecidableEq α] {d v : α} (m : Sparse α) (k : Nat) (hv : v ≠ d) :
    Sparse.get d (Sparse.set d m k v) k = v := by
  induction m with
  | nil => simp [Sparse.set, Sparse.get, hv]
  | cons e r ih =>
    obtain ⟨j, x⟩ := e
    rw [Sparse.set, if_neg hv, if_neg hv]
    split
    · simp [Sparse.get]
    · split
      · simp [Sparse.get]
      next hlt hne => simpa [Sparse.get, Ne.symm hne, hlt] using ih

/-- A change of the elements that a search looks for, which it still finds, changes the one that it finds. -/
theorem find_map_ite {α : Type} (p : α → Bool) {g : α → α} (hp : ∀ x, p (g x) = p x) (l : List α) :
    (l.map fun x => if p x then g x else x).find? p = (l.find? p).map g := by
  have hkey (x : α) : p (if p x then g x else x) = p x := by
    split
    · exact hp x
    · rfl
  rw [find_map_key p _ hkey]
  cases hx : l.find? p with
  | none => rfl
  | some x => simp [List.find?_some hx]

theorem ctxOf_updCtx (s : State) (cid : Nat) {g : Context → Context} (hg : ∀ c, (g c).cid = c.cid) :
    ctxOf (updCtx s cid g) cid = (ctxOf s cid).map g :=
  find_map_ite (fun c : Context => c.cid == cid) (fun c => by rw [hg]) s.contexts

theorem ctxOf_setJar (s : State) (cid k : Nat) (r : JarRec) :
    ctxOf (setJar s cid k r) cid = (ctxOf s cid).map fun c => { c with jars := Sparse.set jarFree c.jars k r } := by
  have hcontexts : (setJar s cid k r).contexts = (updCtx s cid fun c => { c with jars := Sparse.set jarFree c.jars k r }).contexts := by
    unfold setJar
    generalize r.image = bytes
    split <;> rfl
  calc ctxOf (setJar s cid k r) cid
      = ctxOf (updCtx s cid fun c => { c with jars := Sparse.set jarFree c.jars k r }) cid := by simp only [ctxOf, hcontexts]
    _ = _ := ctxOf_updCtx s cid fun _ => rfl

/-- A record that is written is read back, unless it is the free one, which the table does not list. -/
theorem jarOf_setJar {s : State} {cid k : Nat} {r : JarRec} {c : Context} (hr : r ≠ jarFree) (hc : ctxOf (setJar s cid k r) cid = some c) :
    jarOf c k = r := by
  rw [ctxOf_setJar] at hc
  obtain ⟨c0, -, rfl⟩ := Option.map_eq_some_iff.1 hc
  exact Sparse.get_set_self_of_ne c0.jars k hr

/-- A FILLING jar of the handle's generation is FILLED by its publication, at its tick, and its record is otherwise as it was. -/
theorem jarOf_publishJar {s : State} {o : Op} {h : Word} {w : Wave} {t : Team} {c c' : Context} (henv : opEnv s o = some (w, t, c))
    (hown : isRemote s h = false) (hfilling : (jarOf c (handleJar h)).state = 1) (hgen : (jarOf c (handleJar h)).gen = handleGen h)
    (hc' : ctxOf (publishJar s o h) c.cid = some c') :
    jarOf c' (handleJar h) = { jarOf c (handleJar h) with state := 2, ptime := publishTick s o } := by
  have hwritten : ctxOf (publishJar s o h) c.cid
      = ctxOf (setJar s c.cid (handleJar h) { jarOf c (handleJar h) with state := 2, ptime := publishTick s o }) c.cid := by
    have hgo : (!isRemote s h && decide ((jarOf c (handleJar h)).state = 1) && decide ((jarOf c (handleJar h)).gen = handleGen h)) = true := by
      simp only [hown, hfilling, hgen, Bool.not_false, decide_true, Bool.and_self]
    simp only [publishJar, henv, hgo, if_true]
    rfl
  have hlisted : ({ jarOf c (handleJar h) with state := 2, ptime := publishTick s o } : JarRec) ≠ jarFree := fun hfree =>
    absurd (congrArg JarRec.state hfree) (by simp)
  rw [hwritten] at hc'
  exact jarOf_setJar hlisted hc'

section Engine
variable {s : State} {id : Nat} {o : Op} (ho : findOp s id = some o)
include ho

/-! ## Start and completion (R85, R290) -/

theorem exec_copyOperationStart_of_mayStart (hcopy : o.kind.isCopy = true) (hmay : mayStart s o = true) :
    exec (.copyOperationStart id) s = .next (startOp s o) := by
  refine (rfl : _ = execCopyOperationStart id s).trans ?_
  simp only [execCopyOperationStart, ho, hcopy, hmay, Bool.and_self, if_true]

theorem exec_copyOperationComplete_of_completes {t : State} (hcopy : o.kind.isCopy = true) (hdone : completeCopy s o = some t) :
    exec (.copyOperationComplete id) s = .next t := by
  refine (rfl : _ = execCopyOperationComplete id s).trans ?_
  simp only [execCopyOperationComplete, ho, hcopy, hdone, orNotEnabled, if_true]

omit ho in
/-- A copy that has moved its bytes, whose last store has completed, and that no task holds back, completes. -/
theorem completeCopy_of_copy {dl sl : Level} {dst src : Int} {rows n : Nat} {ds ss : Int} (hk : o.kind = .copy dl sl dst src rows n ds ss)
    (hphase : o.phase = .started) (hover : o.over = true) (htask : o.inTask = false) (hlast : o.last ≤ s.now) :
    completeCopy s o = some (finishCopy s o.id) := by
  simp only [completeCopy, hk, hphase, hover, htask, hlast, decide_true, Bool.not_false, Bool.and_self, if_true]

omit ho in
/-- A publication that is covered, at its tick and in its turn of a commit, is made (R88, R310). -/
theorem completeCopy_of_drop {k : Nat} {h : Word} (hk : o.kind = .tdrop k h false) (hphase : o.phase = .started) (hover : o.over = true)
    (hready : dropReady s o h = true) (htick : publishTick s o ≤ s.now)
    (hturn : ∀ t, findTeam s o.tid = some t → isDet s t = true → commitTurn s t.sweep o = true) :
    completeCopy s o = some (publishJar s o h) := by
  have hturn' : (match findTeam s o.tid with | some t => !isDet s t || commitTurn s t.sweep o | none => true) = true := by
    split
    next t ht =>
      cases hdet : isDet s t
      · rfl
      · rw [hturn t ht hdet]; rfl
    next => rfl
  simp only [completeCopy, hk, hphase, hover, hready, htick, decide_true, Bool.and_true, Bool.true_and]
  exact if_pos hturn'

/-! ## Stage rings (R298) -/

theorem exec_stageSlotFree_of_free {k n : Nat} {sl : Level} {src : Int} {r : Ring} (hk : o.kind = .stgPut k n sl src)
    (hring : waitingRing s o k = some r) (hfree : slotFree r n = true) :
    exec (.stageSlotFree id) s = .next (moveParts s o false .core sl [⟨slotAddr r n, src, r.slot⟩]) := by
  refine (rfl : _ = execStageSlotFree id s).trans ?_
  simp only [execStageSlotFree, ho, hk, hring, hfree, if_true]

theorem exec_stagePhaseReady_of_shows {k m : Nat} {dl : Level} {dst : Int} {r : Ring} (hk : o.kind = .stgGet k m dl dst)
    (hring : waitingRing s o k = some r) (hshows : phaseShows r m = true) :
    exec (.stagePhaseReady id) s = .next (moveParts s o false dl .core [⟨dst, slotAddr r m, r.slot⟩]) := by
  refine (rfl : _ = execStagePhaseReady id s).trans ?_
  simp only [execStagePhaseReady, ho, hk, hring, hshows, if_true]

/-! ## Sent handles (R309, R327) -/

section Sends
variable {h : Word} {dev : Nat} {w : Wave} {t : Team} {c : Context} (hk : o.kind = .tsend h dev) (henv : opEnv s o = some (w, t, c))
  (hphase : o.phase = .started) (hsee : isFill h = false)
include hk henv hphase hsee

/-- On this device a started TSEND of a see handle, which waits for no store, looks for room in the mailbox. -/
theorem exec_mailboxDeposit_here (hdev : dev = ownDev s) :
    exec (.mailboxDeposit id) s = if 256 ≤ c.mailbox.length then stillAway s o c h dev else .next (deposit s o c h dev) := by
  refine (rfl : _ = execMailboxDeposit id s).trans ?_
  simp only [execMailboxDeposit, ho, hk, henv, hphase, hsee, hdev, ne_eq, not_true_eq_false, decide_false, Bool.false_and, Bool.or_self,
    Bool.false_eq_true, if_false]

/-- Sent to another Y3, it is away until that one answers. -/
theorem exec_mailboxDeposit_unanswered (hdev : dev ≠ ownDev s) (hanswer : sendAnswer s o dev = none) :
    exec (.mailboxDeposit id) s = stillAway s o c h dev := by
  refine (rfl : _ = execMailboxDeposit id s).trans ?_
  simp only [execMailboxDeposit, ho, hk, henv, hphase, hsee, hdev, hanswer, ne_eq, not_true_eq_false, not_false_eq_true, decide_false, Bool.false_and,
    Bool.or_self, Bool.false_eq_true, if_false, if_true]

theorem exec_mailboxDeposit_taken (hdev : dev ≠ ownDev s) (hanswer : sendAnswer s o dev = some true) :
    exec (.mailboxDeposit id) s = .next (finishCopy (leaveJar s o c h dev) o.id) := by
  refine (rfl : _ = execMailboxDeposit id s).trans ?_
  simp only [execMailboxDeposit, ho, hk, henv, hphase, hsee, hdev, hanswer, ne_eq, not_true_eq_false, not_false_eq_true, decide_false, Bool.false_and,
    Bool.or_self, Bool.false_eq_true, if_false, if_true]

omit ho hk henv hphase in
/-- A see handle that has not left yet leaves, and its home's record does not change. -/
theorem stillAway_of_see (hkept : o.kept = []) : stillAway s o c h dev = .next (updOp s o.id fun o => { o with kept := [1] }) := by
  simp only [stillAway, leaveJar, sentAway, hkept, hsee, List.isEmpty_nil, Bool.false_and, Bool.false_eq_true, if_true, if_false]

end Sends

/-! ## Collectives (R311 to R313) -/

/-- The round of a collective that has read its record and its members, whose peers have all come and agree. -/
theorem exec_collRound_of_agreed {dst src rec_ round rank : Nat} {w : Wave} {t : Team} {c : Context} {peers : List CollPeer}
    (hk : o.kind = .coll dst src rec_ round) (henv : opEnv s o = some (w, t, c))
    (hrank : (keptMembers o).findIdx? (· == ownDev s) = some rank) (hphase : o.phase = .started) (hover : o.over = false)
    (hready : collReady o = true) (hlost : collLost s o = false) (hteam : t.status ≠ .saved) (hfit : peersFit (keptRec o) rank peers = true)
    (hagree : ∀ p ∈ peers, p.agrees = true) :
    exec (.collRound id peers) s = .next (runRound s o w t c dst src (keptRec o) peers rank) := by
  have hagreed : (peers.any fun p => !p.agrees) = false := by simpa [List.any_eq_false] using hagree
  have hsaved : decide (t.status = .saved) = false := decide_eq_false hteam
  refine (rfl : _ = execCollRound id peers s).trans ?_
  simp only [execCollRound, ho, hk, henv, hrank, hphase, hover, hready, hlost, hsaved, hfit, hagreed, ne_eq, not_true_eq_false, decide_false,
    Bool.not_true, Bool.or_self, Bool.false_eq_true, if_false]

end Engine

/-- Settles O47, event by event. -/
theorem copyEngineStepsRun : Obligations.CopyEngineStepsRun := by
  intro s id o ho
  obtain rfl : o.id = id := id_of_findOp ho
  refine ⟨exec_copyOperationStart_of_mayStart ho, ?copied, ?published, ?put, ?get, ?deposited, ?away, ?taken, ?round, ?record⟩
  case copied =>
    intro dl sl dst src rows n ds ss hk _ hphase hover htask hlast
    exact exec_copyOperationComplete_of_completes ho (by rw [hk]; rfl) (completeCopy_of_copy hk hphase hover htask hlast)
  case published =>
    intro k h hk hphase hover hready htick hturn
    exact exec_copyOperationComplete_of_completes ho (by rw [hk]; rfl) (completeCopy_of_drop hk hphase hover hready htick hturn)
  case put => exact fun k n sl src r hk hring hfree => exec_stageSlotFree_of_free ho hk hring hfree
  case get => exact fun k m dl dst r hk hring hshows => exec_stagePhaseReady_of_shows ho hk hring hshows
  case deposited =>
    intro h dev w t c hk henv hphase hsee hdev hroom
    exact (exec_mailboxDeposit_here ho hk henv hphase hsee hdev).trans (if_neg (Nat.not_le.2 hroom))
  case away =>
    intro h dev w t c hk henv hphase hsee hkept hwaits
    rw [← stillAway_of_see (c := c) (dev := dev) hsee hkept]
    rcases hwaits with ⟨hdev, hfull⟩ | ⟨hdev, hnone⟩
    · exact (exec_mailboxDeposit_here ho hk henv hphase hsee hdev).trans (if_pos hfull)
    · exact exec_mailboxDeposit_unanswered ho hk henv hphase hsee hdev hnone
  case taken => exact fun h dev w t c hk henv hphase hsee hdev hsent => exec_mailboxDeposit_taken ho hk henv hphase hsee hdev hsent
  case round =>
    intro dst src rec_ round w t c g rank peers hk henv hg hrank hphase hover hkept hlost hteam hfit hagree
    subst hg
    exact exec_collRound_of_agreed ho hk henv hrank hphase hover (decide_eq_true hkept) hlost hteam hfit hagree
  case record => exact fun h w t c c' henv _ hown hfilling hgen hc' => jarOf_publishJar henv hown hfilling hgen hc'

end Sys2Proof.Machine
end

section
/-!
PROOF. Words that the spec prints (chapters 2 to 19), attestation (R420, R421), and the registers of port 0, the firmware's updates, the windows and the
power islands (R404, R410 to R412, R417, R424, R425).
-/

namespace Sys2Proof.Machine

/-- Settles O2: each printed word is the encoding of the instruction listed for it, and a word is read as what it encodes. -/
theorem specWordsDecode : Obligations.SpecWordsDecode := by
  refine ⟨decode_encode ?_ ?_, decode_encode ?_ ?_, decode_encode ?_ ?_, decode_encode ?_ ?_, decode_encode ?_ ?_, decode_encode ?_ ?_,
    decode_encode ?_ ?_, decode_encode ?_ ?_, decode_encode ?_ ?_, decode_encode ?_ ?_, decode_encode ?_ ?_, ?_, ?_⟩ <;> decide +kernel

/-! ## Attestation (R420, R421) -/

section Attestation
variable {s : State} {port : Nat} (hport : port ≤ 1) (hmode : portMode s port ≠ 0)
include hport hmode

theorem spdmAnswer_of_up (go : State → SpdmAnswer × State) :
    spdmAnswer s port go = .next { (go s).2 with spdm := (go s).2.spdm ++ [(port, (go s).1)] } := by
  simp only [spdmAnswer, Nat.not_lt.2 hport, hmode, decide_false, Bool.or_self, Bool.false_eq_true, if_false]

/-- A request that no signature answers takes none. -/
theorem spdmAnswer_unsigned (x : SpdmAnswer) :
    spdmAnswer s port (fun s => (x, s)) = .next { s with aliasUsed := s.aliasUsed, spdm := s.spdm ++ [(port, x)] } := by
  rw [spdmAnswer_of_up hport hmode]

/-- While one is left, a signed answer takes the next signature. -/
theorem spdmAnswer_signed (request : SpdmRequest) (answer : State → Nat → SpdmAnswer) (hcert : s.aliasCert = true) (hleft : s.aliasUsed < 1024) :
    spdmAnswer s port (fun s => spdmSigned request s (answer s))
      = .next { s with aliasUsed := s.aliasUsed + 1, spdm := s.spdm ++ [(port, answer s s.aliasUsed)] } := by
  rw [spdmAnswer_of_up hport hmode]
  simp only [spdmSigned, hcert, Nat.not_le.2 hleft, Bool.not_true, Bool.false_eq_true, if_false]

/-- With none left, the answer is that the responder is busy. -/
theorem spdmAnswer_busy (request : SpdmRequest) (answer : State → Nat → SpdmAnswer) (hcert : s.aliasCert = true) (hnone : 1024 ≤ s.aliasUsed) :
    spdmAnswer s port (fun s => spdmSigned request s (answer s)) = .next { s with spdm := s.spdm ++ [(port, .busy request)] } := by
  rw [spdmAnswer_of_up hport hmode]
  simp only [spdmSigned, hcert, hnone, Bool.not_true, Bool.false_eq_true, if_false, if_true]

end Attestation

/-- Settles O59, request by request. -/
theorem attestationRequestsAreAnswered : Obligations.AttestationRequestsAreAnswered := by
  intro s port hport hmode answers values
  have hplain := spdmAnswer_unsigned hport hmode
  exact ⟨hplain _, hplain _, hplain _, hplain _, hplain _, hplain _,
    fun hcert hleft => ⟨spdmAnswer_signed hport hmode .challenge (fun _ k => .ok .challenge (some k)) hcert hleft,
      spdmAnswer_signed hport hmode .getMeasurements (fun s k => .measurements (some k) (measured s)) hcert hleft⟩,
    fun hcert hnone => ⟨spdmAnswer_busy hport hmode .challenge (fun _ k => .ok .challenge (some k)) hcert hnone,
      spdmAnswer_busy hport hmode .getMeasurements (fun s k => .measurements (some k) (measured s)) hcert hnone⟩⟩

/-! ## The registers (R410, R417, R425) -/

section Registers
variable {s : State}

theorem firmwareRuns_eq_false (h : s.boot < 3 ∨ (s.boot = 3 ∧ s.bootFailed = true)) : firmwareRuns s = false := by
  rcases h with hearly | ⟨hthree, hfailed⟩
  · simp [firmwareRuns, hearly]
  · simp [firmwareRuns, hthree, hfailed]

theorem featGood_iff (x : BitVec 128) : featGood x = true ↔ x.getLsbD 0 = true ∧ x &&& ~~~Config.featOff = 0 := by
  simp [featGood]

theorem execFeatgo_one (hruns : firmwareRuns s = true) : execFeatgo 1 s =
    if s.featLocked then .next { s with featStat := 3 }
    else if featGood s.featReg then .next { s with featAcc := s.featReg, featStat := 1, featLocked := true }
    else .next { s with featStat := 2 } := by
  simp only [execFeatgo, hruns, ne_eq, not_true_eq_false, decide_false, Bool.not_true, Bool.or_self, Bool.false_eq_true, if_false]

theorem execAdmingo_one (hboot : s.boot = 3) (hgood : s.bootFailed = false) (hfirst : ∀ q ∈ s.queues, q.admin = false) (hreg : s.adminq.toNat % 96 = 0) :
    execAdmingo 1 s =
      if pgnPresent s (s.adminq.toNat / 49152) then .next (mapQueue { s with boot := 4 } ⟨0, 0⟩ s.adminq.toNat true) else .next (bootFails s 4) := by
  have hruns : firmwareRuns s = true := by simp [firmwareRuns, hboot, hgood]
  have hnone : (s.queues.any fun q => q.admin) = false := by simpa [List.any_eq_false] using hfirst
  simp only [execAdmingo, hboot, hruns, hnone, hreg, ne_eq, not_true_eq_false, decide_false, Bool.not_true, Bool.or_self, Bool.false_eq_true, if_false]
  cases pgnPresent s (s.adminq.toNat / 49152) <;> rfl

theorem featgo_ignored (hruns : firmwareRuns s = false) : execFeatgo 1 s = .next s := by
  simp only [execFeatgo, hruns, Bool.not_false, Bool.or_true, if_true]

theorem admingo_ignored (hruns : firmwareRuns s = false) : execAdmingo 1 s = .next s := by
  simp only [execAdmingo, hruns, Bool.not_false, Bool.or_true, Bool.true_or, if_true]

/-- A write of any register but FEATACC, ADMINQ and those that are instructions of their own changes nothing. -/
theorem execRegisterWrite_ignored {port k : Nat} (v : BitVec 128) (hport : port ≤ 1) (hother : port = 0 → ownOffset k = false ∧ k ≠ 0x10 ∧ k ≠ 0x40) :
    execRegisterWrite port k v s = .next s := by
  by_cases hzero : port = 0
  · obtain ⟨hown, hfeat, hadmin⟩ := hother hzero
    simp [execRegisterWrite, hzero, hown, hfeat, hadmin]
  · simp [execRegisterWrite, hzero, Nat.not_lt.2 hport]

end Registers

/-! ## Power islands (R424) -/

section Islands
variable {s : State} {k : Nat}

theorem execIslandLevel_of_lt (v : Word) (hk : k < 160) : execIslandLevel k v s = .next { s with
    islandWrites := (s.islandWrites.filter fun w => decide (s.now < w.2.1 + 9400)) ++ [(k, s.now, islandLevel s k)]
    islandLevel := Sparse.set 0 s.islandLevel k (v.toNat % 8) } := by
  rw [execIslandLevel, if_neg (Nat.not_le.2 hk)]

/-- Bits 2:0 of an island's register are its LEVEL. -/
theorem islandRead_level (hlevel : islandLevel s k < 8) : islandRead s k % 8 = islandLevel s k := by
  unfold islandRead
  split <;> split <;> omega

theorem execThermalLimit_of_change {held : Bool} (hk : k < 160) (hchange : s.islandHot.contains k = !held) :
    execThermalLimit k held s = .next { s with islandHot := if held then s.islandHot ++ [k] else s.islandHot.filter (· != k) } := by
  refine if_neg ?_
  rw [hchange]
  cases held <;> simp [Nat.not_le.2 hk]

end Islands

/-! ## Updates and windows (R404, R411, R420) -/

section Updates
variable {s : State} {u : Update}

theorem execFirmwareHeartbeat_none (hu : s.update = none) (hruns : firmwareRuns s = true) :
    execFirmwareHeartbeat s = .next { s with verCtr := raiseVersion s.verCtr (s.fwVersions.getD s.fwSlot 0) } := by
  simp only [execFirmwareHeartbeat, hu, hruns, Bool.not_true, Bool.false_eq_true, if_false]

/-- A new image whose time has not passed, and that takes the handover, beats, and does not time out. -/
theorem heartbeat_in_time (hu : s.update = some u) (htaken : u.rejected = false) (htime : s.now ≤ u.started + heartbeatLimit) :
    execFirmwareHeartbeat s = .next (resumeQueues (completePkt
        { s with update := none, fwSlot := u.slot, verCtr := raiseVersion s.verCtr u.version, featLocked := false } u.pkt))
      ∧ execHeartbeatTimeout s = .fault .notEnabled := by
  have hlate : (u.rejected || decide (u.started + heartbeatLimit < s.now)) = false := by simp [htaken, htime]
  simp only [execFirmwareHeartbeat, execHeartbeatTimeout, hu, hlate, Bool.false_eq_true, if_false, and_self]

/-- One whose time has passed times out, and does not beat. -/
theorem heartbeat_late (hu : s.update = some u) (htime : u.started + heartbeatLimit < s.now) :
    execHeartbeatTimeout s = .next (resumeQueues (completePkt (postError { s with update := none } (updateRecord s u.pkt)) u.pkt))
      ∧ execFirmwareHeartbeat s = .fault .notEnabled := by
  have hlate : (u.rejected || decide (u.started + heartbeatLimit < s.now)) = true := by simp [htime]
  simp only [execFirmwareHeartbeat, execHeartbeatTimeout, hu, hlate, if_true, and_self]

/-- In the window that begins, every guest has its next budget, and is not out of it. -/
theorem execBudgetWindow_of_begun (hbegun : s.window < s.now / 940000 * 940000) :
    ∃ t, execBudgetWindow s = .next t ∧ t.window = s.now / 940000 * 940000 ∧ t.guests.length = s.guests.length
      ∧ (∀ g ∈ t.guests, g.out = false ∧ g.next = none) ∧ t.mem = s.mem := by
  refine ⟨_, if_neg (Nat.not_le.2 hbegun), rfl, List.length_map _, fun g hg => ?_, rfl⟩
  obtain ⟨g0, -, rfl⟩ := List.mem_map.1 hg
  refine ⟨rfl, ?_⟩
  cases hnext : g0.next <;> simp [hnext]

end Updates

/-- Settles O58, register by register and event by event. -/
theorem registersFirmwareAndIslands : Obligations.RegistersFirmwareAndIslands := by
  intro s
  refine ⟨?accepted, ?refused, ?locked, ?admin, ?early, fun _ => rfl, fun _ => rfl, ?other, ?level, ?lowered, ?raised, ?hot, ?cool, ?beat, ?updated,
    ?late, execBudgetWindow_of_begun, ?charged⟩
  case accepted =>
    intro hruns hopen hbit hoff
    refine (execFeatgo_one hruns).trans ?_
    rw [hopen, (featGood_iff _).2 ⟨hbit, hoff⟩]
    rfl
  case refused =>
    intro hruns hopen hbad
    have hbad' : featGood s.featReg = false := by
      refine Bool.eq_false_iff.2 fun hgood => ?_
      obtain ⟨hbit, hoff⟩ := (featGood_iff _).1 hgood
      rcases hbad with hclear | hnot
      · exact Bool.false_ne_true (hclear.symm.trans hbit)
      · exact hnot hoff
    refine (execFeatgo_one hruns).trans ?_
    rw [hopen, hbad']
    rfl
  case locked =>
    intro hruns hlocked
    refine (execFeatgo_one hruns).trans ?_
    rw [hlocked]
    rfl
  case admin =>
    intro hboot hgood hfirst hreg
    refine (execAdmingo_one hboot hgood hfirst hreg).trans ?_
    split <;> rfl
  case early => exact fun h => ⟨featgo_ignored (firmwareRuns_eq_false h), admingo_ignored (firmwareRuns_eq_false h)⟩
  case other => exact fun port k v hport hother => execRegisterWrite_ignored v hport hother
  case level =>
    intro k v hk
    refine ⟨_, execIslandLevel_of_lt v hk, rfl, fun hwf => ?_⟩
    have hget := (Sparse.get_set (k := k) (v := v.toNat % 8) (j := k) hwf).trans (if_pos rfl)
    refine Eq.trans (islandRead_level ?_) hget
    exact lt_of_eq_of_lt hget (Nat.mod_lt v.toNat (by decide))
  case lowered => exact fun k hon hrun => if_pos (by simp [hon, hrun])
  case raised => exact fun k hheld => if_pos hheld
  case hot => exact fun k hk hcold => execThermalLimit_of_change hk hcold
  case cool => exact fun k hk hheld => execThermalLimit_of_change hk hheld
  case beat => exact execFirmwareHeartbeat_none
  case updated => exact fun u => heartbeat_in_time
  case late => exact fun u => heartbeat_late
  case charged => exact fun k hin hcharge => if_pos (by simp [hin, hcharge])

end Sys2Proof.Machine
end

section
/-!
PROOF. The packets of one sector (R399 to R403, R408, R409, R216, R217) and of the admin queue (R394, R395, R403, R404, R411): each by its body, once
the ranges that it names are reached.
-/

namespace Sys2Proof.Machine

/-! ## A packet by its body -/

/-- A packet that `exec` runs by a body takes the effect that its body gives at its turn. -/
theorem packetRuns_of_body {s : State} {i : Instr} {p : PktRef} {ok : Queue → RawPkt → Prop} {g : Queue → RawPkt → State}
    (body : Queue → RawPkt → State) (hx : exec i s = onPacket i p s body)
    (hbody : ∀ q r, p.rz = true → r.ref = p → ok q r → body q r = g q r) : packetRuns s i p ok g := by
  intro q r hturn hok
  obtain ⟨-, -, -, hrz, -⟩ := id hturn
  rw [hx, onPacket_atTurn body hturn, hbody q r hrz hturn.ref hok]

theorem onSpan_of_reached {s : State} {q : Queue} {va n : Nat} {k : AccKind} (h : reached s q va n k) (r : RawPkt) (kind : Nat) (go : State) :
    onSpan s q r va n k kind go = spanNoted go q va n k := by
  rw [onSpan, h]

/-- A WAIT or FENCE whose word is reached starts, and completes at once where its condition holds. -/
theorem startWait_of_reached {s : State} {q : Queue} {r : RawPkt} {b : WordBody} {pa pte : Nat} (h : queueAddr s q b.va.toNat 8 .load = .ok pa pte) :
    startWait s q r b =
      let held := updStarted (startPkt (queueNoted s q b.va.toNat 8 .load) q r 0 false) r.ref fun e => { e with va := b.va.toNat, v := b.v }
      if b.v.toNat ≤ memNat s.mem pa 8 then completePkt held r.ref else held := by
  simp only [startWait, h, testWord]

/-- Settles O52, packet by packet. -/
theorem packetsTakeEffect : Obligations.PacketsTakeEffect := by
  intro s p start
  refine ⟨?nop, ?empty, ?copy, ?wait, ?fence, ?signal, ?indirect, ?migrate, ?away, ?capture, ?stop, ?replay⟩
  case nop => exact packetRuns_of_body _ rfl fun _ _ _ _ _ => rfl
  case empty =>
    intro b
    refine packetRuns_of_body _ rfl fun q r hrz _ hzero => ?_
    simp only [hrz, hzero, Bool.not_true, Bool.false_eq_true, if_false]
    rfl
  case copy =>
    intro b
    refine packetRuns_of_body _ rfl fun q r hrz _ ⟨hsome, hsrc, hdst⟩ => ?_
    have hn : b.n.toNat ≠ 0 := fun h => hsome (BitVec.eq_of_toNat_eq h)
    simp only [hrz, hn, onSpan_of_reached hsrc, onSpan_of_reached hdst, Bool.not_true, Bool.false_eq_true, if_false]
    rfl
  case wait =>
    rintro i b pa pte (rfl | ⟨rfl, hva⟩) halign
    · refine packetRuns_of_body _ rfl fun q r hrz _ hword => ?_
      simp only [hrz, halign, startWait_of_reached hword, ne_eq, not_true_eq_false, decide_false, Bool.not_true, Bool.or_self, Bool.false_eq_true,
        if_false]
    · refine packetRuns_of_body _ rfl fun q r hrz _ hword => ?_
      simp only [hrz, halign, hva, startWait_of_reached hword, ne_eq, not_true_eq_false, decide_false, Bool.not_true, Bool.or_self, Bool.false_eq_true,
        if_false]
  case fence =>
    intro b hva
    refine packetRuns_of_body _ rfl fun q r hrz _ _ => ?_
    simp only [hrz, hva, Bool.not_true, Bool.false_or]
    rfl
  case signal =>
    intro b pa pte halign
    refine packetRuns_of_body _ rfl fun q r hrz _ hword => ?_
    simp only [hrz, halign, hword, ne_eq, not_true_eq_false, decide_false, Bool.not_true, Bool.or_self, Bool.false_eq_true, if_false]
    rfl
  case indirect =>
    intro b halign hsome hmost
    refine packetRuns_of_body _ rfl fun q r hrz _ _ => ?_
    simp only [hrz, halign, Nat.not_lt.2 hsome, Nat.not_lt.2 hmost, ne_eq, not_true_eq_false, decide_false, Bool.not_true, Bool.or_self,
      Bool.false_eq_true, if_false]
    rfl
  case migrate =>
    intro b pte pgn entry halign
    refine packetRuns_of_body _ rfl fun q r hrz href ⟨c, hctx, htarget, hrange, hentry, hft⟩ => ?_
    subst href
    rcases hentry with hleaf | hleaf
    all_goals
      simp only [hctx, hrz, halign, htarget, hrange, hleaf, hft, ne_eq, not_true_eq_false, decide_false, Bool.not_true, Bool.or_self,
        Bool.false_eq_true, if_false]
      rfl
  case away =>
    intro b pte pgn entry halign
    refine packetRuns_of_body _ rfl fun q r hrz _ ⟨c, hctx, htarget, hrange, hentry, hft⟩ => ?_
    rcases hentry with hleaf | hleaf
    all_goals
      simp only [hctx, hrz, halign, htarget, hrange, hleaf, hft, ne_eq, not_true_eq_false, not_false_eq_true, decide_false, Bool.not_true, Bool.or_self,
        Bool.false_eq_true, if_false, if_true]
  case capture =>
    intro b hop hlog hcount
    refine packetRuns_of_body _ rfl fun q r hrz _ ⟨hnone, htable, hregions, hroom⟩ => ?_
    have hknown : ¬1 < b.op.toNat := by rw [hop]; decide
    simp only [hrz, hlog, hknown, Nat.not_lt.2 hcount, ne_eq, not_true_eq_false, decide_false, Bool.not_true, Bool.or_self, Bool.false_eq_true, if_false]
    rw [hop, hnone]
    refine (onSpan_of_reached htable r 0 _).trans ?_
    simp only [hregions, onSpan_of_reached hroom]
  case stop =>
    intro b va size used hop hlog hcount
    refine packetRuns_of_body _ rfl fun q r hrz _ ⟨hsome, hroom⟩ => ?_
    have hknown : ¬1 < b.op.toNat := by rw [hop]; decide
    simp only [hrz, hlog, hknown, Nat.not_lt.2 hcount, ne_eq, not_true_eq_false, decide_false, Bool.not_true, Bool.or_self, Bool.false_eq_true, if_false]
    rw [hop, hsome]
    exact onSpan_of_reached hroom r 1 _
  case replay =>
    intro b rs hlog
    refine packetRuns_of_body _ rfl fun q r hrz _ ⟨hscan, hspan, hsame⟩ => ?_
    have hfind : rs.find? (regionDiffers s q) = none := by
      refine List.find?_eq_none.2 fun x hx => ?_
      simp [regionDiffers, hsame x hx]
    simp only [hrz, hlog, hscan, hspan, hfind, ne_eq, not_true_eq_false, decide_false, Bool.not_true, Bool.or_self, Bool.false_eq_true, if_false]
    rfl

/-- Settles O54, packet by packet. -/
theorem adminPacketsTakeEffect : Obligations.AdminPacketsTakeEffect := by
  intro s p done
  refine ⟨?create, ?destroy, ?map, ?unmap, ?budget, ?bken, ?release, ?update⟩
  case create =>
    intro b pads
    refine packetRuns_of_body _ rfl fun q r hrz _ ⟨hrecord, hgood, hpads⟩ => ?_
    simp only [hrz, onSpan_of_reached hrecord, hgood, hpads, Bool.not_true, Bool.false_eq_true, if_false]
    rfl
  case destroy =>
    intro b
    refine packetRuns_of_body _ rfl fun q r hrz _ ⟨hctx, hfirst⟩ => ?_
    have hnone : (ctxOf s b.cid.toNat).isNone = false := by simpa using hctx
    have honly : (q.started.any fun e => e.kind == 0x21 && e.va == b.cid.toNat) = false := by simpa [List.any_eq_false] using hfirst
    simp only [hrz, hnone, honly, Bool.not_true, Bool.or_self, Bool.false_eq_true, if_false]
  case map =>
    intro b
    refine packetRuns_of_body _ rfl fun q r hrz _ ⟨hrecord, hctx, hroom⟩ => ?_
    have hnone : (ctxOf s (memNat s.mem b.addr.toNat 2)).isNone = false := by simpa using hctx
    have hfull : (!((findQueue s ⟨memNat s.mem b.addr.toNat 2, memNat s.mem (b.addr.toNat + 16) 4⟩).any (·.mapped))
        && decide (4096 ≤ (s.queues.filter (·.mapped)).length)) = false := by
      rcases hroom with hmapped | hfew
      · simp [hmapped]
      · simp [hfew]
    simp only [hrz, onSpan_of_reached hrecord, hnone, hfull, Bool.and_false, Bool.not_true, Bool.or_self, Bool.false_eq_true, if_false]
    rfl
  case unmap =>
    intro b x hcid hx hmapped
    refine packetRuns_of_body _ rfl fun q r hrz _ _ => ?_
    simp only [hrz, hcid, hx, hmapped, Bool.not_true, Bool.false_eq_true, if_false]
    rfl
  case budget =>
    intro b hguest hbudget hone hmost
    refine packetRuns_of_body _ rfl fun q r hrz _ _ => ?_
    simp only [hrz, Nat.not_lt.2 hguest, Nat.not_lt.2 hbudget, Nat.not_lt.2 hone, Nat.not_lt.2 hmost, decide_false, Bool.not_true, Bool.or_self,
      Bool.false_eq_true, if_false]
    rfl
  case bken =>
    intro b hval hctx
    refine packetRuns_of_body _ rfl fun q r hrz _ _ => ?_
    have hnone : (ctxOf s b.cid.toNat).isNone = false := by simpa using hctx
    simp only [hrz, Nat.not_lt.2 hval, hnone, decide_false, Bool.not_true, Bool.or_self, Bool.false_eq_true, if_false]
    rfl
  case release =>
    intro b hopen
    refine packetRuns_of_body _ rfl fun q r hrz _ _ => ?_
    simp only [hrz, hopen, Bool.not_true, Bool.false_eq_true, if_false]
    rfl
  case update =>
    intro b hslot hother
    refine packetRuns_of_body _ rfl fun q r hrz _ ⟨himage, hsigned, hnewer⟩ => ?_
    simp only [hrz, Nat.not_lt.2 hslot, onSpan_of_reached himage, hsigned, Nat.not_lt.2 hnewer, hother, decide_false, Bool.not_true, Bool.or_self,
      Bool.false_eq_true, if_false]

end Sys2Proof.Machine
end

section
/-!
PROOF. SWEEP and RESUME (R372, R373, R382), command graphs (R405, R406), host rings (R407), and the words that WAITs and FENCEs hold on (R401).
-/

namespace Sys2Proof.Machine

/-- A SWEEP whose launch record and descriptor are good is admitted. -/
theorem checkSweep_of_good {s : State} {q : Queue} {r : RawPkt} {c : Context} {b : SweepBody} {ki di : List Byte} (hki : kinfoBad ki = false)
    (hdi : descBad di = false) (hplot : (descOf di).plot + 48 * (descOf di).nplot ≤ Config.vaTop) (hfits : footprint (kinfoOf ki) true ≤ 524288) :
    checkSweep s q r c b ki di = admitSweep s q r c b (b.flags.getLsbD 0 || r.logTag.isSome) (kinfoOf ki) (descOf di) := by
  have htop : 0 < Config.vaTop := by decide
  have hrange : ¬Config.vaTop ≤ (descOf di).plot + 48 * (descOf di).nplot - 1 := by omega
  simp only [checkSweep, hki, hdi, hrange, Nat.not_lt.2 hfits, decide_false, Bool.and_false, Bool.false_eq_true, if_false]

/-- A graph whose table has been read and is good begins its first iteration. -/
theorem startGraph_of_good {s : State} {q : Queue} {r : RawPkt} {g : Graph} (hg : findGraph s r.ref.q r.ref.seq = some g)
    (hnodes : ∀ n ∈ g.nodes, n.kind ≠ 0xFF) (htable : tableBad g.nodes = false) :
    startGraph s q r = beginIteration (updGraph (startPkt s q r r.ref.seq false) r.ref.q r.ref.seq fun g =>
      { g with reading := false, nodes := fillUnread g.nodes }) r.ref.q r.ref.seq := by
  have hread : (g.nodes.any fun n => n.kind == 0xFF) = false := by simpa [List.any_eq_false] using hnodes
  simp only [startGraph, hg, hread, htable, Bool.or_self, Bool.false_eq_true, if_false]

section Nodes
variable {s : State} {p : PktRef} {node : Nat} {q : Queue} {g : Graph} {n : GraphNode} (hg : findGraph s p.q p.seq = some g)
  (hq : findQueue s p.q = some q) (hn : g.nodes[node]? = some n) (hp : g.pkt = p) (hread : g.reading = false)
include hg hq hn hp hread

theorem execGraphNodeFinish_of_complete (hphase : n.phase = .complete) : execGraphNodeFinish p node s =
    .next ((n.succ.take n.nsucc).foldl (lowerNode p.q p.seq) (updNode s p.q p.seq node fun n => { n with phase := .finished })) := by
  simp only [execGraphNodeFinish, hg, hq, hn, hp, hread, hphase, Option.bind_some, Option.map_some, ne_eq, not_true_eq_false, decide_false, Bool.or_self,
    Bool.false_eq_true, if_false, if_true]

theorem execGraphNodeFinish_of_cond {pa pte : Nat} (hcond : n.isCond = true) (hphase : n.phase = .entry)
    (hfree : isWaiting s (.packet (nodeRef g node n)) = false) (hword : queueAddr s q n.body 8 .load = .ok pa pte) :
    execGraphNodeFinish p node s = .next (finishCond (queueNoted s q n.body 8 .load) g node n (BitVec.ofNat 64 (memNat s.mem pa 8))) := by
  simp only [execGraphNodeFinish, hg, hq, hn, hp, hread, hcond, hphase, hfree, hword, Option.bind_some, Option.map_some, ne_eq, not_true_eq_false,
    decide_false, decide_true, Bool.not_false, Bool.and_self, Bool.or_self, Bool.false_eq_true, if_false, if_true, reduceCtorEq]

end Nodes

/-- A held WAIT or FENCE whose word is reached tests it again. -/
theorem execWaitWordReload_of_reached {s : State} {p : PktRef} {q : Queue} {e : StartedPkt} {pa pte : Nat} (hq : findQueue s p.q = some q)
    (he : (q.started.find? fun e => e.ref = p && (e.kind == 4 || e.kind == 6)) = some e) (hfree : isWaiting s (.packet p) = false)
    (hword : queueAddr s q e.va 8 .load = .ok pa pte) :
    execWaitWordReload p s
      = .next (testWord (updStarted (queueNoted s q e.va 8 .load) p fun e => { e with last := s.now }) p e.v (memNat s.mem pa 8)) := by
  have href : e.ref = p := by
    have hfound := List.find?_some he
    simp only [Bool.and_eq_true, decide_eq_true_eq] at hfound
    exact hfound.1
  simp only [execWaitWordReload, hq, he, hfree, Option.bind_some, Option.map_some, reloadWord, hword, href, Bool.false_eq_true, if_false]

/-- Settles O53, packet by packet and event by event. -/
theorem sweepsGraphsAndNotifies : Obligations.SweepsGraphsAndNotifies := by
  intro s p
  refine ⟨?sweep, ?resume, ?graph, ?node, ?notify, ?counted, ?tail, ?word⟩
  case sweep =>
    intro b ka da kp dp
    refine packetRuns_of_body _ rfl fun q r _ _ ⟨c, hctx, hgood, hrows, hdet, hka, hda, hki, hdi, hplot, hfits⟩ => ?_
    have hoffered : (b.flags.getLsbD 0 && !featOn s 12) = false := by
      cases hflag : b.flags.getLsbD 0
      · rfl
      · rw [hdet hflag]; rfl
    simp only [hctx, hgood, Nat.not_lt.2 hrows, hoffered, hka, hda, checkSweep_of_good hki hdi hplot hfits, Bool.false_eq_true, if_false]
  case resume =>
    intro b hskip
    refine packetRuns_of_body _ rfl fun q r hrz _ hnamed => ?_
    simp only [hrz, hnamed, Nat.not_lt.2 hskip, decide_false, Bool.not_true, Bool.or_self, Bool.false_eq_true, if_false]
  case graph =>
    intro b g t hgood hfresh
    refine packetRuns_of_body _ rfl fun q r _ href ⟨htable, hg, hnodes, hcounts⟩ => ?_
    subst href
    simp only [hgood, hfresh, htable, startGraph_of_good hg hnodes hcounts, Bool.false_eq_true, if_false]
  case node =>
    exact fun node q g n hg hq hn hp hread => ⟨execGraphNodeFinish_of_complete hg hq hn hp hread,
      fun pa pte hcond hphase hfree hword => execGraphNodeFinish_of_cond hg hq hn hp hread hcond hphase hfree hword⟩
  case notify =>
    intro b hgood hfixed hfew
    refine packetRuns_of_body _ rfl fun q r _ _ hring => ?_
    simp only [hgood, hfixed, Nat.not_lt.2 hfew, onSpan_of_reached hring, Bool.false_eq_true, if_false, if_true]
  case counted =>
    intro b hgood hcount
    refine packetRuns_of_body _ rfl fun q r _ _ ⟨hring, hword, hfew⟩ => ?_
    simp only [hgood, hcount, Nat.not_lt.2 hfew, onSpan_of_reached hring, onSpan_of_reached hword, Bool.false_eq_true, if_false]
  case tail =>
    intro x hx hfull hstage hturn hfree
    refine (rfl : _ = execHostRingTailReload p s).trans ?_
    simp only [execHostRingTailReload, hx, hfull, hstage, hturn, hfree, decide_true, Bool.not_false, Bool.and_self, if_true]
  case word =>
    intro q e pa pte hq he hfree hword
    have htest := execWaitWordReload_of_reached hq he hfree hword
    exact ⟨fun hholds => htest.trans (congrArg _ (if_pos hholds)), fun hshort => htest.trans (congrArg _ (if_neg (Nat.not_le.2 hshort)))⟩

end Sys2Proof.Machine
end

section
/-!
PROOF. Rakes and dibbers (R376 to R378, R380, R383 to R385, R388): a claim is one atomic on a record, which lies within a sector of its line, and leaves
its result with its rake.
-/

namespace Sys2Proof.Machine

/-! ## A rake after it is changed -/

/-- A rake of a sweep of the state. -/
def rakeOf (s : State) (ref : SweepRef) (vdie : Nat) : Option Rake := (findSweep s ref).bind fun w => findRake w vdie

theorem findSweep_updSweep (s : State) (ref : SweepRef) {g : Sweep → Sweep} (hg : ∀ w, (g w).ref = w.ref) :
    findSweep (updSweep s ref g) ref = (findSweep s ref).map g := by
  have hfind := find_map_ite (fun w : Sweep => decide (w.ref = ref)) (g := g) (fun w => by rw [hg]) s.sweeps
  simp only [decide_eq_true_eq] at hfind
  exact hfind

theorem rakeOf_updRake (s : State) (ref : SweepRef) (vdie : Nat) {g : Rake → Rake} (hg : ∀ r, (g r).vdie = r.vdie) :
    rakeOf (updRake s ref vdie g) ref vdie = (rakeOf s ref vdie).map g := by
  rw [rakeOf, updRake, findSweep_updSweep, rakeOf]
  · cases findSweep s ref with
    | none => rfl
    | some w => exact find_map_ite (fun r : Rake => r.vdie == vdie) (fun r => by rw [hg]) w.rakes
  · exact fun _ => rfl

theorem eq_of_findRake_updRake {s : State} {ref : SweepRef} {vdie : Nat} {g : Rake → Rake} {w' : Sweep} {r r' : Rake}
    (hw' : findSweep (updRake s ref vdie g) ref = some w') (hr' : findRake w' vdie = some r') (hr : rakeOf s ref vdie = some r)
    (hg : ∀ r, (g r).vdie = r.vdie) : r' = g r := by
  have hafter := rakeOf_updRake s ref vdie hg
  rw [rakeOf, hw', Option.bind_some, hr', hr, Option.map_some] at hafter
  exact Option.some.inj hafter

theorem rakeOf_congr {s t : State} (h : t.sweeps = s.sweeps) (ref : SweepRef) (vdie : Nat) : rakeOf t ref vdie = rakeOf s ref vdie := by
  simp only [rakeOf, findSweep, h]

theorem passRecord_vdie (i : Nat) (r : Rake) : (passRecord i r).vdie = r.vdie := by
  unfold passRecord
  split
  · split <;> rfl
  · rfl

theorem passRecord_claims (i : Nat) (r : Rake) : (passRecord i r).claims = r.claims := by
  unfold passRecord
  split
  · split <;> rfl
  · rfl

/-! ## The place of an atomic (R87, R196) -/

/-- An atomic that is reached is aligned. -/
theorem accessFrom_atomic_aligned {s : State} {c : Context} {seat n off k pa pte : Nat} {va : Int}
    (h : accessFrom s c seat va n off k .atomic = .ok pa pte) : va.toNat % n = 0 := by
  have hshape : shapeFault va n .atomic = none := by
    unfold accessFrom at h
    split at h
    · cases h
    next hnone => exact hnone
  unfold shapeFault at hshape
  split at hshape
  · cases hshape
  · dsimp only at hshape
    split at hshape
    · cases hshape
    next haligned => simpa using haligned

/-- The state and the T of an atomic within a line: what it writes is one store more at home. -/
theorem atomicHome_of_inside (s : State) (op : Nat) (leased : Bool) {pa n : Nat} (new : Option Nat) (hpos : 0 < n) (hline : pa % 192 + n ≤ 192) :
    atomicHome s op leased pa n new
      = ({ s with
            homeStores := s.homeStores ++ new.toList.map fun v => ⟨op, none, none, completionTime s (pa / 192) leased, pa, leBytes n v⟩
            lineT := Sparse.set 0 s.lineT (pa / 192) (completionTime s (pa / 192) leased + 1) }, completionTime s (pa / 192) leased) := by
  cases new with
  | none => simp [atomicHome]
  | some v => exact storeHome_of_inside s op none leased (leBytes_ne_nil v hpos) (by rwa [length_leBytes])

/-! ## The steps of a rake -/

section Rakes
variable {s : State} {ref : SweepRef} {vdie : Nat} {w : Sweep} {c : Context} {r : Rake} (hw : findSweep s ref = some w)
  (hc : sweepCtx s w = some c) (hr : findRake w vdie = some r)
include hw hr

theorem exec_chunkTake_of_free (hchunk : r.chunk = none) (hstop : r.stopped = false) (hpark : r.parked = false) (hleft : 64 * w.cursor < w.nplot)
    (hheld : rakeHeld s w = false) :
    exec (.chunkTake ref vdie) s = .next (updRake (updSweep s ref fun w => { w with cursor := w.cursor + 1 }) ref vdie fun r =>
      { r with chunk := some w.cursor, next := 64 * w.cursor }) := by
  refine (rfl : _ = execChunkTake ref vdie s).trans ?_
  simp only [execChunkTake, hw, hr, hchunk, hstop, hpark, hheld, Nat.not_le.2 hleft, Option.isSome_none, decide_false, Bool.or_self, Bool.false_eq_true,
    if_false]

theorem exec_chunkTake_of_held (hheld : rakeHeld s w = true) : exec (.chunkTake ref vdie) s = .fault .notEnabled := by
  refine (rfl : _ = execChunkTake ref vdie s).trans ?_
  simp only [execChunkTake, hw, hr, hheld, Bool.or_true, if_true]

include hc

/-- A rake whose queue is pre-empted, or that stands behind a team for a full dibber, claims nothing. -/
theorem exec_claim_of_held (hheld : (rakeHeld s w || handoffWaits s w c r) = true) : exec (.claim ref vdie) s = .fault .notEnabled := by
  refine (rfl : _ = execClaim ref vdie s).trans ?_
  simp only [execClaim, hw, hr, Option.bind_some]
  cases nextRecord w r with
  | none => rfl
  | some i => simp only [Option.map_some, hc, Bool.or_assoc, hheld, Bool.or_true, if_true]

/-- A claim that reaches its record is one atomic within its line: from `s2` on, where only lines and translations have changed, what it writes is one
store more at home, and its result is its rake's. -/
theorem exec_claim_of_reached {i pa pte o : Nat} {bs : List Byte} (hi : nextRecord w r = some i) (hstop : r.stopped = false) (hpark : r.parked = false)
    (hroom : r.claims.length < 8) (hheld : (rakeHeld s w || handoffWaits s w c r) = false)
    (hacc : accessFrom s c 0 (w.plot + 48 * i : Nat) 48 0 48 .atomic = .ok pa pte) (hhost : pgnHost (pa / 49152) = false)
    (hbs : (upto 48).map (fun k => homeByte s (pa + k)) = bs) (ho : claimOutcome w (boundDies c) (r.skips.contains i) bs = o) :
    ∃ s2 tt, LinesFrame (updRake s ref vdie (passRecord i)) s2 ∧ s.now ≤ tt ∧ exec (.claim ref vdie) s = .next (updRake
      { s2 with
        homeStores := s2.homeStores ++ (if o = 0 || o = 4 then some w.ref.tag else none).toList.map fun v => ⟨0, none, none, tt, pa + 20, leBytes 4 v⟩
        lineT := Sparse.set 0 s2.lineT ((pa + 20) / 192) (tt + 1) }
      ref vdie fun r => { r with claims := r.claims ++ [⟨i, o, bs, tt⟩], skips := r.skips.filter (· != i) }) := by
  have haligned := accessFrom_atomic_aligned hacc
  have hmod := accessFrom_mod hacc
  have hline : (pa + 20) % 192 + 4 ≤ 192 := by omega
  have hlines := (linesFrame_noteAccess (updRake s ref vdie (passRecord i)) c 0 (w.plot + 48 * i) pa pte .atomic).trans
    (linesFrame_leaveHome _ c (w.plot + 48 * i) pa pte)
  refine ⟨_, _, hlines, hlines.now_eq ▸ now_le_completionTime _ ((pa + 20) / 192) (isNormal pte (pa / 49152)), ?_⟩
  refine (rfl : _ = execClaim ref vdie s).trans ?_
  rw [Bool.or_eq_false_iff] at hheld
  simp only [execClaim, hw, hr, hi, hc, hstop, hpark, Nat.not_le.2 hroom, hheld, hacc, hhost, hbs, ho, atomicHome_of_inside _ _ _ _ (Nat.succ_pos 3) hline,
    Option.bind_some, Option.map_some, decide_false, Bool.or_self, Bool.false_eq_true, if_false]

/-! ## What a claim's return does (R378, R380) -/

section Returns
variable {x : ClaimResult} {rest : List ClaimResult} (hx : r.claims = x :: rest) (htick : x.tick ≤ s.now)
include hx htick

/-- The oldest claim in flight, once its T has come. -/
theorem exec_claimReturn_of_due : exec (.claimReturn ref vdie) s =
    let s1 := updRake s ref vdie fun r => { r with claims := r.claims.drop 1 }
    let t := newTeam s w c x.index x.bytes
    let s2 := updSweep { s1 with teams := s1.teams ++ [t], fresh := s1.fresh + 1 } ref fun w => { w with claimed := w.claimed + 1 }
    if makesTeam x then
      if 4096 ≤ (waitingAt s t.die).length then .fault .notEnabled
      else .next (closeChunk (if s.dieFence.getLsbD t.die then endTeam s2 t.tid 3 0 0 0xFF 0 0 none else s2) ref vdie)
    else if x.outcome = 2 || x.outcome = 3 then .next (stopRake s1 w vdie x.index (x.outcome - 1) (fieldAt x.bytes 16 4) x.tick)
    else .next (closeChunk (updSweep s1 ref fun w => { w with skipped := w.skipped + 1 }) ref vdie) := by
  refine (rfl : _ = execClaimReturn ref vdie s).trans ?_
  simp only [execClaimReturn, hw, hr, hx, hc, Nat.not_lt.2 htick, Option.bind_some, Option.map_some, List.head?_cons, if_false]

end Returns

end Rakes

/-- A record at which a rake stops makes no team. -/
theorem makesTeam_of_stop {x : ClaimResult} (h : x.outcome = 2 ∨ x.outcome = 3) : makesTeam x = false := by
  rcases h with h | h <;> simp [makesTeam, h]

theorem exec_teamGraft_of_lowest {s : State} {tid v : Nat} {t : Team} {ct : Context} (ht : findTeam s tid = some t) (hct : teamCtx s t = some ct)
    (hv : graftable s t = some v) (hlowest : ∀ u ∈ s.teams, u.sweep = t.sweep → u.teamix < t.teamix → graftable s u = none) :
    exec (.teamGraft tid) s = .next (updTeam s tid fun t => { t with vdie := v, die := (physDie ct v).getD t.die, grafted := true }) := by
  have hnone : (s.teams.any fun u => u.sweep = t.sweep && decide (u.teamix < t.teamix) && (graftable s u).isSome) = false := by
    refine List.any_eq_false.2 fun u hu hgraft => ?_
    simp only [Bool.and_eq_true, decide_eq_true_eq] at hgraft
    obtain ⟨⟨hsweep, hless⟩, hsome⟩ := hgraft
    rw [hlowest u hu hsweep hless] at hsome
    exact absurd hsome (by decide)
  refine (rfl : _ = execTeamGraft tid s).trans ?_
  simp only [execTeamGraft, ht, hct, hv, hnone, Bool.false_eq_true, if_false]

/-- Settles O55, step by step. -/
theorem rakesClaimAndPlaceTeams : Obligations.RakesClaimAndPlaceTeams := by
  intro s ref vdie w c r hw hc hr
  refine ⟨exec_chunkTake_of_free hw hr, ?claims, fun hheld => ⟨exec_chunkTake_of_held hw hr hheld, exec_claim_of_held hw hc hr (by rw [hheld]; rfl)⟩,
    fun hfull => exec_claim_of_held hw hc hr (by rw [hfull, Bool.or_true]), ?returns, fun die s1 hplace hfewer => ?places,
    fun tid t v ct ht hct hv hlowest => exec_teamGraft_of_lowest ht hct hv hlowest⟩
  case claims =>
    intro i pa pte hi hstop hpark hroom hheld hfull hacc hhost bs o
    obtain ⟨s2, tt, hlines, hnow, hexec⟩ := exec_claim_of_reached (bs := bs) (o := o) hw hc hr hi hstop hpark hroom (by rw [hheld, hfull]; rfl) hacc hhost
      rfl rfl
    refine ⟨_, tt, hexec, hlines.mem_eq, fun hwrites => ?written, fun hwrites => ?kept, fun w' hw' r' hr' => ?result⟩
    case written => exact congrArg₂ (· ++ ·) hlines.homeStores_eq (by rw [if_pos (by simpa using hwrites)]; rfl)
    case kept => exact (congrArg₂ (· ++ ·) hlines.homeStores_eq (by rw [if_neg (by simpa using hwrites)]; rfl)).trans (List.append_nil _)
    case result =>
      have hbefore : rakeOf s ref vdie = some r := by rw [rakeOf, hw, Option.bind_some, hr]
      have hsweeps : s2.sweeps = (updRake s ref vdie (passRecord i)).sweeps := (congrArg State.sweeps hlines.rest :)
      have hpassed : rakeOf s2 ref vdie = some (passRecord i r) := by
        rw [rakeOf_congr hsweeps, rakeOf_updRake s ref vdie (passRecord_vdie i), hbefore, Option.map_some]
      obtain rfl := eq_of_findRake_updRake hw' hr' hpassed fun _ => rfl
      exact ⟨tt, congrArg (· ++ _) (passRecord_claims i r), hnow⟩
  case returns =>
    intro x rest hx htick s1 t s2
    have hdue := exec_claimReturn_of_due hw hc hr hx htick
    have hteam (hmakes : makesTeam x = true) (hroom : (waitingAt s t.die).length < 4096) := (hdue.trans (if_pos hmakes)).trans (if_neg (Nat.not_le.2 hroom))
    refine ⟨fun hmakes hroom hfree => ?_, fun hmakes hroom hfenced => ?_, fun hmakes htwo hthree => ?_, fun hstop => ?_⟩
    · exact (hteam hmakes hroom).trans (congrArg (fun u => Host.Outcome.next (closeChunk u ref vdie)) (if_neg (Bool.eq_false_iff.1 hfree)))
    · exact (hteam hmakes hroom).trans (congrArg (fun u => Host.Outcome.next (closeChunk u ref vdie)) (if_pos hfenced))
    · exact (hdue.trans (if_neg (Bool.eq_false_iff.1 hmakes))).trans (if_neg (by simp [htwo, hthree]))
    · exact (hdue.trans (if_neg (Bool.eq_false_iff.1 (makesTeam_of_stop hstop)))).trans (if_pos (by simpa using hstop))
  case places =>
    subst hplace
    exact if_pos hfewer

end Sys2Proof.Machine
end

section
/-!
PROOF. The gangs' rendezvous latch (R338, R342, R345, R358, R359): an arrival opens a round, and a round that is full is carried out.
-/

namespace Sys2Proof.Machine

/-! ## Arrival (R342, R358) -/

section Arrival
variable {s : State} {i : Instr} {f : Fields} {e : Env} {quarters : Bool} (hgang : e.w.gr ≠ 0) (hkept : e.w.gangEnded = false)
  (hpending : matPending s e = false) (hcontrol : controlErrors e = false) (hheld : operandsHeld e quarters = true)
  (hfree : slotOfWave e.w.gr e.w.ix = 0 → tileBusy s e e.f.d.toNat = false)
include hgang hkept hpending hcontrol hheld hfree

/-- A member of a gang that stands, whose control, registers and tile are in order, arrives; with no active lane it only retires (R42). -/
theorem issueMma_of_ready : issueMma s e quarters = if e.act = 0 then .ok s else arriveLatch s e := by
  have hturn : (matPending s e || (slotOfWave e.w.gr e.w.ix = 0 && tileBusy s e e.f.d.toNat)) = false := by
    rw [hpending, Bool.false_or, Bool.and_eq_false_iff]
    by_cases hlead : slotOfWave e.w.gr e.w.ix = 0
    · exact .inr (hfree hlead)
    · exact .inl (decide_eq_false hlead)
  simp only [issueMma, hgang, hkept, hcontrol, hheld, hturn, Bool.not_true, Bool.false_eq_true, if_false]

end Arrival

/-- The first member of its gang to arrive opens a round, and waits at the latch. -/
theorem arriveLatch_of_first {s : State} {e : Env} (hmain : e.who.lane = none) (hfirst : findRound e.t e.w.ix e.w.gr = none) :
    arriveLatch s e = .stall (updCur (updTeam s e.t.tid fun t =>
      { t with rounds := t.rounds ++ [⟨e.w.gr, e.k.words.getD e.k.idx 0, e.w.task.isSome, [e.w.ix]⟩] }) e.who fun w => { w with status := .latch }) := by
  simp only [arriveLatch, hfirst, waitAs_of_main hmain]

/-! ## The latch opens (R342, R359) -/

/-- No pre-emption request holds a member at the latch. -/
theorem any_heldAtYield_eq_false {s : State} {tid : Nat} {ks : List Nat} (h : ∀ k ∈ ks, ∀ w, findWave s tid k = some w → w.preq = false) :
    (ks.any fun k => (findWave s tid k).any heldAtYield) = false := by
  refine List.any_eq_false.2 fun k hk => ?_
  cases hw : findWave s tid k with
  | none => simp
  | some w => simp [heldAtYield, h k hk w hw]

theorem exec_rendezvousLatchExit_of_full {s : State} {tid leader : Nat} {t : Team} {r : Round} {m : MatOp} {new : List ((Nat × Nat) × BitVec 96)} {b : W32}
    (ht : findTeam s tid = some t) (hplaced : t.status = .placed)
    (hr : (t.rounds.find? fun r => gangSlot r.gr 0 == leader && (gangMembers r.gr).all r.arrived.contains) = some r)
    (hfree : ∀ k ∈ r.arrived, ∀ w, findWave s tid k = some w → w.preq = false) (hm : matOp s t r = some m) (hresult : matResult s m = .ok (new, b)) :
    exec (.rendezvousLatchExit tid leader) s = .next (r.arrived.foldl (releaseMember tid)
      (updWave (updTeam s tid fun t => { t with rounds := t.rounds.filter (· != r) }) tid leader
        fun w => (w.setEls m.f.d.toNat new).setBound m.f.d.toNat b)) := by
  refine (rfl : _ = execRendezvousLatchExit tid leader s).trans ?_
  simp only [execRendezvousLatchExit, ht, hplaced, hr, any_heldAtYield_eq_false hfree, hm, hresult, ne_eq, not_true_eq_false, decide_false, Bool.or_self,
    Bool.false_eq_true, if_false]

/-! ## The loss of a member (R345) -/

theorem exec_gangLostHandlerLimit_of_late {s : State} {tid ix va t0 : Nat} {t : Team} (ht : findTeam s tid = some t) (hlost : t.lost = some (ix, va, t0))
    (hlate : t0 + 8192 ≤ s.now) :
    exec (.gangLostHandlerLimit tid) s = .next
      (endTeam (updTeam s tid fun t => { t with lost := none }) tid 1 0x22 1 ix (BitVec.ofNat 64 va) (BitVec.ofNat 64 ix) none) := by
  refine (rfl : _ = execGangLostHandlerLimit tid s).trans ?_
  simp only [execGangLostHandlerLimit, ht, Option.bind_some, hlost, hlate, decide_true, Bool.or_true, if_true]

/-- Settles O37: arrival, the full round, and the loss of a member. -/
theorem gangsMeetAtTheirLatch : Obligations.GangsMeetAtTheirLatch := by
  intro s f
  refine ⟨fun i q e hi h hmain hkept hpending hgang hcontrol hheld hfree => ?arrival,
    fun tid leader t r m new b ht hplaced hr hfree hm hresult => exec_rendezvousLatchExit_of_full ht hplaced hr hfree hm hresult,
    fun tid ix va t0 t ht hlost hlate => exec_gangLostHandlerLimit_of_late ht hlost hlate⟩
  case arrival =>
    obtain rfl : e.f = f := h.fields
    have hready := issueMma_of_ready hgang hkept hpending hcontrol hheld hfree
    have hexec : exec i s = .next (conclude s e (if e.act = 0 then .ok s else arriveLatch s e)) := by
      rcases hi with ⟨rfl, rfl⟩ | ⟨rfl, rfl⟩
      · exact outcome_atTurn (rfl : _ = execMma e.f s) h hready
      · exact outcome_atTurn (rfl : _ = execMmar e.f s) h hready
    exact ⟨fun hidle => by rw [hexec, if_pos hidle, conclude_ok],
      fun hact hfirst => by rw [hexec, if_neg hact, arriveLatch_of_first hmain hfirst, conclude_stall]⟩

end Sys2Proof.Machine
end

section
/-!
PROOF. The words on tiles, bound registers and gangs (R335, R339, R357, R361 to R367): what each does where its tile is free and where it is not, the
turn of one that went out, and the state in which O36 fails.
-/

namespace Sys2Proof.Machine

/-! ## An effect on one tile, at once or at its turn (R357, R30) -/

section Effects
variable {s : State} {f : Fields} {e : Env} {k : Nat} {regs : Bool} {lanes : W32} {kept : List Nat} {g : Wave → Wave}

theorem matEffect_of_free (hfree : tileBusy s e k = false) (hnow : regs = true → matPending s e = false ∧ s.inputs.late = false) :
    matEffect s e k regs lanes kept g = .ok (updCur s e.who g) := by
  have hgo : (tileBusy s e k || (regs && (s.inputs.late || matPending s e))) = false := by
    cases regs with
    | false => simp [hfree]
    | true => simp [hfree, hnow rfl]
  rw [matEffect, if_neg (Bool.eq_false_iff.1 hgo)]

theorem matEffect_of_not_free (hwait : tileBusy s e k = true ∨ (regs = true ∧ ¬(tileBusy s e k = false ∧ matPending s e = false ∧ s.inputs.late = false))) :
    matEffect s e k regs lanes kept g = .ok (pushMat s e none k false lanes kept []) := by
  refine if_pos ?_
  rcases hwait with hbusy | ⟨hregs, hnot⟩
  · simp [hbusy]
  · by_contra hgo
    simp [hregs] at hgo
    simp [hgo] at hnot

/-- The issuing wave alone has its team and number. -/
def OwnNumber (s : State) (e : Env) : Prop := ∀ x ∈ s.waves, x.tid = e.who.tid → x.ix = e.who.wave → x = e.w

/-- Where the issuing wave alone has its team and number, a change of it may be read from what the word sees. -/
theorem updCur_congr_of_own {g g' : Wave → Wave} (hown : OwnNumber s e) (hg : g e.w = g' e.w) :
    updCur s e.who g = updCur s e.who g' := by
  have hwaves : s.waves.map (fun w => if w.tid == e.who.tid && w.ix == e.who.wave then g w else w)
      = s.waves.map fun w => if w.tid == e.who.tid && w.ix == e.who.wave then g' w else w := by
    refine List.map_congr_left fun x hx => ?_
    split
    next hkey =>
      simp only [Bool.and_eq_true, beq_iff_eq] at hkey
      rw [hown x hx hkey.1 hkey.2, hg]
    next => rfl
  simp only [updCur, updWave, hwaves]

theorem exec_accz_atTurn (h : wordAtTurn s (.accz f) f e) :
    exec (.accz f) s = .next (conclude s e (matEffect s e f.d.toNat false 0 [] fun w => w.clearTile f.d.toNat)) :=
  outcome_atTurn (rfl : _ = execAccz f s) h rfl

theorem exec_accmode_atTurn (h : wordAtTurn s (.accmode f) f e) :
    exec (.accmode f) s = .next (conclude s e (matEffect s e f.d.toNat false 0 [] fun w => w.setExact f.d.toNat (f.bmod ≠ 0))) :=
  outcome_atTurn (rfl : _ = execAccmode f s) h rfl

/-- A BNDSET of one field asks that its scalar be a word of 32 bits. -/
theorem exec_bndset_atTurn (h : wordAtTurn s (.bndset f) f e) (hx : f.bmod = 0 ∨ (e.p.s f.a.toNat).toNat < 2 ^ 32) :
    exec (.bndset f) s
      = .next (conclude s e (matEffect s e f.d.toNat true 0 [] fun w => w.bndset f.d.toNat f.bmod.toNat (e.p.s f.a.toNat))) := by
  refine outcome_atTurn (rfl : _ = execBndset f s) h (if_neg ?_)
  rcases hx with hboth | hsmall
  · simp [hboth]
  · have hhigh : (e.p.s f.a.toNat).extractLsb' 32 32 = 0 := by
      refine BitVec.eq_of_toNat_eq ?_
      rw [BitVec.extractLsb'_toNat, Nat.shiftRight_eq_div_pow, Nat.div_eq_of_lt hsmall]
      rfl
    simp [hhigh]

theorem exec_bndrd_of_idle (h : wordAtTurn s (.bndrd f) f e) (hact : e.act = 0) : exec (.bndrd f) s = .next (retired s e) :=
  outcome_atTurn (v := .ok s) (rfl : _ = execBndrd f s) h (if_pos hact)

theorem exec_bndrd_atTurn (h : wordAtTurn s (.bndrd f) f e) (hact : e.act ≠ 0) :
    exec (.bndrd f) s
      = .next (conclude s e (matEffect s e f.a.toNat true 0 [] fun w => { w with path := w.path.setS f.d.toNat (w.bnd f.a.toNat) })) :=
  outcome_atTurn (rfl : _ = execBndrd f s) h (if_neg hact)

theorem exec_accrd_atTurn {row : Nat} (h : wordAtTurn s (.accrd f) f e) (hr : (if f.bsp = 1 then (e.p.s f.b.toNat).toNat else f.b.toNat) = row)
    (hrow : row < 64) :
    exec (.accrd f) s
      = .next (conclude s e (matEffect s e f.a.toNat true 0xFFFFFFFF [row] fun w => w.readRow f.d.toNat f.a.toNat f.c.toNat row 0xFFFFFFFF)) := by
  subst hr
  exact outcome_atTurn (rfl : _ = execAccrd f s) h (if_neg (Nat.not_lt.2 (Nat.le_of_lt_succ hrow)))

/-- BNDRD writes the bound of the issuing wave, where no other has its team and number. -/
theorem exec_bndrd_of_own (h : wordAtTurn s (.bndrd f) f e) (hact : e.act ≠ 0) (hfree : tileBusy s e f.a.toNat = false)
    (hnow : matPending s e = false ∧ s.inputs.late = false) (hown : OwnNumber s e) :
    exec (.bndrd f) s = .next (retired (setScalar s e.who f.d.toNat (e.w.bnd f.a.toNat)) e) := by
  obtain ⟨-, -, -, hlane, -⟩ := id h
  have hmain : e.who.lane = none := hlane.resolve_right Bool.false_ne_true
  rw [exec_bndrd_atTurn h hact, matEffect_of_free hfree fun _ => hnow, conclude_ok, setScalar, updPath, hmain]
  rw [updCur_congr_of_own hown (g' := fun w => w.updPath none fun p => p.setS f.d.toNat (e.w.bnd f.a.toNat)) rfl]

/-- ACCRD reads the tile of the issuing wave, where no other has its team and number. -/
theorem exec_accrd_of_own {row : Nat} (h : wordAtTurn s (.accrd f) f e) (hr : (if f.bsp = 1 then (e.p.s f.b.toNat).toNat else f.b.toNat) = row)
    (hrow : row < 64) (hfree : tileBusy s e f.a.toNat = false) (hnow : matPending s e = false ∧ s.inputs.late = false)
    (hown : OwnNumber s e) :
    exec (.accrd f) s = .next (retired (updCur s e.who fun w => (upto 32).foldl (fun w l => setRegs w f.d.toNat l
      (readOut f.c.toNat (e.w.el f.a.toNat row l) ++ readOut f.c.toNat (e.w.el f.a.toNat row (l + 32)))) w) e) := by
  rw [exec_accrd_atTurn h hr hrow, matEffect_of_free hfree fun _ => hnow, conclude_ok]
  refine congrArg (fun t => Host.Outcome.next (retired t e)) (updCur_congr_of_own hown ?_)
  refine List.foldl_ext _ _ _ fun w l hl => if_pos ?_
  have hlane : l < 32 := List.mem_range.1 hl
  interval_cases l <;> rfl

end Effects

/-! ## ACCOP (R365) -/

section Accop
variable {s : State} {f : Fields} {e : Env} (h : wordAtTurn s (.accop f) f e)
include h

theorem exec_accop_of_busy (hbusy : tileBusy s e f.d.toNat = true ∨ tileBusy s e f.a.toNat = true ∨ matPending s e = true) :
    exec (.accop f) s = .next (standStill s e) := by
  refine outcome_atTurn (v := tryAgain s e) (rfl : _ = execAccop f s) h (if_pos ?_)
  rcases hbusy with hd | ha | hpending
  · simp [hd]
  · simp [ha]
  · simp [hpending]

/-- What ACCOP makes of one place of its tiles. -/
def accopAt (f : Fields) (e : Env) (p : Nat × Nat) : BitVec 96 × Option Mag :=
  accElem f.c.toNat (readF .fp32 ((e.p.s f.b.toNat).toNat % 2 ^ 32)) (e.w.el f.d.toNat p.1 p.2) (e.w.el f.a.toNat p.1 p.2)

/-- The bound that ACCOP comes to. -/
def accopBound (f : Fields) (e : Env) : W32 :=
  accBound f.c.toNat (readF .fp32 ((e.p.s f.b.toNat).toNat % 2 ^ 32)) (e.w.bound f.d.toNat) (e.w.bound f.a.toNat)
    (maxPart (places.map fun p => (accopAt f e p).2))

theorem exec_accop_of_free (hd : tileBusy s e f.d.toNat = false) (ha : tileBusy s e f.a.toNat = false) (hpending : matPending s e = false) :
    (accopBound f e ≤ e.w.thresh f.d.toNat → exec (.accop f) s = .next (retired
      (updCur s e.who fun w => (w.setEls f.d.toNat (places.map fun p => (p, (accopAt f e p).1))).setBound f.d.toNat (accopBound f e)) e))
    ∧ (e.w.thresh f.d.toNat < accopBound f e →
      exec (.accop f) s = .next (deliver s e.who ⟨.bound, 1, (accopBound f e).zeroExtend 64⟩ (preciseAt e.va))) := by
  have hbound : accBound f.c.toNat (readF .fp32 ((e.p.s f.b.toNat).toNat % 2 ^ 32)) (e.w.bound f.d.toNat) (e.w.bound f.a.toNat)
      (maxPart ((places.map fun p => (p, accopAt f e p)).map (·.2.2))) = accopBound f e := by
    rw [List.map_map]; rfl
  have hels : (places.map fun p => (p, accopAt f e p)).map (fun q => (q.1, q.2.1)) = places.map fun p => (p, (accopAt f e p).1) := by
    rw [List.map_map]; rfl
  have hexec : exec (.accop f) s = .next (conclude s e (if e.w.thresh f.d.toNat < accopBound f e then faulting .bound 1 ((accopBound f e).zeroExtend 64)
      else .ok (updCur s e.who fun w => (w.setEls f.d.toNat (places.map fun p => (p, (accopAt f e p).1))).setBound f.d.toNat (accopBound f e)))) := by
    refine outcome_atTurn (rfl : _ = execAccop f s) h ((if_neg ?_).trans ?_)
    · simp [hd, ha, hpending]
    · rw [← hels, ← hbound]; rfl
  exact ⟨fun hle => by rw [hexec, if_neg (BitVec.not_lt.2 hle), conclude_ok], fun hlt => by rw [hexec, if_pos hlt]; rfl⟩

end Accop

/-! ## Gangs (R339, R367) -/

theorem exec_gangset_of_valid {s : State} {f : Fields} {e : Env} (h : wordAtTurn s (.gangset f) f e)
    (hvalid : gangValid s e.who.tid e.who.wave (e.p.s f.a.toNat) = true) (hfeat : 4 < gangSize (e.p.s f.a.toNat) → featOn s 6 = true) :
    exec (.gangset f) s = .next (retired (updCur s e.who fun w => { w with gr := e.p.s f.a.toNat, gangEnded := false }) e) := by
  have hoffered : ¬((decide (gangSize (e.p.s f.a.toNat) = 5) || decide (gangSize (e.p.s f.a.toNat) = 6)) && !featOn s 6) = true := by
    intro hno
    simp only [Bool.and_eq_true, Bool.or_eq_true, decide_eq_true_eq, Bool.not_eq_true'] at hno
    obtain ⟨hsize, hoff⟩ := hno
    exact Bool.false_ne_true (hoff.symm.trans (hfeat (by omega)))
  exact outcome_atTurn (v := .ok _) (rfl : _ = execGangset f s) h ((if_neg hoffered).trans (if_neg (by simp [hvalid])))

theorem exec_gangrel_atTurn {s : State} {f : Fields} {e : Env} (h : wordAtTurn s (.gangrel f) f e) :
    exec (.gangrel f) s = .next (retired (if e.w.gr = 0 then s
      else breakGangs (updCur s e.who fun w => { w with gr := 0, gangEnded := false }) e.who.tid e.who.wave) e) := by
  refine (outcome_atTurn (rfl : _ = execGangrel f s) h rfl).trans ?_
  split <;> rfl

/-! ## Tiles to and from memory (R362, R363) -/

/-- The operation of a tile that goes out: as itself where the tile is free, else as a word whose turn is still to come. -/
def tileIssued (s : State) (e : Env) (k : Nat) (kind : OpKind) (load : Bool) (xs : List Access) : State :=
  if tileBusy s e k then pushMat s e (some (counterName e.f)) k (!load) 0 [] xs
  else pushOp s (mkOp s e.who e.w kind (some (counterName e.f)) e.va (e.k.words.getD e.k.idx 0) (pathFlags e.p) xs load .issued)

section Tiles
variable {s : State} {f : Fields} {e : Env} {fm : Fmt} (hroom : counterFull s e (some (counterName e.f)) = false)
include hroom

theorem issueTile_of_room (k : Nat) (kind : OpKind) (load : Bool) (xs : List Access) :
    issueTile s e k kind load xs = .ok (tileIssued s e k kind load xs) := by
  rw [issueTile, if_neg (Bool.eq_false_iff.1 hroom), tileIssued]
  split <;> rfl

/-- With no active lane the counter is raised and lowered, as by a copy that does nothing. -/
theorem issueNoRows_of_room : issueNoRows s e = .ok (copyIdled s e) := if_neg (Bool.eq_false_iff.1 hroom)

theorem exec_accld_of_idle (h : wordAtTurn s (.accld f) f e) (hfmt : storageFmt f.c.toNat = some fm)
    (hstride : bitsOf (e.p.s f.b.toNat).toNat 63 32 = 0) (hact : e.act = 0) : exec (.accld f) s = .next (retired (copyIdled s e) e) := by
  refine outcome_atTurn (v := .ok _) (rfl : _ = execAccld f s) h ?_
  simp only [hfmt, hstride, hact, issueNoRows_of_room hroom, ne_eq, not_true_eq_false, if_false, if_true]

theorem exec_accst_of_idle (h : wordAtTurn s (.accst f) f e) (hfmt : storageFmt f.d.toNat = some fm) (hact : e.act = 0) :
    exec (.accst f) s = .next (retired (copyIdled s e) e) := by
  refine outcome_atTurn (v := .ok _) (rfl : _ = execAccst f s) h ?_
  simp only [hfmt, hact, issueNoRows_of_room hroom, if_true]

theorem exec_accld_of_rows (h : wordAtTurn s (.accld f) f e) (hfmt : storageFmt f.c.toNat = some fm)
    (hstride : bitsOf (e.p.s f.b.toNat).toNat 63 32 = 0) (hact : e.act ≠ 0) (hrows : tileFaults s e (levelOfCode f.bmod.toNat) (rowBytes fm) = []) :
    exec (.accld f) s = .next (retired (tileIssued s e f.d.toNat (.accLoad f.d.toNat f.c.toNat) true
      (tileAccs e (levelOfCode f.bmod.toNat) (rowBytes fm) fun _ => 0)) e) := by
  refine outcome_atTurn (v := .ok _) (rfl : _ = execAccld f s) h ?_
  simp only [hfmt, hstride, hact, hrows, ne_eq, not_true_eq_false, if_false]
  exact issueTile_of_room hroom _ _ _ _

/-- The side record, if the word names one, is aligned and in range. -/
theorem exec_accst_of_rows (h : wordAtTurn s (.accst f) f e) (hfmt : storageFmt f.d.toNat = some fm) (hact : e.act ≠ 0)
    (hrows : tileFaults s e (levelOfCode f.bmod.toNat) (rowBytes fm) = []) (hrecord : recordFaults s e = []) :
    exec (.accst f) s = .next (retired (tileIssued s e f.c.toNat (.accStore f.c.toNat) false (storeAccs e fm)) e) := by
  refine outcome_atTurn (v := .ok _) (rfl : _ = execAccst f s) h ?_
  simp only [hfmt, hact, hrows, hrecord, List.append_nil, if_false]
  exact issueTile_of_room hroom _ _ _ _

omit hroom in
/-- A copy that does nothing is issued as a memory operation of no access is. -/
theorem memIssued_of_idle (hkept : keptAt e = []) : memIssued s e (some (counterName e.f)) .none [] = copyIdled s e := by
  have hlate : lateLanes s e [] = 0 := ite_self _
  simp only [memIssued, hlate, hkept, OpKind.isAtomic, Bool.and_false, Bool.false_and, Bool.false_eq_true, if_false]
  rfl

end Tiles

/-! ## The turn of a word that went out (R354, R357) -/

section Turn
variable {s : State} {o : Op} {k : Nat} {st : Bool} {e : Env} {lanes : W32} (ho : findOp s o.id = some o) (hkind : o.kind = .matWord k st)
  (hphase : o.phase = .issued) (hlanes : lanes ≠ 0)
  (hturn : ∀ p ∈ waveOps s o.tid o.wave, p.id < o.id → p.phase ≠ .complete → p.kind.isMatWord = false ∧ ∀ c, p.kind ≠ .accLoad k c)
  (he : envAgain s o lanes = some e)

include hturn in
/-- A word has its turn when no earlier MAT instruction of its wave has still to finish with the tile, nor waits itself. -/
theorem hasTurn_of_first : hasTurn s o k = true := by
  refine List.all_eq_true.2 fun p hp => ?_
  by_cases hearlier : p.id < o.id
  · by_cases hdone : p.phase = .complete
    · simp [Op.namesTile, hdone]
    · obtain ⟨hword, hload⟩ := hturn p hp hearlier hdone
      have hnames : p.namesTile k = false := by
        unfold Op.namesTile
        split
        next j c hk => simp [show j ≠ k from fun hj => hload c (hj ▸ hk)]
        next j b hk => simp [hk, OpKind.isMatWord] at hword
        next => simp
      simp [hword, hnames]
  · simp [Nat.le_of_not_lt hearlier]

include ho hkind hphase hlanes hturn in
/-- LOAD_PERFORM of a word that has its turn. -/
theorem exec_loadPerform_of_turn : exec (.loadPerform o.id lanes) s = .next (matTurn s o lanes) := by
  have hgo : (decide (o.phase = .issued) && hasTurn s o k && decide (lanes ≠ 0)) = true := by
    rw [decide_eq_true hphase, hasTurn_of_first hturn, decide_eq_true hlanes]
    rfl
  refine (rfl : _ = execLoadPerform o.id lanes s).trans ?_
  simp only [execLoadPerform, ho, hkind, hgo, if_true]

include he in
/-- What each word does at its turn. -/
theorem matTurn_of_env (f : Fields) :
    (e.i = .accz f → matTurn s o lanes = completeOp (updWave s o.tid o.wave fun w => w.clearTile e.f.d.toNat) o)
    ∧ (e.i = .accmode f → matTurn s o lanes = completeOp (updWave s o.tid o.wave fun w => w.setExact e.f.d.toNat (e.f.bmod ≠ 0)) o)
    ∧ (e.i = .bndset f →
      matTurn s o lanes = completeOp (updWave s o.tid o.wave fun w => w.bndset e.f.d.toNat e.f.bmod.toNat (e.p.s e.f.a.toNat)) o)
    ∧ (e.i = .bndrd f → matTurn s o lanes = completeOp (updWave s o.tid o.wave fun w => setPathScalar w o.pid e.f.d.toNat (w.bnd e.f.a.toNat)) o)
    ∧ (e.i = .accrd f →
      let read := updWave s o.tid o.wave fun w => w.readRow e.f.d.toNat e.f.a.toNat e.f.c.toNat (o.kept.headD 0) (lanes &&& o.unread)
      matTurn s o lanes = if o.unread &&& ~~~lanes = 0 then completeOp read o
        else updOp read o.id fun x => { x with unread := o.unread &&& ~~~lanes })
    ∧ (e.i = .accld f → matTurn s o lanes = updOp s o.id fun o => { o with kind := .accLoad e.f.d.toNat e.f.c.toNat })
    ∧ (∀ fm, e.i = .accst f → storageFmt e.f.d.toNat = some fm → matTurn s o lanes = updOp s o.id fun o =>
      { o with kind := .accStore e.f.c.toNat, regWork := false, accs := takeData o.accs (tileStream e fm) }) := by
  refine ⟨fun hi => ?_, fun hi => ?_, fun hi => ?_, fun hi => ?_, fun hi => ?_, fun hi => ?_, fun fm hi hfmt => ?_⟩
  case refine_7 => simp only [matTurn, he, hi, hfmt]
  all_goals simp only [matTurn, he, hi]

end Turn

/-! ## All of it -/

theorem setExact_eq {n : Nat} (w : Wave) (k : Nat) (mode : BitVec n) : w.setExact k (mode ≠ 0)
    = { w with exact := if mode = 0 then w.exact &&& ~~~(BitVec.ofNat 64 (2 ^ k)) else w.exact ||| BitVec.ofNat 64 (2 ^ k) } := by
  by_cases hmode : mode = 0 <;> simp [Wave.setExact, hmode]

theorem acc_setRegs (w : Wave) (r lane : Nat) (xs : List W32) : (setRegs w r lane xs).acc = w.acc := by
  obtain ⟨l, hset⟩ := setRegs_frame w r lane xs
  have hacc := congrArg Wave.acc (hset w.perf)
  exact hacc

/-- Lane by lane, a row is read from the tile that the lanes before have left as it was. -/
theorem readRow_eq (w : Wave) (d k code r : Nat) (lanes : W32) :
    w.readRow d k code r lanes = (upto 32).foldl (fun x l =>
      if lanes.getLsbD l then setRegs x d l (readOut code (x.el k r l) ++ readOut code (x.el k r (l + 32))) else x) w := by
  suffices h : ∀ (ls : List Nat) (x : Wave), x.acc = w.acc →
      ls.foldl (fun x l => if lanes.getLsbD l then setRegs x d l (readOut code (w.el k r l) ++ readOut code (w.el k r (l + 32))) else x) x
        = ls.foldl (fun x l => if lanes.getLsbD l then setRegs x d l (readOut code (x.el k r l) ++ readOut code (x.el k r (l + 32))) else x) x from
    h (upto 32) w rfl
  intro ls
  induction ls with
  | nil => exact fun _ _ => rfl
  | cons l ls ih =>
    intro x hx
    simp only [List.foldl_cons, Wave.el, hx]
    refine ih _ ?_
    split
    · rw [acc_setRegs, hx]
    · exact hx

/-- The side record that an ACCST names, if any, is aligned and in range. -/
theorem recordFaults_eq_nil {s : State} {e : Env} {a : Nat} (ha : sideAddr e (e.f.b + 1) = a) (halign : a % 16 = 0)
    (hrange : a = 0 ∨ sideRange s e.t e.c .g a 16 = none) : recordFaults s e = [] := by
  rw [recordFaults, ha]
  rcases hrange with hnone | hrange
  · exact if_pos hnone
  · simp [halign, hrange]

/-- An ACCST that names no side record stores its rows alone. -/
theorem storeAccs_eq (e : Env) (fm : Fmt) :
    let d := storeTile e fm (bitsOf (e.p.s e.f.b.toNat).toNat 63 32)
    let rows := tileAccs e (levelOfCode e.f.bmod.toNat) (rowBytes fm) d.1
    storeAccs e fm = if sideAddr e (e.f.b + 1) = 0 then rows
      else rows ++ [accOf (64 + rows.length) .g (sideAddr e (e.f.b + 1)) 16 d.2 0] := by
  intro d rows
  by_cases hnone : sideAddr e (e.f.b + 1) = 0
  · exact ((congrArg (rows ++ ·) (if_pos hnone)).trans (List.append_nil _)).trans (if_pos hnone).symm
  · exact (congrArg (rows ++ ·) (if_neg hnone)).trans (if_neg hnone).symm

/-- What O36 says, with BNDRD and ACCRD at issue where the issuing wave alone has its team and number, and with the lanes that an ACCRD has still to
write taken from the operation whose turn it is, in every operation of that number. -/
theorem tile_words_complete (s : State) (f : Fields) :
  let free (e : Env) (k : BitVec 8) : Prop := tileBusy s e k.toNat = false
  let now (e : Env) (k : BitVec 8) : Prop := free e k ∧ matPending s e = false ∧ s.inputs.late = false
  let goesOut (i : Instr) (k : BitVec 8) (regs : Bool) (ok : Env → Prop) (lanes : W32) (kept : Env → List Nat) : Prop :=
    completesIf s i f (fun e => ok e ∧ (¬free e k ∨ (regs = true ∧ ¬now e k))) fun e =>
      pushOp s { mkOp s e.who e.w (.matWord k.toNat false) none e.va (e.k.words.getD e.k.idx 0) (pathFlags e.p) [] true .issued with
        unread := lanes, kept := kept e }
  let row (e : Env) : Nat := if f.bsp = 1 then (e.p.s f.b.toNat).toNat else f.b.toNat
  completesIf s (.accz f) f (fun e => free e f.d)
      (fun e => updCur s e.who fun w =>
        { w with acc := Sparse.clear w.acc (4096 * f.d.toNat) 4096 }.setBnd f.d.toNat ((w.bnd f.d.toNat).extractLsb' 32 32 ++ (0 : W32)))
  ∧ completesIf s (.accmode f) f (fun e => free e f.d)
      (fun e => updCur s e.who fun w =>
        { w with exact := if f.bmod = 0 then w.exact &&& ~~~(BitVec.ofNat 64 (2 ^ f.d.toNat)) else w.exact ||| BitVec.ofNat 64 (2 ^ f.d.toNat) })
  ∧ completesIf s (.bndset f) f (fun e => now e f.d ∧ f.bmod = 0)
      (fun e => updCur s e.who fun w => w.setBnd f.d.toNat
        (canonEb ((e.p.s f.a.toNat).extractLsb' 32 32) ++ canonEb ((e.p.s f.a.toNat).extractLsb' 0 32)))
  ∧ completesIf s (.bndset f) f (fun e => now e f.d ∧ f.bmod = 1 ∧ (e.p.s f.a.toNat).toNat < 2 ^ 32)
      (fun e => updCur s e.who fun w => w.setBnd f.d.toNat
        ((w.bnd f.d.toNat).extractLsb' 32 32 ++ canonEb ((e.p.s f.a.toNat).extractLsb' 0 32)))
  ∧ completesIf s (.bndset f) f (fun e => now e f.d ∧ f.bmod = 2 ∧ (e.p.s f.a.toNat).toNat < 2 ^ 32)
      (fun e => updCur s e.who fun w => w.setBnd f.d.toNat
        (canonEb ((e.p.s f.a.toNat).extractLsb' 0 32) ++ (w.bnd f.d.toNat).extractLsb' 0 32))
  ∧ completesIf s (.bndrd f) f (fun e => e.act = 0) (fun _ => s)
  ∧ completesIf s (.bndrd f) f (fun e => e.act ≠ 0 ∧ now e f.a ∧ OwnNumber s e) (fun e => setScalar s e.who f.d.toNat (e.w.bnd f.a.toNat))
  ∧ completesIf s (.accrd f) f (fun e => row e < 64 ∧ now e f.a ∧ OwnNumber s e)
      (fun e => updCur s e.who fun w => (upto 32).foldl (fun w l => setRegs w f.d.toNat l
        (readOut f.c.toNat (e.w.el f.a.toNat (row e) l) ++ readOut f.c.toNat (e.w.el f.a.toNat (row e) (l + 32)))) w)
  ∧ goesOut (.accz f) f.d false (fun _ => True) 0 (fun _ => []) ∧ goesOut (.accmode f) f.d false (fun _ => True) 0 (fun _ => [])
  ∧ goesOut (.bndset f) f.d true (fun e => f.bmod = 0 ∨ (e.p.s f.a.toNat).toNat < 2 ^ 32) 0 (fun _ => [])
  ∧ goesOut (.bndrd f) f.a true (fun e => e.act ≠ 0) 0 (fun _ => [])
  ∧ goesOut (.accrd f) f.a true (fun e => row e < 64) 0xFFFFFFFF (fun e => [row e])
  ∧ waitsIf s (.accop f) f (fun e => ¬free e f.d ∨ ¬free e f.a ∨ matPending s e = true) (fun e => standStill s e)
  ∧ (∀ e, wordAtTurn s (.accop f) f e → free e f.d → free e f.a → matPending s e = false →
      let sc := readF .fp32 ((e.p.s f.b.toNat).toNat % 2 ^ 32)
      let el (p : Nat × Nat) := accElem f.c.toNat sc (e.w.el f.d.toNat p.1 p.2) (e.w.el f.a.toNat p.1 p.2)
      let b := accBound f.c.toNat sc (e.w.bound f.d.toNat) (e.w.bound f.a.toNat) (maxPart (places.map fun p => (el p).2))
      (b ≤ e.w.thresh f.d.toNat → exec (.accop f) s = .next (retired
          (updCur s e.who fun w => (w.setEls f.d.toNat (places.map fun p => (p, (el p).1))).setBound f.d.toNat b) e))
      ∧ (e.w.thresh f.d.toNat < b → exec (.accop f) s = .next (deliver s e.who ⟨.bound, 1, b.zeroExtend 64⟩ (preciseAt e.va))))
  ∧ completesIf s (.gangset f) f
      (fun e => gangValid s e.who.tid e.who.wave (e.p.s f.a.toNat) = true ∧ (4 < gangSize (e.p.s f.a.toNat) → featOn s 6 = true))
      (fun e => updCur s e.who fun w => { w with gr := e.p.s f.a.toNat, gangEnded := false })
  ∧ completesIf s (.gangrel f) f (fun e => e.w.gr = 0) (fun _ => s)
  ∧ completesIf s (.gangrel f) f (fun e => e.w.gr ≠ 0)
      (fun e => breakGangs (updCur s e.who fun w => { w with gr := 0, gangEnded := false }) e.who.tid e.who.wave)
  ∧ (∀ (fm : Fmt),
    let cn := some f.amod.toNat
    let goes (e : Env) (k : OpKind) (reg : Bool) (xs : List Access) : State :=
      pushOp s (mkOp s e.who e.w k cn e.va (e.k.words.getD e.k.idx 0) (pathFlags e.p) xs reg .issued)
    let issues (i : Instr) (tile : BitVec 8) (ok : Env → Prop) (k : OpKind) (load : Bool) (xs : Env → List Access) : Prop :=
      completesIf s i f (fun e => ok e ∧ e.act ≠ 0 ∧ free e tile ∧ counterFull s e cn = false) (fun e => goes e k load (xs e))
      ∧ completesIf s i f (fun e => ok e ∧ e.act ≠ 0 ∧ ¬free e tile ∧ counterFull s e cn = false)
          (fun e => goes e (.matWord tile.toNat (!load)) true (xs e))
    let lev := levelOfCode f.bmod.toNat
    let rec_ (e : Env) : Nat := (e.p.s (f.b + 1).toNat).toNat
    issues (.accld f) f.d
        (fun e => storageFmt f.c.toNat = some fm ∧ (e.p.s f.b.toNat).toNat < 2 ^ 32 ∧ tileFaults s e lev (rowBytes fm) = [])
        (.accLoad f.d.toNat f.c.toNat) true (fun e => tileAccs e lev (rowBytes fm) fun _ => 0)
    ∧ issues (.accst f) f.c
        (fun e => storageFmt f.d.toNat = some fm ∧ rec_ e % 16 = 0
          ∧ (rec_ e = 0 ∨ sideRange s e.t e.c .g (rec_ e : Nat) 16 = none) ∧ tileFaults s e lev (rowBytes fm) = [])
        (.accStore f.c.toNat) false (fun e =>
          let d := storeTile e fm (bitsOf (e.p.s f.b.toNat).toNat 63 32)
          let rows := tileAccs e lev (rowBytes fm) d.1
          if rec_ e = 0 then rows else rows ++ [⟨64 + rows.length, .g, (rec_ e : Nat), 16, d.2, 0, false, none, false⟩])
    ∧ completesIf s (.accld f) f (fun e => storageFmt f.c.toNat = some fm ∧ (e.p.s f.b.toNat).toNat < 2 ^ 32 ∧ e.act = 0 ∧ memRoom s e cn .none [])
        (fun e => memIssued s e cn .none [])
    ∧ completesIf s (.accst f) f (fun e => storageFmt f.d.toNat = some fm ∧ e.act = 0 ∧ memRoom s e cn .none []) (fun e => memIssued s e cn .none []))
  ∧ (∀ (o : Op) (k : Nat) (st : Bool) (e : Env) (lanes : W32),
    findOp s o.id = some o → o.kind = .matWord k st → o.phase = .issued → lanes ≠ 0 →
    (∀ p ∈ waveOps s o.tid o.wave, p.id < o.id → p.phase ≠ .complete → p.kind.isMatWord = false ∧ ∀ c, p.kind ≠ .accLoad k c) →
    envAgain s o lanes = some e →
    let ends (g : Wave → Wave) : Prop := exec (.loadPerform o.id lanes) s = .next (completeOp (updWave s o.tid o.wave g) o)
    let d := e.f.d.toNat
    (∀ f, e.i = .accz f → ends fun w =>
        { w with acc := Sparse.clear w.acc (4096 * d) 4096 }.setBnd d ((w.bnd d).extractLsb' 32 32 ++ (0 : W32)))
    ∧ (∀ f, e.i = .bndset f → e.f.bmod = 0 → ends fun w => w.setBnd d
        (canonEb ((e.p.s e.f.a.toNat).extractLsb' 32 32) ++ canonEb ((e.p.s e.f.a.toNat).extractLsb' 0 32)))
    ∧ (∀ f, e.i = .bndset f → e.f.bmod = 1 → ends fun w => w.setBnd d
        ((w.bnd d).extractLsb' 32 32 ++ canonEb ((e.p.s e.f.a.toNat).extractLsb' 0 32)))
    ∧ (∀ f, e.i = .bndset f → e.f.bmod = 2 → ends fun w => w.setBnd d
        (canonEb ((e.p.s e.f.a.toNat).extractLsb' 0 32) ++ (w.bnd d).extractLsb' 0 32))
    ∧ (∀ f, e.i = .accmode f → ends fun w =>
        { w with exact := if e.f.bmod = 0 then w.exact &&& ~~~(BitVec.ofNat 64 (2 ^ d)) else w.exact ||| BitVec.ofNat 64 (2 ^ d) })
    ∧ (∀ f, e.i = .accrd f →
        let read (x : Wave) : Wave := (upto 32).foldl (fun x l =>
          if (lanes &&& o.unread).getLsbD l then
            setRegs x d l (readOut e.f.c.toNat (x.el e.f.a.toNat (o.kept.headD 0) l) ++ readOut e.f.c.toNat (x.el e.f.a.toNat (o.kept.headD 0) (l + 32)))
          else x) x
        exec (.loadPerform o.id lanes) s = .next
          (if o.unread &&& ~~~lanes = 0 then completeOp (updWave s o.tid o.wave read) o
           else updOp (updWave s o.tid o.wave read) o.id fun x => { x with unread := o.unread &&& ~~~lanes }))
    ∧ (∀ f, e.i = .bndrd f → ends fun w => setPathScalar w o.pid d (w.bnd e.f.a.toNat))
    ∧ (∀ f, e.i = .accld f → exec (.loadPerform o.id lanes) s = .next (updOp s o.id fun o => { o with kind := .accLoad d e.f.c.toNat }))
    ∧ (∀ f fm, e.i = .accst f → storageFmt e.f.d.toNat = some fm →
        exec (.loadPerform o.id lanes) s = .next (updOp s o.id fun o =>
          { o with kind := .accStore e.f.c.toNat, regWork := false, accs := takeData o.accs (tileStream e fm) }))) := by
  intro free now goesOut row
  have htiny {e : Env} (hx : (e.p.s f.b.toNat).toNat < 2 ^ 32) : bitsOf (e.p.s f.b.toNat).toNat 63 32 = 0 :=
    (bitsOf_high32 _).trans (Nat.div_eq_of_lt hx)
  have hwaits {e : Env} {k : BitVec 8} {regs : Bool} (hno : ¬free e k ∨ (regs = true ∧ ¬now e k)) :
      tileBusy s e k.toNat = true ∨ (regs = true ∧ ¬(tileBusy s e k.toNat = false ∧ matPending s e = false ∧ s.inputs.late = false)) :=
    hno.imp_left fun h => by simpa [free] using h
  refine ⟨?accz, ?accmode, ?both, ?bound, ?thresh, ?idle, ?bndrd, ?accrd, ?acczOut, ?accmodeOut, ?bndsetOut, ?bndrdOut, ?accrdOut, ?accopWaits, ?accop,
    ?gangset, ?gangless, ?gangrel, ?tiles, ?turns⟩
  case accz =>
    intro e h hfree
    rw [exec_accz_atTurn h, matEffect_of_free hfree fun hregs => absurd hregs Bool.false_ne_true, conclude_ok]
    rfl
  case accmode =>
    intro e h hfree
    rw [exec_accmode_atTurn h, matEffect_of_free hfree fun hregs => absurd hregs Bool.false_ne_true, conclude_ok]
    simp only [setExact_eq]
  case both =>
    rintro e h ⟨⟨hfree, hnow⟩, hmode⟩
    rw [exec_bndset_atTurn h (.inl hmode), matEffect_of_free hfree fun _ => hnow, conclude_ok, hmode]
    rfl
  case bound =>
    rintro e h ⟨⟨hfree, hnow⟩, hmode, hx⟩
    rw [exec_bndset_atTurn h (.inr hx), matEffect_of_free hfree fun _ => hnow, conclude_ok, hmode]
    rfl
  case thresh =>
    rintro e h ⟨⟨hfree, hnow⟩, hmode, hx⟩
    rw [exec_bndset_atTurn h (.inr hx), matEffect_of_free hfree fun _ => hnow, conclude_ok, hmode]
    rfl
  case idle => exact fun e h hact => exec_bndrd_of_idle h hact
  case bndrd => exact fun e h ⟨hact, ⟨hfree, hnow⟩, hown⟩ => exec_bndrd_of_own h hact hfree hnow hown
  case accrd => exact fun e h ⟨hrow, ⟨hfree, hnow⟩, hown⟩ => exec_accrd_of_own h rfl hrow hfree hnow hown
  case acczOut =>
    rintro e h ⟨-, hno⟩
    rw [exec_accz_atTurn h, matEffect_of_not_free (hwaits hno), conclude_ok]
    rfl
  case accmodeOut =>
    rintro e h ⟨-, hno⟩
    rw [exec_accmode_atTurn h, matEffect_of_not_free (hwaits hno), conclude_ok]
    rfl
  case bndsetOut =>
    rintro e h ⟨hx, hno⟩
    rw [exec_bndset_atTurn h hx, matEffect_of_not_free (hwaits hno), conclude_ok]
    rfl
  case bndrdOut =>
    rintro e h ⟨hact, hno⟩
    rw [exec_bndrd_atTurn h hact, matEffect_of_not_free (hwaits hno), conclude_ok]
    rfl
  case accrdOut =>
    rintro e h ⟨hrow, hno⟩
    rw [exec_accrd_atTurn h rfl hrow, matEffect_of_not_free (hwaits hno), conclude_ok]
    rfl
  case accopWaits => exact fun e h hbusy => exec_accop_of_busy h (by simpa [free] using hbusy)
  case accop => exact fun e h hd ha hpending => exec_accop_of_free h hd ha hpending
  case gangset => exact fun e h ⟨hvalid, hfeat⟩ => exec_gangset_of_valid h hvalid hfeat
  case gangless => exact fun e h hnone => (exec_gangrel_atTurn h).trans (by rw [if_pos hnone])
  case gangrel => exact fun e h hgang => (exec_gangrel_atTurn h).trans (by rw [if_neg hgang])
  case tiles =>
    intro fm cn goes issues lev rec_
    refine ⟨⟨?loads, ?loadsOut⟩, ⟨?stores, ?storesOut⟩, ?loadsNone, ?storesNone⟩
    case loads =>
      rintro e h ⟨⟨hfmt, hstride, hrows⟩, hact, hfree, hroom⟩
      obtain rfl : e.f = f := h.fields
      rw [exec_accld_of_rows hroom h hfmt (htiny hstride) hact hrows, tileIssued, if_neg (Bool.eq_false_iff.1 hfree)]
      rfl
    case loadsOut =>
      rintro e h ⟨⟨hfmt, hstride, hrows⟩, hact, hbusy, hroom⟩
      obtain rfl : e.f = f := h.fields
      rw [exec_accld_of_rows hroom h hfmt (htiny hstride) hact hrows, tileIssued, if_pos (by simpa [free] using hbusy)]
      rfl
    case stores =>
      rintro e h ⟨⟨hfmt, halign, hrange, hrows⟩, hact, hfree, hroom⟩
      obtain rfl : e.f = f := h.fields
      rw [exec_accst_of_rows hroom h hfmt hact hrows (recordFaults_eq_nil rfl halign hrange), tileIssued, if_neg (Bool.eq_false_iff.1 hfree),
        storeAccs_eq]
      rfl
    case storesOut =>
      rintro e h ⟨⟨hfmt, halign, hrange, hrows⟩, hact, hbusy, hroom⟩
      obtain rfl : e.f = f := h.fields
      rw [exec_accst_of_rows hroom h hfmt hact hrows (recordFaults_eq_nil rfl halign hrange), tileIssued, if_pos (by simpa [free] using hbusy),
        storeAccs_eq]
      rfl
    case loadsNone =>
      rintro e h ⟨hfmt, hstride, hact, hroom, -⟩
      obtain ⟨hi, rfl⟩ : e.i = .accld f ∧ e.f = f := envOf_fields h.2.1
      rw [exec_accld_of_idle hroom h hfmt (htiny hstride) hact, ← memIssued_of_idle (by rw [keptAt, hi])]
      rfl
    case storesNone =>
      rintro e h ⟨hfmt, hact, hroom, -⟩
      obtain ⟨hi, rfl⟩ : e.i = .accst f ∧ e.f = f := envOf_fields h.2.1
      rw [exec_accst_of_idle hroom h hfmt hact, ← memIssued_of_idle (by rw [keptAt, hi])]
      rfl
  case turns =>
    intro o k st e lanes ho hkind hphase hlanes hturn he ends d
    have hexec := exec_loadPerform_of_turn ho hkind hphase hlanes hturn
    refine ⟨fun f hi => ?clears, fun f hi hmode => ?sets, fun f hi hmode => ?setsBound, fun f hi hmode => ?setsThresh, fun f hi => ?modes,
      fun f hi => ?reads, fun f hi => ?readsBound, fun f hi => ?loads, fun f fm hi hfmt => ?stores⟩
    all_goals obtain ⟨haccz, haccmode, hbndset, hbndrd, haccrd, haccld, haccst⟩ := matTurn_of_env he f
    case clears => exact hexec.trans (congrArg _ (haccz hi))
    case sets => exact hexec.trans (congrArg _ ((hbndset hi).trans (by rw [hmode]; rfl)))
    case setsBound => exact hexec.trans (congrArg _ ((hbndset hi).trans (by rw [hmode]; rfl)))
    case setsThresh => exact hexec.trans (congrArg _ ((hbndset hi).trans (by rw [hmode]; rfl)))
    case modes =>
      refine hexec.trans (congrArg _ ((haccmode hi).trans ?_))
      simp only [setExact_eq]
      rfl
    case reads =>
      rw [hexec, haccrd hi]
      simp only [readRow_eq]
      rfl
    case readsBound => exact hexec.trans (congrArg _ (hbndrd hi))
    case loads => exact hexec.trans (congrArg _ (haccld hi))
    case stores => exact hexec.trans (congrArg _ (haccst fm hi hfmt))

/-! ## Two waves of one number -/

/-- Wave 0 of team 1 in front of `BNDRD s0, b0`, and a second wave of that team and number whose bound register 0 holds 5. -/
def twinWaves : State :=
  let s := State.reset.withFetchWord 64 0x787000000000001C
  { s with waves := s.waves ++ s.waves.map fun w => w.setBnd 0 5 }

/-- The fields of the BNDRD. -/
def twinFields : Fields := fieldsOfWord 0x787000000000001C

theorem twinWaves_isSome : (envOf twinWaves (.bndrd twinFields) twinFields).isSome = true := by decide +kernel

/-- What the BNDRD sees. -/
def twinEnv : Env := (envOf twinWaves (.bndrd twinFields) twinFields).get twinWaves_isSome

theorem wordAtTurn_twinWaves : wordAtTurn twinWaves (.bndrd twinFields) twinFields twinEnv :=
  ⟨rfl, (Option.some_get twinWaves_isSome).symm, by decide +kernel, .inl (by decide +kernel), fun hends => absurd hends (by decide), by decide +kernel,
    by decide +kernel⟩

/-- Scalar 0 that a step leaves, wave by wave. -/
def scalarsAfter : Host.Outcome State Fault Refusal → List Word
  | .next s => s.waves.map fun w => w.path.s 0
  | _ => []

/-- Refutes O36: its BNDRD and ACCRD clauses write what the issuing wave's bound register or tile holds into every wave of its team and number, while
each such wave takes what its own holds. In `twinWaves` these differ: the word leaves 5 in scalar 0 of the second wave, and the clause asks for the
bound of the first. `tile_words_complete` says what holds in every state.
-/
theorem not_tileWordsComplete : ¬ Obligations.TileWordsComplete := by
  intro h
  obtain ⟨-, -, -, -, -, -, hread, -⟩ := h twinWaves twinFields
  have hscalars := congrArg scalarsAfter (hread twinEnv wordAtTurn_twinWaves (by decide +kernel))
  exact absurd hscalars (by decide +kernel)

end Sys2Proof.Machine
end
